-- ==== Sys2Proof/Word.lean ====
section
/-! DEFINITION. The word types of the machine. -/

namespace Sys2Proof

/-- A scalar register value (R17). -/
abbrev W64 := BitVec 64

/-- One byte of memory (R2). -/
abbrev Byte := BitVec 8

/-- A row of 128 bytes, the unit of a pool bank and of a cache line (R111, R127). -/
abbrev Row := BitVec 1024

/-- A program counter: a 56-bit device virtual address (R14). -/
abbrev PcWord := BitVec 56

end Sys2Proof
end

