-- ==== Sys2Proof/Config.lean ====
section
/-! DEFINITION. What an implementation fixes, and the values that the spec leaves open. A constant without a body is a
free value: nothing can be proved about which value it has. -/

namespace Sys2Proof

/-- The result of a function of R139 or R140 where the evaluation of the model cannot separate two roundings: by the
function's number, the type code, the rounding mode and the operand's bits. -/
opaque Config.functionResult : Nat → Nat → Nat → Nat → Nat

/-- A free 64-bit value, by the number of free values taken before it (`State.free`). -/
opaque Config.freeWord : Nat → W64

/-- The faddr of a RING_WAIT_EXPIRED on a memory ring, by its descriptor's address and the waiting core: R335 gives the
word for the rings of cores only. -/
opaque Config.memRingFaddr : Nat → Nat → W64

/-- The firmware image in flash at manufacture, and the digest of the ROM (R374, R375). -/
opaque Config.factoryImage : List Byte
opaque Config.romDigest : BitVec 384

/-- Whether the header and length of a firmware image pass the format check (R374). -/
opaque Config.imageFormatOk : List Byte → Bool

/-- The certificate chain of slot 0, the signature of the alias key over a digest, and the responder's nonces (R375). -/
opaque Config.certificateChain : List Byte
opaque Config.aliasSign : List Byte → List Byte → BitVec 768
opaque Config.nonce : Nat → BitVec 256

/-- Security configuration, measurement 3 (R375). -/
opaque Config.securityConfig : BitVec 3

/-- The Vendor ID of the physical function (R375). -/
opaque Config.vendorId : BitVec 16

/-- Of the SPDM capability flags that the responder reports, those that neither the requests of R375 nor the absence of a
session decide; and its sizes. -/
opaque Config.spdmCapabilities : BitVec 32
opaque Config.spdmSizes : BitVec 64

/-- The stack of its home die that holds a DEV row, by row number; the manual does not lay stacks out by address. -/
opaque Config.stackOf : Nat → Nat

end Sys2Proof
end

