-- ==== Sys2Proof/Syntax.lean ====
section
/-! DEFINITION. The steps of the part as data: the operands of every encoded instruction (R42 to R57) and of every
event of the opcode table. -/

namespace Sys2Proof

/-- A scalar register field (R43). -/
abbrev Reg := BitVec 5

/-- A vector register field: 0 to 319 for v0 to v319, 320 to 383 for acc0 to acc63 where the opcode accepts them (R43). -/
abbrev VReg := BitVec 9

/-- An accumulator acc0 to acc63 (R43). -/
abbrev Acc := BitVec 6

/-- A predicate register (R19). -/
abbrev PReg := BitVec 3

/-- A rounding field (R45). -/
abbrev Rm := BitVec 3

/-- The four streams of a core (R11). -/
inductive StreamId where
  | L | X | S | K
  deriving DecidableEq, Repr

/-- The number of a stream (R38). -/
def StreamId.num : StreamId → Nat
  | .L => 0
  | .X => 1
  | .S => 2
  | .K => 3

/-- The stream of a number; numbers above 3 are read modulo 4. -/
def StreamId.ofNum (n : Nat) : StreamId :=
  match n % 4 with
  | 0 => .L
  | 1 => .X
  | 2 => .S
  | _ => .K

/-- The element types (R44). -/
inductive ElemTy where
  | i4 | n4 | i8 | n8 | i16 | n16 | i32 | n32 | i64 | n64 | f32 | f16 | bf16 | e4m3 | e5m2 | e2m1
  deriving DecidableEq, Repr

/-- The type code (R44). -/
def ElemTy.code : ElemTy → Nat
  | .i4 => 0 | .n4 => 1 | .i8 => 2 | .n8 => 3 | .i16 => 4 | .n16 => 5 | .i32 => 6 | .n32 => 7
  | .i64 => 8 | .n64 => 9 | .f32 => 10 | .f16 => 11 | .bf16 => 12 | .e4m3 => 13 | .e5m2 => 14 | .e2m1 => 15

/-- The type of a code, read modulo 16 (R44). -/
def ElemTy.ofCode (n : Nat) : ElemTy :=
  match n % 16 with
  | 0 => .i4 | 1 => .n4 | 2 => .i8 | 3 => .n8 | 4 => .i16 | 5 => .n16 | 6 => .i32 | 7 => .n32
  | 8 => .i64 | 9 => .n64 | 10 => .f32 | 11 => .f16 | 12 => .bf16 | 13 => .e4m3 | 14 => .e5m2 | _ => .e2m1

/-- The width of an element in bits (R71, R73). -/
def ElemTy.width : ElemTy → Nat
  | .i4 | .n4 | .e2m1 => 4
  | .i8 | .n8 | .e4m3 | .e5m2 => 8
  | .i16 | .n16 | .f16 | .bf16 => 16
  | .i32 | .n32 | .f32 => 32
  | .i64 | .n64 => 64

/-- The common head of an instruction word: token bits (pop-prev, pop-next, push-prev, push-next from bit 3 down) and
the guard field (bit 3 inverts, bits 2 to 0 name the predicate) (R42, R21, R23). -/
structure Head where
  tok : BitVec 4
  guard : BitVec 4
  deriving DecidableEq, Repr

/-- A loop-nest record (R53, R54): the opcode, the packed fixed fields of word 0, the trip counts, the strides of the
roles D, A and B as their words 1 to 4 hold them, and the bases. -/
structure LnRec where
  op : BitVec 8
  fixed : BitVec 39
  trips : BitVec 64
  sD : BitVec 64
  sA : BitVec 64
  sB : BitVec 64
  bD : BitVec 24
  bA : BitVec 24
  bB : BitVec 24
  deriving DecidableEq, Repr

/-- What waits on a ring: a stream of a core, or a change-mask unit (R210, R283). -/
inductive Waiter where
  | stream (core : Nat) (k : StreamId)
  | maskUnit (die : Nat)
  deriving DecidableEq, Repr

/-- A 16×16 luma block of a decoded frame, as its standard's decoding process gives it (R274, R277): whether a bitstream error
affects it, and whether it is intra-coded. -/
structure BlockInfo where
  concealed : Bool := false
  intra : Bool := false
  deriving DecidableEq, Repr

/-- A motion vector of a prediction block (R277): its components, in quarter-pels, or in eighth-pels for AV1; the display-order
count of its reference, and whether that is a long-term one. -/
structure MotionVec where
  dx : Int := 0
  dy : Int := 0
  ref : Int := 0
  longTerm : Bool := false
  deriving DecidableEq, Repr

/-- A prediction block of a decoded frame (R277): its place and size in luma samples, and its vectors of lists 0 and 1, where they
are used. -/
structure PredBlock where
  x : Nat := 0
  y : Nat := 0
  w : Nat := 16
  ht : Nat := 16
  list0 : Option MotionVec := none
  list1 : Option MotionVec := none
  deriving DecidableEq, Repr

/-- The profiles of the standards that the codec engines decode, and any other (R274). -/
inductive Profile where
  | high | constrainedHigh | main | main10 | other
  deriving DecidableEq, Repr

/-- The chroma forms of a bitstream (R274). -/
inductive ChromaForm where
  | mono | c420 | c422 | c444
  deriving DecidableEq, Repr

/-- What R274 names as not supported, beside the chroma forms. -/
inductive CodecTool where
  | fieldPictures | mbaff | svc | mvc | rangeExtension | screenContent | multilayer | largeScaleTile
  deriving DecidableEq, Repr

/-- What the decoding of one DECODE's unit yields under its standard, which the manual does not restate (R274): its profile,
ten times its level, whether it is of the High tier, the tools of R274's list that it uses, whether it uses anything else that the
standard's profiles do not have; whether it has a bitstream error; the bytes that the stream's largest picture buffer needs; and,
where the output process releases a frame, its size, bit depth and chroma form, its place in display order, whether it is a key
frame after which no earlier frame is output, its decoded samples in raster order, 16 bits each, the chroma planes interleaved
Cb-Cr, its dequantised luma residual samples after the inverse transform, as 16-bit numbers in two's complement (R278), its blocks
in raster order, and its prediction blocks. -/
structure Decoded where
  profile : Profile := .main
  level : Nat := 10
  highTier : Bool := false
  tools : List CodecTool := []
  unsupported : Bool := false
  errors : Bool := false
  need : Nat := 0
  written : Bool := false
  w : BitVec 16 := 64
  ht : BitVec 16 := 64
  depth : Nat := 8
  form : ChromaForm := .c420
  filmGrain : Bool := false
  key : Bool := false
  ord : Int := 0
  luma : Nat := 0
  chroma : Nat := 0
  residual : Nat := 0
  blocks : List BlockInfo := []
  preds : List PredBlock := []
  deriving DecidableEq, Repr

/-- How an outbound read or AtomicOp completes (R383, R386). -/
inductive Completion where
  /-- Data of the read, or the old value of the atomic. -/
  | data (v : BitVec 1024)
  /-- Unsupported Request or Completer Abort. -/
  | refused
  /-- Poisoned data. -/
  | poisoned
  deriving DecidableEq, Repr

/-- What an error of stored data is in: a location of the error counters, which is a pool row or an HBM row; or the line of L2
in which a die holds a row for a partition (R372). -/
inductive EccLoc where
  | pool (core bank row : Nat)
  | hbm (stack channel bank row : Nat)
  | l2 (die part row : Nat)
  deriving DecidableEq, Repr

/-- What an event acts on and what the outside supplies with it. Each event reads the fields that its constructor of
`Instr` names; the others are ignored. -/
structure EvArgs where
  /-- A core, of the device's 192. -/
  core : Nat := 0
  /-- A stream of that core. -/
  k : StreamId := .L
  cluster : Nat := 0
  die : Nat := 0
  /-- A context. -/
  ctx : Nat := 0
  /-- A tenant partition, which is also its PCIe function. -/
  part : Nat := 0
  /-- A work queue. -/
  q : Nat := 0
  /-- The number of the unit, ring, join entry, command, slot, slice, bank, stack or regulator concerned. -/
  n : Nat := 0
  /-- A row of HBM or of a pool bank. -/
  row : Nat := 0
  /-- An address or the offset of a register. -/
  off : Nat := 0
  len : Nat := 0
  /-- The value written. -/
  v : BitVec 64 := 0
  operand : BitVec 128 := 0
  cmp : BitVec 128 := 0
  flag : Bool := false
  flag2 : Bool := false
  temp : Int := 0
  nums : List Nat := []
  bytes : List (BitVec 8) := []
  who : Waiter := .maskUnit 0
  loc : EccLoc := .pool 0 0 0
  res : Completion := .refused
  ptm : Option (BitVec 64) := none
  out : Decoded := {}
  deriving DecidableEq, Repr


/-- The steps of the part: one constructor for each row of the opcode table. The rows with a `Head` are encoded
instructions (R42); the others are events of the device; what such an event acts on and what the outside supplies
with it stand in `State.ev` (an `EvArgs`). -/
inductive Instr where
  /-- `NOP` (R110). -/
  | nop (h : Head)
  /-- `ADD` (R93). -/
  | add (h : Head) (rd : Reg) (ra : Reg) (rb : Reg)
  /-- `ADDI` (R95). -/
  | addi (h : Head) (rd : Reg) (ra : Reg) (imm : BitVec 32)
  /-- `SUB` (R93). -/
  | sub (h : Head) (rd : Reg) (ra : Reg) (rb : Reg)
  /-- `MUL` (R93). -/
  | mul (h : Head) (rd : Reg) (ra : Reg) (rb : Reg)
  /-- `MULH` (R93). -/
  | mulh (h : Head) (rd : Reg) (ra : Reg) (rb : Reg)
  /-- `MULHN` (R93). -/
  | mulhn (h : Head) (rd : Reg) (ra : Reg) (rb : Reg)
  /-- `DIV` (R94). -/
  | div (h : Head) (rd : Reg) (ra : Reg) (rb : Reg)
  /-- `DIVN` (R94). -/
  | divn (h : Head) (rd : Reg) (ra : Reg) (rb : Reg)
  /-- `REM` (R94). -/
  | rem (h : Head) (rd : Reg) (ra : Reg) (rb : Reg)
  /-- `REMN` (R94). -/
  | remn (h : Head) (rd : Reg) (ra : Reg) (rb : Reg)
  /-- `AND` (R93). -/
  | land (h : Head) (rd : Reg) (ra : Reg) (rb : Reg)
  /-- `ANDI` (R95). -/
  | andi (h : Head) (rd : Reg) (ra : Reg) (imm : BitVec 32)
  /-- `OR` (R93). -/
  | lor (h : Head) (rd : Reg) (ra : Reg) (rb : Reg)
  /-- `ORI` (R95). -/
  | ori (h : Head) (rd : Reg) (ra : Reg) (imm : BitVec 32)
  /-- `XOR` (R93). -/
  | lxor (h : Head) (rd : Reg) (ra : Reg) (rb : Reg)
  /-- `XORI` (R95). -/
  | xori (h : Head) (rd : Reg) (ra : Reg) (imm : BitVec 32)
  /-- `SHL` (R93). -/
  | shl (h : Head) (rd : Reg) (ra : Reg) (rb : Reg)
  /-- `SHR` (R93). -/
  | shr (h : Head) (rd : Reg) (ra : Reg) (rb : Reg)
  /-- `SHA` (R93). -/
  | sha (h : Head) (rd : Reg) (ra : Reg) (rb : Reg)
  /-- `SHI_L` (R95). -/
  | shiL (h : Head) (rd : Reg) (ra : Reg) (n : BitVec 6)
  /-- `SHI_R` (R95). -/
  | shiR (h : Head) (rd : Reg) (ra : Reg) (n : BitVec 6)
  /-- `SHI_A` (R95). -/
  | shiA (h : Head) (rd : Reg) (ra : Reg) (n : BitVec 6)
  /-- `MIN` (R93). -/
  | min (h : Head) (rd : Reg) (ra : Reg) (rb : Reg)
  /-- `MAX` (R93). -/
  | max (h : Head) (rd : Reg) (ra : Reg) (rb : Reg)
  /-- `MINN` (R93). -/
  | minn (h : Head) (rd : Reg) (ra : Reg) (rb : Reg)
  /-- `MAXN` (R93). -/
  | maxn (h : Head) (rd : Reg) (ra : Reg) (rb : Reg)
  /-- `SEQ` (R93). -/
  | seq (h : Head) (rd : Reg) (ra : Reg) (rb : Reg)
  /-- `SLT` (R93). -/
  | slt (h : Head) (rd : Reg) (ra : Reg) (rb : Reg)
  /-- `SLTN` (R93). -/
  | sltn (h : Head) (rd : Reg) (ra : Reg) (rb : Reg)
  /-- `LI` (R95). -/
  | li (h : Head) (rd : Reg) (imm : BitVec 32)
  /-- `LIH` (R95). -/
  | lih (h : Head) (rd : Reg) (ra : Reg) (imm : BitVec 32)
  /-- `MADD` (R93). -/
  | madd (h : Head) (rd : Reg) (ra : Reg) (rb : Reg) (rc : Reg)
  /-- `BFX` (R96). -/
  | bfx (h : Head) (rd : Reg) (ra : Reg) (w : BitVec 7) (pos : BitVec 6)
  /-- `BFX_S` (R96). -/
  | bfxS (h : Head) (rd : Reg) (ra : Reg) (w : BitVec 7) (pos : BitVec 6)
  /-- `BFI` (R96). -/
  | bfi (h : Head) (rd : Reg) (ra : Reg) (w : BitVec 7) (pos : BitVec 6)
  /-- `CLZ` (R93). -/
  | clz (h : Head) (rd : Reg) (ra : Reg)
  /-- `POPC` (R93). -/
  | popc (h : Head) (rd : Reg) (ra : Reg)
  /-- `SEL` (R93). -/
  | sel (h : Head) (rd : Reg) (ra : Reg) (rb : Reg) (rc : Reg)
  /-- `B` (R98). -/
  | b (h : Head) (disp : BitVec 27) (slot : BitVec 3)
  /-- `BC` (R98). -/
  | bc (h : Head) (ra : Reg) (rb : Reg) (cond : BitVec 3) (disp : BitVec 27) (slot : BitVec 3)
  /-- `CALL` (R98). -/
  | call (h : Head) (rl : Reg) (disp : BitVec 27) (slot : BitVec 3)
  /-- `JR` (R98). -/
  | jr (h : Head) (rd : Reg) (ra : Reg)
  /-- `LOOP` (R98). -/
  | loop (h : Head) (rl : Reg) (disp : BitVec 27) (slot : BitVec 3)
  /-- `TOK` (R99). -/
  | tok (h : Head) (n : BitVec 4)
  /-- `MFS` (R100). -/
  | mfs (h : Head) (rd : Reg) (sr : BitVec 12)
  /-- `MTS` (R100). -/
  | mts (h : Head) (ra : Reg) (sr : BitVec 12)
  /-- `YIELD` (R102). -/
  | yieldI (h : Head)
  /-- `BUDG_GET` (R104). -/
  | budgGet (h : Head) (rd : Reg)
  /-- `BUDG_CHK` (R104). -/
  | budgChk (h : Head) (rd : Reg) (imm : BitVec 32)
  /-- `TRAP` (R106). -/
  | trapI (h : Head) (imm : BitVec 32)
  /-- `TRET_RESUME` (R108). -/
  | tretResume (h : Head)
  /-- `TRET_SKIP` (R108). -/
  | tretSkip (h : Head)
  /-- `TRET_RESTART` (R108). -/
  | tretRestart (h : Head)
  /-- `TRET_KILL` (R108). -/
  | tretKill (h : Head)
  /-- `HASH` (R87). -/
  | hash (h : Head) (rd : Reg) (ra : Reg) (rb : Reg)
  /-- `IDLE_CYC` (R109). -/
  | idleCyc (h : Head) (imm : BitVec 32)
  /-- `IDLE_UNTIL` (R109). -/
  | idleUntil (h : Head) (ra : Reg) (imm : BitVec 32)
  /-- `HALT` (R106). -/
  | haltI (h : Head) (ra : Reg)
  /-- `BRK` (R106). -/
  | brk (h : Head) (imm : BitVec 32)
  /-- `LOOP_NEST_RECORD` (R55). -/
  | loopNestRecord (h : Head) (rec : LnRec)
  /-- `VSHAPE` (R131). -/
  | vshape (h : Head) (rowsLo : BitVec 9) (colsLo : BitVec 9) (colsHi : BitVec 2) (rowsHi : BitVec 2)
  /-- `VMOV` (R139). -/
  | vmov (h : Head) (vd : VReg) (va : VReg) (ty : ElemTy)
  /-- `VSPLAT` (R139). -/
  | vsplat (h : Head) (vd : VReg) (va : Reg) (ty : ElemTy)
  /-- `VADD` (R137). -/
  | vadd (h : Head) (vd : VReg) (va : VReg) (vb : VReg) (ty : ElemTy) (rm : Rm) (sat : Bool)
  /-- `VSUB` (R137). -/
  | vsub (h : Head) (vd : VReg) (va : VReg) (vb : VReg) (ty : ElemTy) (rm : Rm) (sat : Bool)
  /-- `VMUL` (R137). -/
  | vmul (h : Head) (vd : VReg) (va : VReg) (vb : VReg) (ty : ElemTy) (rm : Rm) (sat : Bool)
  /-- `VFMA` (R137). -/
  | vfma (h : Head) (vd : VReg) (va : VReg) (vb : VReg) (vc : VReg) (ty : ElemTy) (rm : Rm) (sat : Bool)
  /-- `VFMS` (R137). -/
  | vfms (h : Head) (vd : VReg) (va : VReg) (vb : VReg) (vc : VReg) (ty : ElemTy) (rm : Rm) (sat : Bool)
  /-- `VDIV` (R137). -/
  | vdiv (h : Head) (vd : VReg) (va : VReg) (vb : VReg) (ty : ElemTy) (rm : Rm) (sat : Bool)
  /-- `VSQRT` (R140). -/
  | vsqrt (h : Head) (vd : VReg) (va : VReg) (ty : ElemTy) (rm : Rm) (sat : Bool)
  /-- `VRSQRT` (R140). -/
  | vrsqrt (h : Head) (vd : VReg) (va : VReg) (ty : ElemTy) (rm : Rm) (sat : Bool)
  /-- `VRCP` (R140). -/
  | vrcp (h : Head) (vd : VReg) (va : VReg) (ty : ElemTy) (rm : Rm) (sat : Bool)
  /-- `VEXP` (R140). -/
  | vexp (h : Head) (vd : VReg) (va : VReg) (ty : ElemTy) (rm : Rm) (sat : Bool)
  /-- `VEXP2` (R140). -/
  | vexp2 (h : Head) (vd : VReg) (va : VReg) (ty : ElemTy) (rm : Rm) (sat : Bool)
  /-- `VLOG2` (R140). -/
  | vlog2 (h : Head) (vd : VReg) (va : VReg) (ty : ElemTy) (rm : Rm) (sat : Bool)
  /-- `VTANH` (R140). -/
  | vtanh (h : Head) (vd : VReg) (va : VReg) (ty : ElemTy) (rm : Rm) (sat : Bool)
  /-- `VSIGM` (R140). -/
  | vsigm (h : Head) (vd : VReg) (va : VReg) (ty : ElemTy) (rm : Rm) (sat : Bool)
  /-- `VGELU` (R140). -/
  | vgelu (h : Head) (vd : VReg) (va : VReg) (ty : ElemTy) (rm : Rm) (sat : Bool)
  /-- `VMIN` (R82). -/
  | vmin (h : Head) (vd : VReg) (va : VReg) (vb : VReg) (ty : ElemTy)
  /-- `VMAX` (R82). -/
  | vmax (h : Head) (vd : VReg) (va : VReg) (vb : VReg) (ty : ElemTy)
  /-- `VMINN` (R82). -/
  | vminn (h : Head) (vd : VReg) (va : VReg) (vb : VReg) (ty : ElemTy)
  /-- `VMAXN` (R82). -/
  | vmaxn (h : Head) (vd : VReg) (va : VReg) (vb : VReg) (ty : ElemTy)
  /-- `VABS` (R139). -/
  | vabs (h : Head) (vd : VReg) (va : VReg) (ty : ElemTy) (sat : Bool)
  /-- `VNEG` (R139). -/
  | vneg (h : Head) (vd : VReg) (va : VReg) (ty : ElemTy) (sat : Bool)
  /-- `VAND` (R139). -/
  | vand (h : Head) (vd : VReg) (va : VReg) (vb : VReg) (ty : ElemTy)
  /-- `VOR` (R139). -/
  | vor (h : Head) (vd : VReg) (va : VReg) (vb : VReg) (ty : ElemTy)
  /-- `VXOR` (R139). -/
  | vxor (h : Head) (vd : VReg) (va : VReg) (vb : VReg) (ty : ElemTy)
  /-- `VSHL` (R139). -/
  | vshl (h : Head) (vd : VReg) (va : VReg) (vb : VReg) (ty : ElemTy)
  /-- `VSHR` (R139). -/
  | vshr (h : Head) (vd : VReg) (va : VReg) (vb : VReg) (ty : ElemTy)
  /-- `VCMP` (R142). -/
  | vcmp (h : Head) (vd : PReg) (va : VReg) (vb : VReg) (ty : ElemTy) (cond : BitVec 3)
  /-- `VSEL` (R143). -/
  | vsel (h : Head) (vd : VReg) (va : VReg) (vb : VReg) (vc : PReg) (ty : ElemTy)
  /-- `VCVT` (R145). -/
  | vcvt (h : Head) (vd : VReg) (va : VReg) (src : ElemTy) (ty : ElemTy) (rm : Rm) (amax : Bool) (sat : Bool)
  /-- `VSCALE` (R137). -/
  | vscale (h : Head) (vd : VReg) (va : VReg) (vb : VReg) (ty : ElemTy) (rm : Rm) (col : Bool) (sat : Bool)
  /-- `VRSUM` (R146). -/
  | vrsum (h : Head) (vd : VReg) (va : VReg) (ty : ElemTy) (rm : Rm)
  /-- `VRMAX` (R146). -/
  | vrmax (h : Head) (vd : VReg) (va : VReg) (ty : ElemTy)
  /-- `VRMIN` (R146). -/
  | vrmin (h : Head) (vd : VReg) (va : VReg) (ty : ElemTy)
  /-- `VCSUM` (R146). -/
  | vcsum (h : Head) (vd : VReg) (va : VReg) (ty : ElemTy) (rm : Rm)
  /-- `VSCAN` (R147). -/
  | vscan (h : Head) (vd : VReg) (va : VReg) (ty : ElemTy) (rm : Rm) (excl : Bool)
  /-- `VSORTK` (R148). -/
  | vsortk (h : Head) (vd : VReg) (va : VReg) (vb : VReg) (km1 : BitVec 9) (ty : ElemTy)
  /-- `VTRANS` (R149). -/
  | vtrans (h : Head) (vd : VReg) (va : VReg) (ty : ElemTy)
  /-- `VPERM` (R150). -/
  | vperm (h : Head) (vd : VReg) (va : VReg) (vb : VReg) (ty : ElemTy) (row : Bool)
  /-- `VRMRG` (R151). -/
  | vrmrg (h : Head) (vd : VReg) (va : VReg) (vb : VReg) (sh : BitVec 9) (ty : ElemTy)
  /-- `VRAND` (R153). -/
  | vrand (h : Head) (vd : VReg) (ty : ElemTy)
  /-- `VDROP` (R154). -/
  | vdrop (h : Head) (vd : PReg) (va : Reg)
  /-- `VPUSH` (R157). -/
  | vpush (h : Head) (vd : VReg) (va : VReg) (vb : VReg) (ty : ElemTy)
  /-- `VPOP` (R158). -/
  | vpop (h : Head) (vd : VReg) (va : VReg) (vb : VReg) (ty : ElemTy)
  /-- `VIDX` (R155). -/
  | vidx (h : Head) (vd : VReg) (ty : ElemTy) (rm : Rm) (form : BitVec 2)
  /-- `VLUT` (R150). -/
  | vlut (h : Head) (vd : VReg) (va : VReg) (vb : VReg) (ty : ElemTy)
  /-- `VPAND` (R144). -/
  | vpand (h : Head) (vd : PReg) (va : PReg) (vb : PReg)
  /-- `VPOR` (R144). -/
  | vpor (h : Head) (vd : PReg) (va : PReg) (vb : PReg)
  /-- `VPNOT` (R144). -/
  | vpnot (h : Head) (vd : PReg) (va : PReg)
  /-- `VPCNT` (R144). -/
  | vpcnt (h : Head) (vd : Reg) (va : PReg)
  /-- `VPFIRST` (R144). -/
  | vpfirst (h : Head) (vd : Reg) (va : PReg)
  /-- `VEXTR` (R159). -/
  | vextr (h : Head) (vd : Reg) (va : VReg) (vb : Reg) (ty : ElemTy)
  /-- `VINS` (R159). -/
  | vins (h : Head) (vd : VReg) (va : Reg) (vb : Reg) (ty : ElemTy)
  /-- `VCLAMP` (R138). -/
  | vclamp (h : Head) (vd : VReg) (va : VReg) (vb : VReg) (vc : VReg) (ty : ElemTy)
  /-- `VROUND` (R141). -/
  | vround (h : Head) (vd : VReg) (va : VReg) (ty : ElemTy) (rm : Rm)
  /-- `VMULS` (R137). -/
  | vmuls (h : Head) (vd : VReg) (va : VReg) (vb : Reg) (ty : ElemTy) (rm : Rm) (sat : Bool)
  /-- `VADDACC` (R160). -/
  | vaddacc (h : Head) (vd : Acc) (va : VReg) (ty : ElemTy) (rm : Rm)
  /-- `VRDACC` (R160). -/
  | vrdacc (h : Head) (vd : VReg) (va : Acc) (ty : ElemTy) (rm : Rm) (amax : Bool) (sat : Bool)
  /-- `VZACC` (R160). -/
  | vzacc (h : Head) (vd : Acc)
  /-- `VLIVE` (R124). -/
  | vlive (h : Head) (vd : VReg)
  /-- `VLIVE_NONE` (R124). -/
  | vliveNone (h : Head)
  /-- `MMUL` (R178). -/
  | mmul (h : Head) (ra : Reg) (rb : Reg) (acc : Acc) (v : VReg) (swen : Bool) (semw : BitVec 6) (ssen : Bool) (sems : BitVec 6) (ty : ElemTy) (rot : BitVec 4) (sp : Bool)
  /-- `MMULS` (R178). -/
  | mmuls (h : Head) (ra : Reg) (rb : Reg) (acc : Acc) (v : VReg) (swen : Bool) (semw : BitVec 6) (ssen : Bool) (sems : BitVec 6) (ty : ElemTy) (rot : BitVec 4) (sp : Bool)
  /-- `MMULG` (R178). -/
  | mmulg (h : Head) (ra : Reg) (rb : Reg) (acc : Acc) (v : VReg) (swen : Bool) (semw : BitVec 6) (ssen : Bool) (sems : BitVec 6) (ty : ElemTy)
  /-- `MMULZ` (R178). -/
  | mmulz (h : Head) (ra : Reg) (rb : Reg) (acc : Acc) (v : VReg) (swen : Bool) (semw : BitVec 6) (ssen : Bool) (sems : BitVec 6) (ty : ElemTy) (rot : BitVec 4) (sp : Bool)
  /-- `MDRAIN` (R185). -/
  | mdrain (h : Head) (ra : Reg) (rb : Reg) (acc : Acc) (v : VReg) (swen : Bool) (semw : BitVec 6) (ssen : Bool) (sems : BitVec 6) (ty : ElemTy) (rot : BitVec 4) (sp : Bool)
  /-- `MSCL` (R184). -/
  | mscl (h : Head) (v : VReg) (swen : Bool) (semw : BitVec 6) (ssen : Bool) (sems : BitVec 6) (col : Bool)
  /-- `MSCL_OFF` (R184). -/
  | msclOff (h : Head) (swen : Bool) (semw : BitVec 6) (ssen : Bool) (sems : BitVec 6) (col : Bool)
  /-- `MBIAS` (R184). -/
  | mbias (h : Head) (ra : Reg) (v : VReg) (swen : Bool) (semw : BitVec 6) (ssen : Bool) (sems : BitVec 6) (grp : Bool)
  /-- `MBIAS_OFF` (R184). -/
  | mbiasOff (h : Head) (swen : Bool) (semw : BitVec 6) (ssen : Bool) (sems : BitVec 6)
  /-- `MACT` (R184). -/
  | mact (h : Head) (ra : Reg) (swen : Bool) (semw : BitVec 6) (ssen : Bool) (sems : BitVec 6)
  /-- `MWLD` (R182). -/
  | mwld (h : Head) (ra : Reg) (rb : Reg) (v : VReg) (swen : Bool) (semw : BitVec 6) (ssen : Bool) (sems : BitVec 6) (rot : BitVec 4)
  /-- `MWSTR` (R182). -/
  | mwstr (h : Head) (ra : Reg) (rb : Reg) (v : VReg) (swen : Bool) (semw : BitVec 6) (ssen : Bool) (sems : BitVec 6)
  /-- `MWWAIT` (R183). -/
  | mwwait (h : Head) (swen : Bool) (semw : BitVec 6) (ssen : Bool) (sems : BitVec 6)
  /-- `MMETA` (R184). -/
  | mmeta (h : Head) (ra : Reg) (swen : Bool) (semw : BitVec 6) (ssen : Bool) (sems : BitVec 6)
  /-- `MFMT` (R184). -/
  | mfmt (h : Head) (ra : Reg) (swen : Bool) (semw : BitVec 6) (ssen : Bool) (sems : BitVec 6)
  /-- `MSYNC` (R187). -/
  | msync (h : Head)
  /-- `MQST` (R186). -/
  | mqst (h : Head) (v : VReg) (swen : Bool) (semw : BitVec 6) (ssen : Bool) (sems : BitVec 6)
  /-- `MCONV` (R180). -/
  | mconv (h : Head) (ra : Reg) (rb : Reg) (acc : Acc) (v : VReg) (swen : Bool) (semw : BitVec 6) (ssen : Bool) (sems : BitVec 6) (ty : ElemTy) (rot : BitVec 4)
  /-- `MDWC` (R181). -/
  | mdwc (h : Head) (ra : Reg) (rb : Reg) (acc : Acc) (v : VReg) (swen : Bool) (semw : BitVec 6) (ssen : Bool) (sems : BitVec 6) (ty : ElemTy) (rot : BitVec 4)
  /-- `MTR` (R182). -/
  | mtr (h : Head) (ra : Reg) (rb : Reg) (v : VReg) (swen : Bool) (semw : BitVec 6) (ssen : Bool) (sems : BitVec 6) (ty : ElemTy) (rot : BitVec 4)
  /-- `MACC` (R186). -/
  | macc (h : Head) (acc : Acc) (v : VReg) (swen : Bool) (semw : BitVec 6) (ssen : Bool) (sems : BitVec 6)
  /-- `MCPY_OUT` (R186). -/
  | mcpyOut (h : Head) (acc : Acc) (v : VReg) (swen : Bool) (semw : BitVec 6) (ssen : Bool) (sems : BitVec 6)
  /-- `MCPY_IN` (R186). -/
  | mcpyIn (h : Head) (acc : Acc) (v : VReg) (swen : Bool) (semw : BitVec 6) (ssen : Bool) (sems : BitVec 6)
  /-- `MSEM` (R186). -/
  | msem (h : Head) (swen : Bool) (semw : BitVec 6) (ssen : Bool) (sems : BitVec 6)
  /-- `MABORT` (R188). -/
  | mabort (h : Head)
  /-- `LD` (R197). -/
  | ld (h : Head) (reg : Reg) (ra : Reg) (rot : BitVec 4) (ty : ElemTy) (space : BitVec 2) (off : BitVec 24)
  /-- `ST` (R197). -/
  | st (h : Head) (reg : Reg) (ra : Reg) (rot : BitVec 4) (ty : ElemTy) (space : BitVec 2) (off : BitVec 24)
  /-- `VLD` (R198). -/
  | vld (h : Head) (reg : VReg) (ra : Reg) (rot : BitVec 4) (space : BitVec 2) (off : BitVec 24)
  /-- `VST` (R198). -/
  | vst (h : Head) (reg : VReg) (ra : Reg) (rot : BitVec 4) (space : BitVec 2) (off : BitVec 24)
  /-- `VLDS` (R198). -/
  | vlds (h : Head) (reg : VReg) (ra : Reg) (rot : BitVec 4) (space : BitVec 2) (off : BitVec 24)
  /-- `VSTS` (R198). -/
  | vsts (h : Head) (reg : VReg) (ra : Reg) (rot : BitVec 4) (space : BitVec 2) (off : BitVec 24)
  /-- `VLDX` (R198). -/
  | vldx (h : Head) (reg : VReg) (ra : Reg) (rot : BitVec 4) (space : BitVec 2) (off : BitVec 24)
  /-- `VSTX` (R198). -/
  | vstx (h : Head) (reg : VReg) (ra : Reg) (rot : BitVec 4) (space : BitVec 2) (off : BitVec 24)
  /-- `TOUCH_R` (R201). -/
  | touchR (h : Head) (rd : Reg) (ra : Reg) (rb : Reg)
  /-- `TOUCH_W` (R201). -/
  | touchW (h : Head) (rd : Reg) (ra : Reg) (rb : Reg)
  /-- `CPY` (R204). -/
  | cpy (h : Head) (reg : Reg) (ra : Reg) (rot : BitVec 4) (space : BitVec 2) (off : BitVec 24)
  /-- `CPYW` (R204). -/
  | cpyw (h : Head) (reg : Reg) (ra : Reg) (rot : BitVec 4) (space : BitVec 2) (off : BitVec 24)
  /-- `PFET` (R199). -/
  | pfet (h : Head) (rowsM1 : BitVec 5) (ra : Reg) (off : BitVec 24)
  /-- `POOL_RESHAPE` (R119). -/
  | poolReshape (h : Head) (rd : Reg) (ra : Reg) (role : BitVec 4) (rel : Bool) (limit : BitVec 10)
  /-- `POOL_PIN` (R120). -/
  | poolPin (h : Head) (rd : Reg) (ra : Reg)
  /-- `POOL_UNPIN` (R120). -/
  | poolUnpin (h : Head) (rd : Reg) (ra : Reg)
  /-- `PSTAT` (R123). -/
  | pstat (h : Head) (rd : Reg) (which : BitVec 4)
  /-- `WBINV_ALL` (R128). -/
  | wbinvAll (h : Head) (rd : Reg) (keep : Bool)
  /-- `WBINV_RNG` (R128). -/
  | wbinvRng (h : Head) (rd : Reg) (ra : Reg) (rb : Reg) (keep : Bool)
  /-- `RSET` (R207). -/
  | rset (h : Head) (rd : Reg) (ra : Reg) (rb : Reg) (ring : BitVec 4)
  /-- `RSET_CLR` (R207). -/
  | rsetClr (h : Head) (rd : Reg) (ring : BitVec 4)
  /-- `RPUT` (R208). -/
  | rput (h : Head) (rd : Reg) (ra : Reg) (rb : Reg) (ring : BitVec 4) (limit : BitVec 24)
  /-- `RGET` (R210). -/
  | rget (h : Head) (rd : Reg) (ring : BitVec 4) (limit : BitVec 24)
  /-- `RCLAIM` (R210). -/
  | rclaim (h : Head) (rd : Reg) (rb : Reg) (ring : BitVec 4) (n : BitVec 8)
  /-- `RCLAIM_REL` (R210). -/
  | rclaimRel (h : Head) (rd : Reg) (ring : BitVec 4) (n : BitVec 8)
  /-- `RWAITF` (R210). -/
  | rwaitf (h : Head) (rd : Reg) (rb : Reg) (ring : BitVec 4) (limit : BitVec 24)
  /-- `RWAITE` (R210). -/
  | rwaite (h : Head) (rd : Reg) (rb : Reg) (ring : BitVec 4) (limit : BitVec 24)
  /-- `RSTAT_POS` (R210). -/
  | rstatPos (h : Head) (rd : Reg) (ring : BitVec 4)
  /-- `RSTAT_SPILL` (R210). -/
  | rstatSpill (h : Head) (rd : Reg) (ring : BitVec 4)
  /-- `WENQ` (R212). -/
  | wenq (h : Head) (rd : Reg) (ra : Reg) (rb : Reg) (scope : BitVec 5) (limit : BitVec 17) (n : BitVec 7)
  /-- `SEMI` (R216). -/
  | semi (h : Head) (rd : Reg) (ra : Reg) (sem : BitVec 6)
  /-- `SEMW` (R216). -/
  | semw (h : Head) (rd : Reg) (limit : BitVec 12) (k : BitVec 6) (sem : BitVec 6)
  /-- `SEMW_TRY` (R216). -/
  | semwTry (h : Head) (rd : Reg) (k : BitVec 6) (sem : BitVec 6)
  /-- `SEMS` (R216). -/
  | sems (h : Head) (rd : Reg) (k : BitVec 6) (sem : BitVec 6)
  /-- `MARK` (R221). -/
  | mark (h : Head)
  /-- `FENCE_REL` (R261). -/
  | fenceRel (h : Head) (scope : BitVec 5)
  /-- `FENCE_ACQ` (R261). -/
  | fenceAcq (h : Head) (scope : BitVec 5)
  /-- `FENCE_FULL` (R261). -/
  | fenceFull (h : Head) (scope : BitVec 5)
  /-- `EPUSH` (R219). -/
  | epush (h : Head) (rd : Reg) (ra : Reg) (rb : Reg) (scope : BitVec 5)
  /-- `EPOP` (R220). -/
  | epop (h : Head) (rd : Reg) (ra : Reg) (limit : BitVec 24)
  /-- `DETACH` (R232). -/
  | detach (h : Head)
  /-- `JOIN_OPEN` (R234). -/
  | joinOpen (h : Head) (rd : Reg) (id : BitVec 8)
  /-- `JOIN` (R235). -/
  | join (h : Head) (limit : BitVec 16) (id : BitVec 8)
  /-- `DSYNC` (R242). -/
  | dsync (h : Head) (scope : BitVec 5) (level : BitVec 4) (limit : BitVec 16) (smask : BitVec 4)
  /-- `DPHASE_COMP` (R241). -/
  | dphaseComp (h : Head)
  /-- `DPHASE_COMM` (R241). -/
  | dphaseComm (h : Head)
  /-- `CBCAST` (R243). -/
  | cbcast (h : Head) (rd : Reg) (ra : Reg) (limit : BitVec 16) (src : BitVec 2)
  /-- `DINFO` (R240). -/
  | dinfo (h : Head) (rd : Reg) (level : BitVec 4) (which : BitVec 2)
  /-- `XSEM_I` (R244). -/
  | xsemI (h : Head) (rd : Reg) (ra : Reg) (sem : BitVec 4)
  /-- `XSEM_W` (R244). -/
  | xsemW (h : Head) (rd : Reg) (limit : BitVec 12) (k : BitVec 6) (sem : BitVec 4)
  /-- `XSEM_TRY` (R244). -/
  | xsemTry (h : Head) (rd : Reg) (k : BitVec 6) (sem : BitVec 4)
  /-- `XSEM_S` (R244). -/
  | xsemS (h : Head) (rd : Reg) (k : BitVec 6) (sem : BitVec 4)
  /-- `SCSET` (R249). -/
  | scset (h : Head) (rd : Reg) (ra : Reg) (scope : BitVec 5)
  /-- `SCGET` (R250). -/
  | scget (h : Head) (rd : Reg) (scope : BitVec 5) (w : BitVec 4)
  /-- `AMO` (R263). -/
  | amo (h : Head) (rd : Reg) (ra : Reg) (rb : Reg) (scope : BitVec 5) (op : BitVec 4) (ord : BitVec 2) (ty : BitVec 2)
  /-- `AMON` (R263). -/
  | amon (h : Head) (ra : Reg) (rb : Reg) (scope : BitVec 5) (op : BitVec 4) (ord : BitVec 2) (ty : BitVec 2)
  /-- `ACAS` (R263). -/
  | acas (h : Head) (rd : Reg) (ra : Reg) (rb : Reg) (scope : BitVec 5) (ord : BitVec 2) (ty : BitVec 2)
  /-- `MARM` (R267). -/
  | marm (h : Head) (rd : Reg) (ra : Reg)
  /-- `MWAIT` (R268). -/
  | mwait (h : Head) (rd : Reg) (limit : BitVec 24)
  /-- `VDEC` (R270). -/
  | vdec (h : Head) (rd : Reg) (ra : Reg) (rb : Reg) (scope : BitVec 5)
  /-- `MASK` (R270). -/
  | mask (h : Head) (rd : Reg) (ra : Reg) (rb : Reg) (scope : BitVec 5)
  /-- `GSX` (R270). -/
  | gsx (h : Head) (rd : Reg) (ra : Reg) (rb : Reg) (scope : BitVec 5)
  /-- `RFSH_LAYER` (R286). -/
  | rfshLayer (h : Head) (rd : Reg) (ra : Reg) (scope : BitVec 5) (die : BitVec 1)
  /-- `RFSH_TILE` (R286). -/
  | rfshTile (h : Head) (rd : Reg) (ra : Reg) (rb : Reg) (scope : BitVec 5) (die : BitVec 1)
  /-- `MTHR_THR` (R285). -/
  | mthrThr (h : Head) (rd : Reg) (ra : Reg) (rb : Reg) (scope : BitVec 5) (die : BitVec 1)
  /-- `MTHR_LIM` (R285). -/
  | mthrLim (h : Head) (rd : Reg) (ra : Reg) (rb : Reg) (scope : BitVec 5) (die : BitVec 1)
  /-- `MTHR_NREF` (R285). -/
  | mthrNref (h : Head) (rd : Reg) (ra : Reg) (rb : Reg) (scope : BitVec 5) (die : BitVec 1)
  /-- `ENQ` (R313). -/
  | enq (h : Head) (rd : Reg) (ra : Reg) (q : BitVec 10)
  /-- `ENQ_R` (R313). -/
  | enqR (h : Head) (rd : Reg) (ra : Reg) (rb : Reg)
  /-- `DEP_DEC` (R314). -/
  | depDec (h : Head) (rd : Reg) (scope : BitVec 5) (idx : BitVec 16)
  /-- `DEP_DECR` (R314). -/
  | depDecr (h : Head) (rd : Reg) (ra : Reg) (scope : BitVec 5)
  /-- `DEP_ARM` (R314). -/
  | depArm (h : Head) (rd : Reg) (ra : Reg) (scope : BitVec 5) (idx : BitVec 16)
  /-- `PWR` (R388). -/
  | pwr (h : Head) (ra : Reg) (rb : Reg) (dw : BitVec 4)
  /-- `PAMO_ADD` (R389). -/
  | pamoAdd (h : Head) (rd : Reg) (ra : Reg) (rb : Reg) (ord : BitVec 2) (ty : BitVec 2)
  /-- `PAMO_SWAP` (R389). -/
  | pamoSwap (h : Head) (rd : Reg) (ra : Reg) (rb : Reg) (ord : BitVec 2) (ty : BitVec 2)
  /-- `PAMO_CAS` (R389). -/
  | pamoCas (h : Head) (rd : Reg) (ra : Reg) (rb : Reg) (ord : BitVec 2) (ty : BitVec 2)
  /-- `TMARK` (R352). -/
  | tmark (h : Head) (ra : Reg) (tag : BitVec 16)
  /-- `DUMP` (R340). -/
  | dump (h : Head) (rd : Reg) (ra : Reg) (rb : Reg) (which : BitVec 4)
  /-- `NTFY` (R390). -/
  | ntfy (h : Head) (ra : Reg) (v : BitVec 8)
  /-- `IDLE_WAKE` (R109); reads core, k of the event. -/
  | idleWake
  /-- `MATRIX_COMMAND_START` (R167); reads core of the event. -/
  | matrixCommandStart
  /-- `MATRIX_COMMAND_COMPLETE` (R168); reads core, n of the event. -/
  | matrixCommandComplete
  /-- `MATRIX_SEM_EXPIRED` (R168); reads core of the event. -/
  | matrixSemExpired
  /-- `TOUCH_WINDOW_EXPIRY` (R201); reads core of the event. -/
  | touchWindowExpiry
  /-- `TILE_BUSY` (R119); reads core of the event. -/
  | tileBusy
  /-- `RING_WAIT_EXPIRED` (R210); reads who of the event. -/
  | ringWaitExpired
  /-- `SPILL_MOVE` (R209); reads core, n of the event. -/
  | spillMove
  /-- `SEM_WAIT_EXPIRED` (R216); reads core, k of the event. -/
  | semWaitExpired
  /-- `MARK_WAIT_EXPIRED` (R221); reads core, k of the event. -/
  | markWaitExpired
  /-- `ENGINE_WAIT_EXPIRED` (R166); reads core, k of the event. -/
  | engineWaitExpired
  /-- `JOIN_EXPIRED` (R235); reads cluster, k, n of the event. -/
  | joinExpired
  /-- `DOM_EXPIRED` (R242); reads core, k of the event. -/
  | domExpired
  /-- `MONITOR_EVICTION` (R268); reads row of the event. -/
  | monitorEviction
  /-- `SPURIOUS_EVENT` (R268); reads core, k of the event. -/
  | spuriousEvent
  /-- `MWAIT_EXPIRED` (R268); reads core, k of the event. -/
  | mwaitExpired
  /-- `OPEN` (R275); reads die, n of the event. -/
  | openStream
  /-- `DECODE` (R275); reads die, n, out of the event. -/
  | decodeUnit
  /-- `CLOSE` (R275); reads die, n of the event. -/
  | closeStream
  /-- `MASK_COMMAND` (R281); reads die of the event. -/
  | maskCommand
  /-- `GSX_COMMAND` (R288); reads die, n of the event. -/
  | gsxCommand
  /-- `RFSH_COMMAND` (R286); reads die of the event. -/
  | rfshCommand
  /-- `MTHR_COMMAND` (R285); reads die of the event. -/
  | mthrCommand
  /-- `HELD_ENQUEUE_ENTRY` (R315); reads die of the event. -/
  | heldEnqueueEntry
  /-- `TOKEN_WAIT_EXPIRED` (R27); reads core, k of the event. -/
  | tokenWaitExpired
  /-- `FRAME_FETCH` (R227); reads core, k of the event. -/
  | frameFetch
  /-- `DRIFT_RELEASE` (R230); reads cluster, k of the event. -/
  | driftRelease
  /-- `PAGE_WALK` (R320); reads ctx, off of the event. -/
  | pageWalk
  /-- `TINV_WRITE` (R324); reads ctx, v of the event. -/
  | tinvWrite
  /-- `INVALIDATION_COMPLETE` (R325); reads ctx of the event. -/
  | invalidationComplete
  /-- `XSCAN_WRITE` (R323); reads ctx, v of the event. -/
  | xscanWrite
  /-- `SCAN_COMPLETE` (R323); reads ctx of the event. -/
  | scanComplete
  /-- `SEED_WRITE` (R300); reads die, v of the event. -/
  | seedWrite
  /-- `BGRANT_WRITE` (R299); reads ctx, v of the event. -/
  | bgrantWrite
  /-- `STOPAT_WRITE` (R345); reads ctx, v of the event. -/
  | stopatWrite
  /-- `HOST_STOP_AT` (R345); reads ctx of the event. -/
  | hostStopAt
  /-- `SELECTION_ROUND` (R301); reads die of the event. -/
  | selectionRound
  /-- `CONTROL_INTERVAL_START` (R305). -/
  | controlIntervalStart
  /-- `RESERVE` (R304); reads die, n of the event. -/
  | reserve
  /-- `RESERVATION_RETRY` (R304); reads die, n of the event. -/
  | reservationRetry
  /-- `GRANT_LAPSE` (R304); reads core of the event. -/
  | grantLapse
  /-- `BIND` (R307); reads die, n of the event. -/
  | bind
  /-- `BUDGET_EXHAUSTED` (R308); reads n of the event. -/
  | budgetExhausted
  /-- `SLICE_END` (R309); reads n of the event. -/
  | sliceEnd
  /-- `CURRENT_RETURN` (R306). -/
  | currentReturn
  /-- `CONTEXT_STOPPED` (R329); reads ctx, nums of the event. -/
  | contextStopped
  /-- `HANDLER_SLICE_BIND` (R316); reads part of the event. -/
  | handlerSliceBind
  /-- `HANDLER_SLICE_END` (R108); reads part of the event. -/
  | handlerSliceEnd
  /-- `TRACE_FRAME_TIMEOUT` (R349); reads ctx, n of the event. -/
  | traceFrameTimeout
  /-- `REPLAY_STARVED` (R357); reads core, k, die, n, flag of the event. -/
  | replayStarved
  /-- `REGISTER_WRITE` (R380); reads off, v of the event. -/
  | registerWrite
  /-- `QUEUE_CONTROL_WRITE` (R294); reads q, v of the event. -/
  | queueControlWrite
  /-- `HOST_ENQUEUE` (R380); reads q, v of the event. -/
  | hostEnqueue
  /-- `PARTITION_WRITE` (R380); reads part, off, v of the event. -/
  | partitionWrite
  /-- `L2_MODE_WRITE` (R327); reads die, v of the event. -/
  | l2ModeWrite
  /-- `L2_MODE_SWITCH` (R327); reads die of the event. -/
  | l2ModeSwitch
  /-- `CONTEXT_INSTALL` (R292); reads ctx, v of the event. -/
  | contextInstall
  /-- `HOST_STOP` (R380); reads ctx, v of the event. -/
  | hostStop
  /-- `SCOPE_COMMAND` (R380); reads ctx, v of the event. -/
  | scopeCommand
  /-- `EVENT_WORD_CLEAR` (R390); reads part, n, v of the event. -/
  | eventWordClear
  /-- `RESET_CONTEXT` (R376); reads ctx of the event. -/
  | resetContext
  /-- `RESET_PARTITION` (R376); reads part of the event. -/
  | resetPartition
  /-- `RESET_MODULE` (R376); reads flag, nums of the event. -/
  | resetModule
  /-- `FUNCTION_LEVEL_RESET` (R376); reads part, nums of the event. -/
  | functionLevelReset
  /-- `HOT_RESET` (R376); reads nums of the event. -/
  | hotReset
  /-- `COLD_BOOT` (R363). -/
  | coldBoot
  /-- `RECOVERY_BLOCK` (R374); reads bytes of the event. -/
  | recoveryBlock
  /-- `RECOVERY_COMMIT` (R374). -/
  | recoveryCommit
  /-- `GET_VERSION` (R375); reads bytes of the event. -/
  | getVersion
  /-- `GET_CAPABILITIES` (R375); reads bytes of the event. -/
  | getCapabilities
  /-- `NEGOTIATE_ALGORITHMS` (R375); reads nums, bytes of the event. -/
  | negotiateAlgorithms
  /-- `GET_DIGESTS` (R375); reads bytes of the event. -/
  | getDigests
  /-- `GET_CERTIFICATE` (R375); reads n, off, len, bytes of the event. -/
  | getCertificate
  /-- `CHALLENGE` (R375); reads n, off, bytes of the event. -/
  | challenge
  /-- `GET_MEASUREMENTS` (R375); reads n, flag, flag2, bytes of the event. -/
  | getMeasurements
  /-- `SPDM_UNSUPPORTED_REQUEST` (R375); reads n of the event. -/
  | spdmUnsupported
  /-- `INCOMING_POSTED_WRITE` (R384); reads part, off, flag, bytes of the event. -/
  | incomingPostedWrite
  /-- `INCOMING_READ` (R384); reads part, off, len, flag of the event. -/
  | incomingRead
  /-- `INCOMING_ATOMICOP` (R385); reads part, off, n, len, flag, operand, cmp of the event. -/
  | incomingAtomicOp
  /-- `OUTBOUND_COMPLETION` (R383); reads core, k, res of the event. -/
  | outboundCompletion
  /-- `COMPLETION_TIMEOUT` (R383); reads core, k of the event. -/
  | completionTimeout
  /-- `PTM_DIALOGUE` (R393); reads ptm of the event. -/
  | ptmDialogue
  /-- `MIOSOR_FLIT_RETRY` (R362); reads n of the event. -/
  | miosorFlitRetry
  /-- `RETRAIN` (R364); reads n of the event. -/
  | retrain
  /-- `LANE_REPAIR` (R364); reads n of the event. -/
  | laneRepair
  /-- `STACK_PAUSE_END` (R365); reads n, flag of the event. -/
  | stackPauseEnd
  /-- `SENTINEL_UPDATE` (R366); reads n, nums of the event. -/
  | sentinelUpdate
  /-- `ROW_ACTIVATION` (R367); reads n, row of the event. -/
  | rowActivation
  /-- `REFRESH_WINDOW_START` (R367). -/
  | refreshWindowStart
  /-- `REGULATOR_WRITE` (R368); reads n, v of the event. -/
  | regulatorWrite
  /-- `REGULATOR_CHANGE_DONE` (R368); reads n of the event. -/
  | regulatorChangeDone
  /-- `CLUSTER_POWER_WRITE` (R369); reads cluster, v of the event. -/
  | clusterPowerWrite
  /-- `REGULATOR_SWITCH` (R369); reads cluster of the event. -/
  | regulatorSwitch
  /-- `THERMAL` (R371); reads cluster, temp of the event. -/
  | thermal
  /-- `EOL_UPDATE` (R371); reads cluster, n of the event. -/
  | eolUpdate
  /-- `MEASUREMENT_UPDATE` (R368); reads n, nums of the event. -/
  | measurementUpdate
  /-- `CE_LASTING` (R372); reads loc, off, flag, flag2 of the event. -/
  | ceLasting
  /-- `POOL_ROW_RETIRE` (R372); reads core, n, row of the event. -/
  | poolRowRetire
  /-- `INSTRUCTION_RETIRE` (R26); reads core, k of the event. -/
  | instructionRetire
  /-- `VIDEO_COMMAND_COMPLETION` (R271); reads die, n of the event. -/
  | videoCommandCompletion
  /-- `PORT_LINK_CHANGE` (R392); reads n, nums of the event. -/
  | portLinkChange
  deriving DecidableEq, Repr

end Sys2Proof
end

