-- ==== Sys2Proof/Machine/State.lean ====
section
/-! DEFINITION. The state of the whole module as plain data: streams, cores, clusters, dies, contexts, partitions,
queues, package and fabric, with the values after module reset. -/

namespace Sys2Proof.Machine

/-- A table of like things by number: the entries that differ from, or were set over, a default that its reader names.
Keys rise strictly. -/
abbrev Tbl (α : Type) := List (Nat × α)

/-! ### Streams -/

/-- The part of a stream's state that a slice gives it: the waiting states of R31 stand in `Stream.wait`, and STOPPED in
`Stream.stopped`. -/
inductive StreamMode where
  | idle | run | yielded | dead
  deriving DecidableEq, Repr

/-- What a head waits for (R31, R397). -/
inductive WaitKind where
  /-- The queues that the head pops and those that it pushes, as masks (bit 0 LX, 1 XL, 2 XS, 3 SX), and the number of
  tokens that it moves on each (R25). -/
  | token (pop room n : Nat)
  /-- A core semaphore and the number to take (R216). -/
  | sem (n k : Nat)
  /-- A cluster semaphore (R244). -/
  | xsem (n k : Nat)
  /-- A ring of a core (R208, R210). -/
  | ring (core n : Nat)
  /-- A memory ring, by the address of its descriptor (R213). -/
  | memRing (addr : Nat)
  /-- A monitored row (R268). -/
  | mon (row : Nat)
  | join (id : Nat)
  | dsync (level : Nat)
  | cbcast
  /-- Room in the matrix command queue (R166). -/
  | matrixQueue
  /-- `msync` or `mabort` (R187, R188). -/
  | matrixDone
  /-- `pool` waiting for a TILE bank (R119). -/
  | poolTile
  /-- An accumulator instruction waiting for matrix commands (R161). -/
  | accum
  /-- Room in an engine's command FIFO (R219). -/
  | engineRoom (handle : Nat)
  /-- An element of an engine's result FIFO (R220). -/
  | engineResult (handle : Nat)
  /-- The hold list of a die (R315). -/
  | holdList
  /-- An `mfs` of `%xscan` or `%tinvf` (R323, R324). -/
  | regWait
  /-- `idle.cyc`: the cycle of its issue and the cycles asked for (R109). -/
  | idleCyc (n : Nat)
  /-- `idle.until`: the device time. -/
  | idleUntil (t : Nat)
  /-- The n-th `mark` (R221). -/
  | mark (n : Nat)
  /-- A HOST or PEER completion (R382, R383, R386). -/
  | outbound
  /-- The turn of a forced event in replay (R355, R357). -/
  | forced
  /-- A scope entry whose captures have not ended (R249), or another wait that shows as RUN. -/
  | busy
  deriving DecidableEq, Repr

/-- A wait of a head: since which cycle of its cluster, and its limit in cycles, 0 for none. -/
structure Waiting where
  kind : WaitKind
  since : Nat
  limit : Nat
  deriving DecidableEq, Repr

/-- The trap codes (R335). -/
inductive TrapCode where
  | badTarget | fetchDenied | privViolation | tokenWaitExpired | softTrap | breakpoint | halt | budgetExhausted
  | poolNotBase | poolRole | vshape | memFault | touchFault | memParam | dataUncorrectable | ringWaitExpired
  | semWaitExpired | semOverflow | markWaitExpired | engineWaitExpired | matrixParam | raggedBound | sparseMeta
  | matrixSemExpired | joinUnknown | joinExpired | domExpired | domPhase | domParam | scopeStale | depUnderflow
  | hostAtomicUnsupported | engineFault | replayDiverged | hostStop
  deriving DecidableEq, Repr

/-- A trap: its code, its faddr and detail (R335), the payload offset that a `wenq` target fault records in waitid
(R215), and whether it can be resumed. -/
structure Trap where
  code : TrapCode
  faddr : W64 := 0
  detail : Nat := 0
  offset : Nat := 0
  resumable : Bool := true
  deriving DecidableEq, Repr

/-- A frame in an instruction queue: its frame address and its eight words (R39). -/
structure FrameRec where
  addr : Nat
  /-- Its physical address. -/
  pa : Nat
  words : List Nat
  deriving DecidableEq, Repr

/-- A leaf translation held by the buffers (R321). -/
structure TlbEntry where
  va : Nat
  size : Nat
  pa : Nat
  /-- For a HOST or PEER page, the bus address of the page's base under the outbound entry that the walk read (R381). -/
  bus : Nat := 0
  cls : Nat
  r : Bool
  w : Bool
  x : Bool
  xs : Nat
  deriving DecidableEq, Repr

/-- What a step of the executing head has given: a step is taken once, and gives the same again when the head goes on
after a wait. -/
inductive Note where
  /-- A value read, or, for a step that writes, 0; for the write of a predicate, the lanes written. -/
  | num (n : Nat)
  /-- The translation of an access (R202, R321). -/
  | page (e : TlbEntry)
  /-- The completion of a request (R382). -/
  | answer (c : Completion)
  deriving DecidableEq, Repr

/-- What other streams and engines ask of an issued head: whether it reaches memory, registers or the pool (R122, R201),
is a `mark` (R221) or a `pool` (R117), or pairs by its count with those of other members: a `dsync` by its level (R242), or,
as 4, a `cbcast` (R243). -/
inductive HeadKind where
  | plain | access | mark | pool
  | pair (key : Nat)
  deriving DecidableEq, Repr

/-- The keys and counters of the random functions, as an instruction reads them at its issue (R226). -/
structure RandKeys where
  srkey : W64 := 0
  srctr : W64 := 0
  vrkey : W64 := 0
  vrctr : W64 := 0
  deriving DecidableEq, Repr

/-- A request of a stream that waits for its completion (R382, R383, R386): a read, or an AtomicOp with its operation (as
`amo`; 10 is compare and swap), its operand and its comparand. -/
structure Outbound where
  peer : Bool
  bus : Nat
  len : Nat
  atomic : Option (Nat × BitVec 128 × BitVec 128) := none
  /-- The virtual address, for the fault record. -/
  va : Nat
  /-- Device time at which it went out. -/
  sent : Nat := 0
  /-- The number of the step whose answer it brings. -/
  key : Nat := 0
  deriving DecidableEq, Repr

/-- An instruction that has issued behind the head and has not retired (R25, R30, R38): what it took and read at its issue, as the
head's own fields hold it, and the consumed count of its stream with it (R229). -/
structure Ahead where
  popped : Nat × Nat := (0, 0)
  pushes : List Nat := []
  guardOn : Bool := false
  lanes : BitVec 2048 := 0
  issuedAt : Nat := 0
  kind : HeadKind := .plain
  keys : RandKeys := {}
  consumed : Nat := 0
  deriving DecidableEq, Repr

/-- One stream (R11). -/
structure Stream where
  mode : StreamMode := .idle
  /-- STOPPED by the context's halt (R31). -/
  stopped : Bool := false
  pc : PcWord := 0
  /-- x1 to x31; x0 is not stored (R17). -/
  x : Tbl W64 := []
  /-- Retire count (R29). -/
  rc : W64 := 0
  /-- The head has issued (R38). -/
  issued : Bool := false
  /-- The expanded issue of the record at the head has issued (R55). -/
  expIssued : Bool := false
  /-- Tokens the issued head popped from its previous and next queue (R37). -/
  popped : Nat × Nat := (0, 0)
  /-- Queues in which the issued head has reserved room, each as often as it will push there (R25). -/
  pushes : List Nat := []
  /-- The instructions issued behind the head, oldest first (R38). -/
  ahead : List Ahead := []
  wait : Option Waiting := none
  /-- The guard of the issued head: bit 0 of its predicate, and its lane mask, as read at issue (R21). -/
  guardOn : Bool := false
  lanes : BitVec 2048 := 0
  /-- The stream has issued since the last cycle that passed (R346 ISSUE). -/
  issuedNow : Bool := false
  /-- The wait class in which its cycles fall, 0 for none, and since which cycle (R350). -/
  cls : Nat := 0
  clsSince : Nat := 0
  /-- Cluster cycle at which the head became the head (R38 headcyc). -/
  headSince : Nat := 0
  attached : Bool := true
  /-- The fetch group of the cluster, while attached (R227). -/
  group : Nat := 0
  /-- Frames delivered and not consumed (R229). -/
  iq : List FrameRec := []
  consumed : Nat := 0
  /-- Since which cycle of its cluster the drift bound has withheld a frame from it (R230). -/
  stalled : Option Nat := none
  /-- Control transfers resolved since the slice was bound or the group formed (R231). -/
  transfers : Nat := 0
  /-- `%status` [5:0]: poison, nv, dz, of, uf, nx (R35). -/
  flags : BitVec 6 := 0
  rm : BitVec 3 := 0
  last : BitVec 8 := 0
  tlim : BitVec 32 := 0x01000000
  pwsel : BitVec 8 := 0
  lnpos : W64 := 0
  hcsel : BitVec 10 := 0
  /-- `%vshape`: rows in [11:0], columns in [27:16]; the other bits stay zero (R130). -/
  vshapeRows : BitVec 12 := 16
  vshapeCols : BitVec 12 := 32
  vsp : W64 := 0
  lsxStride : BitVec 32 := 0x80
  lsxIreg : BitVec 9 := 0
  /-- `%hatom` (R386). -/
  hatom : BitVec 2 := 0
  /-- The trap this stream raised in the present stop (R38). -/
  trap : Option Trap := none
  /-- The head is a target PC whose fetch trapped (R16). -/
  fetchTrap : Bool := false
  /-- `tret.skip` has still to skip the head (R108). -/
  skipping : Bool := false
  /-- Head counters by class index (R346). -/
  hc : Tbl Nat := []
  /-- `%cycle` at the cut of a stop (R337). -/
  cutCycles : Nat := 0
  /-- `mark`s retired since the slice was bound (R221). -/
  marks : Nat := 0
  /-- `dsync`s retired since the slice was bound, by level, and, as 4, `cbcast`s: those with a false guard, and those that a
  handler skipped, with the others (R242, R243). -/
  pairs : Tbl Nat := []
  /-- The stop of its context found the head waiting at the join of this identifier: it arrives there again (R236). -/
  rejoin : Option Nat := none
  /-- The outstanding requests of the head, oldest first. -/
  outs : List Outbound := []
  /-- What the steps that the head has taken gave, by step, and the next step of the present attempt. -/
  notes : Tbl Note := []
  noteIdx : Nat := 0
  /-- Cluster cycle at which the head issued (R202), its kind, and the random keys as read then. -/
  issuedAt : Nat := 0
  kind : HeadKind := .plain
  keys : RandKeys := {}
  /-- The issued head has taken a step that no stop undoes: it retires before its stream stops (R330). -/
  firm : Bool := false
  /-- `%stopat` has stopped the stream: it issues nothing until its context resumes (R345). -/
  held : Bool := false
  /-- An access of the head read uncorrectable data as zeros: the poison bit is set at retirement (R339). -/
  poisonDue : Bool := false
  /-- The head has sent an AtomicOp (R330). -/
  atomicOut : Bool := false
  /-- A trap that comes to the stream before its next issue: of an `amon` that has retired and been performed since (R263, R339),
  or of its slice's budget while an AtomicOp of its head is out (R308, R330). -/
  lateTrap : Option Trap := none
  /-- A value that the head captured at its issue. -/
  capt : Option Nat := none
  /-- The scope entry captured by the issued head: index and generation (R251). -/
  captScope : Option (Nat × Nat) := none
  deriving DecidableEq, Repr

/-! ### Cores -/

/-- A ring of a core (R205). -/
structure Ring where
  enabled : Bool := false
  sp : Bool := false
  z : Nat := 0
  k : Nat := 0
  ks : Nat := 0
  base : Nat := 0
  head : BitVec 32 := 0
  claimed : BitVec 32 := 0
  tail : BitVec 32 := 0
  /-- Spill area address and its records, oldest first; their placement in the area is not architectural (R209). -/
  spillVa : Nat := 0
  /-- The pinned pages of the area: physical base and length of each part (R207). -/
  spillPages : List (Nat × Nat) := []
  spill : List (List Byte) := []
  deriving DecidableEq, Repr

/-- What waits on a semaphore, in the order the waits began (R216, R168). -/
inductive SemWaiter where
  | stream (core : Nat) (k : StreamId)
  | matrix (core : Nat)
  deriving DecidableEq, Repr

structure Sem where
  value : BitVec 16 := 0
  /-- With the cluster cycle at which each wait began. -/
  waiters : List (SemWaiter × Nat) := []
  deriving DecidableEq, Repr

/-- A line of the L1 data cache (R127): its bank, its bytes, the bytes written, and when it was last used. -/
structure Line where
  bank : Nat
  data : Row
  dirty : BitVec 128
  used : Nat
  deriving DecidableEq, Repr

/-- A touch window (R201): its context, the virtual range, the right to write, the cycle in which it opened and the first in
which it is open no more, and the pages it pins. -/
structure Window where
  ctx : Nat
  base : Nat
  len : Nat
  write : Bool
  opened : Nat
  expiry : Nat
  pages : List TlbEntry
  deriving DecidableEq, Repr

/-- A row of a pool that a matrix command has computed and not yet written (R189): core, bank and row, the register where it is
one, the bytes and their mask; with `half`, the high half of the last byte stays as it is. -/
structure RowPut where
  core : Nat
  bank : Nat
  row : Nat
  reg : Option Nat
  v : Nat
  mask : Nat
  half : Bool := false
  deriving DecidableEq, Repr

/-- An accepted matrix command (R166): its sequence number, which is the 16 low bits of its number among all. -/
structure MCmd where
  seq : Nat
  num : Nat := 0
  op : Nat
  acc : Nat := 0
  v : Nat := 0
  ty : Nat := 0
  rot : Nat := 0
  mod : Bool := false
  wa : W64 := 0
  wb : W64 := 0
  swen : Bool := false
  semw : Nat := 0
  ssen : Bool := false
  sems : Nat := 0
  /-- TILE bank count at acceptance (R174). -/
  t : Nat := 0
  /-- Metadata row at acceptance (R174, R184). -/
  mrow : Nat := 0
  semTaken : Bool := false
  /-- Cluster cycle at which its semaphore wait began, and `%mlim` at that moment (R168). -/
  waitSince : Option (Nat × Nat) := none
  /-- Progress count (R190), and the flags and the `%amax` update of what has been done (R170, R185). -/
  progress : Nat := 0
  flags : BitVec 6 := 0
  amax : W64 := 0
  /-- It has read uncorrectable data as zeros (R339). -/
  poison : Bool := false
  /-- Rows of its register and scratchpad sources that the engine has read before the units that use them, by core position,
  bank and row (R163, R189). -/
  seen : Tbl Nat := []
  /-- Rows of its last unit that are still to be written. -/
  outs : List RowPut := []
  deriving DecidableEq, Repr

/-- The matrix engine (R164 to R190). -/
structure Matrix where
  queue : List MCmd := []
  running : Option MCmd := none
  weights : List MCmd := []
  accepted : Nat := 0
  done : BitVec 16 := 0
  aborted : BitVec 8 := 0
  /-- Sticky nv, 0, of, uf, nx in `%mstat` [4:0]. -/
  flags : BitVec 5 := 0
  mlim : BitVec 32 := 0x01000000
  rowScale : Option (List (BitVec 32)) := none
  colScale : Option (List (BitVec 32)) := none
  /-- Bias values: 256, or eight groups of 256 with the counts of the groups (R184). -/
  bias : Option (List (BitVec 32)) := none
  biasGrp : Option W64 := none
  act : W64 := 0
  fmt : BitVec 4 := 0
  metaRow : BitVec 13 := 0
  /-- The metadata row of the last accepted `mmeta`, for check 5 of R176. -/
  metaNext : BitVec 13 := 0
  /-- The trap that the engine raised, and its command's number. -/
  trap : Option Trap := none
  trapNum : Nat := 0
  /-- The group of SPARSE_META (R332). -/
  group : Nat := 0
  deriving DecidableEq, Repr

/-- A reshape that has issued and not retired (R122): the banks whose role it changes, and the accesses that issued before
it, by stream, retire count and `%lnpos`. -/
structure Reshape where
  banks : List Nat
  before : List (StreamId × W64 × W64)
  deriving DecidableEq, Repr

/-- A request of a core that has retired and is not yet performed, or seen by the other streams: an `amon` (R263) by its
stream, virtual and physical address, size, operation and operand; or a write of a special register of core scope, by its stream,
number and value (R36, R226). -/
inductive Pending where
  | amon (k : StreamId) (va pa n op v : Nat)
  | sr (k : StreamId) (n : Nat) (v : W64)
  deriving DecidableEq, Repr

/-- One core (R11). -/
structure Core where
  l : Stream := {}
  xs : Stream := {}
  s : Stream := {}
  k : Stream := {}
  /-- The slice bound to it. -/
  slice : Option Nat := none
  /-- A reservation: the die and placement slot that hold it, and the device cycle of the grant (R304). -/
  grant : Option (Nat × Nat × Nat) := none
  /-- p1 to p7 (R19). -/
  preds : Tbl (BitVec 2048) := []
  /-- Token queues LX, XL, XS, SX by number 0 to 3 (R23). -/
  tokq : Tbl Nat := []
  sems : Tbl Sem := []
  rings : Tbl Ring := []
  /-- Pool rows by bank × 512 + row; an unlisted row reads zero (R111, R116). -/
  pool : Tbl Row := []
  /-- Roles by bank: 0 NONE, 1 REG, 2 TILE, 3 WAY, 4 RING, 5 SCR (R112). -/
  roles : Tbl Nat := []
  pins : BitVec 64 := 0
  vlive : BitVec 9 := 0
  poolStatus : BitVec 3 := 0
  poolBusy : Bool := false
  /-- Rows and banks of the pool that hold uncorrectable data (R372). -/
  poolUe : List Nat := []
  /-- Retired rows by bank, and failed banks (R372). -/
  retired : Tbl Nat := []
  failed : Bool := false
  /-- L1 lines by physical row address divided by 128 (R127). -/
  ways : Tbl Line := []
  wayClock : Nat := 0
  /-- Posted writes of this core through the host port and the peer port, and how many of them a release knows to have
  reached their completers (R382). -/
  hostSent : Nat := 0
  hostFlushed : Nat := 0
  peerSent : Nat := 0
  peerFlushed : Nat := 0
  /-- The micro buffer: leaf translations with their contexts, the latest first (R321). -/
  tlb : List (Nat × TlbEntry) := []
  /-- The reshape under way (R122). -/
  reshape : Option Reshape := none
  /-- What has retired and is not yet performed or seen, oldest first. -/
  pending : List Pending := []
  windows : List Window := []
  matrix : Matrix := {}
  /-- `%amax`: the running maximum's bits (R88). -/
  amax : W64 := 0
  srkey : W64 := 0
  srctr : W64 := 0
  vrkey : W64 := 0
  vrctr : W64 := 0
  dphs : Bool := false
  /-- `%dom` [31:0] (R239). -/
  dom : BitVec 32 := 0
  shdr : BitVec 56 := 0
  deriving DecidableEq, Repr

/-! ### Clusters -/

/-- An entry of the join table (R233). -/
structure JoinEntry where
  slice : Nat
  kind : StreamId
  id : Nat
  expected : BitVec 4
  arrived : BitVec 4
  /-- Cycle of expiry, set by the first arrival. -/
  expiry : Option Nat
  deriving DecidableEq, Repr

/-- A fetch group (R227): its number, its slice and stream kind, the outcomes of its transfers so far in order (R231),
the frames fetched for it by index and address. -/
structure FetchGroup where
  id : Nat
  slice : Nat
  kind : StreamId
  outcomes : List Nat := []
  frames : List (Nat × FrameRec) := []
  deriving DecidableEq, Repr

/-- A monitor of a cluster's table (R267): the stream that holds it, the physical row, whether the stream's `mwait` has
issued, and the first event that counts: 0 write, 1 eviction, 2 spurious (R268). -/
structure Monitor where
  core : Nat
  k : StreamId
  row : Nat
  waiting : Bool := false
  event : Option Nat
  deriving DecidableEq, Repr

/-- One cluster (R5, R233, R244, R267, R369, R371). -/
structure Cluster where
  /-- Cycles of its clock since reset, and the fraction of the next one in units of 1/2000 cycle (R368). -/
  cycles : Nat := 0
  frac : Nat := 0
  joins : List JoinEntry := []
  groups : List FetchGroup := []
  nextGroup : Nat := 0
  xsems : Tbl Sem := []
  monitors : List Monitor := []
  /-- The cluster's translation buffer, as a core's (R321). -/
  tlb : List (Nat × TlbEntry) := []
  /-- Stopped clock: device time at which it runs again (R368, R369). -/
  clockStop : Nat := 0
  /-- B[c] in force, B[c] as written, and bal[c] (R305, R369). -/
  budget : BitVec 32 := 1500
  budgetNew : BitVec 32 := 1500
  bal : Int := 1500
  /-- The regulator it draws from, and the pending one (R369). -/
  reg : Nat := 0
  switchTo : Option Nat := none
  /-- The switch matrix re-routes the cluster: its clock stops until the switch (R369). -/
  switching : Bool := false
  /-- Device time until which current committed on it is on its way back (R306). -/
  currentUntil : Nat := 0
  temp : BitVec 16 := 0
  tstate : Nat := 0
  eol : BitVec 32 := 0xFFFFFFFF
  deriving DecidableEq, Repr

/-! ### Dies -/

/-- What a command of a video engine is (R218, R270). -/
inductive VSource where
  /-- A block in DEV memory. -/
  | block (addr : Nat)
  | rfshLayer (layer : Nat)
  | rfshTile (layer : Nat) (tile : W64)
  /-- `mthr` with its form 0 to 2. -/
  | mthr (form : Nat) (layer : Nat) (v : W64)
  deriving DecidableEq, Repr

/-- A command of a video engine (R219): the die of its engine, its context, the core and the slice that issued it, its
sequence number, and the scope entry it captured. -/
structure VCmd where
  die : Nat := 0
  ctx : Nat
  core : Nat
  slice : Nat
  seq : Nat
  src : VSource
  scope : Option (Nat × Nat)
  deriving DecidableEq, Repr

/-- A write of an engine's commit: to the pool of a core or to DEV memory, at a physical address, within one row. -/
structure VWrite where
  core : Option Nat
  addr : Nat
  len : Nat
  v : Nat
  deriving DecidableEq, Repr

/-- A command in commit (R273): its block code, its writes before and after the ring appends, whether the first have been
made since the commit last began, the layer record that it works on (R284), the appends (core, ring, record), how many of them have been made, its status, info and
poison, the limit of a ring wait in cycles and the device time since which it waits, and the device time since which it
waits for a forced turn (R355). -/
structure VCommit where
  cmd : VCmd
  code : Nat
  layer : Option Nat := none
  first : List VWrite := []
  begun : Bool := false
  appends : List (Nat × Nat × W64) := []
  progress : Nat := 0
  /-- Rings (core, ring) at which tile records have been discarded, one entry for each (R283). -/
  lost : List (Nat × Nat) := []
  last : List VWrite := []
  status : Nat := 0
  info : Nat := 0
  poison : Bool := false
  limit : Nat := 0
  waitSince : Option Nat := none
  heldSince : Option Nat := none
  deriving DecidableEq, Repr

/-- A frame that a video stream has output: its size and bit depth, its samples in raster order, 16 bits each, and its place
in display order (R276 to R278). -/
structure Picture where
  w : Nat
  ht : Nat
  depth : Nat
  luma : Nat
  chroma : Nat
  ord : Int
  deriving DecidableEq, Repr

/-- A video stream open on a codec engine (R275): its context, its stream record and its reference store, its standard, and what
the engine has put into the two, which is not architectural: the frames output so far and the last of them (R276), the bytes that
stand there, and whether an agent has been found to have stored other bytes. -/
structure VStream where
  ctx : Nat
  addr : Nat
  store : Nat
  size : Nat
  std : Nat := 0
  unsupported : Bool := false
  outputs : Nat := 0
  prev : Option Picture := none
  image : Nat := 0
  spoiled : Bool := false
  deriving DecidableEq, Repr

/-- A video engine (R218, R331): the command FIFOs of all cores in order of arrival, the command in commit, the result
FIFOs and the sequence counters by core, the commands completed (R354), the command whose trap stopped it, and the work of
other contexts that it holds while they halt (R329). -/
structure Engine where
  fifo : List VCmd := []
  commit : Option VCommit := none
  parked : List (Option VCommit × Option (VCmd × Nat × Trap)) := []
  results : Tbl (List W64) := []
  seqs : Tbl Nat := []
  completions : Nat := 0
  streams : List VStream := []
  trap : Option (VCmd × Nat × Trap) := none
  deriving DecidableEq, Repr

/-- The words of a captured header (R295, R297). -/
structure Header where
  addr : Nat
  words : List Nat
  deriving DecidableEq, Repr

/-- A selection on its way to binding: one of the four placements of a die (R301, R304). -/
structure Placement where
  queue : Nat
  hdr : Header
  pri : Nat
  tko : Nat
  /-- The placements not yet tried, each a list of cores; the first is the present one. -/
  candidates : List (List Nat)
  conflicts : Nat := 0
  /-- The round that selected it, and whether replay forces its placement (R354, R355). -/
  round : Nat := 0
  forced : Bool := false
  /-- Device time before which it does not try again. -/
  retryAt : Nat := 0
  reserved : Bool := false
  deriving DecidableEq, Repr

/-- What a selection round looks at: the candidate heads by queue and turn, the free cores and the control interval (R301). -/
structure RoundView where
  heads : List (Nat × Nat)
  free : List Nat
  interval : Nat
  deriving DecidableEq, Repr

/-- A head deferred, by its queue and turn: until the next control interval, or until a core of its partition is free (R301). -/
structure Deferral where
  queue : Nat
  turn : Nat
  interval : Bool
  deriving DecidableEq, Repr

/-- How far a walk has come (R320): it is to read the entry of a level from a table; it has read a leaf there and is to read the
entry of its group's first slot; or it has ended, at a level, with a translation or a failure. -/
inductive WalkState where
  | table (level t : Nat)
  | leaf (level t e : Nat)
  | done (level : Nat) (r : Option TlbEntry)
  deriving DecidableEq, Repr

/-- A walk of a die, in flight or queued: its context and the address that missed (R321). -/
structure Walk where
  ctx : Nat
  va : Nat
  st : WalkState
  deriving DecidableEq, Repr

/-- One die. -/
structure Die where
  /-- The state of the lottery generator (R300). -/
  seed : W64 := 1
  rounds : Nat := 0
  /-- What the last round that began has seen (R301). -/
  lastRound : Option RoundView := none
  placements : Tbl Placement := []
  /-- Heads deferred (R301); one whose queue has another head by now counts no more. -/
  deferred : List Deferral := []
  /-- Held enqueues: queue and header address, oldest first (R315). -/
  holds : List (Nat × Nat) := []
  /-- Engines by slot: 0 to 3 codec, 4 change-mask, 8 to 11 gather-scatter (R331). -/
  engines : Tbl Engine := []
  /-- L2 mode register: mode, busy and err (R327). -/
  split : Bool := false
  modeBusy : Bool := false
  modeErr : Bool := false
  modeNew : Bool := false
  /-- The die's translation cache, as a core's (R321). -/
  tlb : List (Nat × TlbEntry) := []
  /-- The walks of the die in order of arrival: the first 64 have a walker, the others queue (R321). -/
  walks : List Walk := []
  /-- In SPLIT mode, the dirty rows that a partition's slices hold, by partition × 2^48 + row: bytes and mask (R327). -/
  l2 : Tbl (Row × BitVec 128) := []
  /-- Lines of L2 that hold uncorrectable data, by the same key (R372). -/
  l2ue : List Nat := []
  deriving DecidableEq, Repr

/-! ### Contexts, partitions, queues and slices -/

/-- A scope-table entry (R246). -/
structure ScopeEntry where
  cores : BitVec 192 := 0
  slices : BitVec 64 := 0
  engines : BitVec 16 := 0
  classes : BitVec 4 := 0
  valid : Bool := false
  gen : BitVec 8 := 0
  deriving DecidableEq, Repr

/-- The state of a context (R293). -/
inductive CtxMode where
  | run | stopped | dead
  deriving DecidableEq, Repr

/-- Who raised the first cause (R334). -/
inductive CauseBy where
  | host
  | stream (core : Nat) (k : StreamId)
  | matrix (core : Nat)
  | engine (handle : Nat)
  deriving DecidableEq, Repr

/-- A scan request that has started (R323): its first page and its pages not yet handled; the outcome of those handled (status
and report), the frames and the tag of each page passed, and the first page of a frame written since it was read. -/
structure ScanReq where
  va : Nat := 0
  left : Nat := 0
  status : Nat := 0
  report : Nat := 0
  frames : List (Nat × Nat) := []
  changed : Option Nat := none
  deriving DecidableEq, Repr

/-- A pending invalidation (R324). -/
structure InvReq where
  all : Bool
  va : Nat
  len : Nat
  deriving DecidableEq, Repr

/-- The actions of `tret` (R108). -/
inductive TretAction where
  | resume | skip | restart | kill
  deriving DecidableEq, Repr

/-- A trace source's open frame (R349): its records so far (time, type, payload), its frame number. -/
structure TraceSrc where
  recs : List (Nat × Nat × Nat) := []
  fseq : Nat := 0
  deriving DecidableEq, Repr

/-- One context (R292, R293). -/
structure Ctx where
  live : Bool := false
  mode : CtxMode := .run
  record : Nat := 0
  part : Nat := 0
  hslice : Nat := 0
  cring : Nat := 0
  lost : BitVec 32 := 0
  dtab : Nat := 0
  dn : Nat := 0
  ue : Bool := false
  root : Nat := 0
  stops : Nat := 0
  hatom : Bool := false
  spillq : BitVec 32 := 0
  brken : Bool := true
  /-- `%stopat`: en, stream, core and rc (R344). -/
  stopatEn : Bool := false
  stopatK : BitVec 2 := 0
  stopatCore : BitVec 8 := 0
  stopatRc : BitVec 52 := 0
  /-- `%trace`: en, descriptor and classes (R348). -/
  traceEn : Bool := false
  traceDesc : BitVec 50 := 0
  traceCls : BitVec 6 := 0
  trace : Tbl TraceSrc := []
  /-- The replay word (R353). -/
  replayMode : BitVec 2 := 0
  replayCpk : BitVec 5 := 0
  replayOvf : Bool := false
  replayLog : BitVec 50 := 0
  /-- In replay mode, the log's records not yet used, as their two words (R355). -/
  replayRecs : List (W64 × W64) := []
  /-- The halt line: device time of the raise, the first cause and who raised it (R329, R334). -/
  halt : Option Nat := none
  /-- The cycles of each cluster of the context when the halt line rose, by which the skid is counted (R329). -/
  haltAt : Tbl Nat := []
  cause : Option (CauseBy × Trap) := none
  /-- Records of the stop with a non-zero cause (R334), and whether all its causes can be resumed (R335). -/
  causes : Nat := 0
  stopTime : Nat := 0
  /-- `%htgt` (R337). -/
  htgtEn : Bool := false
  htgtErr : Bool := false
  htgtK : BitVec 2 := 0
  htgtCore : BitVec 8 := 0
  tinvBad : Bool := false
  tinvDone : BitVec 32 := 0
  tinv : List InvReq := []
  scans : List ScanReq := []
  xscanStatus : BitVec 8 := 0
  xscanReport : BitVec 48 := 0
  bgrant : BitVec 32 := 0
  scopes : Tbl ScopeEntry := []
  /-- The scope command of the host: pending image address and entry, and its last result (R380). -/
  scopeBusy : Option (Nat × Nat) := none
  scopeResult : BitVec 16 := 0
  /-- The handler has retired an `mfs` of `%cause` (R336), and the action its `tret` recorded (R108). -/
  causeRead : Bool := false
  action : Option TretAction := none
  deriving DecidableEq, Repr

/-- One partition (R291, R380). -/
structure Part where
  valid : Bool := false
  err : Bool := false
  clusters : BitVec 48 := 0
  hcore : BitVec 8 := 0
  mbox : BitVec 56 := 0
  mlost : BitVec 32 := 0
  smap0 : BitVec 32 := 0
  smap1 : BitVec 32 := 0
  /-- Window register: en, size and base (R379). -/
  winEn : Bool := false
  wsize : BitVec 10 := 0
  wbase : BitVec 9 := 0
  /-- Raw ranges 0 to 3: base, last page, port, at, wr (R387). -/
  raw : Tbl (BitVec 52 × BitVec 52 × Bool × Bool × Bool) := []
  /-- Event words of the virtual function, and the vectors masked and pending (R390). -/
  events : Tbl W64 := []
  masked : List Nat := []
  pending : List Nat := []
  /-- Contexts waiting for the handler core, in the order they stopped (R316). -/
  handlerQueue : List Nat := []
  deriving DecidableEq, Repr

/-- One stream queue (R294): its header addresses and restarts so far, oldest first. -/
structure Queue where
  en : Bool := false
  ctx : BitVec 6 := 0
  pri : BitVec 2 := 0
  dies : BitVec 2 := 0
  tko : BitVec 8 := 0
  entries : List (Nat × Nat) := []
  /-- The header captured for the head (R297). -/
  head : Option Header := none
  /-- The number of headers captured so far: it tells the heads of the queue apart. -/
  turn : Nat := 0
  /-- Heads that restarted slices have displaced, with their numbers, for the entries behind the head (R297, R311). -/
  displaced : List (Option Header × Nat) := []
  /-- Status of the last host enqueue (R380). -/
  hostStatus : BitVec 8 := 0
  deriving DecidableEq, Repr

/-- A bound slice (R307). -/
structure Slice where
  ctx : Nat
  /-- The handler slice of this context, whose stop it serves (R316). -/
  handler : Bool
  queue : Nat
  hdr : Header
  cores : List Nat
  budget : BitVec 32
  /-- Cycles counted (R308, R310). -/
  cycles : Nat := 0
  /-- Cluster cycle of each cluster of the gang when it was bound, for `%cycle`. -/
  boundAt : Tbl Nat := []
  /-- Device time at which its last stream yielded (R32, R310). -/
  ended : Option Nat := none
  restarts : Nat := 0
  ext : Bool := false
  resid : Bool := false
  /-- Current admitted per regulator, to be returned at the end (R305, R306). -/
  current : Tbl Nat := []
  deriving DecidableEq, Repr

/-! ### Package and fabric -/

/-- A fraction. -/
structure Frac where
  num : Nat := 0
  den : Nat := 1
  deriving DecidableEq, Repr

/-- A regulator (R368, R370). -/
structure Regulator where
  busy : Bool := false
  err : Bool := false
  ilim : BitVec 12 := 2400
  mv : BitVec 10 := 400
  fmhz : BitVec 11 := 900
  imeas : BitVec 12 := 0
  /-- The change in progress: its set points, and the device time before which it cannot end. -/
  change : Option (BitVec 10 × BitVec 11) := none
  doneAt : Nat := 0
  /-- used[g] (R305). -/
  used : Nat := 0
  /-- Ballast level in amperes, its fall in amperes per ns, and the device time of the value (R370). -/
  ballast : Frac := {}
  fall : Frac := {}
  ballastAt : Nat := 0
  deriving DecidableEq, Repr

/-- A sentinel monitor (R366). -/
structure Sentinel where
  below : Bool := false
  ien : Bool := true
  vthr : BitVec 8 := 20
  tthr : BitVec 8 := 12
  vmarg : BitVec 8 := 0
  tmarg : BitVec 8 := 0
  deriving DecidableEq, Repr

/-- An HBM stack (R364). -/
structure Stack where
  state : BitVec 4 := 1
  /-- The action in progress: 1 retrain, 2 lane repair. -/
  act : Nat := 0
  busy : Bool := false
  /-- A retraining has failed since module reset (R365). -/
  failed : Bool := false
  spare : BitVec 8 := 16
  ppr : BitVec 8 := 0
  retrains : BitVec 32 := 0
  sentinels : Tbl Sentinel := []
  deriving DecidableEq, Repr

/-- Corrected errors of a location and whether it is lasting (R372). -/
structure EccRec where
  loc : EccLoc
  times : List Nat
  lasting : Bool
  deriving DecidableEq, Repr

/-- The package (R361 to R376). -/
structure Pack where
  regs : Tbl Regulator := []
  ballastEn : Bool := true
  fades : BitVec 32 := 0
  mpow : BitVec 16 := 0
  /-- Committed current that returns at a device time: time, regulator, current (R306). -/
  returns : List (Nat × Nat × Nat) := []
  /-- Regulator and current of the gangs that have ended in the present instant (R306, R370). -/
  rises : List (Nat × Nat) := []
  hbm : Tbl Stack := []
  /-- Frequent-row trackers by bank: row and count (R367). -/
  trackers : Tbl (List (Nat × Nat)) := []
  /-- Directed refreshes issued: bank and row, newest first. -/
  refreshed : List (Nat × Nat) := []
  distRadius : BitVec 2 := 1
  distThr : BitVec 16 := 1024
  evDesc : BitVec 56 := 0
  evLost : BitVec 32 := 0
  ecc : List EccRec := []
  linkFault : Bool := false
  linkRetries : BitVec 32 := 0
  shutdown : Bool := false
  deriving DecidableEq, Repr

/-- A transaction that the module sent on a port, oldest first: a posted write, a read or an AtomicOp request, or a
message (R382, R386, R390). -/
inductive PortOp where
  | write (bus : Nat) (len : Nat) (v : BitVec 1024)
  | read (bus : Nat) (len : Nat)
  | atomic (bus : Nat) (len : Nat) (op : Nat) (a b : BitVec 128)
  /-- MSI-X of a function: 0 the physical one, p + 1 that of partition p. -/
  | msix (fn vec : Nat)
  deriving DecidableEq, Repr

/-- The completion of an incoming request: its bytes, Unsupported Request, or poisoned data (R379, R385, R339). -/
inductive Reply where
  | data (b : List Byte)
  | unsupported
  | poisoned
  deriving DecidableEq, Repr

/-- The fabric (R378 to R393). -/
structure Fabric where
  /-- Transactions sent on the host port and the peer port. -/
  host : List PortOp := []
  peer : List PortOp := []
  /-- Outbound entries: valid, class, pmask and bus (R381). -/
  outbound : Tbl (Bool × Bool × BitVec 8 × BitVec 27) := []
  modNo : BitVec 4 := 0
  ctmo : BitVec 2 := 3
  gen0 : BitVec 4 := 0
  w0 : BitVec 5 := 0
  gen1 : BitVec 4 := 0
  w1 : BitVec 5 := 0
  tsync : Bool := false
  /-- Dialogues in step, dialogues failed, and whether one has set the time (R393). -/
  ptmGood : Nat := 0
  ptmBad : Nat := 0
  ptmSet : Bool := false
  /-- What device time has still to be slewed by, in ns (R393). -/
  slew : Int := 0
  /-- Wall time since the last dialogue, or since module reset, in ns (R393). -/
  sinceDialogue : Nat := 0
  pfMasked : List Nat := []
  pfPending : List Nat := []
  /-- Sizes of BAR 2 in GiB, by function as `State.barAddress` numbers them; the greatest where none is set (R379). -/
  bars : Tbl Nat := []
  /-- The completion sent for the last incoming read or AtomicOp (R379, R385). -/
  answer : Option Reply := none
  deriving DecidableEq, Repr

/-- The Vexeohan controller (R374, R375, R376). -/
structure Control where
  /-- The image has been started. -/
  booted : Bool := true
  recovery : Bool := false
  /-- Blocks accepted by the recovery mailbox, and the image that runs; `none` for the image in flash. -/
  blocks : List (List Byte) := []
  image : Option (List Byte) := none
  /-- The image in flash; `none` for the one of manufacture. -/
  flash : Option (List Byte) := none
  /-- Stacks whose training results stand in flash; the training at cold boot saves those of all (R363). -/
  saved : List Nat := List.range 8
  /-- SPDM connection: version, capabilities and algorithms negotiated, and the transcript of requests and answers. -/
  version : Bool := false
  caps : Bool := false
  algs : Bool := false
  transcript : List Byte := []
  /-- The requests and answers of GET_MEASUREMENTS since the last signed answer. -/
  measureLog : List Byte := []
  /-- The last answer of the responder. -/
  answer : List Byte := []
  deriving DecidableEq, Repr

/-- What an append of the device is for: the fault mailbox of a partition, the package event ring, a trace, the replay log or
the completion ring of a context (R213). -/
inductive DevUse where
  | mailbox (part : Nat)
  | event
  | trace
  | log (ctx : Nat)
  | completion (ctx : Nat)
  deriving DecidableEq, Repr

/-- An append of the device to a memory ring: its use, the die and the context whose page table it goes through (none where it
is physical), its partition, the descriptor, the record size code that the use requires, and the words of the record. -/
structure DevAppend where
  use : DevUse
  space : Option (Nat × Nat)
  part : Option Nat
  desc : Nat
  z : Nat
  words : List Nat
  deriving DecidableEq, Repr

/-! ### The module -/

/-- What happens next: a stream takes its turn (it fetches, issues and, if it can, retires its head); a stream only
issues its head; an event of the device; or device time passes. -/
inductive Act where
  | turn (core : Nat) (k : StreamId)
  | issue (core : Nat) (k : StreamId)
  /-- A turn in which the head takes, of the steps that others can see apart from one another (R22, R163), those of the
  given numbers. -/
  | part (core : Nat) (k : StreamId) (steps : List Nat)
  /-- The stream issues one more instruction behind its issued head (R25, R30). -/
  | ahead (core : Nat) (k : StreamId)
  /-- A turn whose `amon`, or whose write of a special register of core scope, is performed or seen later (R226, R263). -/
  | late (core : Nat) (k : StreamId)
  /-- The n-th pending request of a core is performed or seen. -/
  | land (core n : Nat)
  /-- An append of the device that waits at its ring has its turn (R213). -/
  | append
  | event (i : Instr) (a : EvArgs)
  | elapse (ns : Nat)
  deriving DecidableEq, Repr

/-- The state of the module. -/
structure State where
  /-- What is to happen, first things first; when it is empty, the stream `cur` takes a turn. -/
  agenda : List Act := []
  /-- The operands of the event that happens. -/
  ev : EvArgs := {}
  /-- The stream whose instruction executes. -/
  curCore : Nat := 0
  curK : StreamId := .L
  /-- The word of the instruction that executes, as the frame holds it; for a loop-nest record its opcode alone (R356). -/
  word : Nat := 0
  /-- The present turn only issues the head (R25): what `Act.issue` asks for. -/
  issueOnly : Bool := false
  /-- The steps that the present turn may take, where `Act.part` names them, and whether the turn is one of `Act.late`. -/
  chosen : Option (List Nat) := none
  late : Bool := false
  /-- During a turn: the instruction that runs is an expanded issue of the record at the head, and it has completed (R55). -/
  expanding : Bool := false
  expanded : Bool := false
  /-- Nanoseconds counted; device time is the 64 low bits (R4), `State.deviceTime`. -/
  time : Nat := 0
  /-- The number of free values taken so far: the model's own field. -/
  free : Nat := 0
  cores : Tbl Core := []
  clusters : Tbl Cluster := []
  dies : Tbl Die := []
  ctxs : Tbl Ctx := []
  parts : Tbl Part := []
  queues : Tbl Queue := []
  slices : Tbl Slice := []
  nextSlice : Nat := 0
  /-- DEV memory (R326): an unlisted byte reads zero. -/
  mem : List Host.Cell := []
  /-- Appends of the device that wait for another append to their ring, in order of arrival (R213). -/
  heldAppends : List DevAppend := []
  /-- Scanned frames: tag by 4 KiB frame number (R322). -/
  scanned : Tbl Nat := []
  /-- HBM rows (address divided by 128) that hold uncorrectable data (R339, R399). -/
  ue : List Nat := []
  /-- Control intervals that have begun; the one at time 0 begins with reset (R305). -/
  intervals : Nat := 1
  pack : Pack := {}
  fabric : Fabric := {}
  control : Control := {}
  deriving DecidableEq, Repr

/-- Why the machine stops with a fault. -/
inductive Fault where
  /-- Raised by nobody in a run that respects the manual: an agenda names a core, stream or unit that the module does
  not have. Safe: the machine stops. -/
  | noSuchAgent
  deriving DecidableEq, Repr

/-- Why the machine refuses a step. -/
inductive Refusal where
  /-- The instruction has no meaning in this model yet. Safe: the machine stops. -/
  | notModelled (mnemonic : String)
  /-- The word at the program counter is not one that the scanner accepts, so no rule gives it a meaning (R59, R60); the
  reason's code. Raised by `step`. Safe: the machine stops. -/
  | undecodable (reason : Nat)
  deriving DecidableEq, Repr

/-- The module right after module reset (R376). -/
def State.reset : State :=
  { clusters := (List.range 48).map fun i => (i, { reg := i / 12 }) }

end Sys2Proof.Machine
end

