-- ==== Sys2Proof/Machine/Ops.lean ====
section
/-! DEFINITION. The named operations over tables, bits, registers, tokens and memory. -/

namespace Sys2Proof.Machine

/-! ### Tables -/

/-- The entry of a key, or the default. -/
def tblGet {α : Type} (d : α) : Tbl α → Nat → α
  | [], _ => d
  | (j, w) :: rest, k => if j = k then w else tblGet d rest k

/-- The entry of a key, if listed. -/
def tblFind {α : Type} : Tbl α → Nat → Option α
  | [], _ => none
  | (j, w) :: rest, k => if j = k then some w else tblFind rest k

/-- Sets the entry of a key, in its place. -/
def tblSet {α : Type} : Tbl α → Nat → α → Tbl α
  | [], k, v => [(k, v)]
  | (j, w) :: rest, k, v =>
    if k < j then (k, v) :: (j, w) :: rest
    else if k = j then (k, v) :: rest
    else (j, w) :: tblSet rest k v

/-- Removes a key. -/
def tblDel {α : Type} (t : Tbl α) (k : Nat) : Tbl α := t.filter fun e => decide (e.1 ≠ k)

/-- Sets the entry of a key; an entry equal to the default is not listed. -/
def tblPut {α : Type} [DecidableEq α] (d : α) (t : Tbl α) (k : Nat) (v : α) : Tbl α :=
  if v = d then tblDel t k else tblSet t k v

/-- Changes every entry. -/
def tblMap {α β : Type} (t : Tbl α) (f : α → β) : Tbl β := t.map fun e => (e.1, f e.2)

/-- The canonical form: keys rise strictly, and no entry equals the default. -/
def tblWf {α : Type} [DecidableEq α] (d : α) (t : Tbl α) : Bool :=
  decide (t.Pairwise fun a b => a.1 < b.1) && t.all fun e => decide (e.2 ≠ d)

/-! ### Bits and bytes -/

/-- The `w` bits of a word from bit `lo` up, as a number. -/
def bits {n : Nat} (v : BitVec n) (lo w : Nat) : Nat := (v.toNat / 2 ^ lo) % 2 ^ w

/-- A field of a number replaced. -/
def setBits (n lo w v : Nat) : Nat := n / 2 ^ (lo + w) * 2 ^ (lo + w) + (v % 2 ^ w) * 2 ^ lo + n % 2 ^ lo

/-- The bytes of a number, the lowest first (R2). -/
def bytesOf (n : Nat) : Nat → List Byte
  | 0 => []
  | k + 1 => BitVec.ofNat 8 n :: bytesOf (n / 256) k

/-- The number that bytes hold, the first lowest (R2). -/
def ofBytes : List Byte → Nat
  | [] => 0
  | b :: rest => b.toNat + 256 * ofBytes rest

/-- Ceiling of a quotient. -/
def ceilDiv (a b : Nat) : Nat := (a + b - 1) / b

/-- The least multiple of `b` not below `a`. -/
def roundUp (a b : Nat) : Nat := ceilDiv a b * b

/-- The 64-bit word of a number. -/
def w64 (n : Nat) : W64 := BitVec.ofNat 64 n

/-- Device time: a 64-bit count of nanoseconds (R4). -/
def State.deviceTime (s : State) : W64 := w64 s.time

/-! ### DEV memory -/

/-- What an unlisted byte of DEV memory reads as. -/
def memDefault : Byte := 0

/-- One byte of memory. -/
def memRead (m : List Host.Cell) (a : Nat) : Byte := tblGet memDefault m a

/-- Writes one byte, keeping the canonical form. -/
def memWrite (m : List Host.Cell) (a : Nat) (b : Byte) : List Host.Cell := tblPut memDefault m a b

/-- The memory is in its canonical form. -/
abbrev Memory.wf (m : List Host.Cell) : Prop := tblWf memDefault m = true

/-- `n` bytes from `a` as a number (R2). -/
def memReadN (m : List Host.Cell) (a : Nat) : Nat → Nat
  | 0 => 0
  | n + 1 => (memRead m a).toNat + 256 * memReadN m (a + 1) n

/-- Writes the `n` low bytes of a number from `a` up (R2). -/
def memWriteN (m : List Host.Cell) (a : Nat) : Nat → Nat → List Host.Cell
  | 0, _ => m
  | n + 1, v => memWriteN (memWrite m a (BitVec.ofNat 8 v)) (a + 1) n (v / 256)

/-- Writes the bytes of a row whose mask bits are set (R254). -/
def memWriteMasked (m : List Host.Cell) (a : Nat) : Nat → Nat → Nat → List Host.Cell
  | 0, _, _ => m
  | n + 1, v, mask =>
    memWriteMasked (if mask % 2 = 1 then memWrite m a (BitVec.ofNat 8 v) else m) (a + 1) n (v / 256) (mask / 2)

/-- DEV memory ends at this address (R326). -/
def devTop : Nat := 0x8000000000

/-! ### Parts of the state -/

def State.core (s : State) (c : Nat) : Core := tblGet {} s.cores c
def State.setCore (s : State) (c : Nat) (v : Core) : State := { s with cores := tblSet s.cores c v }
def State.cluster (s : State) (i : Nat) : Cluster := tblGet {} s.clusters i
def State.setCluster (s : State) (i : Nat) (v : Cluster) : State := { s with clusters := tblSet s.clusters i v }
def State.die (s : State) (d : Nat) : Die := tblGet {} s.dies d
def State.setDie (s : State) (d : Nat) (v : Die) : State := { s with dies := tblSet s.dies d v }
def State.ctx (s : State) (x : Nat) : Ctx := tblGet {} s.ctxs x
def State.setCtx (s : State) (x : Nat) (v : Ctx) : State := { s with ctxs := tblSet s.ctxs x v }
def State.part (s : State) (p : Nat) : Part := tblGet {} s.parts p
def State.setPart (s : State) (p : Nat) (v : Part) : State := { s with parts := tblSet s.parts p v }
def State.queue (s : State) (q : Nat) : Queue := tblGet {} s.queues q
def State.setQueue (s : State) (q : Nat) (v : Queue) : State := { s with queues := tblSet s.queues q v }
def State.slice (s : State) (n : Nat) : Option Slice := tblFind s.slices n
def State.setSlice (s : State) (n : Nat) (v : Slice) : State := { s with slices := tblSet s.slices n v }

def Core.stream (c : Core) (k : StreamId) : Stream :=
  match k with
  | .L => c.l
  | .X => c.xs
  | .S => c.s
  | .K => c.k

def Core.setStream (c : Core) (k : StreamId) (v : Stream) : Core :=
  match k with
  | .L => { c with l := v }
  | .X => { c with xs := v }
  | .S => { c with s := v }
  | .K => { c with k := v }

/-- The four streams in the order of R334. -/
def allStreams : List StreamId := [.L, .X, .S, .K]

/-- A stream of a core. -/
def State.stream (s : State) (c : Nat) (k : StreamId) : Stream := (s.core c).stream k
def State.setStream (s : State) (c : Nat) (k : StreamId) (v : Stream) : State :=
  s.setCore c ((s.core c).setStream k v)

/-- The core and the stream whose instruction executes. -/
def State.cur (s : State) : Core := s.core s.curCore
def State.setCur (s : State) (v : Core) : State := s.setCore s.curCore v
def State.st (s : State) : Stream := s.cur.stream s.curK
def State.setSt (s : State) (v : Stream) : State := s.setCur (s.cur.setStream s.curK v)

/-- The cluster of a core (R5), and its cycle count. -/
def clusterOf (core : Nat) : Nat := core / 4
def State.cyclesOf (s : State) (core : Nat) : Nat := (s.cluster (clusterOf core)).cycles
def State.cyc (s : State) : Nat := s.cyclesOf s.curCore

/-- The slice bound to a core, and its context; a core with no slice reads context 0. -/
def State.sliceOf (s : State) (core : Nat) : Option Slice := (s.core core).slice.bind s.slice
def State.ctxOf (s : State) (core : Nat) : Nat :=
  match s.sliceOf core with
  | some v => v.ctx
  | none => 0
def State.curCtx (s : State) : Nat := s.ctxOf s.curCore
def State.curPart (s : State) : Nat := (s.ctx s.curCtx).part

/-- HANDLER level: the K stream of the handler core while a handler slice runs there (R33). -/
def State.isHandler (s : State) : Bool :=
  match s.sliceOf s.curCore with
  | some v => v.handler && (s.curK == .K)
  | none => false

/-! ### Scalar registers -/

/-- Reads a scalar register; x0 reads zero (R17). -/
def Stream.reg (st : Stream) (r : Reg) : W64 := if r = 0 then 0 else tblGet 0 st.x r.toNat

/-- Writes a scalar register; a write to x0 is discarded (R17). -/
def Stream.setReg (st : Stream) (r : Reg) (v : W64) : Stream :=
  if r = 0 then st else { st with x := tblPut 0 st.x r.toNat v }

/-- Reads and writes a scalar register of the executing stream. -/
def State.rx (s : State) (r : Reg) : W64 := s.st.reg r
def State.wx (s : State) (r : Reg) (v : W64) : State := s.setSt (s.st.setReg r v)

/-! ### Predicates -/

/-- All ones, the value of p0 (R19). -/
def predOnes : BitVec 2048 := BitVec.allOnes 2048

/-- Reads a predicate register; p0 reads all ones (R19). -/
def Core.pred (c : Core) (p : PReg) : BitVec 2048 := if p = 0 then predOnes else tblGet 0 c.preds p.toNat

/-- Writes a predicate register; a write to p0 is discarded (R19). -/
def Core.setPred (c : Core) (p : PReg) (v : BitVec 2048) : Core :=
  if p = 0 then c else { c with preds := tblPut 0 c.preds p.toNat v }

/-- The inversion and the predicate of a guard field (R21). -/
def guardInv (h : Head) : Bool := h.guard.getLsbD 3
def guardReg (h : Head) : PReg := h.guard.extractLsb' 0 3

/-- The guard of an instruction that is not lane by lane: bit 0 of its predicate (R21). -/
def State.guardBit (s : State) (h : Head) : Bool := xor ((s.cur.pred (guardReg h)).getLsbD 0) (guardInv h)

/-- The lane mask of a guard (R21). -/
def State.laneMask (s : State) (h : Head) : BitVec 2048 :=
  if guardInv h then ~~~ s.cur.pred (guardReg h) else s.cur.pred (guardReg h)

/-! ### Tokens -/

/-- The queues that a stream's token bits name: the queue its pop-prev and pop-next bits take from, and the queue its
push-prev and push-next bits add to (R23); 0 LX, 1 XL, 2 XS, 3 SX. -/
def popPrevQ (k : StreamId) : Option Nat :=
  match k with
  | .X => some 0
  | .S => some 2
  | _ => none
def popNextQ (k : StreamId) : Option Nat :=
  match k with
  | .L => some 1
  | .X => some 3
  | _ => none
def pushPrevQ (k : StreamId) : Option Nat :=
  match k with
  | .X => some 1
  | .S => some 3
  | _ => none
def pushNextQ (k : StreamId) : Option Nat :=
  match k with
  | .L => some 0
  | .X => some 2
  | _ => none

/-- A queue named by a set token bit. -/
def tokBit (h : Head) (b : Nat) (q : Option Nat) : List Nat :=
  if h.tok.getLsbD b then q.toList else []

/-- The queues that a head pops, and those it pushes (R23). -/
def popQueues (k : StreamId) (h : Head) : List Nat := tokBit h 3 (popPrevQ k) ++ tokBit h 2 (popNextQ k)
def pushQueues (k : StreamId) (h : Head) : List Nat := tokBit h 1 (pushPrevQ k) ++ tokBit h 0 (pushNextQ k)

/-- Tokens present in a queue of a core (R23). -/
def Core.tokens (c : Core) (q : Nat) : Nat := tblGet 0 c.tokq q

def Core.addTokens (c : Core) (q n : Nat) : Core := { c with tokq := tblPut 0 c.tokq q (c.tokens q + n) }
def Core.takeTokens (c : Core) (q n : Nat) : Core := { c with tokq := tblPut 0 c.tokq q (c.tokens q - n) }

/-- The depth of a token queue (R25). -/
def tokenDepth : Nat := 16

/-- The mask of a list of queues. -/
def queueMask (qs : List Nat) : Nat := (qs.map fun q => 2 ^ q).sum

/-- `%tokq` (R34). -/
def Core.tokqWord (c : Core) : Nat :=
  c.tokens 0 + 2 ^ 8 * c.tokens 1 + 2 ^ 16 * c.tokens 2 + 2 ^ 24 * c.tokens 3

end Sys2Proof.Machine
end

