-- ==== Sys2Proof/Machine/Flags.lean ====
section
/-! DEFINITION. Numbers of the element types, exact arithmetic on them, rounding, and the flags each step raises (R71 to
R88). -/

namespace Sys2Proof.Machine

/-- Flags in the layout of `%status` [5:0] (R35). -/
abbrev FlagSet := BitVec 6

def flagNv : FlagSet := 0x10
def flagDz : FlagSet := 0x08
def flagOf : FlagSet := 0x04
def flagUf : FlagSet := 0x02
def flagNx : FlagSet := 0x01

/-- The flag where a condition holds. -/
def flagIf (c : Bool) (f : FlagSet) : FlagSet := if c then f else 0

/-! ### Formats (R71, R73) -/

/-- A floating-point format: exponent bits, mantissa bits, bias, infinities, magnitude pattern of the largest finite
value, and the default NaN (R73, R76). -/
structure Fmt where
  ebits : Nat
  mbits : Nat
  bias : Nat
  hasInf : Bool
  maxMag : Nat
  nan : Nat
  deriving DecidableEq, Repr

/-- The format of a floating type; integer types have none (R73). -/
def fmtOf : ElemTy → Option Fmt
  | .f32 => some ⟨8, 23, 127, true, 0x7F7FFFFF, 0x7FC00000⟩
  | .f16 => some ⟨5, 10, 15, true, 0x7BFF, 0x7E00⟩
  | .bf16 => some ⟨8, 7, 127, true, 0x7F7F, 0x7FC0⟩
  | .e5m2 => some ⟨5, 2, 15, true, 0x7B, 0x7E⟩
  | .e4m3 => some ⟨4, 3, 7, false, 0x7E, 0x7F⟩
  | .e2m1 => some ⟨2, 1, 1, false, 0x7, 0x0⟩
  | _ => none

def f32Fmt : Fmt := ⟨8, 23, 127, true, 0x7F7FFFFF, 0x7FC00000⟩

/-- The width of a format. -/
def Fmt.width (f : Fmt) : Nat := 1 + f.ebits + f.mbits

/-- The smallest normal's exponent. -/
def Fmt.emin (f : Fmt) : Int := 1 - (f.bias : Int)

/-- The type is a signed integer type. -/
def isSigned : ElemTy → Bool
  | .i4 | .i8 | .i16 | .i32 | .i64 => true
  | _ => false

/-- An integer element's value (R71). -/
def intValue (t : ElemTy) (v : Nat) : Int :=
  if isSigned t && decide (2 ^ (t.width - 1) ≤ v) then (v : Int) - 2 ^ t.width else v

/-- Least and greatest value of an integer type (R71). -/
def intMin (t : ElemTy) : Int := if isSigned t then -(2 ^ (t.width - 1)) else 0
def intMax (t : ElemTy) : Int := if isSigned t then 2 ^ (t.width - 1) - 1 else 2 ^ t.width - 1

/-- `sat(x, type)` for an integer type (R9). -/
def satInt (t : ElemTy) (x : Int) : Int := max (intMin t) (min (intMax t) x)

/-- The pattern of an integer modulo 2^w (R137). -/
def intPattern (t : ElemTy) (x : Int) : Nat := (x % 2 ^ t.width).toNat

/-! ### Numbers -/

/-- The value of a floating pattern (R74, R76): a NaN, signalling or quiet, an infinity, or (−1)^neg × n × 2^e. -/
inductive Num where
  | nan (sig : Bool)
  | inf (neg : Bool)
  | fin (neg : Bool) (n : Nat) (e : Int)
  deriving DecidableEq, Repr

/-- The value of a pattern of a format (R74). -/
def Fmt.value (f : Fmt) (v : Nat) : Num :=
  let m := v % 2 ^ f.mbits
  let e := v / 2 ^ f.mbits % 2 ^ f.ebits
  let neg := v / 2 ^ (f.ebits + f.mbits) % 2 == 1
  let ones := 2 ^ f.ebits - 1
  if e = 0 then .fin neg m (f.emin - f.mbits)
  else if e = ones ∧ f.hasInf then
    if m = 0 then .inf neg else .nan (decide (m < 2 ^ (f.mbits - 1)))
  else if f.hasInf = false ∧ f.nan ≠ 0 ∧ v % 2 ^ (f.ebits + f.mbits) = f.nan then .nan false
  else .fin neg (2 ^ f.mbits + m) ((e : Int) - f.bias - f.mbits)

/-- The value of an element of any type. -/
def valueOf (t : ElemTy) (v : Nat) : Num :=
  match fmtOf t with
  | some f => f.value v
  | none => let x := intValue t v; .fin (decide (x < 0)) x.natAbs 0

def Num.isNan : Num → Bool
  | .nan _ => true
  | _ => false
def Num.isSig : Num → Bool
  | .nan s => s
  | _ => false

/-- An exact result: (−1)^neg × (n + d) × 2^e with 0 < d < 1 where `sticky`, and d = 0 else. -/
inductive Exact where
  | nan
  | inf (neg : Bool)
  | fin (neg : Bool) (n : Nat) (e : Int) (sticky : Bool)
  deriving DecidableEq, Repr

/-- A number as a result. -/
def Num.exact : Num → Exact
  | .nan _ => .nan
  | .inf s => .inf s
  | .fin s n e => .fin s n e false

/-! ### Rounding (R77, R78) -/

inductive Mode where
  | rne | rz | rmi | rpi
  /-- Stochastic, with bits [63:32] of the lane's hash (R78). -/
  | rs (h : Nat)
  deriving DecidableEq, Repr

/-- Whether a magnitude between two neighbours goes to the upper one: `rem` + d of 2^k parts, d as in `Exact` (R77). -/
def roundsUp (mode : Mode) (neg : Bool) (q rem k : Nat) (sticky : Bool) : Bool :=
  let half := 2 ^ k / 2
  match mode with
  | .rne => decide (half < rem) || (rem == half && (sticky || q % 2 == 1))
  | .rz => false
  | .rmi => neg
  | .rpi => !neg
  | .rs h => decide (h < rem * 2 ^ 32 / 2 ^ k)

/-- A magnitude (n + d) × 2^e on the grid of multiples of 2^g: the multiple it rounds to and whether it was inexact. -/
def roundGrid (mode : Mode) (neg : Bool) (n : Nat) (e : Int) (sticky : Bool) (g : Int) : Nat × Bool :=
  if g ≤ e then (n * 2 ^ (e - g).toNat, sticky)
  else
    let k := (g - e).toNat
    let q := n / 2 ^ k
    let rem := n % 2 ^ k
    let inexact := rem != 0 || sticky
    (if inexact && roundsUp mode neg q rem k sticky then q + 1 else q, inexact)

/-- What an overflow gives: whether the result is infinite (R77 step 3). -/
def overflowInf (f : Fmt) (mode : Mode) (neg sat : Bool) : Bool :=
  if sat || !f.hasInf then false
  else
    match mode with
    | .rne => true
    | .rmi => neg
    | .rpi => !neg
    | _ => false

/-- The pattern of an infinity. -/
def Fmt.infMag (f : Fmt) : Nat := (2 ^ f.ebits - 1) * 2 ^ f.mbits

/-- A magnitude with its sign. -/
def Fmt.signed (f : Fmt) (neg : Bool) (mag : Nat) : Nat := mag + if neg then 2 ^ (f.ebits + f.mbits) else 0

/-- `round(x, mode)` of a finite non-zero x, with its flags (R77, R80). -/
def Fmt.roundFin (f : Fmt) (mode : Mode) (sat neg : Bool) (n : Nat) (e : Int) (sticky : Bool) : Nat × FlagSet :=
  let top : Int := (Nat.log2 n : Int) + e
  let g : Int := max top f.emin - f.mbits
  let (q, inexact) := roundGrid mode neg n e sticky g
  let mag := q + ((g + f.mbits + f.bias).toNat - 1) * 2 ^ f.mbits
  if f.maxMag < mag then
    (f.signed neg (if overflowInf f mode neg sat then f.infMag else f.maxMag), flagOf ||| flagNx)
  else
    let tiny :=
      if f.emin ≤ top then false
      else
        match mode with
        | .rs _ => true
        | _ =>
          if top + 1 < f.emin then true
          else (roundGrid mode neg n e sticky (top - f.mbits)).1 != 2 ^ (f.mbits + 1)
    (f.signed neg mag, flagIf inexact flagNx ||| flagIf (inexact && tiny) flagUf)

/-- A result written into a format: NaNs as the default NaN, infinities by R77, finite values rounded. A NaN into E2M1 is
0 with nv (R80, R81). -/
def Fmt.pack (f : Fmt) (mode : Mode) (sat : Bool) (x : Exact) : Nat × FlagSet :=
  match x with
  | .nan => (f.nan, flagIf (f.nan == 0) flagNv)
  | .inf s => if sat || !f.hasInf then (f.signed s f.maxMag, flagNv) else (f.signed s f.infMag, 0)
  | .fin s n e sticky =>
    if n = 0 ∧ sticky = false then (f.signed s 0, 0)
    else f.roundFin mode sat s n e sticky

/-- A result into a type's format, with the flags of the operation that gave it. -/
def packTy (t : ElemTy) (mode : Mode) (sat : Bool) (r : Exact × FlagSet) : Nat × FlagSet :=
  let (v, fl) := ((fmtOf t).getD f32Fmt).pack mode sat r.1
  (v, fl ||| r.2)

/-! ### Exact operations (R75, R76, R80, R137) -/

/-- nv for a signalling operand. -/
def sigFlag (xs : List Num) : FlagSet := flagIf (xs.any Num.isSig) flagNv

/-- A signed count of 2^e as a result; zero takes the given sign. -/
def exactOf (z : Int) (e : Int) (zeroNeg : Bool) : Exact :=
  if z = 0 then .fin zeroNeg 0 0 false else .fin (decide (z < 0)) z.natAbs e false

def signedInt (neg : Bool) (n : Nat) : Int := if neg then -(n : Int) else n

/-- The exact sum of two finite values (R75). -/
def sumFin (s1 : Bool) (n1 : Nat) (e1 : Int) (s2 : Bool) (n2 : Nat) (e2 : Int) : Exact :=
  let e := min e1 e2
  let z := signedInt s1 (n1 * 2 ^ (e1 - e).toNat) + signedInt s2 (n2 * 2 ^ (e2 - e).toNat)
  exactOf z e (s1 && s2 && n1 == 0 && n2 == 0)

def Num.neg : Num → Num
  | .nan s => .nan s
  | .inf s => .inf !s
  | .fin s n e => .fin (!s) n e

/-- a + b. -/
def Num.add (a b : Num) : Exact × FlagSet :=
  match a, b with
  | .nan _, _ | _, .nan _ => (.nan, sigFlag [a, b])
  | .inf s, .inf t => if s = t then (.inf s, 0) else (.nan, flagNv)
  | .inf s, _ => (.inf s, 0)
  | _, .inf s => (.inf s, 0)
  | .fin s n e, .fin t m k => (sumFin s n e t m k, 0)

/-- a × b as a number; a NaN product that no operand brought is 0 × ∞. -/
def Num.mulNum (a b : Num) : Num × FlagSet :=
  match a, b with
  | .nan _, _ | _, .nan _ => (.nan false, sigFlag [a, b])
  | .inf s, .inf t => (.inf (xor s t), 0)
  | .inf s, .fin t m _ => if m = 0 then (.nan false, flagNv) else (.inf (xor s t), 0)
  | .fin t m _, .inf s => if m = 0 then (.nan false, flagNv) else (.inf (xor s t), 0)
  | .fin s n e, .fin t m k => (.fin (xor s t) (n * m) (e + k), 0)

/-- a × b. -/
def Num.mul (a b : Num) : Exact × FlagSet :=
  let (p, fl) := a.mulNum b
  (p.exact, fl)

/-- a × b + c with one rounding; 0 × ∞ raises nv whatever c is (R137). -/
def Num.fma (a b c : Num) : Exact × FlagSet :=
  let (p, fl) := a.mulNum b
  let (r, fl2) := p.add c
  (r, fl ||| fl2)

/-- A quotient of positive numbers with at least 80 bits. -/
def quotient (n m : Nat) : Nat × Int × Bool :=
  let k := 80 + Nat.log2 m
  (n * 2 ^ k / m, -(k : Int), n * 2 ^ k % m != 0)

/-- a / b (R80). -/
def Num.div (a b : Num) : Exact × FlagSet :=
  match a, b with
  | .nan _, _ | _, .nan _ => (.nan, sigFlag [a, b])
  | .inf _, .inf _ => (.nan, flagNv)
  | .inf s, .fin t _ _ => (.inf (xor s t), 0)
  | .fin s _ _, .inf t => (.fin (xor s t) 0 0 false, 0)
  | .fin s n e, .fin t m k =>
    if m = 0 then if n = 0 then (.nan, flagNv) else (.inf (xor s t), flagDz)
    else if n = 0 then (.fin (xor s t) 0 0 false, 0)
    else
      let (q, j, sticky) := quotient n m
      (.fin (xor s t) q (e - k + j) sticky, 0)

/-! ### Order (R82, R142, R148) -/

/-- a < b for numbers that are no NaN, with −0 = +0. -/
def Num.lt (a b : Num) : Bool :=
  match a, b with
  | .nan _, _ | _, .nan _ => false
  | .inf s, .inf t => s && !t
  | .inf s, _ => s
  | _, .inf t => !t
  | .fin s n e, .fin t m k =>
    let j := min e k
    decide (signedInt s (n * 2 ^ (e - j).toNat) < signedInt t (m * 2 ^ (k - j).toNat))

def Num.isNeg : Num → Bool
  | .nan _ => false
  | .inf s => s
  | .fin s _ _ => s

def Num.isZero : Num → Bool
  | .fin _ n _ => n == 0
  | _ => false

/-- a = b, with −0 = +0; false for NaNs. -/
def Num.eq (a b : Num) : Bool := !a.isNan && !b.isNan && !a.lt b && !b.lt a

/-- a < b with −0 below +0 (R82). -/
def Num.ltz (a b : Num) : Bool := a.lt b || (a.isZero && b.isZero && a.isNeg && !b.isNeg)

/-- The minimum and maximum family on patterns of a type (R82): `max'` chooses the greater, `num` ignores quiet NaNs. -/
def minMax (t : ElemTy) (max' num : Bool) (x y : Nat) : Nat × FlagSet :=
  match fmtOf t with
  | none =>
    let le := decide (intValue t x ≤ intValue t y)
    (if xor le max' then x else y, 0)
  | some f =>
    let a := f.value x
    let b := f.value y
    if a.isSig || b.isSig then (f.nan, flagNv)
    else if a.isNan && b.isNan then (f.nan, 0)
    else if a.isNan then (if num then y else f.nan, 0)
    else if b.isNan then (if num then x else f.nan, 0)
    else (if xor (b.ltz a) max' then y else x, 0)

/-! ### Conversions (R81, R145) -/

/-- A finite value rounded to an integer, and whether that was inexact. -/
def roundInt (mode : Mode) (neg : Bool) (n : Nat) (e : Int) : Int × Bool :=
  let (q, inexact) := roundGrid mode neg n e false 0
  (signedInt neg q, inexact)

/-- A number into an integer type (R81). -/
def toIntTy (t : ElemTy) (mode : Mode) (x : Num) : Nat × FlagSet :=
  match x with
  | .nan _ => (0, flagNv)
  | .inf s => (intPattern t (if s then intMin t else intMax t), flagNv)
  | .fin s n e =>
    let (z, inexact) := roundInt mode s n e
    if z < intMin t ∨ intMax t < z then (intPattern t (satInt t z), flagNv)
    else (intPattern t z, flagIf inexact flagNx)

/-- A conversion from one element type to another (R81). -/
def convert (src dst : ElemTy) (mode : Mode) (sat : Bool) (v : Nat) : Nat × FlagSet :=
  match fmtOf src, fmtOf dst with
  | none, none => (intPattern dst (satInt dst (intValue src v)), 0)
  | some f, none => toIntTy dst mode (f.value v)
  | none, some g => g.pack mode sat (valueOf src v).exact
  | some f, some g =>
    let x := f.value v
    let (r, fl) := g.pack mode sat x.exact
    (r, fl ||| sigFlag [x])

/-- `vround`: the integral value in the same format; zeros keep the operand's sign (R141). -/
def roundIntegral (f : Fmt) (mode : Mode) (v : Nat) : Nat × FlagSet :=
  match f.value v with
  | .nan sig => (f.nan, flagIf sig flagNv)
  | .inf _ => (v, 0)
  | .fin s n e =>
    let q := (roundGrid mode s n e false 0).1
    ((f.pack mode false (.fin s q 0 false)).1, 0)

/-! ### FP32 steps (R83 to R86) -/

/-- One FP32 addition or product under RNE, on patterns. -/
def add32 (a b : Nat) : Nat × FlagSet := packTy .f32 .rne false ((f32Fmt.value a).add (f32Fmt.value b))
def mul32 (a b : Nat) : Nat × FlagSet := packTy .f32 .rne false ((f32Fmt.value a).mul (f32Fmt.value b))

/-- The tree sum of R85 in FP32, on a list of patterns; `fuel` bounds its depth. -/
def tree32 : Nat → List Nat → Nat × FlagSet
  | _, [] => (0, 0)
  | _, [a] => (a, 0)
  | 0, _ => (0, 0)
  | fuel + 1, l =>
    let h := 2 ^ Nat.log2 (l.length - 1)
    let (a, fa) := tree32 fuel (l.take h)
    let (b, fb) := tree32 fuel (l.drop h)
    let (r, fr) := add32 a b
    (r, fa ||| fb ||| fr)

/-- A floating element widened to FP32, which is exact; a signalling NaN raises nv (R76, R85). -/
def widen32 (t : ElemTy) (v : Nat) : Nat × FlagSet := convert t .f32 .rne false v

/-- The sum of R85 of elements of a type: the elements widened, summed by the tree, and converted. -/
def treeSum (t : ElemTy) (mode : Mode) (l : List Nat) : Nat × FlagSet :=
  match fmtOf t with
  | none => (intPattern t (satInt t ((l.map (intValue t)).sum)), 0)
  | some _ =>
    let ws := l.map (widen32 t)
    let (r, fl) := tree32 12 (ws.map Prod.fst)
    let (v, fl') := convert .f32 t mode false r
    (v, (ws.map Prod.snd).foldl (· ||| ·) (fl ||| fl'))

/-- One pass of the scan of R86 at distance `d`. -/
def scanPass (add : Nat → Nat → Nat × FlagSet) (d : Nat) (s : List Nat) : List (Nat × FlagSet) :=
  s.zipIdx.map fun e => if e.2 < d then (e.1, 0) else add (s.getD (e.2 - d) 0) e.1

/-- The inclusive prefix sums of R86: `fuel` passes, at distances 1, 2, 4, … -/
def scanAll (add : Nat → Nat → Nat × FlagSet) : Nat → Nat → List Nat → List Nat × FlagSet
  | 0, _, s => (s, 0)
  | fuel + 1, d, s =>
    if s.length ≤ d then (s, 0)
    else
      let r := scanPass add d s
      let (t, fl) := scanAll add fuel (2 * d) (r.map Prod.fst)
      (t, (r.map Prod.snd).foldl (· ||| ·) fl)

/-! ### `%amax` (R88) -/

/-- The update of `%amax` by one source value. -/
def amaxUpdate (amax : W64) (x : Num) : W64 :=
  match x with
  | .nan _ => amax ||| 0x100000000
  | _ =>
    let mag : Exact :=
      match x with
      | .inf _ => .inf false
      | .fin _ n e => .fin false n e false
      | .nan _ => .nan
    let m := (f32Fmt.pack .rpi false mag).1 % 2 ^ 31
    if bits amax 0 31 < m then w64 (setBits amax.toNat 0 32 m) else amax

end Sys2Proof.Machine
end

