-- ==== Sys2Proof/Machine/Mem.lean ====
section
/-! DEFINITION. Homes, the L1 data cache, page tables and the accesses of a stream to memory. -/

namespace Sys2Proof.Machine

/-! ### Effects -/

/-- How an instruction that has taken its effect goes on: at the next PC of R15, at a target, nowhere (it ended its stream's
part of the slice), or as the same head (a loop-nest record with issues left). -/
inductive Flow where
  | next
  | jump (pc : PcWord)
  | last
  | stay
  deriving DecidableEq, Repr

/-- The outcome of an operation of a stream: done with a value; a trap, with the state of the steps already taken; a wait;
requests to links whose completions it needs; or a pause, since the turn may take no further step. -/
inductive Res (α : Type) where
  | ok (s : State) (a : α)
  | trap (s : State) (t : Trap)
  | wait (s : State) (k : WaitKind) (limit : Nat)
  | req (s : State) (os : List Outbound)
  | pause (s : State)

/-- An operation of the executing stream. -/
abbrev Op (α : Type) := State → Res α

def opPure {α : Type} (a : α) : Op α := fun s => .ok s a

/-- One operation after another. -/
def opBind {α β : Type} (m : Op α) (f : α → Op β) : Op β := fun s =>
  match m s with
  | .ok s' a => f a s'
  | .trap s' t => .trap s' t
  | .wait s' k l => .wait s' k l
  | .req s' os => .req s' os
  | .pause s' => .pause s'

/-- An operation for each element of a list, in order. -/
def opEach {α : Type} (f : α → Op Unit) : List α → Op Unit
  | [] => opPure ()
  | a :: rest => opBind (f a) fun _ => opEach f rest

/-- The values of an operation for each element of a list, in order. -/
def opMap {α β : Type} (f : α → Op β) : List α → Op (List β)
  | [] => opPure []
  | a :: rest => opBind (f a) fun b => opBind (opMap f rest) fun bs => opPure (b :: bs)

/-- A change of the state. -/
def opMod (f : State → State) : Op Unit := fun s => .ok (f s) ()

/-- A value of the state. -/
def opGet {α : Type} (f : State → α) : Op α := fun s => .ok s (f s)

/-- A trap of the executing stream. -/
def opTrap {α : Type} (t : Trap) : Op α := fun s => .trap s t

/-! ### Steps

A head that goes on after a wait performs its effect again from the beginning. What it has done stands in its notes, by the
number of the step: a step that has been taken gives what it gave, and is not taken again. Each step has four notes: its value,
and up to three parts that it needs before (a translation, a completion). -/

/-- The key of a part of the present step; part 0 is the step's value. -/
def State.noteKey (s : State) (j : Nat) : Nat := 4 * s.st.noteIdx + j

/-- Notes a value. -/
def State.note (s : State) (key : Nat) (v : Note) : State := s.setSt { s.st with notes := tblSet s.st.notes key v }

/-- The number of a note. -/
def Note.value : Note → Nat
  | .num n => n
  | _ => 0

/-- A step: its value as noted, or taken now. -/
def opStep (f : Op Nat) : Op Nat := fun s =>
  let key := s.noteKey 0
  match tblFind s.st.notes key with
  | some v => .ok (s.setSt { s.st with noteIdx := s.st.noteIdx + 1 }) v.value
  | none =>
    match f s with
    | .ok s' v => .ok ((s'.note key (.num v)).setSt { (s'.note key (.num v)).st with noteIdx := s'.st.noteIdx + 1 }) v
    | r => r

/-- A change of the state, made once. -/
def opOnce (f : State → State) : Op Unit := opBind (opStep fun s => .ok (f s) 0) fun _ => opPure ()

/-- A part of the present step, such as its translation. -/
def opPart (j : Nat) (f : Op Note) : Op Note := fun s =>
  let key := s.noteKey j
  match tblFind s.st.notes key with
  | some v => .ok s v
  | none =>
    match f s with
    | .ok s' v => .ok (s'.note key v) v
    | r => r

/-- The present turn may take a step (R22, R163). -/
def State.mayTake (s : State) (i : Nat) : Bool :=
  match s.chosen with
  | none => true
  | some l => l.contains i

/-- A step that others can see apart from the head's other steps. -/
def opAccess (f : Op Nat) : Op Nat := fun s =>
  if (tblFind s.st.notes (s.noteKey 0)).isSome || s.mayTake s.st.noteIdx then opStep f s else .pause s

/-- Takes the steps of a group that the turn may take; whether all have been taken. A step that pauses comes later. -/
def opGroupRun : List (Op Nat) → Op Bool
  | [] => opPure true
  | f :: rest => fun s =>
    let i := s.st.noteIdx
    let skip (s : State) : Res Bool := opBind (opGroupRun rest) (fun _ => opPure false) (s.setSt { s.st with noteIdx := i + 1 })
    if (tblFind s.st.notes (s.noteKey 0)).isSome || s.mayTake i then
      match opStep f s with
      | .ok s' _ => opGroupRun rest s'
      | .pause s' => skip s'
      | .trap s' t => .trap s' t
      | .wait s' k l => .wait s' k l
      | .req s' os => .req s' os
    else skip s

/-- Steps that are taken in no order among themselves: their values. -/
def opGroup (fs : List (Op Nat)) : Op (List Nat) := fun s =>
  let i := s.st.noteIdx
  match opGroupRun fs s with
  | .ok s' true => .ok s' ((List.range fs.length).map fun j => ((tblFind s'.st.notes (4 * (i + j))).getD (.num 0)).value)
  | .ok s' false => .pause s'
  | .trap s' t => .trap s' t
  | .wait s' k l => .wait s' k l
  | .req s' os => .req s' os
  | .pause s' => .pause s'

/-- The head takes a step that no stop undoes (R330). -/
def State.setFirm (s : State) : State := s.setSt { s.st with firm := true }

/-- A pause in steps of which some have been taken that no stop undoes. -/
def firmly {α : Type} (m : Op α) : Op α := fun s =>
  match m s with
  | .pause s' => .pause s'.setFirm
  | r => r

/-- MEM_PARAM with its check (R222, R269, R387). -/
def memParam (check : Nat) (v : Nat) : Trap := { code := .memParam, faddr := w64 v, detail := check }

/-! ### Rows -/

/-- Eight bits for each of `n` mask bits. -/
def byteMask : Nat → Nat → Nat
  | 0, _ => 0
  | n + 1, m => (if m % 2 = 1 then 255 else 0) + 256 * byteMask n (m / 2)

/-- The new bytes where the mask is set, the old bytes elsewhere. -/
def mergeBytes (n old new mask : Nat) : Nat :=
  let bm := byteMask n mask
  (old - (old &&& bm)) + (new &&& bm)

/-- The mask of `len` bytes from offset `off`. -/
def spanMask (off len : Nat) : Nat := (2 ^ len - 1) * 2 ^ off

/-! ### Homes (R326, R327) -/

def homeDie (pa : Nat) : Nat := pa / 2 ^ 38 % 2

/-- The home slice in SHARED mode (R326). -/
def homeSlice (pa : Nat) : Nat :=
  let f (lo w : Nat) : Nat := pa / 2 ^ lo % 2 ^ w
  f 7 5 ^^^ f 12 5 ^^^ f 17 5 ^^^ f 22 5 ^^^ f 27 5 ^^^ f 32 5 ^^^ f 37 1

/-- The slice mask of a partition on a die (R327). -/
def Part.smap (p : Part) (d : Nat) : Nat := if d = 0 then p.smap0.toNat else p.smap1.toNat

/-- The set bits of a mask of `n` bits, lowest first. -/
def setBitsOf (n mask : Nat) : List Nat := (List.range n).filter fun i => mask.testBit i

/-- The scope-mask bit of the home slice of an address, for an agent of a partition (R326, R327). -/
def State.sliceBit (s : State) (p : Nat) (pa : Nat) : Nat :=
  let d := homeDie pa
  if (s.die d).split then
    let l := setBitsOf 32 ((s.part p).smap d)
    32 * d + l.getD (homeSlice pa % l.length) 0
  else 32 * d + homeSlice pa

/-- The key of a partition's dirty row in SPLIT mode. -/
def l2Key (p row : Nat) : Nat := p * 2 ^ 48 + row

/-- The rows of L2 on a die: 128 MiB (R1). -/
def l2Rows : Nat := 2 ^ 20

/-- A row as its home serves it to a partition's agents, or, with `none`, to accesses that bypass L2 (R327). -/
def State.homeRow (s : State) (p : Option Nat) (row : Nat) : Nat :=
  let m := memReadN s.mem (row * 128) 128
  match p with
  | some p =>
    if (s.die (homeDie (row * 128))).split then
      match tblFind (s.die (homeDie (row * 128))).l2 (l2Key p row) with
      | some (v, mask) => mergeBytes 128 m v.toNat mask.toNat
      | none => m
    else m
  | none => m

/-- The row holds uncorrectable data (R339, R365). -/
def State.rowBad (s : State) (row : Nat) : Bool :=
  s.ue.contains row ||
    (tblGet {} s.pack.hbm (4 * homeDie (row * 128) + Config.stackOf row % 4)).failed

/-- Every byte of a row stands dirty in the L2 of a partition's agents (R327). -/
def State.rowCovered (s : State) (p row : Nat) : Bool :=
  match tblFind (s.die (homeDie (row * 128))).l2 (l2Key p row) with
  | some (_, mask) => mask == BitVec.allOnes 128
  | none => false

/-- A row read by an agent of a partition comes back uncorrectable: its line in L2 is, or what the line does not cover of the
row in HBM (R339, R372, R399). -/
def State.homeBad (s : State) (p : Option Nat) (row : Nat) : Bool :=
  match p with
  | some p => (s.rowBad row && !s.rowCovered p row) || (s.die (homeDie (row * 128))).l2ue.contains (l2Key p row)
  | none => s.rowBad row

/-- The monitors of a row take an event, the first that arrives staying; before the `mwait` has issued only a write stays
pending (R268). -/
def Monitor.hit (row ev : Nat) (m : Monitor) : Monitor :=
  if m.row = row ∧ m.event = none ∧ (ev = 0 ∨ m.waiting) then { m with event := some ev } else m

/-- An event of a row arrives at its home slice. In SPLIT mode that slice serves the agents of one partition, whose monitors of the
row alone take the event; an access that bypasses L2 reaches none (R268, R327). -/
def State.monitorEvent (s : State) (p : Option Nat) (row ev : Nat) : State :=
  let one := (s.die (homeDie (row * 128))).split
  let hit (m : Monitor) : Monitor := if one ∧ p ≠ some (s.ctx (s.ctxOf m.core)).part then m else m.hit row ev
  { s with clusters := tblMap s.clusters fun c => { c with monitors := c.monitors.map hit } }

/-- A write performed to a 4 KiB frame ends its executable state (R62, R322), and marks the scans that have read it
(R323). -/
def State.frameWritten (s : State) (frame : Nat) : State :=
  let mark (r : ScanReq) : ScanReq :=
    match r.changed, r.frames.findIdx? (fun f => f.1 == frame) with
    | none, some i => { r with changed := some i }
    | some j, some i => { r with changed := some (min i j) }
    | _, none => r
  let drop (g : FetchGroup) : FetchGroup := { g with frames := g.frames.filter fun f => f.2.pa / 4096 != frame }
  { s with
    scanned := tblDel s.scanned frame
    ctxs := tblMap s.ctxs fun c => { c with scans := c.scans.map mark }
    clusters := tblMap s.clusters fun c => { c with groups := c.groups.map drop } }

/-- A line of L2 in SPLIT mode is written back and leaves: where every byte of it is dirty, the row gets fresh check bits
(R268, R327, R399). -/
def State.l2Evict (s : State) (d key : Nat) : State :=
  let s := s.monitorEvent (some (key / 2 ^ 48)) (key % 2 ^ 48) 1
  match tblFind (s.die d).l2 key with
  | none => s.setDie d { s.die d with l2ue := (s.die d).l2ue.filter (· != key) }
  | some (v, mask) =>
    let row := key % 2 ^ 48
    let bad := (s.die d).l2ue.contains key
    let s := { s with mem := memWriteMasked s.mem (row * 128) 128 v.toNat mask.toNat }
    let s :=
      if bad then { s with ue := if s.ue.contains row then s.ue else s.ue ++ [row] }
      else if mask = BitVec.allOnes 128 then { s with ue := s.ue.filter (· != row) }
      else s
    s.setDie d { s.die d with l2 := tblDel (s.die d).l2 key, l2ue := (s.die d).l2ue.filter (· != key) }

/-- The lines of L2 that a die holds, or has lost, whose keys satisfy a test leave. -/
def State.l2EvictAll (s : State) (d : Nat) (f : Nat → Bool) : State :=
  (((s.die d).l2.map Prod.fst ++ (s.die d).l2ue).filter f).foldl (fun s key => s.l2Evict d key) s

/-- Room for one more line in a die's L2: a line that it holds leaves, and the manual does not say which (R1). -/
def State.l2Room (s : State) (d : Nat) : State :=
  let l := (s.die d).l2
  if l.length < l2Rows then s
  else
    match l[(Config.freeWord s.free).toNat % l.length]? with
    | some (key, _) => ({ s with free := s.free + 1 } : State).l2Evict d key
    | none => s

/-- Writes the masked bytes of a row where its home keeps it. A write of the whole row gives it fresh check bits there: a line
of L2 takes them to HBM when it leaves (R399). -/
def State.homePut (s : State) (p : Option Nat) (row v mask : Nat) : State :=
  if mask = 0 then s else
  let d := homeDie (row * 128)
  let inL2 := p.isSome && (s.die d).split
  let full := mask == 2 ^ 128 - 1
  let s :=
    if inL2 then
      let key := l2Key (p.getD 0) row
      let s := if (tblFind (s.die d).l2 key).isSome then s else s.l2Room d
      let (ov, om) := tblGet (0, 0) (s.die d).l2 key
      let nv : Row := BitVec.ofNat 1024 (mergeBytes 128 ov.toNat v mask)
      let nm : BitVec 128 := BitVec.ofNat 128 (om.toNat ||| mask)
      s.setDie d { s.die d with
        l2 := tblSet (s.die d).l2 key (nv, nm)
        l2ue := if full then (s.die d).l2ue.filter (· != key) else (s.die d).l2ue }
    else { s with mem := memWriteMasked s.mem (row * 128) 128 v mask }
  let s := if full && !inL2 then { s with ue := s.ue.filter (· != row) } else s
  (s.frameWritten (row / 32)).monitorEvent p row 0

/-- `n` free bytes, from the free values numbered `i` on. -/
def freeBytes (i : Nat) : Nat → List Byte
  | 0 => []
  | n + 1 => (Config.freeWord i).setWidth 8 :: freeBytes (i + 1) n

/-- Some of the masked bytes of a row lie in the spill area of an enabled ring, on the pages that `rset` pinned (R207). -/
def Ring.spillsTo (r : Ring) (row mask : Nat) : Bool :=
  r.enabled && r.sp && r.spillPages.any fun e =>
    let lo := max e.1 (row * 128)
    let hi := min (e.1 + e.2) (row * 128 + 128)
    decide (lo < hi) && (mask &&& spanMask (lo - row * 128) (hi - lo)) != 0

/-- A write to a spill area makes the contents of the ring's spilled records undefined (R209); the device's own write for ring `own` of
a core spoils those of the other rings alone. -/
def State.spoilSpills (s : State) (own : Option (Nat × Nat)) (row mask : Nat) : State :=
  s.cores.foldl
    (fun s c => c.2.rings.foldl
      (fun s g =>
        if g.2.spillsTo row mask && g.2.spill != [] && own != some (c.1, g.1) then
          let n := (g.2.spill.map List.length).sum
          let fresh := (List.range g.2.spill.length).map fun i => freeBytes (s.free + 128 * i) (g.2.spill.getD i []).length
          let core := s.core c.1
          { s.setCore c.1 { core with rings := tblSet core.rings g.1 { g.2 with spill := fresh } } with free := s.free + 128 * n }
        else s)
      s)
    s

/-- Writes the masked bytes of a row at its home (R253, R327, R399). -/
def State.homeWrite (s : State) (p : Option Nat) (row v mask : Nat) : State :=
  if mask = 0 then s else (s.homePut p row v mask).spoilSpills none row mask

/-- `n` bytes from a physical address, row by row. -/
def State.homeBytes (s : State) (p : Option Nat) (pa : Nat) : Nat → List Byte
  | 0 => []
  | n + 1 => BitVec.ofNat 8 (s.homeRow p (pa / 128) / 2 ^ (8 * (pa % 128))) :: s.homeBytes p (pa + 1) n

/-- Some bytes within one row, as a number. -/
def State.homeRead (s : State) (p : Option Nat) (pa len : Nat) : Nat :=
  s.homeRow p (pa / 128) / 2 ^ (8 * (pa % 128)) % 2 ^ (8 * len)

/-- Writes some bytes within one row. -/
def State.homeStore (s : State) (p : Option Nat) (pa len v : Nat) : State :=
  s.homeWrite p (pa / 128) (v % 2 ^ (8 * len) * 2 ^ (8 * (pa % 128))) (spanMask (pa % 128) len)

/-! ### Atomics at a home (R262 to R264) -/

/-- The signed value of `n` bytes. -/
def signedBytes (n v : Nat) : Int := if 2 ^ (8 * n - 1) ≤ v then (v : Int) - 2 ^ (8 * n) else v

/-- The value that an atomic writes, if it writes (R262, R263); 10 is compare and swap. -/
def atomicNew (op n old v cmp : Nat) : Option Nat :=
  match op with
  | 0 => some ((old + v) % 2 ^ (8 * n))
  | 1 => some (old &&& v)
  | 2 => some (old ||| v)
  | 3 => some (old ^^^ v)
  | 4 => some (if signedBytes n v < signedBytes n old then v else old)
  | 5 => some (if signedBytes n old < signedBytes n v then v else old)
  | 6 => some (min old v)
  | 7 => some (max old v)
  | 8 => some v
  | 9 => some (add32 old v).1
  | _ => if old = cmp then some v else none

/-- An atomic at the home of its row, indivisibly: the old value, and the state after (R263, R264). -/
def State.homeAtomic (s : State) (p : Option Nat) (pa n op v cmp old : Nat) : State :=
  match atomicNew op n old v cmp with
  | some new => s.homeStore p pa n new
  | none => s

/-! ### The L1 data cache (R127, R254) -/

/-- Banks of a role, ascending (R112). -/
def Core.banksOf (c : Core) (role : Nat) : List Nat := (List.range 64).filter fun b => tblGet 0 c.roles b == role

/-- A line's row of its bank: set s of a way is row s (R127). It holds uncorrectable data where that row does (R372). -/
def Core.wayBad (c : Core) (row : Nat) (l : Line) : Bool := c.poolUe.contains (l.bank * 512 + row % 512)

/-- Writes a line's dirty bytes back to its home; the line stays, clean. What an uncorrectable line held is lost: the row at
its home becomes uncorrectable where dirty bytes of the line were (R372, R399). -/
def State.wayClean (s : State) (core row : Nat) : State :=
  match tblFind (s.core core).ways row with
  | none => s
  | some l =>
    let s := s.homeWrite (some (s.ctx (s.ctxOf core)).part) row l.data.toNat l.dirty.toNat
    let s :=
      if l.dirty ≠ 0 ∧ (s.core core).wayBad row l then
        { s with ue := if s.ue.contains row then s.ue else s.ue ++ [row] }
      else s
    s.setCore core { s.core core with ways := tblSet (s.core core).ways row { l with dirty := 0 } }

/-- Drops a line. -/
def State.wayDrop (s : State) (core row : Nat) : State :=
  s.setCore core { s.core core with ways := tblDel (s.core core).ways row }

/-- The bank that a new line of a set fills, and the line that must leave it: an invalid way first, else the least
recently used (R127). -/
def Core.wayVictim (c : Core) (row : Nat) : Option (Nat × Option Nat) :=
  let set := c.ways.filter fun e => e.1 % 512 == row % 512
  match (c.banksOf 3).find? fun b => set.all fun e => e.2.bank != b with
  | some b => some (b, none)
  | none =>
    match set with
    | [] => none
    | e :: rest =>
      let v := rest.foldl (fun m e => if e.2.used < m.2.used then e else m) e
      some (v.2.bank, some v.1)

/-- Brings a row into the cache, or marks its line as used. -/
def State.wayTouch (s : State) (core row : Nat) : State :=
  let c := s.core core
  let tick := c.wayClock + 1
  match tblFind c.ways row with
  | some l => s.setCore core { c with ways := tblSet c.ways row { l with used := tick }, wayClock := tick }
  | none =>
    match c.wayVictim row with
    | none => s
    | some (bank, out) =>
      let s :=
        match out with
        | some r => (s.wayClean core r).wayDrop core r
        | none => s
      let c := s.core core
      let v := s.homeRow (some (s.ctx (s.ctxOf core)).part) row
      s.setCore core
        { c with
          poolUe := c.poolUe.filter (· != bank * 512 + row % 512)
          ways := tblSet c.ways row { bank := bank, data := BitVec.ofNat 1024 v, dirty := 0, used := tick }
          wayClock := tick }

/-- The row as the core's accesses read it, with whether it holds uncorrectable data. -/
def State.coreRow (s : State) (core row : Nat) : State × Nat × Bool :=
  match tblFind (s.core core).ways row with
  | some l => if (s.core core).wayBad row l then (s, 0, true) else (s.wayTouch core row, l.data.toNat, false)
  | none =>
    if s.homeBad (some (s.ctx (s.ctxOf core)).part) row then (s, 0, true)
    else
      let v := s.homeRow (some (s.ctx (s.ctxOf core)).part) row
      ((if (s.core core).banksOf 3 = [] then s else s.wayTouch core row), v, false)

/-- Writes the masked bytes of a row as the core's stores do: into its cache where it has one, else at the home. -/
def State.coreWrite (s : State) (core row v mask : Nat) : State :=
  if (s.core core).banksOf 3 = [] ∨ ((tblFind (s.core core).ways row).isNone ∧ s.homeBad (some (s.ctx (s.ctxOf core)).part) row) then
    s.homeWrite (some (s.ctx (s.ctxOf core)).part) row v mask
  else
    let s := s.wayTouch core row
    match tblFind (s.core core).ways row with
    | none => s
    | some l =>
      let l' := { l with data := BitVec.ofNat 1024 (mergeBytes 128 l.data.toNat v mask), dirty := l.dirty ||| BitVec.ofNat 128 mask }
      let c := s.core core
      s.setCore core
        { c with
          ways := tblSet c.ways row l'
          poolUe := if mask = 2 ^ 128 - 1 then c.poolUe.filter (· != l.bank * 512 + row % 512) else c.poolUe }

/-- Writes back and drops the core's copy of a row (R263, R267). -/
def State.wayEvict (s : State) (core row : Nat) : State := (s.wayClean core row).wayDrop core row

/-! ### Page tables (R318 to R320, R381) -/

/-- The page size of a size code (R318). -/
def pageSize (code : Nat) : Nat :=
  match code with
  | 0 => 2 ^ 12 | 1 => 2 ^ 14 | 2 => 2 ^ 16 | 3 => 2 ^ 18 | 4 => 2 ^ 20
  | 5 => 2 ^ 21 | 6 => 2 ^ 24 | 7 => 2 ^ 26 | 8 => 2 ^ 28 | _ => 2 ^ 30

/-- The level whose tables hold the leaves of a size code; 3 for a code that no level has (R318). -/
def sizeLevel (code : Nat) : Nat := if code ≤ 4 then 0 else if code ≤ 8 then 1 else if code = 9 then 2 else 3

/-- The index of an address at a level (R318). -/
def walkIndex (level va : Nat) : Nat :=
  match level with
  | 3 => va / 2 ^ 39 % 2 ^ 17
  | 2 => va / 2 ^ 30 % 2 ^ 9
  | 1 => va / 2 ^ 21 % 2 ^ 9
  | _ => va / 2 ^ 12 % 2 ^ 9

/-- The bus address of an outbound-window address, if its entry may serve the class and the partition (R381). -/
def State.outboundBus (s : State) (cls part pa : Nat) : Option Nat :=
  let (v, peer, pmask, bus) := tblGet (false, false, 0, 0) s.fabric.outbound (pa / 2 ^ 37 % 2 ^ 10)
  if v && (peer == (cls == 2)) && pmask.toNat.testBit part then some (bus.toNat * 2 ^ 37 + pa % 2 ^ 37) else none

/-- A page-table entry, read at its home (R320); `none` where the row holds uncorrectable data or is no DEV row. -/
def State.readPte (s : State) (part addr : Nat) : Option Nat :=
  if devTop ≤ addr ∨ s.homeBad (some part) (addr / 128) then none else some (s.homeRead (some part) addr 8)

/-- The leaf of an address, from the entry of its group's first slot (R320). -/
def State.walkLeaf (s : State) (x : Ctx) (t level va e : Nat) : Option TlbEntry :=
  let f (n lo w : Nat) : Nat := n / 2 ^ lo % 2 ^ w
  let code := f e 59 4
  if level = 3 ∨ sizeLevel code ≠ level ∨ f e 56 2 = 3 then none
  else
    let size := pageSize code
    let g := va - va % size
    match s.readPte x.part (t + 8 * walkIndex level g) with
    | none => none
    | some e =>
      let pa := f e 12 36 * 4096
      let cls := f e 56 2
      if f e 63 1 = 0 ∨ f e 58 1 = 0 ∨ f e 59 4 ≠ code ∨ pa % size ≠ 0 ∨ cls = 3 then none
      else if cls = 0 ∧ devTop < pa + size then none
      else if cls ≠ 0 ∧ (pa / 2 ^ 47 % 2 = 0 ∨ (s.outboundBus cls x.part (pa + va % size)).isNone) then none
      else
        some { va := g, size := size, pa := pa, bus := if cls = 0 then 0 else (s.outboundBus cls x.part pa).getD 0
               cls := cls, r := f e 51 1 == 1, w := f e 52 1 == 1,
               x := f e 53 1 == 1, xs := f e 54 2 }

/-- The walk from a table down (R320). -/
def State.walkFrom (s : State) (x : Ctx) (va : Nat) : Nat → Nat → Option TlbEntry
  | level, t =>
    match s.readPte x.part (t + 8 * walkIndex level va) with
    | none => none
    | some e =>
      let f (lo w : Nat) : Nat := e / 2 ^ lo % 2 ^ w
      if f 63 1 = 0 then none
      else if f 58 1 = 1 then s.walkLeaf x t level va e
      else
        match level with
        | 0 => none
        | l + 1 => if f 56 7 ≠ 0 then none else s.walkFrom x va l (f 12 36 * 4096)

/-- A walk of a context's page table (R320); `none` is a translation failure. -/
def State.walk (s : State) (ctx va : Nat) : Option TlbEntry :=
  s.walkFrom (s.ctx ctx) va 3 ((s.ctx ctx).root * 2 ^ 20)

/-- The next entry that a walk reads, at its home (R320). -/
def State.walkStep (s : State) (w : Walk) : Walk :=
  let x := s.ctx w.ctx
  match w.st with
  | .done _ _ => w
  | .leaf level t e => { w with st := .done level (s.walkLeaf x t level w.va e) }
  | .table level t =>
    match s.readPte x.part (t + 8 * walkIndex level w.va) with
    | none => { w with st := .done level none }
    | some e =>
      let f (lo n : Nat) : Nat := e / 2 ^ lo % 2 ^ n
      if f 63 1 = 0 then { w with st := .done level none }
      else if f 58 1 = 1 then { w with st := .leaf level t e }
      else if level = 0 ∨ f 56 7 ≠ 0 then { w with st := .done level none }
      else { w with st := .table (level - 1) (f 12 36 * 4096) }

/-- What a walk gives where the rest of its entries are read now. -/
def State.walkRest (s : State) (w : Walk) : Option TlbEntry :=
  match w.st with
  | .done _ r => r
  | .leaf level t e => s.walkLeaf (s.ctx w.ctx) t level w.va e
  | .table level t => s.walkFrom (s.ctx w.ctx) w.va level t

/-- A walk as it starts: at the context's root (R320). -/
def State.newWalk (s : State) (ctx va : Nat) : Walk := { ctx := ctx, va := va, st := .table 3 ((s.ctx ctx).root * 2 ^ 20) }

/-- A walk has come to its end. -/
def Walk.ended (w : Walk) : Bool :=
  match w.st with
  | .done _ _ => true
  | _ => false

/-- A miss of a context at an address is of the page of a walk: of its 4 KiB, or of the page that the walk has found (R321). -/
def Walk.covers (w : Walk) (ctx va : Nat) : Bool :=
  let size := match w.st with
    | .leaf _ _ e => max 4096 (pageSize (e / 2 ^ 59 % 16))
    | .done _ (some e) => e.size
    | _ => 4096
  w.ctx == ctx && (w.va / size == va / size)

/-- The addresses that the entries which a walk has read may govern: those under the entry of the level above its own (R325). -/
def Walk.span (w : Walk) : Nat × Nat :=
  let level := match w.st with
    | .table l _ => l
    | .leaf l _ _ => l
    | .done l _ => l
  let n := 2 ^ (12 + 9 * (level + 1))
  (w.va - w.va % n, n)

/-- A walk in flight or queued, with which a miss of its page merges: one that has ended serves no later miss (R320, R321). -/
def Walk.serves (w : Walk) (ctx va : Nat) : Bool := !w.ended && w.covers ctx va

/-- A miss on a die: it takes the result of a walk of its page that is in flight or queued, or walks itself (R321). DESIGN CHOICE
(log entry 46): a miss that needs the result at once takes what the rest of the walk gives now, while the walk itself stays. -/
def State.walkOn (s : State) (d ctx va : Nat) : Option TlbEntry :=
  match (s.die d).walks.find? fun w => w.serves ctx va with
  | some w => s.walkRest w
  | none => s.walk ctx va

/-- A translation of a context that a buffer holds. -/
def tlbFind (tlb : List (Nat × TlbEntry)) (ctx va : Nat) : Option TlbEntry :=
  (tlb.find? fun e => e.1 == ctx && decide (e.2.va ≤ va) && decide (va < e.2.va + e.2.size)).map Prod.snd

/-- A buffer of `n` entries takes a translation as its latest; one that it holds of the same addresses leaves (R321). -/
def tlbFill (n : Nat) (tlb : List (Nat × TlbEntry)) (ctx : Nat) (e : TlbEntry) : List (Nat × TlbEntry) :=
  ((ctx, e) :: tlb.filter fun o =>
    o.1 != ctx || decide (o.2.va + o.2.size ≤ e.va) || decide (e.va + e.size ≤ o.2.va)).take n

/-- A translation on a die: one that its cache holds, else that of a walk (R321). -/
def State.translateOn (s : State) (d ctx va : Nat) : Option TlbEntry :=
  match tlbFind (s.die d).tlb ctx va with
  | some e => some e
  | none => s.walkOn d ctx va

/-- What the buffers of a core hold for an address: its own, its cluster's, its die's (R321). -/
def State.buffered (s : State) (core ctx va : Nat) : Option TlbEntry :=
  match tlbFind (s.core core).tlb ctx va with
  | some e => some e
  | none =>
    match tlbFind (s.cluster (clusterOf core)).tlb ctx va with
    | some e => some e
    | none => tlbFind (s.die (core / 96)).tlb ctx va

/-- A translation for a core: one that a buffer of it holds, else that of a walk (R321). -/
def State.translate (s : State) (core ctx va : Nat) : Option TlbEntry :=
  match s.buffered core ctx va with
  | some e => some e
  | none => s.walkOn (core / 96) ctx va

/-- The physical address under a translation. -/
def TlbEntry.phys (e : TlbEntry) (va : Nat) : Nat := e.pa + (va - e.va)

/-- The bus address under the translation of a HOST or PEER page: a held translation keeps the outbound entry that its walk
read (R381). -/
def TlbEntry.busOf (e : TlbEntry) (va : Nat) : Nat := e.bus + (va - e.va)

/-- The access kinds of R335. -/
inductive Access where
  | read | write | fetch | atomic
  deriving DecidableEq, Repr

def Access.code : Access → Nat
  | .read => 0
  | .write => 1
  | .fetch => 2
  | .atomic => 3

/-- The right that an access needs (R320). -/
def TlbEntry.allows (e : TlbEntry) (k : Access) : Bool :=
  match k with
  | .read => e.r
  | .fetch => e.x
  | .write | .atomic => e.w

/-- The cycle at which the executing head issued; a head that has not issued issues now. -/
def State.issueCycle (s : State) : Nat := if s.st.issued then s.st.issuedAt else s.cyc

/-- A window is open in a cycle (R201). -/
def Window.openAt (now : Nat) (w : Window) : Bool := decide (w.opened ≤ now) && decide (now < w.expiry)

/-- An access of the core's context that has issued under a window has still to be performed (R201). -/
def State.windowUsed (s : State) (core : Nat) (w : Window) : Bool :=
  w.ctx == s.ctxOf core && allStreams.any fun k =>
    let st := s.stream core k
    st.trap.isNone && ((st.issued && (st.kind == .access) && w.openAt st.issuedAt) ||
      st.ahead.any fun a => (a.kind == .access) && w.openAt a.issuedAt)

/-- A window has not expired, or pins its pages for accesses that issued under it (R201). -/
def State.windowHeld (s : State) (core : Nat) (w : Window) : Bool :=
  decide (s.cyclesOf core < w.expiry) || s.windowUsed core w

/-- The pinned translation of an address, where a window of the core's context that was open in the cycle of the access's
issue covers the bytes and the kind (R202). DESIGN CHOICE (log entry 47): an atomic, which R202 does not list, is covered like a
store, in a window that has the right to write. -/
def State.covered (s : State) (core at' va len : Nat) (k : Access) : Option TlbEntry :=
  let open' (w : Window) : Bool :=
    w.ctx == s.ctxOf core && w.openAt at' && decide (w.base ≤ va) &&
      decide (va + len ≤ w.base + w.len) && (w.write || k == .read)
  match (s.core core).windows.find? open' with
  | none => none
  | some w => w.pages.find? fun e => decide (e.va ≤ va) && decide (va < e.va + e.size)

/-- The translation of an access of the executing core that issues in a cycle, or its MEM_FAULT (R202). -/
def State.entryAt (s : State) (at' va len : Nat) (k : Access) : Except Trap TlbEntry :=
  let fault : Trap := { code := .memFault, faddr := w64 va, detail := k.code, resumable := false }
  match s.covered s.curCore at' va len k with
  | some e => .ok e
  | none =>
    match s.translate s.curCore s.curCtx va with
    | some e => if e.allows k then .ok e else .error fault
    | none => .error fault

/-- The translation of an access of the executing head. -/
def State.accessEntry (s : State) (va len : Nat) (k : Access) : Except Trap TlbEntry := s.entryAt s.issueCycle va len k

/-! ### Memory rings of the device (R213, R338) -/

/-- A transaction placed on a port, in order (R382). -/
def State.send (s : State) (peer : Bool) (o : PortOp) : State :=
  if peer then { s with fabric := { s.fabric with peer := s.fabric.peer ++ [o] } }
  else { s with fabric := { s.fabric with host := s.fabric.host ++ [o] } }

/-- Where an access of the device goes: to DEV memory, or to a link at a bus address. -/
inductive Place where
  | dev (pa : Nat)
  | link (peer : Bool) (bus : Nat)
  deriving DecidableEq, Repr

/-- The place of an address that is physical (`none`), or of a context as an agent of a die translates it. -/
def State.devPlace (s : State) (space : Option (Nat × Nat)) (a : Nat) (k : Access) : Option Place :=
  match space with
  | none => if a < devTop then some (.dev a) else none
  | some (d, x) =>
    match s.translateOn d x (a % 2 ^ 56) with
    | some e =>
      if !e.allows k then none
      else if e.cls = 0 then some (.dev (e.phys (a % 2 ^ 56)))
      else some (.link (e.cls == 2) (e.busOf (a % 2 ^ 56)))
    | none => none

/-- Its physical DEV address. -/
def State.devPhys (s : State) (space : Option (Nat × Nat)) (a : Nat) (k : Access) : Option Nat :=
  match s.devPlace space a k with
  | some (.dev pa) => some pa
  | _ => none

/-- An 8-byte word that the device reads; `none` where it cannot be read. -/
def State.devWord (s : State) (space : Option (Nat × Nat)) (p : Option Nat) (a : Nat) : Option Nat :=
  match s.devPhys space a .read with
  | some pa => if s.homeBad p (pa / 128) then none else some (s.homeRead p pa 8)
  | none => none

/-- Writes 8-byte words that the device owns, posted where they lie on a link; `none` where one cannot be written. -/
def State.devWrite (s : State) (space : Option (Nat × Nat)) (p : Option Nat) : Nat → List Nat → Option State
  | _, [] => some s
  | a, w :: rest =>
    match s.devPlace space a .write with
    | some (.dev pa) => (s.homeStore p pa 8 w).devWrite space p (a + 8) rest
    | some (.link peer bus) => (s.send peer (.write bus 8 (BitVec.ofNat 1024 (w % 2 ^ 64)))).devWrite space p (a + 8) rest
    | none => none

/-- A descriptor of a memory ring: base, z, k, tail and head; `none` where a field is out of range or it cannot be read
(R213). -/
def State.ringDesc (s : State) (space : Option (Nat × Nat)) (p : Option Nat) (desc : Nat) :
    Option (Nat × Nat × Nat × Nat × Nat) :=
  if desc % 64 ≠ 0 then none else
  match (List.range 8).mapM fun i => s.devWord space p (desc + 8 * i) with
  | some [w0, w1, w2, w3, w4, w5, w6, w7] =>
    let z := w1 % 8
    let k := w1 / 16 % 32
    if w0 / 2 ^ 56 ≠ 0 ∨ w0 % 128 ≠ 0 ∨ 4 < z ∨ 24 < k ∨ w1 / 8 % 2 ≠ 0 ∨ w1 / 512 ≠ 0 ∨
        w4 ≠ 0 ∨ w5 ≠ 0 ∨ w6 ≠ 0 ∨ w7 ≠ 0 then none
    else some (w0, z, k, w2, w3)
  | _ => none

/-- Room in a memory ring of 2^k records, in exact arithmetic: a head beyond the tail leaves room (R9, R213). -/
def ringRoom (k tail head n : Nat) : Bool := decide ((n : Int) ≤ 2 ^ k - ((tail : Int) - head))

/-- An append of one record that the device makes and never waits on: `none` where the ring is full or its descriptor is
invalid, and the record is dropped (R213). DESIGN CHOICE (log entry 47): so it is where the page of the storage or of the tail word
is not mapped or has no right to write. -/
def State.devAppend (s : State) (space : Option (Nat × Nat)) (p : Option Nat) (desc z : Nat) (words : List Nat) : Option State :=
  match s.ringDesc space p desc with
  | none => none
  | some (base, z', k, tail, head) =>
    if z' ≠ z ∨ !ringRoom k tail head 1 then none
    else
      match s.devWrite space p (base + tail % 2 ^ k * (8 * 2 ^ z)) words with
      | none => none
      | some s => s.devWrite space p (desc + 16) [(tail + 1) % 2 ^ 64]

/-- A bit-or into an event word of a partition's function, and its MSI-X vector: sent, or pending where it is masked
(R390). -/
def State.notify (s : State) (part vec v : Nat) : State :=
  let p := s.part part
  let p := { p with events := tblPut 0 p.events vec (tblGet 0 p.events vec ||| w64 v) }
  if p.masked.contains vec then s.setPart part { p with pending := if p.pending.contains vec then p.pending else p.pending ++ [vec] }
  else { s.setPart part p with fabric := { s.fabric with host := s.fabric.host ++ [.msix (part + 1) vec] } }

/-- A vector of the physical function: sent, or pending where it is masked (R361, R390). -/
def State.notifyHost (s : State) (vec : Nat) : State :=
  let f := s.fabric
  if f.pfMasked.contains vec then
    { s with fabric := { f with pfPending := if f.pfPending.contains vec then f.pfPending else f.pfPending ++ [vec] } }
  else { s with fabric := { f with host := f.host ++ [.msix 0 vec] } }

/-- A counter that saturates. -/
def satInc {n : Nat} (v : BitVec n) : BitVec n := if v = BitVec.allOnes n then v else v + 1

/-! ### Appends of the device in their turn (R213) -/

/-- A stream that satisfies a test appends to the ring of a descriptor: the home serves one append at a time (R213). -/
def State.appendOf (s : State) (pa : Nat) (but : Nat × StreamId → Bool) : Bool :=
  s.cores.any fun c => allStreams.any fun k =>
    but (c.1, k) && (c.2.stream k).trap.isNone && (c.2.stream k).capt == some (2 ^ 60 + pa)

/-- The physical address of the descriptor that an append of the device names. -/
def State.descPa (s : State) (a : DevAppend) : Option Nat := s.devPhys a.space a.desc .read

/-- An append of the device to the ring of a descriptor has arrived there and waits for its turn. -/
def State.appendHeld (s : State) (pa : Nat) : Bool := s.heldAppends.any fun a => s.descPa a == some pa

/-- A ring serves a stream, or appends of the device that came before. -/
def State.ringServes (s : State) (a : DevAppend) : Bool :=
  match s.descPa a with
  | some pa => s.appendOf pa (fun _ => true) || s.appendHeld pa
  | none => false

/-- What follows an append of the device, made or dropped: the notice of the fault mailbox or of the event ring; the count of
the records lost; the overflow of a replay log (R310, R338, R354, R373, R400). -/
def State.endAppend (s : State) (a : DevAppend) : State :=
  match a.use, s.devAppend a.space a.part a.desc a.z a.words with
  | .log x, some t => if (s.ctx x).replayOvf then s else t
  | .mailbox part, some s => s.notify part 0 2
  | .mailbox part, none => s.setPart part { s.part part with mlost := satInc (s.part part).mlost }
  | .event, some s => s.notifyHost 2047
  | .event, none => { s with pack := { s.pack with evLost := satInc s.pack.evLost } }
  | .trace, some s => s
  | .trace, none => s
  | .log x, none => s.setCtx x { s.ctx x with replayOvf := true }
  | .completion _, some s => s
  | .completion x, none =>
    let c := s.ctx x
    let lost := c.lost + 1
    (s.setCtx x { c with lost := lost }).homeStore (some c.part) (c.record + 24) 4 lost.toNat

/-- An append of the device arrives at its ring: it is made, or it waits for the appends that the home serves before it
(R213). -/
def State.deviceAppend (s : State) (a : DevAppend) : State :=
  if s.ringServes a then { s with heldAppends := s.heldAppends ++ [a] } else s.endAppend a

/-- Of the appends that wait, the first whose ring serves no stream. -/
def State.nextAppend (s : State) : Option Nat :=
  s.heldAppends.findIdx? fun a => match s.descPa a with
    | some pa => !s.appendOf pa (fun _ => true)
    | none => true

/-- An append that waits has its turn. -/
def State.serveAppend (s : State) : State :=
  match s.nextAppend with
  | none => s
  | some i =>
    match s.heldAppends[i]? with
    | some a => ({ s with heldAppends := s.heldAppends.eraseIdx i } : State).endAppend a
    | none => s

/-! ### The fault mailbox (R338) -/

/-- A record for the fault mailbox of a partition; a record that cannot be appended is counted (R338). -/
def State.mailbox (s : State) (part : Nat) (words : List Nat) : State :=
  let p := s.part part
  if p.mbox = 0 then s.setPart part { p with mlost := satInc p.mlost }
  else s.deviceAppend { use := .mailbox part, space := none, part := some part, desc := p.mbox.toNat, z := 2, words := words }

/-- The POISON record of an access (R338). -/
def State.poisonRecord (s : State) (ctx core stream va pa : Nat) : State :=
  s.mailbox (s.ctx ctx).part [1 + ctx * 2 ^ 8 + core * 2 ^ 14 + stream * 2 ^ 22, va, pa, s.time % 2 ^ 64]

/-! ### What lands later (R36, R226, R263) -/

/-- Writes a register of core scope that every stream of the core may read (R36); the phase and the count of live registers
have no `mts` of their own (R124, R241), and of `%mstat` a write clears flags (R169). -/
def Core.putSr (c : Core) (n : Nat) (v : W64) : Core :=
  match n with
  | 0x021 => { c with dom := v.extractLsb' 0 32 }
  | 0x080 => { c with matrix := { c.matrix with flags := c.matrix.flags &&& ~~~ v.extractLsb' 0 5 } }
  | 0x081 => { c with matrix := { c.matrix with mlim := v.extractLsb' 0 32 } }
  | 0x022 => { c with dphs := v.getLsbD 0 }
  | 0x031 => { c with vlive := v.setWidth 9 }
  | 0x030 => { c with amax := v &&& 0x1FFFFFFFF }
  | 0x032 => { c with srkey := v }
  | 0x033 => { c with srctr := v }
  | 0x034 => { c with vrkey := v }
  | 0x035 => { c with vrctr := v }
  | _ => c

/-- The special registers whose writes other streams may see later: those of core scope that a stream writes. -/
def isLateSr (n : Nat) : Bool := [0x021, 0x022, 0x030, 0x031, 0x032, 0x033, 0x034, 0x035, 0x080, 0x081].contains n

/-- The core as one of its streams sees it: with its own writes, of which the other streams have yet to see some (R36). -/
def Core.seenBy (c : Core) (k : StreamId) : Core :=
  c.pending.foldl
    (fun c p => match p with
      | .sr j n v => if j = k then c.putSr n v else c
      | .amon _ _ _ _ _ _ => c) c

/-- An `amon` is performed at its home. On a row that comes back uncorrectable it acts as the reader of R339: on zeros, with a
record and the poison bit of its stream. DESIGN CHOICE (log entry 45): under the TRAP policy it has no effect, and its stream,
which has retired it, takes the trap before its next issue. -/
def State.landAmon (s : State) (core : Nat) (k : StreamId) (va pa n op v : Nat) : State :=
  let x := s.ctxOf core
  let part := (s.ctx x).part
  let st := s.stream core k
  if !s.homeBad (some part) (pa / 128) then s.homeAtomic (some part) pa n op v 0 (s.homeRead (some part) pa n)
  else if (s.ctx x).ue then
    ((s.setStream core k { st with flags := st.flags ||| 0x20 }).poisonRecord x core k.num va (pa / 128 * 128)).homeAtomic
      (some part) pa n op v 0 0
  else
    s.setStream core k
      { st with lateTrap := st.lateTrap.or (some { code := .dataUncorrectable, faddr := w64 va, detail := Access.atomic.code }) }

/-- The n-th pending request of a core is performed, or seen by all its streams. -/
def State.land (s : State) (core n : Nat) : State :=
  match (s.core core).pending[n]? with
  | none => s
  | some p =>
    let s := s.setCore core { s.core core with pending := (s.core core).pending.eraseIdx n }
    match p with
    | .sr _ n v => s.setCore core ((s.core core).putSr n v)
    | .amon k va pa n op v => s.landAmon core k va pa n op v

/-- The first `n` pending requests of a core that satisfy a test land, in order. -/
def State.landIf (f : Pending → Bool) (core : Nat) : Nat → State → State
  | 0, s => s
  | n + 1, s =>
    match (s.core core).pending.findIdx? f with
    | none => s
    | some i => (s.land core i).landIf f core n

/-- All that a core has pending lands. -/
def State.landAll (s : State) (core : Nat) : State := s.landIf (fun _ => true) core (s.core core).pending.length

/-- The writes of a stream to special registers land: what follows orders them (R36). -/
def State.landSr (s : State) (core : Nat) (k : StreamId) : State :=
  if (s.core core).pending.isEmpty then s
  else
    s.landIf (fun p => match p with
      | .sr j _ _ => j == k
      | .amon _ _ _ _ _ _ => false) core (s.core core).pending.length

/-- The pending writes of a core to a special register land. -/
def State.landReg (s : State) (core n : Nat) : State :=
  if (s.core core).pending.isEmpty then s
  else
    s.landIf (fun p => match p with
      | .sr _ m _ => m == n
      | .amon _ _ _ _ _ _ => false) core (s.core core).pending.length

/-- The executing stream's own pending writes to a special register land. -/
def State.landOwn (s : State) (n : Nat) : State :=
  if (s.core s.curCore).pending.isEmpty then s
  else
    s.landIf (fun p => match p with
      | .sr j m _ => j == s.curK && m == n
      | .amon _ _ _ _ _ _ => false) s.curCore (s.core s.curCore).pending.length

/-- The pending writes of a core to its count of live registers land: a raise of the count comes after them (R124). -/
def State.landLive (s : State) (core : Nat) : State := s.landReg core 0x031

/-- The `amon`s of a core to a row land: a later access of the core to the row comes after them (R253). -/
def State.landRow (s : State) (core row : Nat) : State :=
  if (s.core core).pending.isEmpty then s
  else
    s.landIf (fun p => match p with
      | .amon _ _ pa _ _ _ => pa / 128 == row
      | .sr _ _ _ => false) core (s.core core).pending.length

/-- Every `amon` of a core lands. -/
def State.landAmons (s : State) (core : Nat) : State :=
  if (s.core core).pending.isEmpty then s
  else
    s.landIf (fun p => match p with
      | .amon _ _ _ _ _ _ => true
      | .sr _ _ _ => false) core (s.core core).pending.length

end Sys2Proof.Machine
end

