-- ==== Sys2Proof/Machine/Slices.lean ====
section
/-! DEFINITION. Trace and replay records, completion records, and the end of a slice or a context. -/

namespace Sys2Proof.Machine

/-! ### Trace (R348 to R351) -/

/-- The key of a trace source: its kind and its index and stream (R349). -/
def traceKey (kind index stream : Nat) : Nat := kind * 4096 + index * 4 + stream

/-- The die of a trace source. -/
def traceDie (key : Nat) : Nat :=
  let i := key % 4096 / 4
  match key / 4096 with
  | 0 | 1 => i / 96
  | 2 => i / 64
  | 3 => i
  | _ => i / 24

/-- The index field of a trace source. -/
def traceIndex (key : Nat) : Nat :=
  let i := key % 4096 / 4
  match key / 4096 with
  | 3 => 0
  | 4 => i % 24
  | _ => i

/-- The words of the records of a frame, with their time deltas (R349). -/
def traceWords : Nat → List (Nat × Nat × Nat) → List Nat
  | _, [] => []
  | prev, (t, ty, pay) :: rest => ((t - prev) % 2 ^ 16 * 2 ^ 48 + ty % 256 * 2 ^ 40 + pay % 2 ^ 40) :: traceWords t rest

/-- Appends a source's open frame to the context's ring; a frame that finds no room is dropped, and its number is spent
(R348, R349). -/
def State.traceFlush (s : State) (x key : Nat) : State :=
  let c := s.ctx x
  let src : TraceSrc := tblGet {} c.trace key
  match src.recs with
  | [] => s
  | (t0, _, _) :: _ =>
    let w0 := src.recs.length + s.fabric.modNo.toNat * 2 ^ 8 + traceDie key * 2 ^ 12 + key / 4096 * 2 ^ 13 +
      traceIndex key * 2 ^ 16 + key % 4 * 2 ^ 24 + x * 2 ^ 26 + src.fseq % 2 ^ 32 * 2 ^ 32
    let body := traceWords t0 src.recs
    let words := w0 :: (t0 % 2 ^ 64) :: (body ++ List.replicate (6 - body.length) 0)
    let s := s.setCtx x { c with trace := tblSet c.trace key { recs := [], fseq := src.fseq + 1 } }
    s.deviceAppend
      { use := .trace, space := some (traceDie key, x), part := some c.part, desc := c.traceDesc.toNat * 64, z := 3, words := words }

/-- Time after a frame's first record at which the frame is appended, in ns (R349). -/
def traceFrameNs : Nat := 10000

/-- Produces a trace record of a class, where the context traces it; an open frame that a record may not join is appended
first (R348 to R350). -/
def State.traceRec (s : State) (x key cls ty pay : Nat) : State :=
  let c := s.ctx x
  if !c.traceEn || !c.traceCls.toNat.testBit cls then s
  else
    let src : TraceSrc := tblGet {} c.trace key
    let stale :=
      match src.recs.head?, src.recs.getLast? with
      | some (t0, _, _), some (t, _, _) => decide (65535 < s.time - t) || decide (traceFrameNs ≤ s.time - t0)
      | _, _ => false
    let s := if stale then s.traceFlush x key else s
    let c := s.ctx x
    let src : TraceSrc := tblGet {} c.trace key
    let s := s.setCtx x { c with trace := tblSet c.trace key { src with recs := src.recs ++ [(s.time, ty, pay)] } }
    if src.recs.length + 1 ≥ 6 then s.traceFlush x key else s

/-- Appends the open frames of all sources of a context (R349). -/
def State.traceFlushAll (s : State) (x : Nat) : State :=
  (s.ctx x).trace.foldl (fun s e => s.traceFlush x e.1) s

/-! ### Replay log (R354) -/

/-- Logs a nondeterministic event of a context in record mode; a log that cannot take it sets ovf. -/
def State.replayLog (s : State) (x ty who stream piece pos data : Nat) : State :=
  let c := s.ctx x
  if c.replayMode ≠ 1 ∨ c.replayOvf then s
  else
    let d := match ty with
      | 3 | 4 => who % 2
      | 5 => who / 64 % 2
      | _ => who / 96 % 2
    let w0 := ty + who % 256 * 2 ^ 8 + stream % 4 * 2 ^ 16 + piece % 16 * 2 ^ 18 + pos % 2 ^ 40 * 2 ^ 24
    s.deviceAppend
      { use := .log x, space := some (d, x), part := some c.part, desc := c.replayLog.toNat * 64, z := 1, words := [w0, data % 2 ^ 64] }

/-- The first record of an object (type, who, stream) in a replayed context's log (R355). -/
def Ctx.replayNext (c : Ctx) (ty who stream : Nat) : Option (W64 × W64) :=
  if c.replayMode ≠ 2 then none
  else c.replayRecs.find? fun r => bits r.1 0 8 == ty && bits r.1 8 8 == who % 256 && bits r.1 16 2 == stream % 4

/-- The stream, by core and number, that writes the record of the end of a log when a record is the last. DESIGN CHOICE (log entry
46): the stream whose event the record is; for an append of an engine, a completion and a selection, the K stream of the core that
the record names, and for a draw that of the handler core of the context's partition. -/
def State.replaySource (s : State) (x : Nat) (r : W64 × W64) : Nat × Nat :=
  match bits r.1 0 8 with
  | 1 | 6 => (bits r.1 8 8, bits r.1 16 2)
  | 2 => if bits r.2 12 1 = 0 then (bits r.2 2 8, bits r.2 0 2) else (bits r.1 8 8, 3)
  | 4 => (bits r.2 10 8, 3)
  | 5 => (bits r.2 0 8, 3)
  | _ => ((s.part (s.ctx x).part).hcore.toNat, 3)

/-- The log's records are exhausted: the context runs free from here on, and a record says so (R350, R355). -/
def State.replayEnd (s : State) (x : Nat) (source : Nat × Nat) : State :=
  (s.setCtx x { s.ctx x with replayRecs := [], replayMode := 0 }).traceRec x (traceKey 0 source.1 source.2) 5 0x41 1

/-- A record is used up; after the last one the context runs free (R355). -/
def State.replayDrop (s : State) (x : Nat) (r : W64 × W64) : State :=
  let rest := (s.ctx x).replayRecs.erase r
  if rest = [] then s.replayEnd x (s.replaySource x r) else s.setCtx x { s.ctx x with replayRecs := rest }

/-- Uses up the first record of an object. -/
def State.replayUse (s : State) (x ty who stream : Nat) : State :=
  match (s.ctx x).replayNext ty who stream with
  | none => s
  | some r => s.replayDrop x r

/-! ### Current and ballast (R305, R306, R370) -/

/-- A fraction in its lowest terms. -/
def Frac.reduce (f : Frac) : Frac := { num := f.num / Nat.gcd f.num f.den, den := f.den / Nat.gcd f.num f.den }

/-- The ballast level of a regulator at a device time, in amperes: it has fallen since the time of the value kept. -/
def Regulator.ballastNow (r : Regulator) (t : Nat) : Frac :=
  let dt := t - r.ballastAt
  ({ num := r.ballast.num * r.fall.den - r.fall.num * dt * r.ballast.den, den := r.ballast.den * r.fall.den } : Frac).reduce

/-- A declared current, which headers give in units of 0.25 A (R295), in amperes. -/
def amperes (cur : Nat) : Frac := { num := cur, den := 4 }

/-- The end of a gang with declared current on a regulator: the level rises, and falls from its new value to zero over
2 µs but never faster than 200 A/µs (R370). -/
def Regulator.ballastRise (r : Regulator) (t cur : Nat) : Regulator :=
  let l := r.ballastNow t
  let y := amperes cur
  let l := ({ num := l.num * y.den + y.num * l.den, den := l.den * y.den } : Frac).reduce
  let fall : Frac := if 400 * l.den ≤ l.num then { num := 1, den := 5 } else ({ num := l.num, den := 2000 * l.den } : Frac).reduce
  { r with ballast := l, fall := fall, ballastAt := t }

/-- An admission lowers the level at once and leaves its rate of fall (R370). -/
def Regulator.ballastDrop (r : Regulator) (t cur : Nat) : Regulator :=
  let l := r.ballastNow t
  let y := amperes cur
  { r with ballast := ({ num := l.num * y.den - y.num * l.den, den := l.den * y.den } : Frac).reduce, ballastAt := t }

def State.regulator (s : State) (g : Nat) : Regulator := tblGet {} s.pack.regs g
def State.setRegulator (s : State) (g : Nat) (r : Regulator) : State :=
  { s with pack := { s.pack with regs := tblSet s.pack.regs g r } }

/-- The last core of a gang has yielded: its current returns 2,000 ns later, and the ballast rises by what was declared on
the regulator, after the admissions of this instant (R306, R370). -/
def State.releaseCurrent (s : State) (cur : Tbl Nat) (cores : List Nat) : State :=
  let s := (if cur = [] then [] else (cores.map clusterOf).dedup).foldl
    (fun s i => s.setCluster i { s.cluster i with currentUntil := s.time + 2000 }) s
  cur.foldl
    (fun s e =>
      let s := { s with pack := { s.pack with returns := s.pack.returns ++ [(s.time + 2000, e.1, e.2)] } }
      if s.pack.ballastEn ∧ e.2 ≠ 0 then { s with pack := { s.pack with rises := s.pack.rises ++ [e] } } else s)
    s

/-! ### Headers (R295) -/

def Header.word (h : Header) (i : Nat) : Nat := h.words.getD i 0
def Header.deadline (h : Header) : Nat := h.word 0
def Header.budget (h : Header) : Nat := h.word 1 % 2 ^ 32
def Header.energy (h : Header) : Nat := h.word 1 / 2 ^ 32
def Header.current (h : Header) : Nat := h.word 2 % 2 ^ 16
def Header.gang (h : Header) : Nat := h.word 2 / 2 ^ 16 % 8
def Header.tickets (h : Header) : Nat := h.word 2 / 2 ^ 24 % 2 ^ 8
def Header.succ (h : Header) : Nat := h.word 2 / 2 ^ 48
def Header.code (h : Header) : Nat := h.word 3
def Header.entry (h : Header) (k : StreamId) : Nat := h.word (4 + k.num / 2) / 2 ^ (32 * (k.num % 2)) % 2 ^ 32
def Header.arg (h : Header) : Nat := h.word 6
def Header.poolWord (h : Header) : Nat := h.word 7

/-! ### Ends (R28, R293, R309, R310) -/

/-- The completion record of a slice; a record that cannot be appended is counted in the context record (R310, R400). -/
def State.completionRecord (s : State) (x : Nat) (hdr queue core cycles restarts tend : Nat)
    (resid late ext killed bad dfail : Bool) : State :=
  let c := s.ctx x
  let w1 := resid.toNat + 2 * late.toNat + 4 * ext.toNat + 8 * killed.toNat + 16 * bad.toNat + 32 * dfail.toNat +
    min restarts 255 * 2 ^ 8 + queue % 2 ^ 10 * 2 ^ 16 + core % 2 ^ 8 * 2 ^ 26
  s.deviceAppend
    { use := .completion x, space := some (core / 96, x), part := some c.part, desc := c.cring, z := 2
      words := [hdr, w1, min cycles (2 ^ 32 - 1), tend % 2 ^ 64] }

/-- The device time at which a slice ended: when its last stream yielded, or now (R32, R310). -/
def State.endOf (s : State) (v : Slice) : Nat := v.ended.getD s.time

/-- The end came after the deadline (R310). -/
def State.isLate (s : State) (v : Slice) : Bool := decide (v.hdr.deadline ≠ 0) && decide (v.hdr.deadline < s.endOf v)

/-- Performs what a core has pending, and writes back every dirty line of it (R116, R263). -/
def State.wayCleanAll (s : State) (core : Nat) : State :=
  let s := s.landAll core
  (s.core core).ways.foldl (fun s e => s.wayClean core e.1) s

/-- What a head leaves behind when it is the head no more: the next head has issued where it had issued behind it. -/
def Stream.clearHead (st : Stream) (now : Nat) : Stream :=
  let a := st.ahead.headD {}
  { st with
    guardOn := a.guardOn, lanes := a.lanes, issued := !st.ahead.isEmpty, expIssued := false, popped := a.popped, pushes := a.pushes
    ahead := st.ahead.tail, wait := none, headSince := now
    outs := [], notes := [], noteIdx := 0, issuedAt := a.issuedAt, kind := a.kind, keys := a.keys, firm := false, poisonDue := false
    atomicOut := false, capt := none, captScope := none, skipping := false, fetchTrap := false, rejoin := none, cls := 0, clsSince := now }

/-- A core that no slice holds: its streams are idle and hold no instruction, its pool holds nothing of the slice, its touch
windows last on (R201), and its head counters stay for the host (R380). -/
def Core.unbound (c : Core) (mode : StreamMode) : Core :=
  let idle (st : Stream) : Stream :=
    { ({ st with ahead := [] } : Stream).clearHead st.headSince with
      mode := mode, stopped := false, trap := none, lateTrap := none, iq := [] }
  { c with
    slice := none, l := idle c.l, xs := idle c.xs, s := idle c.s, k := idle c.k
    tokq := [], sems := [], rings := [], pins := 0, ways := [], matrix := {}, preds := []
    reshape := none, pending := [], poolBusy := false }

/-- A core of a partition has become free: the heads that wait for one are deferred no longer (R301). -/
def State.coreFreed (s : State) (part : Nat) : State :=
  { s with
    dies := tblMap s.dies fun d => { d with deferred := d.deferred.filter fun e =>
      e.interval || (s.ctx (s.queue e.queue).ctx.toNat).part != part } }

/-- Frees what a slice holds: its cores and their result FIFOs, its join entries, fetch groups and monitors, and its
current. DESIGN CHOICE (log entry 45): the sequence numbers of a core's commands at an engine begin at 0 for each slice. -/
def State.freeSlice (s : State) (n : Nat) (mode : StreamMode) : State :=
  match s.slice n with
  | none => s
  | some v =>
    let s := v.cores.foldl (fun s c => s.setCore c ((s.core c).unbound mode)) s
    let s := s.releaseCurrent v.current v.cores
    let tidy (i : Cluster) : Cluster :=
      { i with
        joins := i.joins.filter fun j => j.slice != n
        groups := i.groups.filter fun g => g.slice != n
        monitors := i.monitors.filter fun m => !v.cores.contains m.core }
    let clear (e : Engine) : Engine :=
      { e with results := v.cores.foldl tblDel e.results, seqs := v.cores.foldl tblDel e.seqs }
    let s := { s with
      clusters := tblMap s.clusters tidy, slices := tblDel s.slices n
      dies := tblMap s.dies fun d => { d with engines := tblMap d.engines clear } }
    s.coreFreed (s.ctx v.ctx).part

/-- The numbers of the bound slices of a context, without or with its handler slice. -/
def State.slicesOf (s : State) (x : Nat) (handler : Bool) : List Nat :=
  (s.slices.filter fun e => e.2.ctx == x && e.2.handler == handler).map Prod.fst

/-- What an engine works on, or holds for a context that halts: a commit, and a command whose trap stopped it (R329). -/
abbrev EngineWork := Option VCommit × Option (VCmd × Nat × Trap)

/-- The works of an engine, its present one first. -/
def Engine.works (e : Engine) : List EngineWork := (e.commit, e.trap) :: e.parked

/-- An engine with its works changed. -/
def Engine.mapWorks (e : Engine) (f : EngineWork → EngineWork) : Engine :=
  { e with
    commit := (f (e.commit, e.trap)).1, trap := (f (e.commit, e.trap)).2
    parked := (e.parked.map f).filter fun w => w.1.isSome || w.2.isSome }

/-- The commands that a test does not keep leave every engine, without an element; those in commit stay unless `all`
(R311, R377). -/
def State.dropCommands (s : State) (all : Bool) (keep : VCmd → Bool) : State :=
  let tidy (e : Engine) : Engine :=
    { e with fifo := e.fifo.filter keep }.mapWorks fun w =>
      (w.1.filter fun k => !all || keep k.cmd, w.2.filter fun t => keep t.1)
  { s with dies := tblMap s.dies fun d => { d with engines := tblMap d.engines tidy } }

/-! ### Admission and withdrawal (R302, R304, R305) -/

/-- The clusters of a placement. -/
def placementClusters (cores : List Nat) : List Nat := (cores.map clusterOf).dedup

/-- A slice's energy and current for each cluster of a placement (R305). -/
def Header.energyShare (h : Header) (cores : List Nat) : Nat := ceilDiv h.energy (placementClusters cores).length
def Header.currentShare (h : Header) (cores : List Nat) : Nat := ceilDiv h.current (placementClusters cores).length

/-- The current of a placement by regulator. -/
def State.placementCurrent (s : State) (h : Header) (cores : List Nat) : Tbl Nat :=
  (placementClusters cores).foldl
    (fun t i => let g := (s.cluster i).reg; tblSet t g (tblGet 0 t g + h.currentShare cores)) []

/-- A balance saturates at its least value. -/
def satBalance (z : Int) : Int := max z (-2 ^ 31)

/-- Energy and current are taken at an admission, and given back at a withdrawal. -/
def State.takeBalance (s : State) (h : Header) (cores : List Nat) : State :=
  let s := (placementClusters cores).foldl
    (fun s i => let c := s.cluster i; s.setCluster i { c with bal := satBalance (c.bal - h.energyShare cores) }) s
  (s.placementCurrent h cores).foldl
    (fun s e =>
      let r := s.regulator e.1
      s.setRegulator e.1 ({ r with used := r.used + e.2 }.ballastDrop s.time e.2)) s
def State.giveBalance (s : State) (h : Header) (cores : List Nat) : State :=
  let s := (placementClusters cores).foldl
    (fun s i => let c := s.cluster i; s.setCluster i { c with bal := min (c.bal + h.energyShare cores) c.budget.toNat }) s
  (s.placementCurrent h cores).foldl
    (fun s e => let r := s.regulator e.1; s.setRegulator e.1 { r with used := r.used - e.2 }) s

/-- Of the cores of a placement, those whose grants it holds (R304). -/
def State.heldGrants (s : State) (die slot : Nat) (cores : List Nat) : List Nat :=
  cores.filter fun c => match (s.core c).grant with
    | some (d, n, _) => d == die && n == slot
    | none => false

/-- The grants of a placement end (R304). -/
def State.dropGrants (s : State) (die slot : Nat) (cores : List Nat) : State :=
  (s.heldGrants die slot cores).foldl (fun s c => s.setCore c { s.core c with grant := none }) s

/-- The grants of a placement are released, and with them cores of its partition are free (R301, R304). -/
def State.releaseGrants (s : State) (die slot : Nat) (cores : List Nat) : State :=
  let t := s.dropGrants die slot cores
  match s.heldGrants die slot cores, tblFind (t.die die).placements slot with
  | _ :: _, some p => t.coreFreed (t.ctx (t.queue p.queue).ctx.toNat).part
  | _, _ => t

/-- A selection is withdrawn: its reservation is released, and the head stays in its queue (R302). -/
def State.withdraw (s : State) (die slot : Nat) : State :=
  match tblFind (s.die die).placements slot with
  | none => s
  | some p =>
    let cores := p.candidates.headD []
    let s := if p.reserved then (s.giveBalance p.hdr cores).releaseGrants die slot cores else s
    s.setDie die { s.die die with placements := tblDel (s.die die).placements slot }

/-- Every selection of a queue that satisfies a test is withdrawn. -/
def State.withdrawAll (s : State) (f : Nat → Bool) : State :=
  [0, 1].foldl
    (fun s d => (s.die d).placements.foldl (fun s e => if f e.2.queue then s.withdraw d e.1 else s) s) s

/-- `%stopat` ends with the slice of the core it names (R345). -/
def State.endStopAt (s : State) (x : Nat) (v : Slice) : State :=
  let c := s.ctx x
  if v.cores.contains c.stopatCore.toNat then s.setCtx x { c with stopatEn := false } else s

/-- A context becomes DEAD: its queued slices are removed, its bound slices are unbound with the killed bit, and its
commands are discarded (R293, R377). -/
def State.killContext (s : State) (x : Nat) : State :=
  let c := s.ctx x
  let s := s.setCtx x { c with mode := .dead, halt := none, haltAt := [], cause := none, causes := 0, action := none }
  let s := s.withdrawAll fun q => (s.queue q).ctx.toNat == x
  let s := { s with
    queues := tblMap s.queues fun q => if q.ctx.toNat = x then { q with entries := [], head := none, displaced := [] } else q
    parts := tblMap s.parts fun p => { p with handlerQueue := p.handlerQueue.filter (· != x) }
    dies := tblMap s.dies fun d => { d with holds := d.holds.filter fun h => (s.queue h.1).ctx.toNat != x } }
  let s := s.dropCommands true fun v => v.ctx != x
  let finish (s : State) (n : Nat) : State :=
    match s.slice n with
    | none => s
    | some v =>
      let s := v.cores.foldl (fun s c => s.wayCleanAll c) s
      let s :=
        if v.handler then s
        else s.completionRecord x v.hdr.addr v.queue (v.cores.headD 0) v.cycles v.restarts (s.endOf v)
          (v.cores.any fun c => (s.core c).tokqWord != 0) (s.isLate v) v.ext true false false
      (s.endStopAt x v).freeSlice n .dead
  (s.slicesOf x false ++ s.slicesOf x true).foldl finish s

end Sys2Proof.Machine
end

