-- ==== Sys2Proof/Machine/Waits.lean ====
section
/-! DEFINITION. The waits of a head: their states and numbers in a stop record, and the trap that each raises on expiry. -/

namespace Sys2Proof.Machine

/-- The trap codes (R335). -/
def TrapCode.code : TrapCode → Nat
  | .badTarget => 0x01 | .fetchDenied => 0x02 | .privViolation => 0x03 | .tokenWaitExpired => 0x04
  | .softTrap => 0x05 | .breakpoint => 0x06 | .halt => 0x07 | .budgetExhausted => 0x08 | .poolNotBase => 0x09
  | .poolRole => 0x0A | .vshape => 0x0B | .memFault => 0x10 | .touchFault => 0x11 | .memParam => 0x12
  | .dataUncorrectable => 0x13 | .ringWaitExpired => 0x14 | .semWaitExpired => 0x15 | .semOverflow => 0x16
  | .markWaitExpired => 0x17 | .engineWaitExpired => 0x18 | .matrixParam => 0x20 | .raggedBound => 0x21
  | .sparseMeta => 0x22 | .matrixSemExpired => 0x23 | .joinUnknown => 0x28 | .joinExpired => 0x29
  | .domExpired => 0x2A | .domPhase => 0x2B | .domParam => 0x2C | .scopeStale => 0x30 | .depUnderflow => 0x31
  | .hostAtomicUnsupported => 0x32 | .engineFault => 0x38 | .replayDiverged => 0x40 | .hostStop => 0x41

/-! ### Rings and semaphores -/

def Core.ring (c : Core) (n : Nat) : Ring := tblGet {} c.rings n
def Core.setRing (c : Core) (n : Nat) (r : Ring) : Core := { c with rings := tblPut {} c.rings n r }
def Core.sem (c : Core) (n : Nat) : Sem := tblGet {} c.sems n
def Core.setSem (c : Core) (n : Nat) (v : Sem) : Core := { c with sems := tblPut {} c.sems n v }
def Cluster.xsem (c : Cluster) (n : Nat) : Sem := tblGet {} c.xsems n
def Cluster.setXsem (c : Cluster) (n : Nat) (v : Sem) : Cluster := { c with xsems := tblPut {} c.xsems n v }

/-- The record size and the capacity of a ring (R205). -/
def Ring.rsz (r : Ring) : Nat := 8 * 2 ^ r.z
def Ring.cap (r : Ring) : Nat := 2 ^ r.k

/-- Records from claimed up to tail, from head up to claimed, and from head up to tail (R205). -/
def Ring.avail (r : Ring) : Nat := (r.tail - r.claimed).toNat
def Ring.held (r : Ring) : Nat := (r.claimed - r.head).toNat
def Ring.used (r : Ring) : Nat := (r.tail - r.head).toNat

/-- Room for an append: none while records stand spilled (R208). -/
def Ring.free (r : Ring) : Nat := if r.spill = [] then r.cap - r.used else 0

/-- The positions word (R205). -/
def Ring.positions (r : Ring) : Nat :=
  bits r.head 0 16 + bits r.claimed 0 16 * 2 ^ 16 + bits r.tail 0 16 * 2 ^ 32 + r.enabled.toNat * 2 ^ 48 + r.sp.toNat * 2 ^ 49

/-! ### Domains (R239) -/

def Core.domR3 (c : Core) : Nat := bits c.dom 24 8
def Core.domN (c : Core) (level : Nat) : Nat :=
  match level with
  | 0 => 1
  | 1 => bits c.dom 0 8
  | 2 => bits c.dom 8 8
  | _ => bits c.dom 16 8

/-- The values of `%dom` are consistent with a gang of the given size (R239). -/
def Core.domOk (c : Core) (gang : Nat) : Bool :=
  decide (c.domR3 < c.domN 3) && decide (0 < c.domN 1) && decide (0 < c.domN 2) &&
    (c.domN 2 % c.domN 1 == 0) && (c.domN 3 % c.domN 2 == 0) && (c.domN 3 == gang)

/-- The executing core as the executing stream sees it (R36). -/
def State.ownCore (s : State) : Core := s.cur.seenBy s.curK

/-- A core of the gang as the executing stream sees it. -/
def State.fellow (s : State) (m : Nat) : Core := if m = s.curCore then s.ownCore else s.core m

/-- The gang of the executing core, and the members of its domain at a level: at level 0 the core itself, else the gang's cores of
the same domain number (R239). -/
def State.gang (s : State) : List Nat :=
  match s.sliceOf s.curCore with
  | some v => v.cores
  | none => []
def State.domMembers (s : State) (level : Nat) : List Nat :=
  let n := s.ownCore.domN level
  if level = 0 then [s.curCore] else s.gang.filter fun m => (s.fellow m).domR3 / n == s.ownCore.domR3 / n

/-- The rank of a member in the domain, and the member of a rank: of several the one of least number (R239). -/
def State.rankOf (s : State) (level m : Nat) : Nat := (s.fellow m).domR3 % s.ownCore.domN level
def State.atRank (s : State) (level r : Nat) : Option Nat := (s.domMembers level).find? fun m => s.rankOf level m == r

/-- A stream waits at a barrier of a kind: it has arrived there, and has not stopped or trapped since (R242, R243). -/
def Stream.arrived (st : Stream) (k : WaitKind) : Bool :=
  (match st.wait with
   | some w => w.kind == k
   | none => false) && !st.stopped && st.trap.isNone

/-- It waits there with its count at `n`: with the one of the same number (R242, R243). -/
def Stream.arrivedAt (st : Stream) (k : WaitKind) (key n : Nat) : Bool := st.arrived k && (tblGet 0 st.pairs key == n)

/-- The streams of a mask. -/
def streamsOf (smask : Nat) : List StreamId := allStreams.filter fun k => smask.testBit k.num

/-- The ranks of the members of a domain that satisfy a test, as a mask. -/
def State.rankMask (s : State) (level : Nat) (f : Nat → Bool) : Nat :=
  (((s.domMembers level).filter f).map fun m => 2 ^ s.rankOf level m).foldl (· ||| ·) 0

/-! ### Engines -/

/-- The handle of the engine in a slot of a die, and back (R218, R331). -/
def engineHandle (die slot : Nat) : Nat :=
  die * 64 + (if slot < 4 then slot * 16 else if slot = 4 then 1 else (slot - 8) * 16 + 2)
def engineSlot (handle : Nat) : Option (Nat × Nat) :=
  let die := handle / 64
  let i := handle / 16 % 4
  if 128 ≤ handle then none
  else
    match handle % 16 with
    | 0 => some (die, i)
    | 1 => if i = 0 then some (die, 4) else none
    | 2 => some (die, 8 + i)
    | _ => none

def State.engine (s : State) (die slot : Nat) : Engine := tblGet {} (s.die die).engines slot
def State.setEngine (s : State) (die slot : Nat) (e : Engine) : State :=
  s.setDie die { s.die die with engines := tblSet (s.die die).engines slot e }

/-- Entries of a core in an engine's command FIFO, and elements in its result FIFO (R218). -/
def Engine.occupancy (e : Engine) (core : Nat) : Nat := (e.fifo.filter fun v => v.core == core).length
def Engine.elements (e : Engine) (core : Nat) : List W64 := tblGet [] e.results core

/-! ### Matrix queue -/

/-- Commands accepted and not completed (R169). -/
def Matrix.qlen (m : Matrix) : Nat := m.queue.length + m.weights.length + (if m.running.isSome then 1 else 0)

/-! ### Waits -/

/-- The state of a waiting head (R31, R397). -/
def WaitKind.state : WaitKind → Nat
  | .token _ _ _ => 2
  | .sem _ _ | .xsem _ _ => 3
  | .ring _ _ | .memRing _ => 4
  | .mon _ => 5
  | .join _ | .dsync _ | .cbcast => 6
  | .matrixQueue | .matrixDone | .poolTile | .accum | .engineRoom _ | .engineResult _ | .holdList | .regWait => 7
  | .idleCyc _ | .idleUntil _ => 8
  | .mark _ => 12
  | .outbound | .forced | .busy => 1

/-- A wait for tokens or room (R25). -/
def WaitKind.isToken : WaitKind → Bool
  | .token _ _ _ => true
  | _ => false

/-- What the stop record gives in waitid (R38, R242 to R244, R268, R397). DESIGN CHOICE (log entry 32): of the waits of
WAIT_ENGINE, those for the matrix queue give the matrix engine's handle 0x7F, those for a video engine its handle, the one for
a hold list 0x7E, and those for a TILE bank, an accumulator or a special register 0. -/
def WaitKind.waitid : WaitKind → Nat
  | .sem n _ => n
  | .xsem n _ => 64 + n
  | .ring _ n => n
  | .memRing a => a
  | .mon row => row * 128
  | .join id => id
  | .dsync level => 0x100 + level
  | .cbcast => 0x200
  | .matrixQueue | .matrixDone => 0x7F
  | .engineRoom h | .engineResult h => h
  | .holdList => 0x7E
  | .mark n => n
  | _ => 0

/-- The queues of a mask that hold fewer than `n` tokens, and those with room for fewer (R25). -/
def Core.lackMask (c : Core) (mask n : Nat) : Nat :=
  queueMask ((List.range 4).filter fun q => mask.testBit q && decide (c.tokens q < n))
def Core.fullMask (c : Core) (mask n : Nat) : Nat :=
  queueMask ((List.range 4).filter fun q => mask.testBit q && decide (tokenDepth < c.tokens q + n))

/-- What a stream's head waits for at this moment: of the queues of a token wait, those that still lack a token or room;
a head whose tokens and room have all come waits no longer (R25, R27). -/
def Core.waiting (c : Core) (k : StreamId) : Option Waiting :=
  match (c.stream k).wait with
  | none => none
  | some w =>
    match w.kind with
    | .token pop room n =>
      let pop := c.lackMask pop n
      let room := c.fullMask room n
      if pop = 0 ∧ room = 0 then none else some { w with kind := .token pop room n }
    | _ => some w

/-- The state of a stream as `%status.state` and the stop record give it, the halt apart (R31). -/
def Core.stateOf (c : Core) (k : StreamId) : Nat :=
  match (c.stream k).mode with
  | .idle => 0
  | .yielded => 9
  | .dead => 11
  | .run =>
    match c.waiting k with
    | some w => w.kind.state
    | none => 1

/-- Lowest set bit of a queue mask, in the order prev, next of a stream's pops. -/
def firstQueue (mask : Nat) : Nat :=
  if mask.testBit 0 then 0 else if mask.testBit 2 then 2 else if mask.testBit 1 then 1 else 3

/-- The head-counter class of a waiting head (R346). -/
def WaitKind.cls (core : Nat) : WaitKind → Nat
  | .token pop room _ => if pop ≠ 0 then 0x04 + firstQueue pop else 0x08 + firstQueue room
  | .sem n _ => 0x10 + n
  | .xsem n _ => 0x50 + n
  | .ring c n => if c = core then 0x60 + n else 0x02
  | .memRing _ => 0x02
  | .mon _ => 0x72
  | .join _ | .dsync _ | .cbcast => 0x73
  | .matrixQueue | .matrixDone | .poolTile | .accum => 0x70
  | .engineRoom _ | .engineResult _ | .holdList | .regWait => 0x71
  | .idleCyc _ | .idleUntil _ => 0x74
  | .mark _ => 0x75
  | .forced => 0x02
  | .outbound | .busy => 0x01

/-- The semaphore on which the head of the matrix queue waits (R168). -/
def Matrix.semWait (m : Matrix) : Option Nat :=
  match m.queue with
  | c :: _ => if c.swen && c.waitSince.isSome && !c.semTaken then some c.semw else none
  | [] => none

/-- The head-counter class of a head of this core that waits. DESIGN CHOICE (log entry 45): the matrix waits on a semaphore that
R346 counts under it are those of streams that wait for the matrix engine while the head of its queue waits on the semaphore. -/
def Core.waitClass (c : Core) (core : Nat) (w : WaitKind) : Nat :=
  match w, c.matrix.semWait with
  | .matrixQueue, some n => 0x10 + n
  | .matrixDone, some n => 0x10 + n
  | w, _ => w.cls core

/-- `mark`s that a stream has issued: those retired, and the one that stands issued at its head (R221). DESIGN CHOICE (log entry 47):
one whose guard is false, or that `tret.skip` skips, takes no number. -/
def Stream.marksIssued (st : Stream) : Nat :=
  if st.issued ∧ st.kind = .mark ∧ st.guardOn ∧ !st.skipping then st.marks + 1 else st.marks

/-- The trap of a wait that expires on a stream of a core (R335). Of the waits that have no line of their own, only that for
the hold list of a die has a limit (R315). DESIGN CHOICE (log entry 47): the occupancy that an expired `epop` records is that of the
result FIFO, its count of elements (R220). -/
def State.expiryTrap (s : State) (core : Nat) (k : StreamId) (w : WaitKind) : Trap :=
  let c := s.core core
  let st := c.stream k
  match w with
  | .token pop room _ => { code := .tokenWaitExpired, faddr := w64 (pop ||| room) }
  | .sem n kk => { code := .semWaitExpired, faddr := w64 (n + (c.sem n).value.toNat * 2 ^ 16 + kk * 2 ^ 32) }
  | .xsem n kk =>
    { code := .semWaitExpired
      faddr := w64 (64 + n + ((s.cluster (clusterOf core)).xsem n).value.toNat * 2 ^ 16 + kk * 2 ^ 32) }
  | .ring rc n => { code := .ringWaitExpired, faddr := w64 (((s.core rc).ring n).positions + rc * 2 ^ 50 + n * 2 ^ 58) }
  | .memRing a => { code := .ringWaitExpired, faddr := Config.memRingFaddr a core }
  | .mark _ => { code := .markWaitExpired, faddr := w64 (c.l.marksIssued % 2 ^ 32 + c.s.marksIssued % 2 ^ 32 * 2 ^ 32) }
  | .matrixQueue | .matrixDone => { code := .engineWaitExpired, faddr := w64 (0x7F + c.matrix.qlen * 2 ^ 8) }
  | .engineRoom h =>
    match engineSlot h with
    | some (d, i) => { code := .engineWaitExpired, faddr := w64 (h + (s.engine d i).occupancy core * 2 ^ 8) }
    | none => { code := .engineWaitExpired, faddr := w64 h }
  | .engineResult h =>
    match engineSlot h with
    | some (d, i) => { code := .engineWaitExpired, faddr := w64 (h + ((s.engine d i).elements core).length * 2 ^ 8) }
    | none => { code := .engineWaitExpired, faddr := w64 h }
  | .dsync level =>
    let s' := { s with curCore := core, curK := k }
    let smask := st.capt.getD 0 % 16
    let n := tblGet 0 st.pairs level
    let here (m : Nat) : Bool := (streamsOf smask).all fun k => ((s.core m).stream k).arrivedAt (.dsync level) level n
    { code := .domExpired, faddr := w64 (s'.rankMask level here + s'.rankMask level (fun m => !here m) * 2 ^ 32), detail := level }
  | .cbcast =>
    let s' := { s with curCore := core, curK := k }
    let n := tblGet 0 st.pairs 4
    let here (m : Nat) : Bool := ((s.core m).stream k).arrivedAt .cbcast 4 n
    { code := .domExpired, faddr := w64 (s'.rankMask 1 here + s'.rankMask 1 (fun m => !here m) * 2 ^ 32), detail := 4 }
  | _ => { code := .engineWaitExpired, faddr := 0xFF7E }

/-- The wait has a limit, and more cycles than that have passed (R27). -/
def State.expired (s : State) (core : Nat) (w : Waiting) : Bool :=
  decide (w.limit ≠ 0) && decide (w.limit < s.cyclesOf core - w.since)

/-- An agent waits on a semaphore. -/
def Sem.hasWaiter (v : Sem) (w : SemWaiter) : Bool := v.waiters.any fun e => e.1 == w

/-- A waiter leaves the semaphores it waits on (R216). -/
def State.leaveSems (s : State) (core : Nat) (k : StreamId) : State :=
  let out (v : Sem) : Sem := { v with waiters := v.waiters.filter fun e => e.1 != .stream core k }
  let i := clusterOf core
  let c := s.core core
  let s :=
    if c.sems.any fun e => e.2.hasWaiter (.stream core k) then s.setCore core { c with sems := tblMap c.sems out } else s
  let cl := s.cluster i
  if cl.xsems.any fun e => e.2.hasWaiter (.stream core k) then s.setCluster i { cl with xsems := tblMap cl.xsems out } else s

end Sys2Proof.Machine
end

