-- ==== Sys2Proof/Machine/Issue.lean ====
section
/-! DEFINITION. Taking a trap, and how every encoded instruction issues, waits, retires or traps. -/

namespace Sys2Proof.Machine

/-! ### Traps and the halt line (R329, R334, R336) -/

/-- A HANDLER_FAULT: the context becomes DEAD, the host is interrupted, and the fault mailbox takes a record with both
causes (R336, R338). -/
def State.handlerFault (s : State) (x core stream : Nat) (t : Trap) : State :=
  let c := s.ctx x
  let (code1, faddr1) :=
    match c.cause with
    | some (_, t1) => (t1.code.code, t1.faddr.toNat)
    | none => (0, 0)
  let w0 := 3 + x * 2 ^ 8 + core * 2 ^ 14 + stream * 2 ^ 22 + code1 * 2 ^ 24 + t.code.code * 2 ^ 32 + c.causeRead.toNat * 2 ^ 40
  let s := s.mailbox c.part [w0, t.faddr.toNat, faddr1, s.time % 2 ^ 64]
  (s.notify c.part 0 1).killContext x

/-- The rank of traps that reach a halt line in one cycle (R334); a host stop of the same cycle comes first. -/
def CauseBy.rank : CauseBy → Nat
  | .host => 0
  | .stream core k => 1 + 5 * core + k.num
  | .matrix core => 1 + 5 * core + 4
  | .engine handle => 1 + 5 * 192 + handle

/-- The core whose clock times a trap. -/
def CauseBy.core? : CauseBy → Option Nat
  | .stream core _ => some core
  | .matrix core => some core
  | .host => none
  | .engine _ => none

/-- The present cycle is the one in which the halt line of a context rose, at device time `t`. DESIGN CHOICE (log entry 45): the
cycle is that of the clock of whoever raises now, and for the host and the video engines one of 900 MHz. -/
def State.haltCycle (s : State) (x t : Nat) (by' : CauseBy) : Bool :=
  match by'.core? with
  | some core => s.cyclesOf core == tblGet 0 (s.ctx x).haltAt (clusterOf core)
  | none => s.time * 9 / 10 == t * 9 / 10

/-- A trap reaches a context's halt line: the first one is the first cause, and of those of one cycle the first by rank
(R329, R334). -/
def State.raiseHalt (s : State) (x : Nat) (by' : CauseBy) (t : Trap) : State :=
  let c := s.ctx x
  match c.halt, c.cause with
  | some at', some (who, _) =>
    if s.haltCycle x at' by' ∧ by'.rank < who.rank then s.setCtx x { c with cause := some (by', t) } else s
  | some _, none => s
  | none, _ => s.setCtx x { c with halt := some s.time, haltAt := tblMap s.clusters Cluster.cycles, cause := some (by', t) }

/-- A stream raises a trap: the instruction at its head does not retire, its stop record will carry the trap, the last-trap
field of its status takes the code, and the context's halt line rises. A trap of a handler slice kills the context
instead (R38, R35, R329, R336). -/
def State.raiseTrap (s : State) (core : Nat) (k : StreamId) (t : Trap) : State :=
  let x := s.ctxOf core
  let st := s.stream core k
  let st := { st with trap := some t, last := BitVec.ofNat 8 t.code.code, outs := [], atomicOut := false, firm := false }
  let s := (s.setStream core k st).leaveSems core k
  match s.sliceOf core with
  | some v => if v.handler then s.handlerFault x core k.num t else s.raiseHalt x (.stream core k) t
  | none => s

/-- A trap comes to a stream whose head retires first: the halt line rises at once, and the stream takes the trap after its
head (R263, R330). -/
def State.raiseLate (s : State) (core : Nat) (k : StreamId) (t : Trap) : State :=
  let st := s.stream core k
  (s.setStream core k { st with lateTrap := some t }).raiseHalt (s.ctxOf core) (.stream core k) t

/-- The executing stream raises a trap. -/
def State.trapCur (s : State) (t : Trap) : State := s.raiseTrap s.curCore s.curK t

/-- The executing stream takes the trap that has come to it late. -/
def State.trapLate (s : State) (t : Trap) : State := (s.setSt { s.st with lateTrap := none }).trapCur t

/-- The clock of a cluster in units of 0.5 MHz: a throttled cluster runs at half its domain's frequency (R368, R371). -/
def State.halfMhz (s : State) (i : Nat) : Nat :=
  let c := s.cluster i
  let f := (s.regulator c.reg).fmhz.toNat
  if c.tstate = 2 then f else 2 * f

/-- The skid of 48 cycles since the halt line of its context rose has passed for a core (R329). -/
def State.skidOver (s : State) (core : Nat) : Bool :=
  let i := clusterOf core
  decide (tblGet 0 (s.ctx (s.ctxOf core)).haltAt i + 48 < (s.cluster i).cycles)

/-- The tokens that the issued instructions of a stream have popped from its previous and its next queue (R37). -/
def Stream.poppedAll (st : Stream) : Nat × Nat :=
  (st.popped.1 + (st.ahead.map fun a => a.popped.1).sum, st.popped.2 + (st.ahead.map fun a => a.popped.2).sum)

/-- The tokens that the issued instructions of a stream have popped, given back, would overfill a queue: the head may finish
before the stop of its context is recorded (R25, R37, R343). -/
def Core.overfull (c : Core) (k : StreamId) : Bool :=
  let st := c.stream k
  let popped := st.poppedAll
  let tooFull (q : Option Nat) (n : Nat) : Bool := match q with
    | some q => decide (n ≠ 0) && decide (16 < c.tokens q + n)
    | none => false
  st.issued && (tooFull (popPrevQ k) popped.1 || tooFull (popNextQ k) popped.2)

/-- The clock of a core's cluster runs (R368, R369). -/
def State.clockRuns (s : State) (core : Nat) : Bool := decide ((s.cluster (clusterOf core)).clockStop ≤ s.time)

/-- The stream may execute: a slice is bound, its clock runs, and it has not yielded, stopped or trapped; its context runs, or
halts within the skid, or the head must, or should, retire before its stream stops; a handler slice runs while its context is stopped
(R31, R293, R316, R329, R330, R345). -/
def State.canRun (s : State) (core : Nat) (k : StreamId) : Bool :=
  let st := s.stream core k
  match s.sliceOf core with
  | none => false
  | some v =>
    let c := s.ctx v.ctx
    (st.mode == .run) && !st.stopped && st.trap.isNone && !st.held && s.clockRuns core &&
      (if v.handler then c.mode == .stopped
       else (c.mode == .run) &&
        (match c.halt with
         | none => true
         | some _ => !s.skidOver core || st.firm || (st.atomicOut && st.outs.isEmpty) || (s.core core).overfull k))

/-! ### The next PC (R14, R15) -/

/-- The highest frame address (R15). -/
def lastFrame : Nat := 0xFFFFFFFFFFFFC0

/-- The PC after the head, from the frame that holds it; `none` past the top of the address space (R15). -/
def State.nextPc (s : State) : Option PcWord :=
  let pc := s.st.pc.toNat
  let frame := pc - pc % 64
  let more :=
    match s.st.iq with
    | f :: _ => !isRecordWords f.words && decide (pc % 8 + 1 < f.words.headD 0 / 2 ^ 57 % 8)
    | [] => false
  if more then some (BitVec.ofNat 56 (pc + 1))
  else if lastFrame < frame + 64 then none
  else some (BitVec.ofNat 56 (frame + 64))
where
  isRecordWords (ws : List Nat) : Bool := ws.headD 0 / 2 ^ 60 % 16 == 2

/-- The trap of an instruction that has no next PC (R15, R98). -/
def noNextPc : Trap := { code := .badTarget, faddr := 0x0100000000000000 }

/-- A transfer target that fails at the transfer (R16). -/
def badTransfer (pc : PcWord) : Bool := decide (bits pc 3 3 ≠ 0) || decide (bits pc 0 3 = 7)

/-! ### Fetch groups (R229, R231) -/

/-- The stream's fetch group, if it is attached. -/
def State.fetchGroup (s : State) (core : Nat) (k : StreamId) : Option FetchGroup :=
  let st := s.stream core k
  if st.attached then
    (s.cluster (clusterOf core)).groups.find? fun g =>
      g.id == st.group && g.kind == k && (some g.slice == (s.core core).slice)
  else none

def State.setFetchGroup (s : State) (i : Nat) (g : FetchGroup) : State :=
  let c := s.cluster i
  s.setCluster i { c with groups := c.groups.map fun h => if h.id = g.id ∧ h.kind = g.kind then g else h }

/-- The positions of a list of cores. -/
def positionMask (cores : List Nat) : BitVec 4 := BitVec.ofNat 4 ((cores.map fun c => 2 ^ (c % 4)).sum)

/-- The trace record of streams of one kind that detach: those of the given cores of a cluster (R350). -/
def State.traceDetach (s : State) (cores : List Nat) (k : StreamId) (release : Bool) : State :=
  match cores with
  | [] => s
  | c :: _ =>
    s.traceRec (s.ctxOf c) (traceKey 4 (clusterOf c) 0) 4 0x30
      ((positionMask cores).toNat + k.num * 2 ^ 4 + release.toNat * 2 ^ 6)

/-- Detaches a stream: private fetch starts at its next PC, and frames delivered beyond that of its head are discarded; at
a drift release it starts at the next frame that has not been delivered (R227, R230 to R232). -/
def State.detachOne (s : State) (core : Nat) (k : StreamId) (release : Bool) : State :=
  let st := s.stream core k
  if st.attached then s.setStream core k { st with attached := false, iq := if release then st.iq else st.iq.take 1 } else s

/-- A stream detaches, with its trace record (R231, R232, R350). -/
def State.detach (s : State) (core : Nat) (k : StreamId) (release : Bool) : State :=
  if (s.stream core k).attached then (s.detachOne core k release).traceDetach [core] k release else s

/-- A control transfer resolves to a PC: the first member of the group to resolve it decides the path, and a member whose
outcome differs detaches (R231). -/
def State.resolveTransfer (s : State) (pc : PcWord) : State :=
  let st := s.st
  match s.fetchGroup s.curCore s.curK with
  | none => s
  | some g =>
    let s := s.setSt { st with transfers := st.transfers + 1 }
    match g.outcomes[st.transfers]? with
    | none => s.setFetchGroup (clusterOf s.curCore) { g with outcomes := g.outcomes ++ [pc.toNat] }
    | some p => if p = pc.toNat then s else s.detach s.curCore s.curK false

/-- The head has retired and the stream continues at a PC: a frame that is left is consumed; frames delivered beyond a
transfer are discarded (R229, R231). DESIGN CHOICE (log entry 47): R229 counts the frames delivered and those whose last
instruction has issued; a frame that a transfer leaves before its last instruction counts as consumed, and the frames discarded
beyond a transfer count as delivered no more. -/
def Stream.goto (st : Stream) (pc : PcWord) (transfer : Bool) : Stream :=
  let old := st.pc.toNat - st.pc.toNat % 64
  let new := pc.toNat - pc.toNat % 64
  if !transfer && old == new then { st with pc := pc }
  else if transfer then { st with pc := pc, iq := [], consumed := st.consumed + 1 }
  else { st with pc := pc, iq := st.iq.drop 1, consumed := st.consumed + 1 }

/-! ### Checkpoints (R356, R357) -/

/-- The counter hash (R87). -/
def counterHash (key ctr : W64) : W64 :=
  let z := key + ctr * 0x9E3779B97F4A7C15#64
  let z := (z ^^^ (z >>> 30)) * 0xBF58476D1CE4E5B9#64
  let z := (z ^^^ (z >>> 27)) * 0x94D049BB133111EB#64
  z ^^^ (z >>> 31)

/-- Vector opcodes whose field va names no vector register v0 to v319 (R133). -/
def noVectorA (op : Nat) : Bool :=
  [0x40, 0x42, 0x6A, 0x6B, 0x6E, 0x70, 0x71, 0x72, 0x73, 0x74, 0x76, 0x7B, 0x7C, 0x7D].contains op

/-- The first source operand of the word at the head (R356). -/
def State.checkOperand (s : State) (w : Nat) : W64 :=
  let op := w / 2 ^ 56
  let x (lo : Nat) : W64 := s.rx (BitVec.ofNat 5 (w / 2 ^ lo))
  if w < 256 then 0
  else if op < 0x40 then if op = 0x24 ∨ op = 0x25 ∨ op = 0x26 ∨ op = 0x28 then x 43 else x 38
  else if op < 0x80 then
    if noVectorA op then 0
    else
      let va := w / 2 ^ 30 % 2 ^ 9
      w64 ((tblGet (0 : Row) s.cur.pool (va / 32 * 512 + va % 32 * 16)).toNat)
  else if op < 0xA0 then x 43
  else if (0xA0 ≤ op ∧ op ≤ 0xA7) ∨ op = 0xA9 ∨ op = 0xAA ∨ op = 0xBD then
    if w / 2 ^ 24 % 4 = 0 then x 34 else w64 (w % 2 ^ 24)
  else x 38

/-- The fingerprint of the head at its issue (R356). -/
def State.fingerprint (s : State) : Nat :=
  let n := s.st.rc
  let opcode := if s.word < 256 then s.word else s.word / 2 ^ 56
  bits (counterHash (s.checkOperand s.word) (n * 256 + w64 opcode)) 32 32

/-- Whether the head is a checkpoint (R353, R356). -/
def State.atCheckpoint (s : State) : Bool :=
  let c := s.ctx s.curCtx
  let k := c.replayCpk.toNat
  let k := if 8 ≤ k ∧ k ≤ 24 then k else 24
  decide (c.replayMode ≠ 0) && (((s.st.rc.toNat + 1) % 2 ^ k) == 0)

/-- The checkpoint at an issue: logged in record mode; compared in replay mode, where a difference traps and puts a record
in the fault mailbox (R356, R357). -/
def State.checkpoint (s : State) : State × Option Trap :=
  if !s.atCheckpoint then (s, none)
  else
    let x := s.curCtx
    let c := s.ctx x
    let fp := s.fingerprint
    let n := s.st.rc.toNat
    if c.replayMode = 1 then (s.replayLog x 1 s.curCore s.curK.num 0 n fp, none)
    else
      match c.replayNext 1 s.curCore s.curK.num with
      | none => (s, none)
      | some r =>
        let want := bits r.2 0 32
        if want = fp then (s.replayUse x 1 s.curCore s.curK.num, none)
        else
          let w0 := 4 + x * 2 ^ 8 + s.curCore * 2 ^ 14 + s.curK.num * 2 ^ 22 + 0x40 * 2 ^ 24
          let s := s.mailbox c.part [w0, n, want + fp * 2 ^ 32, s.time % 2 ^ 64]
          let s := s.traceRec x (traceKey 0 s.curCore s.curK.num) 5 0x41 0
          (s, some { code := .replayDiverged, faddr := w64 n })

/-! ### Issue and retirement -/

/-- Queues of a list that hold fewer than `n` tokens, and queues with room for fewer than `n`: the depth, less the tokens
present, less the pushes `held` that issued instructions of the stream have reserved (R25, R99). -/
def Core.lacking (c : Core) (qs : List Nat) (n : Nat) : List Nat := qs.filter fun q => decide (c.tokens q < n)
def Core.crowded (c : Core) (held qs : List Nat) (n : Nat) : List Nat :=
  qs.filter fun q => decide (tokenDepth < c.tokens q + held.count q + n)

/-- How an instruction issues: the number of tokens it moves on each queue that its head names; whether it is a control
transfer, whose false guard resolves it as not taken (R231); whether its effect reads the guard lane by lane (R21); whether it
retires at its issue; and its kind. -/
structure Form where
  n : Nat := 1
  transfer : Bool := false
  lanes : Bool := false
  now : Bool := false
  kind : HeadKind := .plain
  deriving DecidableEq, Repr

/-- What an instruction reads of the random keys at its issue (R226). -/
def Core.randKeys (c : Core) : RandKeys := { srkey := c.srkey, srctr := c.srctr, vrkey := c.vrkey, vrctr := c.vrctr }

/-- The head takes its pops, reads its guard, and has issued (R21, R25). A `pool` shows as busy from here on (R117). -/
def State.issueHead (s : State) (h : Head) (f : Form) : State :=
  let c := (popQueues s.curK h).foldl (fun c q => c.takeTokens q f.n) s.cur
  let s := s.setCur { c with poolBusy := c.poolBusy || (f.kind == .pool && s.guardBit h) }
  let st := s.st
  s.setSt { st with
    issued := true, issuedNow := true, wait := none, guardOn := s.guardBit h, lanes := s.laneMask h
    issuedAt := s.cyc, kind := f.kind, keys := (s.cur.seenBy s.curK).randKeys
    popped := (if h.tok.getLsbD 3 then f.n else 0, if h.tok.getLsbD 2 then f.n else 0)
    pushes := (pushQueues s.curK h).flatMap (List.replicate f.n) }

/-- A retired instruction that pairs by its count is counted (R242, R243). -/
def Stream.countPair (st : Stream) : Stream :=
  match st.kind with
  | .pair key => { st with pairs := tblSet st.pairs key (tblGet 0 st.pairs key + 1) }
  | _ => st

/-- At its retirement, an instruction that has read uncorrectable data as zeros sets the poison bit (R339). -/
def Stream.poison (st : Stream) : Stream := if st.poisonDue then { st with flags := st.flags ||| 0x20 } else st

/-- The pushes of the head; they order what its stream has written (R26, R36). -/
def State.pushHead (s : State) (h : Head) (n : Nat) : State :=
  match pushQueues s.curK h with
  | [] => s
  | qs => let s := s.landSr s.curCore s.curK
          s.setCur (qs.foldl (fun c q => c.addTokens q n) s.cur)

/-- Retirement: the pushes, the retire count, and the next head; a `pool` is busy no longer (R26, R29, R117). -/
def State.retire (s : State) (h : Head) (n : Nat) (pc : PcWord) (transfer : Bool) : State :=
  let s := if transfer then s.resolveTransfer pc else s
  let s := s.pushHead h n
  let s := if s.st.kind = .pool then s.setCur { s.cur with poolBusy := false, reshape := none } else s
  let st := (s.st.poison.countPair.goto pc transfer).clearHead s.cyc
  s.setSt { st with rc := st.rc + 1 }

/-- The last core of a slice's gang has yielded: the slice has ended, and its committed current is on its way back (R32,
R306, R370). -/
def State.gangYield (s : State) : State :=
  match s.cur.slice, s.sliceOf s.curCore with
  | some n, some v =>
    if v.cores.all fun c => allStreams.all fun k => (s.stream c k).mode == .yielded then
      (s.setSlice n { v with current := [], ended := some s.time }).releaseCurrent v.current v.cores
    else s
  | _, _ => s

/-- Retirement that ends the stream's part of the slice: YIELDED, and out of its fetch group (R102, R227). DESIGN CHOICE (log
entries 33 and 34): the PC of a YIELDED stream stays at its `yield` or `tret`, and that instruction needs no next PC: one in
the last slot of the highest frame retires. -/
def State.retireLast (s : State) (h : Head) (n : Nat) : State :=
  let s := s.pushHead h n
  let st := s.st.poison.clearHead s.cyc
  (s.setSt { st with rc := st.rc + 1, mode := .yielded, iq := [], attached := false }).gangYield

/-- The wait classes of the trace (R350): TOKEN to MARK of R346. -/
def isWaitClass (c : Nat) : Bool := decide (4 ≤ c) && decide (c ≤ 0x75)

/-- The wait class of a stream has ended: its trace record, where it has lasted 256 cycles or more (R350). -/
def State.traceWaitOf (s : State) (core : Nat) (k : StreamId) : State :=
  let st := s.stream core k
  let n := s.cyclesOf core - st.clsSince
  if !isWaitClass st.cls || decide (n < 256) then s
  else s.traceRec (s.ctxOf core) (traceKey 0 core k.num) 1 0x02 (min n (2 ^ 32 - 1) + st.cls * 2 ^ 32)
def State.traceWait (s : State) : State := s.traceWaitOf s.curCore s.curK

/-- The wait class of a stream is `c` from this cycle on; one that ends is traced (R350). -/
def State.setClassOf (s : State) (core : Nat) (k : StreamId) (c : Nat) : State :=
  if (s.stream core k).cls = c then s
  else
    let s := s.traceWaitOf core k
    s.setStream core k { s.stream core k with cls := c, clsSince := s.cyclesOf core }
def State.setClass (s : State) (c : Nat) : State := s.setClassOf s.curCore s.curK c

/-- The head waits; a wait that goes on keeps the cycle of its beginning, and one that has passed its limit traps (R27). -/
def State.waitHead (s : State) (k : WaitKind) (limit : Nat) : State :=
  let since :=
    match s.st.wait with
    | some w => if w.kind.state = k.state ∧ w.kind.waitid = k.waitid then w.since else s.cyc
    | none => s.cyc
  let w : Waiting := { kind := k, since := since, limit := limit }
  let s := s.setSt { s.st with wait := some w }
  let now := (s.cur.waiting s.curK).getD w
  let s := s.setClass (s.cur.waitClass s.curCore now.kind)
  if s.expired s.curCore w then s.trapCur (s.expiryTrap s.curCore s.curK now.kind) else s

/-- A request goes out, once (R382, R386). -/
def State.sendOne (s : State) (o : Outbound) : State :=
  if s.st.outs.any fun p => p.key == o.key then s
  else
    let op : PortOp :=
      match o.atomic with
      | none => .read o.bus o.len
      | some (k, a, b) => .atomic o.bus o.len k a b
    let s := s.send o.peer op
    s.setSt { s.st with outs := s.st.outs ++ [{ o with sent := s.time }], atomicOut := s.st.atomicOut || o.atomic.isSome }

/-- The head needs completions: its requests go out, and it waits for the answers (R382, R386). -/
def State.sendHead (s : State) (os : List Outbound) : State := (os.foldl State.sendOne s).waitHead .outbound 0

/-- The effect of the executing head, from its first step: those that have been taken stand in its notes. -/
def Op.attempt {α : Type} (m : Op α) : Op α := fun s => m (s.setSt { s.st with noteIdx := 0 })

/-- The head, issued, performs its effect and retires, waits or traps. An instruction whose next PC does not exist takes no
effect (R15). -/
def State.finishHead (s : State) (h : Head) (f : Form) (eff : Op Flow) : State :=
  match Op.attempt eff s with
  | .ok s' .next =>
    match s.nextPc with
    | some pc => ((if f.transfer then s'.resolveTransfer pc else s').traceWait).retire h f.n pc false
    | none => s.trapCur noNextPc
  | .ok s' (.jump pc) =>
    if badTransfer pc then s.trapCur { code := .badTarget, faddr := w64 pc.toNat } else s'.traceWait.retire h f.n pc true
  | .ok s' .last =>
    match s.st.lateTrap with
    | some t => s.trapLate t
    | none => s'.traceWait.retireLast h f.n
  | .ok s' .stay => s'
  | .trap s' t => s'.trapCur t
  | .wait s' k limit => s'.waitHead k limit
  | .req s' os => s'.sendHead os
  | .pause s' => s'

/-- What a head that only issues does: it captures what it reads at its issue. -/
def State.captureHead {α : Type} (s : State) (cap : Op α) : State :=
  match Op.attempt cap s with
  | .ok s' _ => s'
  | .trap s' t => s'.trapCur t
  | .wait s' k limit => s'.waitHead k limit
  | .req s' os => s'.sendHead os
  | .pause s' => s'

/-- An expanded issue of the record at the head is complete (R55). -/
def State.expandDone (s : State) : State :=
  let s := s.traceWait
  { s.setSt { s.st.poison with
      expIssued := false, wait := none, outs := [], notes := [], noteIdx := 0, firm := false, poisonDue := false, atomicOut := false
      capt := none, captScope := none, cls := 0, clsSince := s.cyc } with
    expanded := true }

/-- An expanded issue: the instruction issues, evaluates its guard, and takes its effect, waits or traps as its single
form would; its token bits are zero, and it retires nothing (R55). -/
def State.runExpanded {α : Type} (s : State) (h : Head) (f : Form) (hold : State → Option (WaitKind × Nat)) (cap : Op α)
    (eff : α → Op Flow) : State :=
  match if s.st.expIssued then none else hold s with
  | some (k, limit) => s.waitHead k limit
  | none =>
    let s :=
      if s.st.expIssued then s
      else
        s.setSt { s.st with
          expIssued := true, issuedNow := true, wait := none, guardOn := s.guardBit h, lanes := s.laneMask h, issuedAt := s.cyc
          kind := f.kind, keys := (s.cur.seenBy s.curK).randKeys }
    let idle := !(f.lanes || s.st.guardOn)
    if s.issueOnly then (if idle then s else s.captureHead cap)
    else if idle then s.expandDone
    else
      match Op.attempt (opBind cap eff) s with
      | .ok s' _ => s'.expandDone
      | .trap s' t => s'.trapCur t
      | .wait s' k limit => s'.waitHead k limit
      | .req s' os => s'.sendHead os
      | .pause s' => s'

/-- `%stopat` holds the stream before its next issue; it names no stream of a handler slice (R345). -/
def State.stopAtHolds (s : State) (core : Nat) (k : StreamId) : Bool :=
  let c := s.ctx (s.ctxOf core)
  c.stopatEn && !((s.sliceOf core).any fun v => v.handler) && (c.stopatCore.toNat == core) && (c.stopatK.toNat == k.num) && decide (c.stopatRc.toNat ≤ (s.stream core k).rc.toNat)

/-- The stop at a retire count: en clears, the stream issues no further instruction, and the halt line rises with HOST_STOP by
the stream, whose own record carries no cause (R345). -/
def State.hostStopAt (s : State) (core : Nat) (k : StreamId) : State :=
  let x := s.ctxOf core
  let s := s.setCtx x { s.ctx x with stopatEn := false }
  let s := s.setStream core k { s.stream core k with held := true }
  s.raiseHalt x (.stream core k) { code := .hostStop }

/-- An encoded instruction at the head of the executing stream: it waits for tokens and room, and then for what `hold` names,
which keeps it from issuing, with the limit of that wait; it issues, evaluates its guard, captures what it reads at its issue,
performs its effect and retires (R21, R25, R26). -/
def runForm {α : Type} (h : Head) (f : Form) (hold : State → Option (WaitKind × Nat)) (cap : Op α) (eff : α → Op Flow)
    (s : State) : Host.Outcome State Fault Refusal :=
  let s := if f.now then { s with issueOnly := false, chosen := none } else s
  if s.expanding then .next (s.runExpanded h f hold cap eff)
  else if !s.canRun s.curCore s.curK then .next s
  else
    let idle (s : State) : Bool := s.st.skipping || !(f.lanes || s.st.guardOn)
    let go (s : State) : State :=
      if s.issueOnly then (if idle s then s else s.captureHead cap)
      else if idle s then
        match s.nextPc with
        | some pc =>
          let s := if f.transfer && !s.st.skipping then s.resolveTransfer pc else s
          s.traceWait.retire h f.n pc false
        | none => s.trapCur noNextPc
      else s.finishHead h f (opBind cap eff)
    if s.st.issued then .next (go s)
    else if s.stopAtHolds s.curCore s.curK then .next (s.hostStopAt s.curCore s.curK)
    else if let some t := s.st.lateTrap then .next (s.trapLate t)
    else
      let pops := popQueues s.curK h
      let pushes := pushQueues s.curK h
      if s.cur.lacking pops f.n ≠ [] ∨ s.cur.crowded s.st.pushes pushes f.n ≠ [] then
        .next (s.waitHead (.token (queueMask pops) (queueMask pushes) f.n) s.st.tlim.toNat)
      else
        match if s.st.skipping then none else hold s with
        | some (k, limit) => .next (s.waitHead k limit)
        | none =>
          let (s, bad) := if s.st.skipping then (s, none) else s.checkpoint
          match bad with
          | some t => .next (s.trapCur t)
          | none => .next (go ((s.setClass 0).issueHead h f))

/-- Nothing holds an instruction before its issue. -/
def noHold : State → Option (WaitKind × Nat) := fun _ => none

/-- An instruction of a form, which captures nothing at its issue. -/
def runTok (h : Head) (f : Form) (eff : Op Flow) (s : State) : Host.Outcome State Fault Refusal :=
  runForm h f noHold (opPure ()) (fun _ => eff) s

/-- An instruction that moves one token per queue and whose guard is bit 0 of its predicate. -/
def runHead (h : Head) (eff : Op Flow) (s : State) : Host.Outcome State Fault Refusal := runTok h {} eff s

/-- An instruction that reads at its issue what another stream could change before it retires, and retires there: it issues
and takes its effect in one turn (R101, R104, R106, R199). -/
def runNow (h : Head) (eff : Op Flow) (s : State) : Host.Outcome State Fault Refusal := runTok h { now := true } eff s

/-- A control transfer. -/
def runBranch (h : Head) (eff : Op Flow) (s : State) : Host.Outcome State Fault Refusal := runTok h { transfer := true } eff s

/-- An instruction that reaches memory, registers or the pool. -/
def runAccess (h : Head) (eff : Op Flow) (s : State) : Host.Outcome State Fault Refusal := runTok h { kind := .access } eff s

/-- The same, with what it captures at its issue. -/
def runCapture {α : Type} (h : Head) (cap : Op α) (eff : α → Op Flow) (s : State) : Host.Outcome State Fault Refusal :=
  runForm h { kind := .access } noHold cap eff s

/-- An instruction whose guard is a lane mask, which its effect reads. -/
def runLanes (h : Head) (eff : Op Flow) (s : State) : Host.Outcome State Fault Refusal :=
  runTok h { lanes := true, kind := .access } eff s

/-- An effect that is a change of the state, after which the stream goes on at the next PC. -/
def effect (f : State → State) : Op Flow := fun s => .ok (f s) .next

end Sys2Proof.Machine
end

