-- ==== Sys2Proof/Machine/Access.lean ====
section
/-! DEFINITION. The accesses of a stream to memory: uncorrectable data, link data, loads and stores of one unit. -/

namespace Sys2Proof.Machine

/-- Data that is uncorrectable, under the context's policy (R339, R383): a trap, or zeros, a record, and at retirement the
poison bit. -/
def uncorrectable (va pa : Nat) (k : Access) : Op Nat := fun s =>
  if (s.ctx s.curCtx).ue then
    let s := s.setSt { s.st with poisonDue := true }
    .ok (s.poisonRecord s.curCtx s.curCore s.curK.num va pa) 0
  else .trap s { code := .dataUncorrectable, faddr := w64 va, detail := k.code }

/-- The completion of the present step's request, or the request for it; its key is the step's second part. -/
def awaitOut (o : Outbound) : Op Completion := fun s =>
  match tblFind s.st.notes (s.noteKey 2) with
  | some (.answer c) => .ok s c
  | _ => .req s [{ o with key := s.noteKey 2 }]

/-- HOST or PEER data of a read or an atomic, in pieces of 8 bytes: logged in record mode, replaced by the logged pieces in
replay mode (R354, R355). -/
def State.hostPieces (s : State) (v : Nat) : List Nat → State × Nat
  | [] => (s, 0)
  | i :: rest =>
    let x := s.curCtx
    let piece := v / 2 ^ (64 * i) % 2 ^ 64
    let (s, piece) :=
      match (s.ctx x).replayNext 6 s.curCore s.curK.num with
      | some r => (s.replayUse x 6 s.curCore s.curK.num, r.2.toNat)
      | none => (s.replayLog x 6 s.curCore s.curK.num i s.st.rc.toNat piece, piece)
    let (s, w) := s.hostPieces v rest
    (s, piece * 2 ^ (64 * i) + w)

/-- Data that a link has returned. -/
def opHostData (len v : Nat) : Op Nat := fun s =>
  let (s, w) := s.hostPieces v (List.range (ceilDiv len 8))
  .ok s (w % 2 ^ (8 * len))

/-- The translation of the present step's access, made once (R202). -/
def opEntry (va len : Nat) (k : Access) : Op TlbEntry :=
  opBind
    (opPart 1 fun s =>
      match s.accessEntry va len k with
      | .error t => .trap s t
      | .ok e => .ok s (.page e))
    fun v s =>
      match v with
      | .page e => .ok s e
      | _ => .trap s { code := .memFault, faddr := w64 va, detail := k.code, resumable := false }

/-- The physical address that a POISON record gives: of a DEV row its first byte (R338). -/
def TlbEntry.recordPa (e : TlbEntry) (va : Nat) : Nat := if e.cls = 0 then e.phys va / 128 * 128 else e.phys va

/-- Reads `len` bytes of one unit at a virtual address, little-endian, within the present step (R193, R202, R383). -/
def readUnit (va len : Nat) : Op Nat :=
  opBind (opEntry va len .read) fun e s =>
    let pa := e.phys va
    if e.cls = 0 then
      let (s, row, bad) := (s.landRow s.curCore (pa / 128)).coreRow s.curCore (pa / 128)
      if bad then uncorrectable va (e.recordPa va) .read s
      else .ok s (row / 2 ^ (8 * (pa % 128)) % 2 ^ (8 * len))
    else
      opBind (awaitOut { peer := e.cls == 2, bus := e.busOf va, len := len, va := va })
        (fun c =>
          match c with
          | .data v => opHostData len v.toNat
          | _ => uncorrectable va (e.recordPa va) .read) s

/-- A posted write of the executing core placed on a port (R382). -/
def State.post (s : State) (peer : Bool) (bus len v : Nat) : State :=
  let s := s.send peer (.write bus len (BitVec.ofNat 1024 (v % 2 ^ (8 * len))))
  let c := s.cur
  if peer then s.setCur { c with peerSent := c.peerSent + 1 } else s.setCur { c with hostSent := c.hostSent + 1 }

/-- Writes `len` bytes of one unit at a virtual address, within the present step (R193, R202, R382). -/
def writeUnit (va len v : Nat) : Op Unit :=
  opBind (opEntry va len .write) fun e s =>
    let pa := e.phys va
    if e.cls = 0 then
      .ok ((s.landRow s.curCore (pa / 128)).coreWrite s.curCore (pa / 128) (v % 2 ^ (8 * len) * 2 ^ (8 * (pa % 128)))
        (spanMask (pa % 128) len)) ()
    else .ok (s.post (e.cls == 2) (e.busOf va) len v) ()

/-- A step that writes has no value. -/
def noValue (m : Op Unit) : Op Nat := opBind m fun _ => opPure 0

/-- An operation whose value is not used. -/
def unitOf (m : Op Nat) : Op Unit := opBind m fun _ => opPure ()

/-- A unit read or written as a step of its own. -/
def loadUnit (va len : Nat) : Op Nat := opAccess (readUnit va len)
def storeUnit (va len v : Nat) : Op Unit := unitOf (opAccess (noValue (writeUnit va len v)))

end Sys2Proof.Machine
end

