-- ==== Sys2Proof/WellFormed.lean ====
section
/-! DEFINITION. What the mapping-time scanner accepts of an instruction's operand values (R43 to R57, R60). -/

namespace Sys2Proof

/-- The types FL of R133. -/
def ElemTy.isFL : ElemTy → Bool
  | .f32 | .f16 | .bf16 => true
  | _ => false

/-- The types IN of R133. -/
def ElemTy.isIN : ElemTy → Bool
  | .i8 | .n8 | .i16 | .n16 | .i32 | .n32 => true
  | _ => false

/-- The types NF of R133. -/
def ElemTy.isNF : ElemTy → Bool
  | .e4m3 | .e5m2 | .e2m1 => true
  | _ => false

/-- FL or IN. -/
def ElemTy.isFLIN (t : ElemTy) : Bool := t.isFL || t.isIN

/-- FL, IN or NF. -/
def ElemTy.isFLINNF (t : ElemTy) : Bool := t.isFL || t.isIN || t.isNF

/-- The types AW of R133: every type of width 4 to 32. -/
def ElemTy.isAW (t : ElemTy) : Bool := t != .i64 && t != .n64

/-- `.n8` alone (`vrmrg`, R134). -/
def ElemTy.isN8 (t : ElemTy) : Bool := t == .n8

/-- The types P of R171. -/
def ElemTy.isP : ElemTy → Bool
  | .e4m3 | .e5m2 | .e2m1 | .i8 | .n8 | .i4 | .n4 | .bf16 | .f16 => true
  | _ => false

/-- The types S of R171. -/
def ElemTy.isS : ElemTy → Bool
  | .e4m3 | .e5m2 | .i8 | .n8 => true
  | _ => false

/-- The types DR of R171. -/
def ElemTy.isDR : ElemTy → Bool
  | .i8 | .n8 | .i16 | .n16 | .i32 | .n32 | .f32 | .f16 | .bf16 | .e4m3 | .e5m2 | .e2m1 => true
  | _ => false

/-- The types of `ld` and `st` (R195). -/
def ElemTy.isLS : ElemTy → Bool
  | .i8 | .n8 | .i16 | .n16 | .i32 | .n32 | .i64 | .n64 => true
  | _ => false

/-- Rounding fields of the column R of R133: 0 to 3 and 7. -/
def rmPlain (r : Rm) : Bool := decide (r.toNat ≤ 3) || r == 7

/-- Rounding fields of the column R, RS of R133: 0 to 4 and 7. -/
def rmWithRS (r : Rm) : Bool := decide (r.toNat ≤ 4) || r == 7

/-- Rotation codes that the scanner accepts (R125). -/
def rotOk (c : BitVec 4) : Bool := c != 7 && c != 8 && c != 15

/-- Special registers that `mfs` may name (R34 and the tables of the later chapters). -/
def srReadable (n : BitVec 12) : Bool :=
  match n.toNat with
  | 0x000 | 0x001 | 0x002 | 0x003 | 0x004 | 0x005 | 0x006 | 0x007 | 0x008 | 0x00A | 0x00B => true
  | 0x010 | 0x011 | 0x012 | 0x013 | 0x014 | 0x015 => true
  | 0x020 | 0x021 | 0x022 => true
  | 0x030 | 0x031 | 0x032 | 0x033 | 0x034 | 0x035 => true
  | 0x040 | 0x041 | 0x043 | 0x044 => true
  | 0x050 | 0x060 | 0x061 | 0x062 | 0x070 | 0x071 | 0x080 | 0x081 | 0x090 | 0x091 => true
  | 0x0A0 | 0x0A1 | 0x0A2 | 0x0B0 => true
  | _ => false

/-- Special registers that `mts` may name (R34 and the tables of the later chapters). -/
def srWritable (n : BitVec 12) : Bool :=
  match n.toNat with
  | 0x006 | 0x007 | 0x00A | 0x00B | 0x013 | 0x014 | 0x021 => true
  | 0x030 | 0x032 | 0x033 | 0x034 | 0x035 => true
  | 0x042 | 0x043 | 0x044 => true
  | 0x050 | 0x060 | 0x061 | 0x062 | 0x070 | 0x071 | 0x080 | 0x081 | 0x090 | 0x091 => true
  | 0x0A0 | 0x0A2 | 0x0B0 => true
  | _ => false

/-- The formats whose fields a loop-nest record may drive (R49 to R51). -/
inductive LnFormat where
  | V | M | D
  deriving DecidableEq, Repr

/-- The format of a loop-nest opcode by its place in the map (R58). -/
def lnFormat (op : Nat) : LnFormat :=
  if op < 0x80 then .V else if op < 0xA0 then .M else .D

/-- Trip count of a level (R54). -/
def LnRec.trip (r : LnRec) (lvl : Nat) : Nat := (r.trips.toNat / 2 ^ (16 * lvl)) % 2 ^ 16

/-- The bits of the packed fixed fields that no field of the format uses (R53). -/
def LnRec.fixedTail (r : LnRec) : Nat :=
  match lnFormat r.op.toNat with
  | .V => r.fixed.toNat % 2 ^ 18
  | .M => r.fixed.toNat % 2 ^ 6
  | .D => r.fixed.toNat % 2 ^ 24

/-- Roles that the format lacks have base 0 and strides 0 (R54). -/
def LnRec.wf (r : LnRec) : Bool :=
  r.fixedTail == 0 && (lnFormat r.op.toNat == .V || (r.sB == 0 && r.bB == 0))


/-- The field checks of the scanner that concern the values of an instruction's operands (R60 reasons 0x08 to 0x0F):
the ranges, types, rounding fields, special registers and values that the chapters accept. An event
has no operand here. -/
def Instr.wf (i : Instr) : Bool :=
  match i with
  | .nop h => h.tok == 0
  | .add .. | .addi .. | .sub .. | .mul .. | .mulh .. | .mulhn .. | .div .. | .divn .. | .rem .. | .remn .. | .land ..
  | .andi .. | .lor .. | .ori .. | .lxor .. | .xori .. | .shl .. | .shr .. | .sha .. | .shiL .. | .shiR .. | .shiA ..
  | .min .. | .max .. | .minn .. | .maxn .. | .seq .. | .slt .. | .sltn .. | .li .. | .lih .. | .madd .. => true
  | .bfx _ _ _ w pos => (w != 0 && decide (pos.toNat + w.toNat ≤ 64))
  | .bfxS _ _ _ w pos => (w != 0 && decide (pos.toNat + w.toNat ≤ 64))
  | .bfi _ _ _ w pos => (w != 0 && decide (pos.toNat + w.toNat ≤ 64))
  | .clz .. | .popc .. | .sel .. | .b .. => true
  | .bc _ _ _ cond _ _ => decide (cond.toNat ≤ 5)
  | .call .. | .jr .. => true
  | .loop _ rl _ _ => rl != 0
  | .tok h _ => (h.tok != 0 && h.guard == 0)
  | .mfs _ _ sr => srReadable sr
  | .mts _ _ sr => srWritable sr
  | .yieldI .. | .budgGet .. | .budgChk .. | .trapI .. | .tretResume .. | .tretSkip .. | .tretRestart .. | .tretKill ..
  | .hash .. | .idleCyc .. | .idleUntil .. | .haltI .. | .brk .. => true
  | .loopNestRecord _ rec => rec.wf
  | .vshape _ rowsLo colsLo colsHi rowsHi => decide ((rowsHi.toNat * 512 + rowsLo.toNat + 1) * (colsHi.toNat * 512 + colsLo.toNat + 1) ≤ 2048)
  | .vmov _ vd va ty => ty.isAW && decide (va.toNat < 320) && decide (vd.toNat < 320)
  | .vsplat _ vd _ ty => ty.isAW && decide (vd.toNat < 320)
  | .vadd _ vd va vb ty rm _ => rmPlain rm && ty.isFLIN && decide (vb.toNat < 320) && decide (va.toNat < 320) && decide (vd.toNat < 320)
  | .vsub _ vd va vb ty rm _ => rmPlain rm && ty.isFLIN && decide (vb.toNat < 320) && decide (va.toNat < 320) && decide (vd.toNat < 320)
  | .vmul _ vd va vb ty rm _ => rmPlain rm && ty.isFLIN && decide (vb.toNat < 320) && decide (va.toNat < 320) && decide (vd.toNat < 320)
  | .vfma _ vd va vb vc ty rm _ => rmPlain rm && ty.isFLIN && decide (vc.toNat < 320) && decide (vb.toNat < 320) && decide (va.toNat < 320) && decide (vd.toNat < 320)
  | .vfms _ vd va vb vc ty rm _ => rmPlain rm && ty.isFLIN && decide (vc.toNat < 320) && decide (vb.toNat < 320) && decide (va.toNat < 320) && decide (vd.toNat < 320)
  | .vdiv _ vd va vb ty rm _ => rmPlain rm && ty.isFL && decide (vb.toNat < 320) && decide (va.toNat < 320) && decide (vd.toNat < 320)
  | .vsqrt _ vd va ty rm _ => rmPlain rm && ty.isFL && decide (va.toNat < 320) && decide (vd.toNat < 320)
  | .vrsqrt _ vd va ty rm _ => rmPlain rm && ty.isFL && decide (va.toNat < 320) && decide (vd.toNat < 320)
  | .vrcp _ vd va ty rm _ => rmPlain rm && ty.isFL && decide (va.toNat < 320) && decide (vd.toNat < 320)
  | .vexp _ vd va ty rm _ => rmPlain rm && ty.isFL && decide (va.toNat < 320) && decide (vd.toNat < 320)
  | .vexp2 _ vd va ty rm _ => rmPlain rm && ty.isFL && decide (va.toNat < 320) && decide (vd.toNat < 320)
  | .vlog2 _ vd va ty rm _ => rmPlain rm && ty.isFL && decide (va.toNat < 320) && decide (vd.toNat < 320)
  | .vtanh _ vd va ty rm _ => rmPlain rm && ty.isFL && decide (va.toNat < 320) && decide (vd.toNat < 320)
  | .vsigm _ vd va ty rm _ => rmPlain rm && ty.isFL && decide (va.toNat < 320) && decide (vd.toNat < 320)
  | .vgelu _ vd va ty rm _ => rmPlain rm && ty.isFL && decide (va.toNat < 320) && decide (vd.toNat < 320)
  | .vmin _ vd va vb ty => ty.isFLIN && decide (vb.toNat < 320) && decide (va.toNat < 320) && decide (vd.toNat < 320)
  | .vmax _ vd va vb ty => ty.isFLIN && decide (vb.toNat < 320) && decide (va.toNat < 320) && decide (vd.toNat < 320)
  | .vminn _ vd va vb ty => ty.isFLIN && decide (vb.toNat < 320) && decide (va.toNat < 320) && decide (vd.toNat < 320)
  | .vmaxn _ vd va vb ty => ty.isFLIN && decide (vb.toNat < 320) && decide (va.toNat < 320) && decide (vd.toNat < 320)
  | .vabs _ vd va ty sat => ty.isFLIN && decide (va.toNat < 320) && decide (vd.toNat < 320) && (!sat || ElemTy.isIN ty)
  | .vneg _ vd va ty sat => ty.isFLIN && decide (va.toNat < 320) && decide (vd.toNat < 320) && (!sat || ElemTy.isIN ty)
  | .vand _ vd va vb ty => ty.isAW && decide (vb.toNat < 320) && decide (va.toNat < 320) && decide (vd.toNat < 320)
  | .vor _ vd va vb ty => ty.isAW && decide (vb.toNat < 320) && decide (va.toNat < 320) && decide (vd.toNat < 320)
  | .vxor _ vd va vb ty => ty.isAW && decide (vb.toNat < 320) && decide (va.toNat < 320) && decide (vd.toNat < 320)
  | .vshl _ vd va vb ty => ty.isIN && decide (vb.toNat < 320) && decide (va.toNat < 320) && decide (vd.toNat < 320)
  | .vshr _ vd va vb ty => ty.isIN && decide (vb.toNat < 320) && decide (va.toNat < 320) && decide (vd.toNat < 320)
  | .vcmp _ _ va vb ty cond => decide (cond.toNat ≤ 6) && ty.isFLIN && decide (vb.toNat < 320) && decide (va.toNat < 320) && (cond != 6 || ElemTy.isFL ty)
  | .vsel _ vd va vb _ ty => ty.isAW && decide (vb.toNat < 320) && decide (va.toNat < 320) && decide (vd.toNat < 320)
  | .vcvt _ vd va src ty rm amax _ => rmWithRS rm && ty.isAW && src.isAW && decide (va.toNat < 320) && decide (vd.toNat < 320) && (rm != 4 || decide (ty.width < src.width)) && (!amax || ElemTy.isNF ty)
  | .vscale _ vd va vb ty rm _ _ => rmPlain rm && ty.isFL && decide (vb.toNat < 320) && decide (va.toNat < 320) && decide (vd.toNat < 320)
  | .vrsum _ vd va ty rm => rmPlain rm && ty.isFLIN && decide (va.toNat < 320) && decide (vd.toNat < 320)
  | .vrmax _ vd va ty => ty.isFLIN && decide (va.toNat < 320) && decide (vd.toNat < 320)
  | .vrmin _ vd va ty => ty.isFLIN && decide (va.toNat < 320) && decide (vd.toNat < 320)
  | .vcsum _ vd va ty rm => rmPlain rm && ty.isFLIN && decide (va.toNat < 320) && decide (vd.toNat < 320)
  | .vscan _ vd va ty rm _ => rmPlain rm && ty.isFLIN && decide (va.toNat < 320) && decide (vd.toNat < 320)
  | .vsortk _ vd va vb _ ty => ty.isFLIN && decide (vb.toNat < 320) && decide (va.toNat < 320) && decide (vd.toNat < 320)
  | .vtrans _ vd va ty => ty.isAW && decide (va.toNat < 320) && decide (vd.toNat < 320)
  | .vperm _ vd va vb ty _ => ty.isAW && decide (vb.toNat < 320) && decide (va.toNat < 320) && decide (vd.toNat < 320)
  | .vrmrg _ vd va vb sh ty => ty.isN8 && decide (sh.toNat ≤ 127) && decide (vb.toNat < 320) && decide (va.toNat < 320) && decide (vd.toNat < 320)
  | .vrand _ vd ty => ty.isFLIN && decide (vd.toNat < 320)
  | .vdrop _ _ _ => true
  | .vpush _ vd va vb ty => ty.isAW && decide (vb.toNat < 320) && decide (va.toNat < 320) && decide (vd.toNat < 320)
  | .vpop _ vd va vb ty => ty.isAW && decide (vb.toNat < 320) && decide (va.toNat < 320) && decide (vd.toNat < 320)
  | .vidx _ vd ty rm form => decide (form.toNat ≤ 2) && rmPlain rm && ty.isFLIN && decide (vd.toNat < 320)
  | .vlut _ vd va vb ty => ty.isAW && decide (vb.toNat < 320) && decide (va.toNat < 320) && decide (vd.toNat < 320)
  | .vpand .. | .vpor .. | .vpnot .. | .vpcnt .. | .vpfirst .. => true
  | .vextr _ _ va _ ty => ty.isAW && decide (va.toNat < 320)
  | .vins _ vd _ _ ty => ty.isAW && decide (vd.toNat < 320)
  | .vclamp _ vd va vb vc ty => ty.isFLIN && decide (vc.toNat < 320) && decide (vb.toNat < 320) && decide (va.toNat < 320) && decide (vd.toNat < 320)
  | .vround _ vd va ty rm => rmPlain rm && ty.isFL && decide (va.toNat < 320) && decide (vd.toNat < 320)
  | .vmuls _ vd va _ ty rm _ => rmPlain rm && ty.isFLIN && decide (va.toNat < 320) && decide (vd.toNat < 320)
  | .vaddacc _ _ va ty rm => rmPlain rm && ty.isFL && decide (va.toNat < 320)
  | .vrdacc _ vd _ ty rm amax _ => rmPlain rm && ty.isFLINNF && decide (vd.toNat < 320) && (!amax || ElemTy.isNF ty)
  | .vzacc _ _ => true
  | .vlive _ vd => decide (vd.toNat < 320)
  | .vliveNone _ => true
  | .mmul _ ra _ _ v _ _ _ _ ty rot sp => rotOk rot && ty.isP && decide (v.toNat < 320) && (sp || (ra == 0 && rot == 0))
  | .mmuls _ ra _ _ v _ _ _ _ ty rot sp => rotOk rot && ty.isS && decide (v.toNat < 320) && (sp || (ra == 0 && rot == 0))
  | .mmulg _ _ _ _ v _ _ _ _ ty => ty.isP && decide (v.toNat < 320)
  | .mmulz _ ra _ _ v _ _ _ _ ty rot sp => rotOk rot && ty.isP && decide (v.toNat < 320) && (sp || (ra == 0 && rot == 0))
  | .mdrain _ ra _ _ v _ _ _ _ ty rot sp => rotOk rot && ty.isDR && decide (v.toNat < 320) && (sp || (ra == 0 && rot == 0))
  | .mscl _ v _ _ _ _ _ => decide (v.toNat < 320)
  | .msclOff _ _ _ _ _ _ => true
  | .mbias _ ra v _ _ _ _ grp => decide (v.toNat < 320) && (grp || ra == 0)
  | .mbiasOff .. | .mact .. => true
  | .mwld _ _ _ v _ _ _ _ rot => rotOk rot && decide (v.toNat < 320)
  | .mwstr _ _ _ v _ _ _ _ => decide (v.toNat < 320)
  | .mwwait .. | .mmeta .. | .mfmt .. | .msync .. => true
  | .mqst _ v _ _ _ _ => decide (v.toNat < 320)
  | .mconv _ _ _ _ v _ _ _ _ ty rot => rotOk rot && ty.isP && decide (v.toNat < 320)
  | .mdwc _ _ _ _ v _ _ _ _ ty rot => rotOk rot && ty.isP && decide (v.toNat < 320)
  | .mtr _ _ _ v _ _ _ _ ty rot => rotOk rot && ty.isP && decide (v.toNat < 320)
  | .macc _ _ v _ _ _ _ => decide (v.toNat < 320)
  | .mcpyOut _ _ v _ _ _ _ => decide (v.toNat < 320)
  | .mcpyIn _ _ v _ _ _ _ => decide (v.toNat < 320)
  | .msem .. | .mabort .. => true
  | .ld _ _ ra rot ty space off => decide (space.toNat ≤ 2) && ty.isLS && rotOk rot && (decide (space = 0) || ra == 0) && (decide (space ≠ 0) || rot == 0) && (decide (space ≠ 1) || decide (off.toNat < 0x400000))
  | .st _ _ ra rot ty space off => decide (space.toNat ≤ 2) && ty.isLS && rotOk rot && (decide (space = 0) || ra == 0) && (decide (space ≠ 0) || rot == 0) && (decide (space ≠ 1) || decide (off.toNat < 0x400000))
  | .vld _ reg ra rot space off => decide (space.toNat ≤ 2) && rotOk rot && decide (reg.toNat < 384) && (decide (space = 0) || ra == 0) && (decide (space ≠ 0) || rot == 0) && (decide (space ≠ 1) || decide (off.toNat < 0x400000))
  | .vst _ reg ra rot space off => decide (space.toNat ≤ 2) && rotOk rot && decide (reg.toNat < 384) && (decide (space = 0) || ra == 0) && (decide (space ≠ 0) || rot == 0) && (decide (space ≠ 1) || decide (off.toNat < 0x400000))
  | .vlds _ reg ra rot space off => decide (space.toNat ≤ 2) && rotOk rot && decide (reg.toNat < 384) && (decide (space = 0) || ra == 0) && (decide (space ≠ 0) || rot == 0) && (decide (space ≠ 1) || decide (off.toNat < 0x400000))
  | .vsts _ reg ra rot space off => decide (space.toNat ≤ 2) && rotOk rot && decide (reg.toNat < 384) && (decide (space = 0) || ra == 0) && (decide (space ≠ 0) || rot == 0) && (decide (space ≠ 1) || decide (off.toNat < 0x400000))
  | .vldx _ reg ra rot space off => decide (space.toNat ≤ 2) && rotOk rot && decide (reg.toNat < 384) && (decide (space = 0) || ra == 0) && (decide (space ≠ 0) || rot == 0) && (decide (space ≠ 1) || decide (off.toNat < 0x400000))
  | .vstx _ reg ra rot space off => decide (space.toNat ≤ 2) && rotOk rot && decide (reg.toNat < 384) && (decide (space = 0) || ra == 0) && (decide (space ≠ 0) || rot == 0) && (decide (space ≠ 1) || decide (off.toNat < 0x400000))
  | .touchR .. | .touchW .. => true
  | .cpy _ _ ra rot space off => (space == 1 || space == 2) && rotOk rot && (decide (space = 0) || ra == 0) && (decide (space ≠ 0) || rot == 0) && (decide (space ≠ 1) || decide (off.toNat < 0x400000))
  | .cpyw _ _ ra rot space off => (space == 1 || space == 2) && rotOk rot && (decide (space = 0) || ra == 0) && (decide (space ≠ 0) || rot == 0) && (decide (space ≠ 1) || decide (off.toNat < 0x400000))
  | .pfet _ _ _ _ => true
  | .poolReshape _ _ _ role _ _ => decide (role.toNat ≤ 5)
  | .poolPin .. | .poolUnpin .. => true
  | .pstat _ _ which => decide (which.toNat ≤ 8)
  | .wbinvAll .. | .wbinvRng .. | .rset .. | .rsetClr .. | .rput .. => true
  | .rget _ _ _ limit => limit != 0
  | .rclaim _ _ _ _ n => n != 0
  | .rclaimRel _ _ _ n => n != 0
  | .rwaitf _ _ _ _ limit => limit != 0
  | .rwaite _ _ _ _ limit => limit != 0
  | .rstatPos .. | .rstatSpill .. => true
  | .wenq _ _ _ _ _ _ n => n != 0
  | .semi _ _ _ _ => true
  | .semw _ _ limit k _ => k != 0 && limit != 0
  | .semwTry _ _ _ _ => true
  | .sems _ _ k _ => k != 0
  | .mark .. | .fenceRel .. | .fenceAcq .. | .fenceFull .. | .epush .. => true
  | .epop _ _ _ limit => limit != 0
  | .detach .. | .joinOpen .. => true
  | .join _ limit _ => limit != 0
  | .dsync _ _ level limit _ => limit != 0 && decide (level.toNat ≤ 3)
  | .dphaseComp .. | .dphaseComm .. => true
  | .cbcast _ _ _ limit _ => limit != 0
  | .dinfo _ _ level _ => decide (level.toNat ≤ 3)
  | .xsemI _ _ _ _ => true
  | .xsemW _ _ limit k _ => k != 0 && limit != 0
  | .xsemTry _ _ _ _ => true
  | .xsemS _ _ k _ => k != 0
  | .scset _ _ _ scope => (scope != 0 && scope != 1 && scope != 30 && scope != 31)
  | .scget _ _ _ w => decide (w.toNat ≤ 4)
  | .amo _ _ _ _ _ op _ ty => decide (op.toNat ≤ 9) && (ty != 3 && ((op == 9) == (ty == 2)))
  | .amon _ _ _ _ op ord ty => decide (op.toNat ≤ 9) && (op != 8 && ty != 3 && ((op == 9) == (ty == 2)) && (ord == 0 || ord == 2))
  | .acas _ _ _ _ _ _ ty => (ty == 0 || ty == 1)
  | .marm _ _ _ => true
  | .mwait _ _ limit => limit != 0
  | .vdec .. | .mask .. | .gsx .. | .rfshLayer .. | .rfshTile .. | .mthrThr .. | .mthrLim .. | .mthrNref .. | .enq ..
  | .enqR .. | .depDec .. | .depDecr .. | .depArm .. => true
  | .pwr _ _ _ dw => decide (dw.toNat ≤ 1)
  | .pamoAdd _ _ _ _ _ ty => (ty == 0 || ty == 1)
  | .pamoSwap _ _ _ _ _ ty => (ty == 0 || ty == 1)
  | .pamoCas _ rd _ rb _ ty => (ty != 3 && (ty != 2 || (rd != 0 && !(rd.getLsbD 0) && !(rb.getLsbD 0))))
  | .tmark .. | .dump .. => true
  | .ntfy _ _ v => v != 0
  | .idleWake | .matrixCommandStart | .matrixCommandComplete | .matrixSemExpired | .touchWindowExpiry | .tileBusy
  | .ringWaitExpired | .spillMove | .semWaitExpired | .markWaitExpired | .engineWaitExpired | .joinExpired | .domExpired
  | .monitorEviction | .spuriousEvent | .mwaitExpired | .openStream | .decodeUnit | .closeStream | .maskCommand
  | .gsxCommand | .rfshCommand | .mthrCommand | .heldEnqueueEntry | .tokenWaitExpired | .frameFetch | .driftRelease
  | .pageWalk | .tinvWrite | .invalidationComplete | .xscanWrite | .scanComplete | .seedWrite | .bgrantWrite
  | .stopatWrite | .hostStopAt | .selectionRound | .controlIntervalStart | .reserve | .reservationRetry | .grantLapse
  | .bind | .budgetExhausted | .sliceEnd | .currentReturn | .contextStopped | .handlerSliceBind | .handlerSliceEnd
  | .traceFrameTimeout | .replayStarved | .registerWrite | .queueControlWrite | .hostEnqueue | .partitionWrite
  | .l2ModeWrite | .l2ModeSwitch | .contextInstall | .hostStop | .scopeCommand | .eventWordClear | .resetContext
  | .resetPartition | .resetModule | .functionLevelReset | .hotReset | .coldBoot | .recoveryBlock | .recoveryCommit
  | .getVersion | .getCapabilities | .negotiateAlgorithms | .getDigests | .getCertificate | .challenge
  | .getMeasurements | .spdmUnsupported | .incomingPostedWrite | .incomingRead | .incomingAtomicOp | .outboundCompletion
  | .completionTimeout | .ptmDialogue | .miosorFlitRetry | .retrain | .laneRepair | .stackPauseEnd | .sentinelUpdate
  | .rowActivation | .refreshWindowStart | .regulatorWrite | .regulatorChangeDone | .clusterPowerWrite
  | .regulatorSwitch | .thermal | .eolUpdate | .measurementUpdate | .ceLasting | .poolRowRetire | .instructionRetire
  | .videoCommandCompletion | .portLinkChange => true

end Sys2Proof
end

