-- ==== Sys2Proof/Decode.lean ====
section
/-! DEFINITION. From bits to instructions and back: the instruction word (R42 to R52), the loop-nest record (R53 to
R56), the opcode map (R58, R59) and the checks of the mapping-time scanner with their reasons (R60). -/

namespace Sys2Proof

/-- The reasons of the scanner (R60), which are the refusals of the decoder. -/
inductive Reason where
  | badKind | streamTag | countZero | slotNonzero | opcodeUnassigned | opcodeStream | tokenBit | reservedNonzero
  | regRange | type | rounding | specialReg | lnOpcode | lnRange | fieldValue
  deriving DecidableEq, Repr

/-- The code of a reason (R60). -/
def Reason.code : Reason → Nat
  | .badKind => 0x01
  | .streamTag => 0x02
  | .countZero => 0x03
  | .slotNonzero => 0x04
  | .opcodeUnassigned => 0x05
  | .opcodeStream => 0x06
  | .tokenBit => 0x07
  | .reservedNonzero => 0x08
  | .regRange => 0x09
  | .type => 0x0A
  | .rounding => 0x0B
  | .specialReg => 0x0C
  | .lnOpcode => 0x0D
  | .lnRange => 0x0E
  | .fieldValue => 0x0F

/-- A check: where it fails, the decoder answers its reason. -/
def need (ok : Bool) (r : Reason) (k : Except Reason Instr) : Except Reason Instr :=
  if ok then k else .error r

/-- The `w` bits of `n` from bit `lo` up. -/
def fld (n lo w : Nat) : Nat := n / 2 ^ lo % 2 ^ w

/-- The head in bits 55 to 48 of a word (R42). -/
def headOf (n : Nat) : Head := ⟨BitVec.ofNat 4 (fld n 52 4), BitVec.ofNat 4 (fld n 48 4)⟩

/-- Fields of the given widths laid side by side, the first lowest. -/
def pack : List (Nat × Nat) → Nat
  | [] => 0
  | (w, v) :: rest => v % 2 ^ w + 2 ^ w * pack rest


/-- `NOP` (R110). -/
def decNop (wd : Nat) : Except Reason Instr :=
  let h : Head := headOf wd
  need (fld wd 0 24 == 0 && fld wd 28 5 == 0 && fld wd 33 5 == 0 && fld wd 38 5 == 0 && fld wd 43 5 == 0) .reservedNonzero <|
  need (fld wd 24 4 == 0 && h.tok == 0) .fieldValue <|
  .ok (.nop h)

/-- `ADD` (R93). -/
def decAdd (wd : Nat) : Except Reason Instr :=
  let h : Head := headOf wd
  let rd : Reg := BitVec.ofNat 5 (fld wd 43 5)
  let ra : Reg := BitVec.ofNat 5 (fld wd 38 5)
  let rb : Reg := BitVec.ofNat 5 (fld wd 33 5)
  need (fld wd 0 24 == 0 && fld wd 28 5 == 0) .reservedNonzero <|
  need (fld wd 24 4 == 0) .fieldValue <|
  .ok (.add h rd ra rb)

/-- `ADDI` (R95). -/
def decAddi (wd : Nat) : Except Reason Instr :=
  let h : Head := headOf wd
  let rd : Reg := BitVec.ofNat 5 (fld wd 43 5)
  let ra : Reg := BitVec.ofNat 5 (fld wd 38 5)
  let imm : BitVec 32 := BitVec.ofNat 32 (fld wd 0 32)
  need (fld wd 32 6 == 0) .fieldValue <|
  .ok (.addi h rd ra imm)

/-- `SUB` (R93). -/
def decSub (wd : Nat) : Except Reason Instr :=
  let h : Head := headOf wd
  let rd : Reg := BitVec.ofNat 5 (fld wd 43 5)
  let ra : Reg := BitVec.ofNat 5 (fld wd 38 5)
  let rb : Reg := BitVec.ofNat 5 (fld wd 33 5)
  need (fld wd 0 24 == 0 && fld wd 28 5 == 0) .reservedNonzero <|
  need (fld wd 24 4 == 0) .fieldValue <|
  .ok (.sub h rd ra rb)

/-- `MUL` (R93). -/
def decMul (wd : Nat) : Except Reason Instr :=
  let h : Head := headOf wd
  let rd : Reg := BitVec.ofNat 5 (fld wd 43 5)
  let ra : Reg := BitVec.ofNat 5 (fld wd 38 5)
  let rb : Reg := BitVec.ofNat 5 (fld wd 33 5)
  need (fld wd 0 24 == 0 && fld wd 28 5 == 0) .reservedNonzero <|
  need (fld wd 24 4 == 0) .fieldValue <|
  .ok (.mul h rd ra rb)

/-- `MULH` (R93). -/
def decMulh (wd : Nat) : Except Reason Instr :=
  let h : Head := headOf wd
  let rd : Reg := BitVec.ofNat 5 (fld wd 43 5)
  let ra : Reg := BitVec.ofNat 5 (fld wd 38 5)
  let rb : Reg := BitVec.ofNat 5 (fld wd 33 5)
  need (fld wd 0 24 == 0 && fld wd 28 5 == 0) .reservedNonzero <|
  need (fld wd 24 4 == 0) .fieldValue <|
  .ok (.mulh h rd ra rb)

/-- `MULHN` (R93). -/
def decMulhn (wd : Nat) : Except Reason Instr :=
  let h : Head := headOf wd
  let rd : Reg := BitVec.ofNat 5 (fld wd 43 5)
  let ra : Reg := BitVec.ofNat 5 (fld wd 38 5)
  let rb : Reg := BitVec.ofNat 5 (fld wd 33 5)
  need (fld wd 0 24 == 0 && fld wd 28 5 == 0) .reservedNonzero <|
  need (fld wd 24 4 == 0) .fieldValue <|
  .ok (.mulhn h rd ra rb)

/-- `DIV` (R94). -/
def decDiv (wd : Nat) : Except Reason Instr :=
  let h : Head := headOf wd
  let rd : Reg := BitVec.ofNat 5 (fld wd 43 5)
  let ra : Reg := BitVec.ofNat 5 (fld wd 38 5)
  let rb : Reg := BitVec.ofNat 5 (fld wd 33 5)
  need (fld wd 0 24 == 0 && fld wd 28 5 == 0) .reservedNonzero <|
  need (fld wd 24 4 == 0) .fieldValue <|
  .ok (.div h rd ra rb)

/-- `DIVN` (R94). -/
def decDivn (wd : Nat) : Except Reason Instr :=
  let h : Head := headOf wd
  let rd : Reg := BitVec.ofNat 5 (fld wd 43 5)
  let ra : Reg := BitVec.ofNat 5 (fld wd 38 5)
  let rb : Reg := BitVec.ofNat 5 (fld wd 33 5)
  need (fld wd 0 24 == 0 && fld wd 28 5 == 0) .reservedNonzero <|
  need (fld wd 24 4 == 0) .fieldValue <|
  .ok (.divn h rd ra rb)

/-- `REM` (R94). -/
def decRem (wd : Nat) : Except Reason Instr :=
  let h : Head := headOf wd
  let rd : Reg := BitVec.ofNat 5 (fld wd 43 5)
  let ra : Reg := BitVec.ofNat 5 (fld wd 38 5)
  let rb : Reg := BitVec.ofNat 5 (fld wd 33 5)
  need (fld wd 0 24 == 0 && fld wd 28 5 == 0) .reservedNonzero <|
  need (fld wd 24 4 == 0) .fieldValue <|
  .ok (.rem h rd ra rb)

/-- `REMN` (R94). -/
def decRemn (wd : Nat) : Except Reason Instr :=
  let h : Head := headOf wd
  let rd : Reg := BitVec.ofNat 5 (fld wd 43 5)
  let ra : Reg := BitVec.ofNat 5 (fld wd 38 5)
  let rb : Reg := BitVec.ofNat 5 (fld wd 33 5)
  need (fld wd 0 24 == 0 && fld wd 28 5 == 0) .reservedNonzero <|
  need (fld wd 24 4 == 0) .fieldValue <|
  .ok (.remn h rd ra rb)

/-- `AND` (R93). -/
def decLand (wd : Nat) : Except Reason Instr :=
  let h : Head := headOf wd
  let rd : Reg := BitVec.ofNat 5 (fld wd 43 5)
  let ra : Reg := BitVec.ofNat 5 (fld wd 38 5)
  let rb : Reg := BitVec.ofNat 5 (fld wd 33 5)
  need (fld wd 0 24 == 0 && fld wd 28 5 == 0) .reservedNonzero <|
  need (fld wd 24 4 == 0) .fieldValue <|
  .ok (.land h rd ra rb)

/-- `ANDI` (R95). -/
def decAndi (wd : Nat) : Except Reason Instr :=
  let h : Head := headOf wd
  let rd : Reg := BitVec.ofNat 5 (fld wd 43 5)
  let ra : Reg := BitVec.ofNat 5 (fld wd 38 5)
  let imm : BitVec 32 := BitVec.ofNat 32 (fld wd 0 32)
  need (fld wd 32 6 == 0) .fieldValue <|
  .ok (.andi h rd ra imm)

/-- `OR` (R93). -/
def decLor (wd : Nat) : Except Reason Instr :=
  let h : Head := headOf wd
  let rd : Reg := BitVec.ofNat 5 (fld wd 43 5)
  let ra : Reg := BitVec.ofNat 5 (fld wd 38 5)
  let rb : Reg := BitVec.ofNat 5 (fld wd 33 5)
  need (fld wd 0 24 == 0 && fld wd 28 5 == 0) .reservedNonzero <|
  need (fld wd 24 4 == 0) .fieldValue <|
  .ok (.lor h rd ra rb)

/-- `ORI` (R95). -/
def decOri (wd : Nat) : Except Reason Instr :=
  let h : Head := headOf wd
  let rd : Reg := BitVec.ofNat 5 (fld wd 43 5)
  let ra : Reg := BitVec.ofNat 5 (fld wd 38 5)
  let imm : BitVec 32 := BitVec.ofNat 32 (fld wd 0 32)
  need (fld wd 32 6 == 0) .fieldValue <|
  .ok (.ori h rd ra imm)

/-- `XOR` (R93). -/
def decLxor (wd : Nat) : Except Reason Instr :=
  let h : Head := headOf wd
  let rd : Reg := BitVec.ofNat 5 (fld wd 43 5)
  let ra : Reg := BitVec.ofNat 5 (fld wd 38 5)
  let rb : Reg := BitVec.ofNat 5 (fld wd 33 5)
  need (fld wd 0 24 == 0 && fld wd 28 5 == 0) .reservedNonzero <|
  need (fld wd 24 4 == 0) .fieldValue <|
  .ok (.lxor h rd ra rb)

/-- `XORI` (R95). -/
def decXori (wd : Nat) : Except Reason Instr :=
  let h : Head := headOf wd
  let rd : Reg := BitVec.ofNat 5 (fld wd 43 5)
  let ra : Reg := BitVec.ofNat 5 (fld wd 38 5)
  let imm : BitVec 32 := BitVec.ofNat 32 (fld wd 0 32)
  need (fld wd 32 6 == 0) .fieldValue <|
  .ok (.xori h rd ra imm)

/-- `SHL` (R93). -/
def decShl (wd : Nat) : Except Reason Instr :=
  let h : Head := headOf wd
  let rd : Reg := BitVec.ofNat 5 (fld wd 43 5)
  let ra : Reg := BitVec.ofNat 5 (fld wd 38 5)
  let rb : Reg := BitVec.ofNat 5 (fld wd 33 5)
  need (fld wd 0 24 == 0 && fld wd 28 5 == 0) .reservedNonzero <|
  need (fld wd 24 4 == 0) .fieldValue <|
  .ok (.shl h rd ra rb)

/-- `SHR` (R93). -/
def decShr (wd : Nat) : Except Reason Instr :=
  let h : Head := headOf wd
  let rd : Reg := BitVec.ofNat 5 (fld wd 43 5)
  let ra : Reg := BitVec.ofNat 5 (fld wd 38 5)
  let rb : Reg := BitVec.ofNat 5 (fld wd 33 5)
  need (fld wd 0 24 == 0 && fld wd 28 5 == 0) .reservedNonzero <|
  need (fld wd 24 4 == 0) .fieldValue <|
  .ok (.shr h rd ra rb)

/-- `SHA` (R93). -/
def decSha (wd : Nat) : Except Reason Instr :=
  let h : Head := headOf wd
  let rd : Reg := BitVec.ofNat 5 (fld wd 43 5)
  let ra : Reg := BitVec.ofNat 5 (fld wd 38 5)
  let rb : Reg := BitVec.ofNat 5 (fld wd 33 5)
  need (fld wd 0 24 == 0 && fld wd 28 5 == 0) .reservedNonzero <|
  need (fld wd 24 4 == 0) .fieldValue <|
  .ok (.sha h rd ra rb)

/-- `SHI_L` (R95). -/
def decShiL (wd : Nat) : Except Reason Instr :=
  let h : Head := headOf wd
  let rd : Reg := BitVec.ofNat 5 (fld wd 43 5)
  let ra : Reg := BitVec.ofNat 5 (fld wd 38 5)
  let n : BitVec 6 := BitVec.ofNat 6 (fld wd 0 6)
  need (fld wd 6 26 == 0) .reservedNonzero <|
  need (fld wd 32 6 == 0) .fieldValue <|
  .ok (.shiL h rd ra n)

/-- `SHI_R` (R95). -/
def decShiR (wd : Nat) : Except Reason Instr :=
  let h : Head := headOf wd
  let rd : Reg := BitVec.ofNat 5 (fld wd 43 5)
  let ra : Reg := BitVec.ofNat 5 (fld wd 38 5)
  let n : BitVec 6 := BitVec.ofNat 6 (fld wd 0 6)
  need (fld wd 6 26 == 0) .reservedNonzero <|
  need (fld wd 32 6 == 1) .fieldValue <|
  .ok (.shiR h rd ra n)

/-- `SHI_A` (R95). -/
def decShiA (wd : Nat) : Except Reason Instr :=
  let h : Head := headOf wd
  let rd : Reg := BitVec.ofNat 5 (fld wd 43 5)
  let ra : Reg := BitVec.ofNat 5 (fld wd 38 5)
  let n : BitVec 6 := BitVec.ofNat 6 (fld wd 0 6)
  need (fld wd 6 26 == 0) .reservedNonzero <|
  need (fld wd 32 6 == 2) .fieldValue <|
  .ok (.shiA h rd ra n)

/-- `MIN` (R93). -/
def decMin (wd : Nat) : Except Reason Instr :=
  let h : Head := headOf wd
  let rd : Reg := BitVec.ofNat 5 (fld wd 43 5)
  let ra : Reg := BitVec.ofNat 5 (fld wd 38 5)
  let rb : Reg := BitVec.ofNat 5 (fld wd 33 5)
  need (fld wd 0 24 == 0 && fld wd 28 5 == 0) .reservedNonzero <|
  need (fld wd 24 4 == 0) .fieldValue <|
  .ok (.min h rd ra rb)

/-- `MAX` (R93). -/
def decMax (wd : Nat) : Except Reason Instr :=
  let h : Head := headOf wd
  let rd : Reg := BitVec.ofNat 5 (fld wd 43 5)
  let ra : Reg := BitVec.ofNat 5 (fld wd 38 5)
  let rb : Reg := BitVec.ofNat 5 (fld wd 33 5)
  need (fld wd 0 24 == 0 && fld wd 28 5 == 0) .reservedNonzero <|
  need (fld wd 24 4 == 0) .fieldValue <|
  .ok (.max h rd ra rb)

/-- `MINN` (R93). -/
def decMinn (wd : Nat) : Except Reason Instr :=
  let h : Head := headOf wd
  let rd : Reg := BitVec.ofNat 5 (fld wd 43 5)
  let ra : Reg := BitVec.ofNat 5 (fld wd 38 5)
  let rb : Reg := BitVec.ofNat 5 (fld wd 33 5)
  need (fld wd 0 24 == 0 && fld wd 28 5 == 0) .reservedNonzero <|
  need (fld wd 24 4 == 0) .fieldValue <|
  .ok (.minn h rd ra rb)

/-- `MAXN` (R93). -/
def decMaxn (wd : Nat) : Except Reason Instr :=
  let h : Head := headOf wd
  let rd : Reg := BitVec.ofNat 5 (fld wd 43 5)
  let ra : Reg := BitVec.ofNat 5 (fld wd 38 5)
  let rb : Reg := BitVec.ofNat 5 (fld wd 33 5)
  need (fld wd 0 24 == 0 && fld wd 28 5 == 0) .reservedNonzero <|
  need (fld wd 24 4 == 0) .fieldValue <|
  .ok (.maxn h rd ra rb)

/-- `SEQ` (R93). -/
def decSeq (wd : Nat) : Except Reason Instr :=
  let h : Head := headOf wd
  let rd : Reg := BitVec.ofNat 5 (fld wd 43 5)
  let ra : Reg := BitVec.ofNat 5 (fld wd 38 5)
  let rb : Reg := BitVec.ofNat 5 (fld wd 33 5)
  need (fld wd 0 24 == 0 && fld wd 28 5 == 0) .reservedNonzero <|
  need (fld wd 24 4 == 0) .fieldValue <|
  .ok (.seq h rd ra rb)

/-- `SLT` (R93). -/
def decSlt (wd : Nat) : Except Reason Instr :=
  let h : Head := headOf wd
  let rd : Reg := BitVec.ofNat 5 (fld wd 43 5)
  let ra : Reg := BitVec.ofNat 5 (fld wd 38 5)
  let rb : Reg := BitVec.ofNat 5 (fld wd 33 5)
  need (fld wd 0 24 == 0 && fld wd 28 5 == 0) .reservedNonzero <|
  need (fld wd 24 4 == 0) .fieldValue <|
  .ok (.slt h rd ra rb)

/-- `SLTN` (R93). -/
def decSltn (wd : Nat) : Except Reason Instr :=
  let h : Head := headOf wd
  let rd : Reg := BitVec.ofNat 5 (fld wd 43 5)
  let ra : Reg := BitVec.ofNat 5 (fld wd 38 5)
  let rb : Reg := BitVec.ofNat 5 (fld wd 33 5)
  need (fld wd 0 24 == 0 && fld wd 28 5 == 0) .reservedNonzero <|
  need (fld wd 24 4 == 0) .fieldValue <|
  .ok (.sltn h rd ra rb)

/-- `LI` (R95). -/
def decLi (wd : Nat) : Except Reason Instr :=
  let h : Head := headOf wd
  let rd : Reg := BitVec.ofNat 5 (fld wd 43 5)
  let imm : BitVec 32 := BitVec.ofNat 32 (fld wd 0 32)
  need (fld wd 38 5 == 0) .reservedNonzero <|
  need (fld wd 32 6 == 0) .fieldValue <|
  .ok (.li h rd imm)

/-- `LIH` (R95). -/
def decLih (wd : Nat) : Except Reason Instr :=
  let h : Head := headOf wd
  let rd : Reg := BitVec.ofNat 5 (fld wd 43 5)
  let ra : Reg := BitVec.ofNat 5 (fld wd 38 5)
  let imm : BitVec 32 := BitVec.ofNat 32 (fld wd 0 32)
  need (fld wd 32 6 == 0) .fieldValue <|
  .ok (.lih h rd ra imm)

/-- `MADD` (R93). -/
def decMadd (wd : Nat) : Except Reason Instr :=
  let h : Head := headOf wd
  let rd : Reg := BitVec.ofNat 5 (fld wd 43 5)
  let ra : Reg := BitVec.ofNat 5 (fld wd 38 5)
  let rb : Reg := BitVec.ofNat 5 (fld wd 33 5)
  let rc : Reg := BitVec.ofNat 5 (fld wd 28 5)
  need (fld wd 0 24 == 0) .reservedNonzero <|
  need (fld wd 24 4 == 0) .fieldValue <|
  .ok (.madd h rd ra rb rc)

/-- `BFX` (R96). -/
def decBfx (wd : Nat) : Except Reason Instr :=
  let h : Head := headOf wd
  let rd : Reg := BitVec.ofNat 5 (fld wd 43 5)
  let ra : Reg := BitVec.ofNat 5 (fld wd 38 5)
  let w : BitVec 7 := BitVec.ofNat 7 (fld wd 6 7)
  let pos : BitVec 6 := BitVec.ofNat 6 (fld wd 0 6)
  need (fld wd 13 19 == 0) .reservedNonzero <|
  need (fld wd 32 6 == 0 && (w != 0 && decide (pos.toNat + w.toNat ≤ 64))) .fieldValue <|
  .ok (.bfx h rd ra w pos)

/-- `BFX_S` (R96). -/
def decBfxS (wd : Nat) : Except Reason Instr :=
  let h : Head := headOf wd
  let rd : Reg := BitVec.ofNat 5 (fld wd 43 5)
  let ra : Reg := BitVec.ofNat 5 (fld wd 38 5)
  let w : BitVec 7 := BitVec.ofNat 7 (fld wd 6 7)
  let pos : BitVec 6 := BitVec.ofNat 6 (fld wd 0 6)
  need (fld wd 13 19 == 0) .reservedNonzero <|
  need (fld wd 32 6 == 1 && (w != 0 && decide (pos.toNat + w.toNat ≤ 64))) .fieldValue <|
  .ok (.bfxS h rd ra w pos)

/-- `BFI` (R96). -/
def decBfi (wd : Nat) : Except Reason Instr :=
  let h : Head := headOf wd
  let rd : Reg := BitVec.ofNat 5 (fld wd 43 5)
  let ra : Reg := BitVec.ofNat 5 (fld wd 38 5)
  let w : BitVec 7 := BitVec.ofNat 7 (fld wd 6 7)
  let pos : BitVec 6 := BitVec.ofNat 6 (fld wd 0 6)
  need (fld wd 13 19 == 0) .reservedNonzero <|
  need (fld wd 32 6 == 0 && (w != 0 && decide (pos.toNat + w.toNat ≤ 64))) .fieldValue <|
  .ok (.bfi h rd ra w pos)

/-- `CLZ` (R93). -/
def decClz (wd : Nat) : Except Reason Instr :=
  let h : Head := headOf wd
  let rd : Reg := BitVec.ofNat 5 (fld wd 43 5)
  let ra : Reg := BitVec.ofNat 5 (fld wd 38 5)
  need (fld wd 0 24 == 0 && fld wd 28 5 == 0 && fld wd 33 5 == 0) .reservedNonzero <|
  need (fld wd 24 4 == 0) .fieldValue <|
  .ok (.clz h rd ra)

/-- `POPC` (R93). -/
def decPopc (wd : Nat) : Except Reason Instr :=
  let h : Head := headOf wd
  let rd : Reg := BitVec.ofNat 5 (fld wd 43 5)
  let ra : Reg := BitVec.ofNat 5 (fld wd 38 5)
  need (fld wd 0 24 == 0 && fld wd 28 5 == 0 && fld wd 33 5 == 0) .reservedNonzero <|
  need (fld wd 24 4 == 0) .fieldValue <|
  .ok (.popc h rd ra)

/-- `SEL` (R93). -/
def decSel (wd : Nat) : Except Reason Instr :=
  let h : Head := headOf wd
  let rd : Reg := BitVec.ofNat 5 (fld wd 43 5)
  let ra : Reg := BitVec.ofNat 5 (fld wd 38 5)
  let rb : Reg := BitVec.ofNat 5 (fld wd 33 5)
  let rc : Reg := BitVec.ofNat 5 (fld wd 28 5)
  need (fld wd 0 24 == 0) .reservedNonzero <|
  need (fld wd 24 4 == 0) .fieldValue <|
  .ok (.sel h rd ra rb rc)

/-- `B` (R98). -/
def decB (wd : Nat) : Except Reason Instr :=
  let h : Head := headOf wd
  let disp : BitVec 27 := BitVec.ofNat 27 (fld wd 3 27)
  let slot : BitVec 3 := BitVec.ofNat 3 (fld wd 0 3)
  need (fld wd 30 5 == 0 && fld wd 35 3 == 0 && fld wd 38 5 == 0 && fld wd 43 5 == 0) .reservedNonzero <|
  .ok (.b h disp slot)

/-- `BC` (R98). -/
def decBc (wd : Nat) : Except Reason Instr :=
  let h : Head := headOf wd
  let ra : Reg := BitVec.ofNat 5 (fld wd 43 5)
  let rb : Reg := BitVec.ofNat 5 (fld wd 38 5)
  let cond : BitVec 3 := BitVec.ofNat 3 (fld wd 35 3)
  let disp : BitVec 27 := BitVec.ofNat 27 (fld wd 3 27)
  let slot : BitVec 3 := BitVec.ofNat 3 (fld wd 0 3)
  need (fld wd 30 5 == 0) .reservedNonzero <|
  need (decide (cond.toNat ≤ 5)) .fieldValue <|
  .ok (.bc h ra rb cond disp slot)

/-- `CALL` (R98). -/
def decCall (wd : Nat) : Except Reason Instr :=
  let h : Head := headOf wd
  let rl : Reg := BitVec.ofNat 5 (fld wd 30 5)
  let disp : BitVec 27 := BitVec.ofNat 27 (fld wd 3 27)
  let slot : BitVec 3 := BitVec.ofNat 3 (fld wd 0 3)
  need (fld wd 35 3 == 0 && fld wd 38 5 == 0 && fld wd 43 5 == 0) .reservedNonzero <|
  .ok (.call h rl disp slot)

/-- `JR` (R98). -/
def decJr (wd : Nat) : Except Reason Instr :=
  let h : Head := headOf wd
  let rd : Reg := BitVec.ofNat 5 (fld wd 43 5)
  let ra : Reg := BitVec.ofNat 5 (fld wd 38 5)
  need (fld wd 0 24 == 0 && fld wd 28 5 == 0 && fld wd 33 5 == 0) .reservedNonzero <|
  need (fld wd 24 4 == 0) .fieldValue <|
  .ok (.jr h rd ra)

/-- `LOOP` (R98). -/
def decLoop (wd : Nat) : Except Reason Instr :=
  let h : Head := headOf wd
  let rl : Reg := BitVec.ofNat 5 (fld wd 30 5)
  let disp : BitVec 27 := BitVec.ofNat 27 (fld wd 3 27)
  let slot : BitVec 3 := BitVec.ofNat 3 (fld wd 0 3)
  need (fld wd 35 3 == 0 && fld wd 38 5 == 0 && fld wd 43 5 == 0) .reservedNonzero <|
  need (rl != 0) .fieldValue <|
  .ok (.loop h rl disp slot)

/-- `TOK` (R99). -/
def decTok (wd : Nat) : Except Reason Instr :=
  let h : Head := headOf wd
  let n : BitVec 4 := BitVec.ofNat 4 (fld wd 24 4)
  need (fld wd 0 24 == 0 && fld wd 28 5 == 0 && fld wd 33 5 == 0 && fld wd 38 5 == 0 && fld wd 43 5 == 0) .reservedNonzero <|
  need ((h.tok != 0 && h.guard == 0)) .fieldValue <|
  .ok (.tok h n)

/-- `MFS` (R100). -/
def decMfs (wd : Nat) : Except Reason Instr :=
  let h : Head := headOf wd
  let rd : Reg := BitVec.ofNat 5 (fld wd 43 5)
  let sr : BitVec 12 := BitVec.ofNat 12 (fld wd 0 12)
  need (fld wd 12 20 == 0 && fld wd 38 5 == 0) .reservedNonzero <|
  need (srReadable sr) .specialReg <|
  need (fld wd 32 6 == 0) .fieldValue <|
  .ok (.mfs h rd sr)

/-- `MTS` (R100). -/
def decMts (wd : Nat) : Except Reason Instr :=
  let h : Head := headOf wd
  let ra : Reg := BitVec.ofNat 5 (fld wd 38 5)
  let sr : BitVec 12 := BitVec.ofNat 12 (fld wd 0 12)
  need (fld wd 12 20 == 0 && fld wd 43 5 == 0) .reservedNonzero <|
  need (srWritable sr) .specialReg <|
  need (fld wd 32 6 == 0) .fieldValue <|
  .ok (.mts h ra sr)

/-- `YIELD` (R102). -/
def decYieldI (wd : Nat) : Except Reason Instr :=
  let h : Head := headOf wd
  need (fld wd 0 24 == 0 && fld wd 28 5 == 0 && fld wd 33 5 == 0 && fld wd 38 5 == 0 && fld wd 43 5 == 0) .reservedNonzero <|
  need (fld wd 24 4 == 0) .fieldValue <|
  .ok (.yieldI h)

/-- `BUDG_GET` (R104). -/
def decBudgGet (wd : Nat) : Except Reason Instr :=
  let h : Head := headOf wd
  let rd : Reg := BitVec.ofNat 5 (fld wd 43 5)
  need (fld wd 0 32 == 0 && fld wd 38 5 == 0) .reservedNonzero <|
  need (fld wd 32 6 == 0) .fieldValue <|
  .ok (.budgGet h rd)

/-- `BUDG_CHK` (R104). -/
def decBudgChk (wd : Nat) : Except Reason Instr :=
  let h : Head := headOf wd
  let rd : Reg := BitVec.ofNat 5 (fld wd 43 5)
  let imm : BitVec 32 := BitVec.ofNat 32 (fld wd 0 32)
  need (fld wd 38 5 == 0) .reservedNonzero <|
  need (fld wd 32 6 == 1) .fieldValue <|
  .ok (.budgChk h rd imm)

/-- `TRAP` (R106). -/
def decTrapI (wd : Nat) : Except Reason Instr :=
  let h : Head := headOf wd
  let imm : BitVec 32 := BitVec.ofNat 32 (fld wd 0 32)
  need (fld wd 38 5 == 0 && fld wd 43 5 == 0) .reservedNonzero <|
  need (fld wd 32 6 == 0) .fieldValue <|
  .ok (.trapI h imm)

/-- `TRET_RESUME` (R108). -/
def decTretResume (wd : Nat) : Except Reason Instr :=
  let h : Head := headOf wd
  need (fld wd 0 24 == 0 && fld wd 28 5 == 0 && fld wd 33 5 == 0 && fld wd 38 5 == 0 && fld wd 43 5 == 0) .reservedNonzero <|
  need (fld wd 24 4 == 0) .fieldValue <|
  .ok (.tretResume h)

/-- `TRET_SKIP` (R108). -/
def decTretSkip (wd : Nat) : Except Reason Instr :=
  let h : Head := headOf wd
  need (fld wd 0 24 == 0 && fld wd 28 5 == 0 && fld wd 33 5 == 0 && fld wd 38 5 == 0 && fld wd 43 5 == 0) .reservedNonzero <|
  need (fld wd 24 4 == 1) .fieldValue <|
  .ok (.tretSkip h)

/-- `TRET_RESTART` (R108). -/
def decTretRestart (wd : Nat) : Except Reason Instr :=
  let h : Head := headOf wd
  need (fld wd 0 24 == 0 && fld wd 28 5 == 0 && fld wd 33 5 == 0 && fld wd 38 5 == 0 && fld wd 43 5 == 0) .reservedNonzero <|
  need (fld wd 24 4 == 2) .fieldValue <|
  .ok (.tretRestart h)

/-- `TRET_KILL` (R108). -/
def decTretKill (wd : Nat) : Except Reason Instr :=
  let h : Head := headOf wd
  need (fld wd 0 24 == 0 && fld wd 28 5 == 0 && fld wd 33 5 == 0 && fld wd 38 5 == 0 && fld wd 43 5 == 0) .reservedNonzero <|
  need (fld wd 24 4 == 3) .fieldValue <|
  .ok (.tretKill h)

/-- `HASH` (R87). -/
def decHash (wd : Nat) : Except Reason Instr :=
  let h : Head := headOf wd
  let rd : Reg := BitVec.ofNat 5 (fld wd 43 5)
  let ra : Reg := BitVec.ofNat 5 (fld wd 38 5)
  let rb : Reg := BitVec.ofNat 5 (fld wd 33 5)
  need (fld wd 0 24 == 0 && fld wd 28 5 == 0) .reservedNonzero <|
  need (fld wd 24 4 == 0) .fieldValue <|
  .ok (.hash h rd ra rb)

/-- `IDLE_CYC` (R109). -/
def decIdleCyc (wd : Nat) : Except Reason Instr :=
  let h : Head := headOf wd
  let imm : BitVec 32 := BitVec.ofNat 32 (fld wd 0 32)
  need (fld wd 38 5 == 0 && fld wd 43 5 == 0) .reservedNonzero <|
  need (fld wd 32 6 == 0) .fieldValue <|
  .ok (.idleCyc h imm)

/-- `IDLE_UNTIL` (R109). -/
def decIdleUntil (wd : Nat) : Except Reason Instr :=
  let h : Head := headOf wd
  let ra : Reg := BitVec.ofNat 5 (fld wd 38 5)
  let imm : BitVec 32 := BitVec.ofNat 32 (fld wd 0 32)
  need (fld wd 43 5 == 0) .reservedNonzero <|
  need (fld wd 32 6 == 1) .fieldValue <|
  .ok (.idleUntil h ra imm)

/-- `HALT` (R106). -/
def decHaltI (wd : Nat) : Except Reason Instr :=
  let h : Head := headOf wd
  let ra : Reg := BitVec.ofNat 5 (fld wd 38 5)
  need (fld wd 0 24 == 0 && fld wd 28 5 == 0 && fld wd 33 5 == 0 && fld wd 43 5 == 0) .reservedNonzero <|
  need (fld wd 24 4 == 0) .fieldValue <|
  .ok (.haltI h ra)

/-- `BRK` (R106). -/
def decBrk (wd : Nat) : Except Reason Instr :=
  let h : Head := headOf wd
  let imm : BitVec 32 := BitVec.ofNat 32 (fld wd 0 32)
  need (fld wd 38 5 == 0 && fld wd 43 5 == 0) .reservedNonzero <|
  need (fld wd 32 6 == 0) .fieldValue <|
  .ok (.brk h imm)

/-- `VSHAPE` (R131). -/
def decVshape (wd : Nat) : Except Reason Instr :=
  let h : Head := headOf wd
  let rowsLo : BitVec 9 := BitVec.ofNat 9 (fld wd 30 9)
  let colsLo : BitVec 9 := BitVec.ofNat 9 (fld wd 21 9)
  let colsHi : BitVec 2 := BitVec.ofNat 2 (fld wd 2 2)
  let rowsHi : BitVec 2 := BitVec.ofNat 2 (fld wd 0 2)
  need (fld wd 4 1 == 0 && fld wd 8 4 == 0 && fld wd 12 9 == 0 && fld wd 39 9 == 0) .reservedNonzero <|
  need (fld wd 5 3 == 7) .rounding <|
  need (decide ((rowsHi.toNat * 512 + rowsLo.toNat + 1) * (colsHi.toNat * 512 + colsLo.toNat + 1) ≤ 2048)) .fieldValue <|
  .ok (.vshape h rowsLo colsLo colsHi rowsHi)

/-- `VMOV` (R139). -/
def decVmov (wd : Nat) : Except Reason Instr :=
  let h : Head := headOf wd
  let vd : VReg := BitVec.ofNat 9 (fld wd 39 9)
  let va : VReg := BitVec.ofNat 9 (fld wd 30 9)
  let ty : ElemTy := ElemTy.ofCode (fld wd 8 4)
  need (fld wd 0 5 == 0 && fld wd 12 9 == 0 && fld wd 21 9 == 0) .reservedNonzero <|
  need (decide (va.toNat < 320) && decide (vd.toNat < 320)) .regRange <|
  need (ty.isAW) .type <|
  need (fld wd 5 3 == 7) .rounding <|
  .ok (.vmov h vd va ty)

/-- `VSPLAT` (R139). -/
def decVsplat (wd : Nat) : Except Reason Instr :=
  let h : Head := headOf wd
  let vd : VReg := BitVec.ofNat 9 (fld wd 39 9)
  let va : Reg := BitVec.ofNat 5 (fld wd 30 9)
  let ty : ElemTy := ElemTy.ofCode (fld wd 8 4)
  need (fld wd 0 5 == 0 && fld wd 12 9 == 0 && fld wd 21 9 == 0) .reservedNonzero <|
  need (decide (fld wd 30 9 < 32) && decide (vd.toNat < 320)) .regRange <|
  need (ty.isAW) .type <|
  need (fld wd 5 3 == 7) .rounding <|
  .ok (.vsplat h vd va ty)

/-- `VADD` (R137). -/
def decVadd (wd : Nat) : Except Reason Instr :=
  let h : Head := headOf wd
  let vd : VReg := BitVec.ofNat 9 (fld wd 39 9)
  let va : VReg := BitVec.ofNat 9 (fld wd 30 9)
  let vb : VReg := BitVec.ofNat 9 (fld wd 21 9)
  let ty : ElemTy := ElemTy.ofCode (fld wd 8 4)
  let rm : Rm := BitVec.ofNat 3 (fld wd 5 3)
  let sat : Bool := (fld wd 0 1 == 1)
  need (fld wd 1 4 == 0 && fld wd 12 9 == 0) .reservedNonzero <|
  need (decide (vb.toNat < 320) && decide (va.toNat < 320) && decide (vd.toNat < 320)) .regRange <|
  need (ty.isFLIN) .type <|
  need (rmPlain rm) .rounding <|
  .ok (.vadd h vd va vb ty rm sat)

/-- `VSUB` (R137). -/
def decVsub (wd : Nat) : Except Reason Instr :=
  let h : Head := headOf wd
  let vd : VReg := BitVec.ofNat 9 (fld wd 39 9)
  let va : VReg := BitVec.ofNat 9 (fld wd 30 9)
  let vb : VReg := BitVec.ofNat 9 (fld wd 21 9)
  let ty : ElemTy := ElemTy.ofCode (fld wd 8 4)
  let rm : Rm := BitVec.ofNat 3 (fld wd 5 3)
  let sat : Bool := (fld wd 0 1 == 1)
  need (fld wd 1 4 == 0 && fld wd 12 9 == 0) .reservedNonzero <|
  need (decide (vb.toNat < 320) && decide (va.toNat < 320) && decide (vd.toNat < 320)) .regRange <|
  need (ty.isFLIN) .type <|
  need (rmPlain rm) .rounding <|
  .ok (.vsub h vd va vb ty rm sat)

/-- `VMUL` (R137). -/
def decVmul (wd : Nat) : Except Reason Instr :=
  let h : Head := headOf wd
  let vd : VReg := BitVec.ofNat 9 (fld wd 39 9)
  let va : VReg := BitVec.ofNat 9 (fld wd 30 9)
  let vb : VReg := BitVec.ofNat 9 (fld wd 21 9)
  let ty : ElemTy := ElemTy.ofCode (fld wd 8 4)
  let rm : Rm := BitVec.ofNat 3 (fld wd 5 3)
  let sat : Bool := (fld wd 0 1 == 1)
  need (fld wd 1 4 == 0 && fld wd 12 9 == 0) .reservedNonzero <|
  need (decide (vb.toNat < 320) && decide (va.toNat < 320) && decide (vd.toNat < 320)) .regRange <|
  need (ty.isFLIN) .type <|
  need (rmPlain rm) .rounding <|
  .ok (.vmul h vd va vb ty rm sat)

/-- `VFMA` (R137). -/
def decVfma (wd : Nat) : Except Reason Instr :=
  let h : Head := headOf wd
  let vd : VReg := BitVec.ofNat 9 (fld wd 39 9)
  let va : VReg := BitVec.ofNat 9 (fld wd 30 9)
  let vb : VReg := BitVec.ofNat 9 (fld wd 21 9)
  let vc : VReg := BitVec.ofNat 9 (fld wd 12 9)
  let ty : ElemTy := ElemTy.ofCode (fld wd 8 4)
  let rm : Rm := BitVec.ofNat 3 (fld wd 5 3)
  let sat : Bool := (fld wd 0 1 == 1)
  need (fld wd 1 4 == 0) .reservedNonzero <|
  need (decide (vc.toNat < 320) && decide (vb.toNat < 320) && decide (va.toNat < 320) && decide (vd.toNat < 320)) .regRange <|
  need (ty.isFLIN) .type <|
  need (rmPlain rm) .rounding <|
  .ok (.vfma h vd va vb vc ty rm sat)

/-- `VFMS` (R137). -/
def decVfms (wd : Nat) : Except Reason Instr :=
  let h : Head := headOf wd
  let vd : VReg := BitVec.ofNat 9 (fld wd 39 9)
  let va : VReg := BitVec.ofNat 9 (fld wd 30 9)
  let vb : VReg := BitVec.ofNat 9 (fld wd 21 9)
  let vc : VReg := BitVec.ofNat 9 (fld wd 12 9)
  let ty : ElemTy := ElemTy.ofCode (fld wd 8 4)
  let rm : Rm := BitVec.ofNat 3 (fld wd 5 3)
  let sat : Bool := (fld wd 0 1 == 1)
  need (fld wd 1 4 == 0) .reservedNonzero <|
  need (decide (vc.toNat < 320) && decide (vb.toNat < 320) && decide (va.toNat < 320) && decide (vd.toNat < 320)) .regRange <|
  need (ty.isFLIN) .type <|
  need (rmPlain rm) .rounding <|
  .ok (.vfms h vd va vb vc ty rm sat)

/-- `VDIV` (R137). -/
def decVdiv (wd : Nat) : Except Reason Instr :=
  let h : Head := headOf wd
  let vd : VReg := BitVec.ofNat 9 (fld wd 39 9)
  let va : VReg := BitVec.ofNat 9 (fld wd 30 9)
  let vb : VReg := BitVec.ofNat 9 (fld wd 21 9)
  let ty : ElemTy := ElemTy.ofCode (fld wd 8 4)
  let rm : Rm := BitVec.ofNat 3 (fld wd 5 3)
  let sat : Bool := (fld wd 0 1 == 1)
  need (fld wd 1 4 == 0 && fld wd 12 9 == 0) .reservedNonzero <|
  need (decide (vb.toNat < 320) && decide (va.toNat < 320) && decide (vd.toNat < 320)) .regRange <|
  need (ty.isFL) .type <|
  need (rmPlain rm) .rounding <|
  .ok (.vdiv h vd va vb ty rm sat)

/-- `VSQRT` (R140). -/
def decVsqrt (wd : Nat) : Except Reason Instr :=
  let h : Head := headOf wd
  let vd : VReg := BitVec.ofNat 9 (fld wd 39 9)
  let va : VReg := BitVec.ofNat 9 (fld wd 30 9)
  let ty : ElemTy := ElemTy.ofCode (fld wd 8 4)
  let rm : Rm := BitVec.ofNat 3 (fld wd 5 3)
  let sat : Bool := (fld wd 0 1 == 1)
  need (fld wd 1 4 == 0 && fld wd 12 9 == 0 && fld wd 21 9 == 0) .reservedNonzero <|
  need (decide (va.toNat < 320) && decide (vd.toNat < 320)) .regRange <|
  need (ty.isFL) .type <|
  need (rmPlain rm) .rounding <|
  .ok (.vsqrt h vd va ty rm sat)

/-- `VRSQRT` (R140). -/
def decVrsqrt (wd : Nat) : Except Reason Instr :=
  let h : Head := headOf wd
  let vd : VReg := BitVec.ofNat 9 (fld wd 39 9)
  let va : VReg := BitVec.ofNat 9 (fld wd 30 9)
  let ty : ElemTy := ElemTy.ofCode (fld wd 8 4)
  let rm : Rm := BitVec.ofNat 3 (fld wd 5 3)
  let sat : Bool := (fld wd 0 1 == 1)
  need (fld wd 1 4 == 0 && fld wd 12 9 == 0 && fld wd 21 9 == 0) .reservedNonzero <|
  need (decide (va.toNat < 320) && decide (vd.toNat < 320)) .regRange <|
  need (ty.isFL) .type <|
  need (rmPlain rm) .rounding <|
  .ok (.vrsqrt h vd va ty rm sat)

/-- `VRCP` (R140). -/
def decVrcp (wd : Nat) : Except Reason Instr :=
  let h : Head := headOf wd
  let vd : VReg := BitVec.ofNat 9 (fld wd 39 9)
  let va : VReg := BitVec.ofNat 9 (fld wd 30 9)
  let ty : ElemTy := ElemTy.ofCode (fld wd 8 4)
  let rm : Rm := BitVec.ofNat 3 (fld wd 5 3)
  let sat : Bool := (fld wd 0 1 == 1)
  need (fld wd 1 4 == 0 && fld wd 12 9 == 0 && fld wd 21 9 == 0) .reservedNonzero <|
  need (decide (va.toNat < 320) && decide (vd.toNat < 320)) .regRange <|
  need (ty.isFL) .type <|
  need (rmPlain rm) .rounding <|
  .ok (.vrcp h vd va ty rm sat)

/-- `VEXP` (R140). -/
def decVexp (wd : Nat) : Except Reason Instr :=
  let h : Head := headOf wd
  let vd : VReg := BitVec.ofNat 9 (fld wd 39 9)
  let va : VReg := BitVec.ofNat 9 (fld wd 30 9)
  let ty : ElemTy := ElemTy.ofCode (fld wd 8 4)
  let rm : Rm := BitVec.ofNat 3 (fld wd 5 3)
  let sat : Bool := (fld wd 0 1 == 1)
  need (fld wd 1 4 == 0 && fld wd 12 9 == 0 && fld wd 21 9 == 0) .reservedNonzero <|
  need (decide (va.toNat < 320) && decide (vd.toNat < 320)) .regRange <|
  need (ty.isFL) .type <|
  need (rmPlain rm) .rounding <|
  .ok (.vexp h vd va ty rm sat)

/-- `VEXP2` (R140). -/
def decVexp2 (wd : Nat) : Except Reason Instr :=
  let h : Head := headOf wd
  let vd : VReg := BitVec.ofNat 9 (fld wd 39 9)
  let va : VReg := BitVec.ofNat 9 (fld wd 30 9)
  let ty : ElemTy := ElemTy.ofCode (fld wd 8 4)
  let rm : Rm := BitVec.ofNat 3 (fld wd 5 3)
  let sat : Bool := (fld wd 0 1 == 1)
  need (fld wd 1 4 == 0 && fld wd 12 9 == 0 && fld wd 21 9 == 0) .reservedNonzero <|
  need (decide (va.toNat < 320) && decide (vd.toNat < 320)) .regRange <|
  need (ty.isFL) .type <|
  need (rmPlain rm) .rounding <|
  .ok (.vexp2 h vd va ty rm sat)

/-- `VLOG2` (R140). -/
def decVlog2 (wd : Nat) : Except Reason Instr :=
  let h : Head := headOf wd
  let vd : VReg := BitVec.ofNat 9 (fld wd 39 9)
  let va : VReg := BitVec.ofNat 9 (fld wd 30 9)
  let ty : ElemTy := ElemTy.ofCode (fld wd 8 4)
  let rm : Rm := BitVec.ofNat 3 (fld wd 5 3)
  let sat : Bool := (fld wd 0 1 == 1)
  need (fld wd 1 4 == 0 && fld wd 12 9 == 0 && fld wd 21 9 == 0) .reservedNonzero <|
  need (decide (va.toNat < 320) && decide (vd.toNat < 320)) .regRange <|
  need (ty.isFL) .type <|
  need (rmPlain rm) .rounding <|
  .ok (.vlog2 h vd va ty rm sat)

/-- `VTANH` (R140). -/
def decVtanh (wd : Nat) : Except Reason Instr :=
  let h : Head := headOf wd
  let vd : VReg := BitVec.ofNat 9 (fld wd 39 9)
  let va : VReg := BitVec.ofNat 9 (fld wd 30 9)
  let ty : ElemTy := ElemTy.ofCode (fld wd 8 4)
  let rm : Rm := BitVec.ofNat 3 (fld wd 5 3)
  let sat : Bool := (fld wd 0 1 == 1)
  need (fld wd 1 4 == 0 && fld wd 12 9 == 0 && fld wd 21 9 == 0) .reservedNonzero <|
  need (decide (va.toNat < 320) && decide (vd.toNat < 320)) .regRange <|
  need (ty.isFL) .type <|
  need (rmPlain rm) .rounding <|
  .ok (.vtanh h vd va ty rm sat)

/-- `VSIGM` (R140). -/
def decVsigm (wd : Nat) : Except Reason Instr :=
  let h : Head := headOf wd
  let vd : VReg := BitVec.ofNat 9 (fld wd 39 9)
  let va : VReg := BitVec.ofNat 9 (fld wd 30 9)
  let ty : ElemTy := ElemTy.ofCode (fld wd 8 4)
  let rm : Rm := BitVec.ofNat 3 (fld wd 5 3)
  let sat : Bool := (fld wd 0 1 == 1)
  need (fld wd 1 4 == 0 && fld wd 12 9 == 0 && fld wd 21 9 == 0) .reservedNonzero <|
  need (decide (va.toNat < 320) && decide (vd.toNat < 320)) .regRange <|
  need (ty.isFL) .type <|
  need (rmPlain rm) .rounding <|
  .ok (.vsigm h vd va ty rm sat)

/-- `VGELU` (R140). -/
def decVgelu (wd : Nat) : Except Reason Instr :=
  let h : Head := headOf wd
  let vd : VReg := BitVec.ofNat 9 (fld wd 39 9)
  let va : VReg := BitVec.ofNat 9 (fld wd 30 9)
  let ty : ElemTy := ElemTy.ofCode (fld wd 8 4)
  let rm : Rm := BitVec.ofNat 3 (fld wd 5 3)
  let sat : Bool := (fld wd 0 1 == 1)
  need (fld wd 1 4 == 0 && fld wd 12 9 == 0 && fld wd 21 9 == 0) .reservedNonzero <|
  need (decide (va.toNat < 320) && decide (vd.toNat < 320)) .regRange <|
  need (ty.isFL) .type <|
  need (rmPlain rm) .rounding <|
  .ok (.vgelu h vd va ty rm sat)

/-- `VMIN` (R82). -/
def decVmin (wd : Nat) : Except Reason Instr :=
  let h : Head := headOf wd
  let vd : VReg := BitVec.ofNat 9 (fld wd 39 9)
  let va : VReg := BitVec.ofNat 9 (fld wd 30 9)
  let vb : VReg := BitVec.ofNat 9 (fld wd 21 9)
  let ty : ElemTy := ElemTy.ofCode (fld wd 8 4)
  need (fld wd 0 5 == 0 && fld wd 12 9 == 0) .reservedNonzero <|
  need (decide (vb.toNat < 320) && decide (va.toNat < 320) && decide (vd.toNat < 320)) .regRange <|
  need (ty.isFLIN) .type <|
  need (fld wd 5 3 == 7) .rounding <|
  .ok (.vmin h vd va vb ty)

/-- `VMAX` (R82). -/
def decVmax (wd : Nat) : Except Reason Instr :=
  let h : Head := headOf wd
  let vd : VReg := BitVec.ofNat 9 (fld wd 39 9)
  let va : VReg := BitVec.ofNat 9 (fld wd 30 9)
  let vb : VReg := BitVec.ofNat 9 (fld wd 21 9)
  let ty : ElemTy := ElemTy.ofCode (fld wd 8 4)
  need (fld wd 0 5 == 0 && fld wd 12 9 == 0) .reservedNonzero <|
  need (decide (vb.toNat < 320) && decide (va.toNat < 320) && decide (vd.toNat < 320)) .regRange <|
  need (ty.isFLIN) .type <|
  need (fld wd 5 3 == 7) .rounding <|
  .ok (.vmax h vd va vb ty)

/-- `VMINN` (R82). -/
def decVminn (wd : Nat) : Except Reason Instr :=
  let h : Head := headOf wd
  let vd : VReg := BitVec.ofNat 9 (fld wd 39 9)
  let va : VReg := BitVec.ofNat 9 (fld wd 30 9)
  let vb : VReg := BitVec.ofNat 9 (fld wd 21 9)
  let ty : ElemTy := ElemTy.ofCode (fld wd 8 4)
  need (fld wd 0 5 == 0 && fld wd 12 9 == 0) .reservedNonzero <|
  need (decide (vb.toNat < 320) && decide (va.toNat < 320) && decide (vd.toNat < 320)) .regRange <|
  need (ty.isFLIN) .type <|
  need (fld wd 5 3 == 7) .rounding <|
  .ok (.vminn h vd va vb ty)

/-- `VMAXN` (R82). -/
def decVmaxn (wd : Nat) : Except Reason Instr :=
  let h : Head := headOf wd
  let vd : VReg := BitVec.ofNat 9 (fld wd 39 9)
  let va : VReg := BitVec.ofNat 9 (fld wd 30 9)
  let vb : VReg := BitVec.ofNat 9 (fld wd 21 9)
  let ty : ElemTy := ElemTy.ofCode (fld wd 8 4)
  need (fld wd 0 5 == 0 && fld wd 12 9 == 0) .reservedNonzero <|
  need (decide (vb.toNat < 320) && decide (va.toNat < 320) && decide (vd.toNat < 320)) .regRange <|
  need (ty.isFLIN) .type <|
  need (fld wd 5 3 == 7) .rounding <|
  .ok (.vmaxn h vd va vb ty)

/-- `VABS` (R139). DESIGN CHOICE (log entry 35): the sat bit with an FL type is a defined mod bit with a value that the
instruction forbids. -/
def decVabs (wd : Nat) : Except Reason Instr :=
  let h : Head := headOf wd
  let vd : VReg := BitVec.ofNat 9 (fld wd 39 9)
  let va : VReg := BitVec.ofNat 9 (fld wd 30 9)
  let ty : ElemTy := ElemTy.ofCode (fld wd 8 4)
  let sat : Bool := (fld wd 0 1 == 1)
  need (fld wd 1 4 == 0 && fld wd 12 9 == 0 && fld wd 21 9 == 0) .reservedNonzero <|
  need (decide (va.toNat < 320) && decide (vd.toNat < 320)) .regRange <|
  need (ty.isFLIN) .type <|
  need (fld wd 5 3 == 7) .rounding <|
  need ((!sat || ElemTy.isIN ty)) .fieldValue <|
  .ok (.vabs h vd va ty sat)

/-- `VNEG` (R139). DESIGN CHOICE (log entry 35): the sat bit with an FL type is a defined mod bit with a value that the
instruction forbids. -/
def decVneg (wd : Nat) : Except Reason Instr :=
  let h : Head := headOf wd
  let vd : VReg := BitVec.ofNat 9 (fld wd 39 9)
  let va : VReg := BitVec.ofNat 9 (fld wd 30 9)
  let ty : ElemTy := ElemTy.ofCode (fld wd 8 4)
  let sat : Bool := (fld wd 0 1 == 1)
  need (fld wd 1 4 == 0 && fld wd 12 9 == 0 && fld wd 21 9 == 0) .reservedNonzero <|
  need (decide (va.toNat < 320) && decide (vd.toNat < 320)) .regRange <|
  need (ty.isFLIN) .type <|
  need (fld wd 5 3 == 7) .rounding <|
  need ((!sat || ElemTy.isIN ty)) .fieldValue <|
  .ok (.vneg h vd va ty sat)

/-- `VAND` (R139). -/
def decVand (wd : Nat) : Except Reason Instr :=
  let h : Head := headOf wd
  let vd : VReg := BitVec.ofNat 9 (fld wd 39 9)
  let va : VReg := BitVec.ofNat 9 (fld wd 30 9)
  let vb : VReg := BitVec.ofNat 9 (fld wd 21 9)
  let ty : ElemTy := ElemTy.ofCode (fld wd 8 4)
  need (fld wd 0 5 == 0 && fld wd 12 9 == 0) .reservedNonzero <|
  need (decide (vb.toNat < 320) && decide (va.toNat < 320) && decide (vd.toNat < 320)) .regRange <|
  need (ty.isAW) .type <|
  need (fld wd 5 3 == 7) .rounding <|
  .ok (.vand h vd va vb ty)

/-- `VOR` (R139). -/
def decVor (wd : Nat) : Except Reason Instr :=
  let h : Head := headOf wd
  let vd : VReg := BitVec.ofNat 9 (fld wd 39 9)
  let va : VReg := BitVec.ofNat 9 (fld wd 30 9)
  let vb : VReg := BitVec.ofNat 9 (fld wd 21 9)
  let ty : ElemTy := ElemTy.ofCode (fld wd 8 4)
  need (fld wd 0 5 == 0 && fld wd 12 9 == 0) .reservedNonzero <|
  need (decide (vb.toNat < 320) && decide (va.toNat < 320) && decide (vd.toNat < 320)) .regRange <|
  need (ty.isAW) .type <|
  need (fld wd 5 3 == 7) .rounding <|
  .ok (.vor h vd va vb ty)

/-- `VXOR` (R139). -/
def decVxor (wd : Nat) : Except Reason Instr :=
  let h : Head := headOf wd
  let vd : VReg := BitVec.ofNat 9 (fld wd 39 9)
  let va : VReg := BitVec.ofNat 9 (fld wd 30 9)
  let vb : VReg := BitVec.ofNat 9 (fld wd 21 9)
  let ty : ElemTy := ElemTy.ofCode (fld wd 8 4)
  need (fld wd 0 5 == 0 && fld wd 12 9 == 0) .reservedNonzero <|
  need (decide (vb.toNat < 320) && decide (va.toNat < 320) && decide (vd.toNat < 320)) .regRange <|
  need (ty.isAW) .type <|
  need (fld wd 5 3 == 7) .rounding <|
  .ok (.vxor h vd va vb ty)

/-- `VSHL` (R139). -/
def decVshl (wd : Nat) : Except Reason Instr :=
  let h : Head := headOf wd
  let vd : VReg := BitVec.ofNat 9 (fld wd 39 9)
  let va : VReg := BitVec.ofNat 9 (fld wd 30 9)
  let vb : VReg := BitVec.ofNat 9 (fld wd 21 9)
  let ty : ElemTy := ElemTy.ofCode (fld wd 8 4)
  need (fld wd 0 5 == 0 && fld wd 12 9 == 0) .reservedNonzero <|
  need (decide (vb.toNat < 320) && decide (va.toNat < 320) && decide (vd.toNat < 320)) .regRange <|
  need (ty.isIN) .type <|
  need (fld wd 5 3 == 7) .rounding <|
  .ok (.vshl h vd va vb ty)

/-- `VSHR` (R139). -/
def decVshr (wd : Nat) : Except Reason Instr :=
  let h : Head := headOf wd
  let vd : VReg := BitVec.ofNat 9 (fld wd 39 9)
  let va : VReg := BitVec.ofNat 9 (fld wd 30 9)
  let vb : VReg := BitVec.ofNat 9 (fld wd 21 9)
  let ty : ElemTy := ElemTy.ofCode (fld wd 8 4)
  need (fld wd 0 5 == 0 && fld wd 12 9 == 0) .reservedNonzero <|
  need (decide (vb.toNat < 320) && decide (va.toNat < 320) && decide (vd.toNat < 320)) .regRange <|
  need (ty.isIN) .type <|
  need (fld wd 5 3 == 7) .rounding <|
  .ok (.vshr h vd va vb ty)

/-- `VCMP` (R142). -/
def decVcmp (wd : Nat) : Except Reason Instr :=
  let h : Head := headOf wd
  let vd : PReg := BitVec.ofNat 3 (fld wd 39 9)
  let va : VReg := BitVec.ofNat 9 (fld wd 30 9)
  let vb : VReg := BitVec.ofNat 9 (fld wd 21 9)
  let ty : ElemTy := ElemTy.ofCode (fld wd 8 4)
  let cond : BitVec 3 := BitVec.ofNat 3 (fld wd 0 3)
  need (fld wd 3 2 == 0 && fld wd 12 9 == 0) .reservedNonzero <|
  need (decide (vb.toNat < 320) && decide (va.toNat < 320) && decide (fld wd 39 9 < 8)) .regRange <|
  need (ty.isFLIN) .type <|
  need (fld wd 5 3 == 7) .rounding <|
  need (decide (cond.toNat ≤ 6) && (cond != 6 || ElemTy.isFL ty)) .fieldValue <|
  .ok (.vcmp h vd va vb ty cond)

/-- `VSEL` (R143). -/
def decVsel (wd : Nat) : Except Reason Instr :=
  let h : Head := headOf wd
  let vd : VReg := BitVec.ofNat 9 (fld wd 39 9)
  let va : VReg := BitVec.ofNat 9 (fld wd 30 9)
  let vb : VReg := BitVec.ofNat 9 (fld wd 21 9)
  let vc : PReg := BitVec.ofNat 3 (fld wd 12 9)
  let ty : ElemTy := ElemTy.ofCode (fld wd 8 4)
  need (fld wd 0 5 == 0) .reservedNonzero <|
  need (decide (fld wd 12 9 < 8) && decide (vb.toNat < 320) && decide (va.toNat < 320) && decide (vd.toNat < 320)) .regRange <|
  need (ty.isAW) .type <|
  need (fld wd 5 3 == 7) .rounding <|
  .ok (.vsel h vd va vb vc ty)

/-- `VCVT` (R145). -/
def decVcvt (wd : Nat) : Except Reason Instr :=
  let h : Head := headOf wd
  let vd : VReg := BitVec.ofNat 9 (fld wd 39 9)
  let va : VReg := BitVec.ofNat 9 (fld wd 30 9)
  let src : ElemTy := ElemTy.ofCode (fld wd 12 4)
  let ty : ElemTy := ElemTy.ofCode (fld wd 8 4)
  let rm : Rm := BitVec.ofNat 3 (fld wd 5 3)
  let amax : Bool := (fld wd 1 1 == 1)
  let sat : Bool := (fld wd 0 1 == 1)
  need (fld wd 2 3 == 0 && fld wd 16 5 == 0 && fld wd 21 9 == 0) .reservedNonzero <|
  need (decide (va.toNat < 320) && decide (vd.toNat < 320)) .regRange <|
  need (ty.isAW && src.isAW) .type <|
  need (rmWithRS rm && (rm != 4 || decide (ty.width < src.width))) .rounding <|
  need ((!amax || ElemTy.isNF ty)) .fieldValue <|
  .ok (.vcvt h vd va src ty rm amax sat)

/-- `VSCALE` (R137). -/
def decVscale (wd : Nat) : Except Reason Instr :=
  let h : Head := headOf wd
  let vd : VReg := BitVec.ofNat 9 (fld wd 39 9)
  let va : VReg := BitVec.ofNat 9 (fld wd 30 9)
  let vb : VReg := BitVec.ofNat 9 (fld wd 21 9)
  let ty : ElemTy := ElemTy.ofCode (fld wd 8 4)
  let rm : Rm := BitVec.ofNat 3 (fld wd 5 3)
  let col : Bool := (fld wd 1 1 == 1)
  let sat : Bool := (fld wd 0 1 == 1)
  need (fld wd 2 3 == 0 && fld wd 12 9 == 0) .reservedNonzero <|
  need (decide (vb.toNat < 320) && decide (va.toNat < 320) && decide (vd.toNat < 320)) .regRange <|
  need (ty.isFL) .type <|
  need (rmPlain rm) .rounding <|
  .ok (.vscale h vd va vb ty rm col sat)

/-- `VRSUM` (R146). -/
def decVrsum (wd : Nat) : Except Reason Instr :=
  let h : Head := headOf wd
  let vd : VReg := BitVec.ofNat 9 (fld wd 39 9)
  let va : VReg := BitVec.ofNat 9 (fld wd 30 9)
  let ty : ElemTy := ElemTy.ofCode (fld wd 8 4)
  let rm : Rm := BitVec.ofNat 3 (fld wd 5 3)
  need (fld wd 0 5 == 0 && fld wd 12 9 == 0 && fld wd 21 9 == 0) .reservedNonzero <|
  need (decide (va.toNat < 320) && decide (vd.toNat < 320)) .regRange <|
  need (ty.isFLIN) .type <|
  need (rmPlain rm) .rounding <|
  .ok (.vrsum h vd va ty rm)

/-- `VRMAX` (R146). -/
def decVrmax (wd : Nat) : Except Reason Instr :=
  let h : Head := headOf wd
  let vd : VReg := BitVec.ofNat 9 (fld wd 39 9)
  let va : VReg := BitVec.ofNat 9 (fld wd 30 9)
  let ty : ElemTy := ElemTy.ofCode (fld wd 8 4)
  need (fld wd 0 5 == 0 && fld wd 12 9 == 0 && fld wd 21 9 == 0) .reservedNonzero <|
  need (decide (va.toNat < 320) && decide (vd.toNat < 320)) .regRange <|
  need (ty.isFLIN) .type <|
  need (fld wd 5 3 == 7) .rounding <|
  .ok (.vrmax h vd va ty)

/-- `VRMIN` (R146). -/
def decVrmin (wd : Nat) : Except Reason Instr :=
  let h : Head := headOf wd
  let vd : VReg := BitVec.ofNat 9 (fld wd 39 9)
  let va : VReg := BitVec.ofNat 9 (fld wd 30 9)
  let ty : ElemTy := ElemTy.ofCode (fld wd 8 4)
  need (fld wd 0 5 == 0 && fld wd 12 9 == 0 && fld wd 21 9 == 0) .reservedNonzero <|
  need (decide (va.toNat < 320) && decide (vd.toNat < 320)) .regRange <|
  need (ty.isFLIN) .type <|
  need (fld wd 5 3 == 7) .rounding <|
  .ok (.vrmin h vd va ty)

/-- `VCSUM` (R146). -/
def decVcsum (wd : Nat) : Except Reason Instr :=
  let h : Head := headOf wd
  let vd : VReg := BitVec.ofNat 9 (fld wd 39 9)
  let va : VReg := BitVec.ofNat 9 (fld wd 30 9)
  let ty : ElemTy := ElemTy.ofCode (fld wd 8 4)
  let rm : Rm := BitVec.ofNat 3 (fld wd 5 3)
  need (fld wd 0 5 == 0 && fld wd 12 9 == 0 && fld wd 21 9 == 0) .reservedNonzero <|
  need (decide (va.toNat < 320) && decide (vd.toNat < 320)) .regRange <|
  need (ty.isFLIN) .type <|
  need (rmPlain rm) .rounding <|
  .ok (.vcsum h vd va ty rm)

/-- `VSCAN` (R147). -/
def decVscan (wd : Nat) : Except Reason Instr :=
  let h : Head := headOf wd
  let vd : VReg := BitVec.ofNat 9 (fld wd 39 9)
  let va : VReg := BitVec.ofNat 9 (fld wd 30 9)
  let ty : ElemTy := ElemTy.ofCode (fld wd 8 4)
  let rm : Rm := BitVec.ofNat 3 (fld wd 5 3)
  let excl : Bool := (fld wd 0 1 == 1)
  need (fld wd 1 4 == 0 && fld wd 12 9 == 0 && fld wd 21 9 == 0) .reservedNonzero <|
  need (decide (va.toNat < 320) && decide (vd.toNat < 320)) .regRange <|
  need (ty.isFLIN) .type <|
  need (rmPlain rm) .rounding <|
  .ok (.vscan h vd va ty rm excl)

/-- `VSORTK` (R148). -/
def decVsortk (wd : Nat) : Except Reason Instr :=
  let h : Head := headOf wd
  let vd : VReg := BitVec.ofNat 9 (fld wd 39 9)
  let va : VReg := BitVec.ofNat 9 (fld wd 30 9)
  let vb : VReg := BitVec.ofNat 9 (fld wd 21 9)
  let km1 : BitVec 9 := BitVec.ofNat 9 (fld wd 12 9)
  let ty : ElemTy := ElemTy.ofCode (fld wd 8 4)
  need (fld wd 0 5 == 0) .reservedNonzero <|
  need (decide (vb.toNat < 320) && decide (va.toNat < 320) && decide (vd.toNat < 320)) .regRange <|
  need (ty.isFLIN) .type <|
  need (fld wd 5 3 == 7) .rounding <|
  .ok (.vsortk h vd va vb km1 ty)

/-- `VTRANS` (R149). -/
def decVtrans (wd : Nat) : Except Reason Instr :=
  let h : Head := headOf wd
  let vd : VReg := BitVec.ofNat 9 (fld wd 39 9)
  let va : VReg := BitVec.ofNat 9 (fld wd 30 9)
  let ty : ElemTy := ElemTy.ofCode (fld wd 8 4)
  need (fld wd 0 5 == 0 && fld wd 12 9 == 0 && fld wd 21 9 == 0) .reservedNonzero <|
  need (decide (va.toNat < 320) && decide (vd.toNat < 320)) .regRange <|
  need (ty.isAW) .type <|
  need (fld wd 5 3 == 7) .rounding <|
  .ok (.vtrans h vd va ty)

/-- `VPERM` (R150). -/
def decVperm (wd : Nat) : Except Reason Instr :=
  let h : Head := headOf wd
  let vd : VReg := BitVec.ofNat 9 (fld wd 39 9)
  let va : VReg := BitVec.ofNat 9 (fld wd 30 9)
  let vb : VReg := BitVec.ofNat 9 (fld wd 21 9)
  let ty : ElemTy := ElemTy.ofCode (fld wd 8 4)
  let row : Bool := (fld wd 0 1 == 1)
  need (fld wd 1 4 == 0 && fld wd 12 9 == 0) .reservedNonzero <|
  need (decide (vb.toNat < 320) && decide (va.toNat < 320) && decide (vd.toNat < 320)) .regRange <|
  need (ty.isAW) .type <|
  need (fld wd 5 3 == 7) .rounding <|
  .ok (.vperm h vd va vb ty row)

/-- `VRMRG` (R151). -/
def decVrmrg (wd : Nat) : Except Reason Instr :=
  let h : Head := headOf wd
  let vd : VReg := BitVec.ofNat 9 (fld wd 39 9)
  let va : VReg := BitVec.ofNat 9 (fld wd 30 9)
  let vb : VReg := BitVec.ofNat 9 (fld wd 21 9)
  let sh : BitVec 9 := BitVec.ofNat 9 (fld wd 12 9)
  let ty : ElemTy := ElemTy.ofCode (fld wd 8 4)
  need (fld wd 0 5 == 0) .reservedNonzero <|
  need (decide (vb.toNat < 320) && decide (va.toNat < 320) && decide (vd.toNat < 320) && decide (sh.toNat ≤ 127)) .regRange <|
  need (ty.isN8) .type <|
  need (fld wd 5 3 == 7) .rounding <|
  .ok (.vrmrg h vd va vb sh ty)

/-- `VRAND` (R153). -/
def decVrand (wd : Nat) : Except Reason Instr :=
  let h : Head := headOf wd
  let vd : VReg := BitVec.ofNat 9 (fld wd 39 9)
  let ty : ElemTy := ElemTy.ofCode (fld wd 8 4)
  need (fld wd 0 5 == 0 && fld wd 12 9 == 0 && fld wd 21 9 == 0 && fld wd 30 9 == 0) .reservedNonzero <|
  need (decide (vd.toNat < 320)) .regRange <|
  need (ty.isFLIN) .type <|
  need (fld wd 5 3 == 7) .rounding <|
  .ok (.vrand h vd ty)

/-- `VDROP` (R154). -/
def decVdrop (wd : Nat) : Except Reason Instr :=
  let h : Head := headOf wd
  let vd : PReg := BitVec.ofNat 3 (fld wd 39 9)
  let va : Reg := BitVec.ofNat 5 (fld wd 30 9)
  need (fld wd 0 5 == 0 && fld wd 8 4 == 0 && fld wd 12 9 == 0 && fld wd 21 9 == 0) .reservedNonzero <|
  need (decide (fld wd 30 9 < 32) && decide (fld wd 39 9 < 8)) .regRange <|
  need (fld wd 5 3 == 7) .rounding <|
  .ok (.vdrop h vd va)

/-- `VPUSH` (R157). -/
def decVpush (wd : Nat) : Except Reason Instr :=
  let h : Head := headOf wd
  let vd : VReg := BitVec.ofNat 9 (fld wd 39 9)
  let va : VReg := BitVec.ofNat 9 (fld wd 30 9)
  let vb : VReg := BitVec.ofNat 9 (fld wd 21 9)
  let ty : ElemTy := ElemTy.ofCode (fld wd 8 4)
  need (fld wd 0 5 == 0 && fld wd 12 9 == 0) .reservedNonzero <|
  need (decide (vb.toNat < 320) && decide (va.toNat < 320) && decide (vd.toNat < 320)) .regRange <|
  need (ty.isAW) .type <|
  need (fld wd 5 3 == 7) .rounding <|
  .ok (.vpush h vd va vb ty)

/-- `VPOP` (R158). -/
def decVpop (wd : Nat) : Except Reason Instr :=
  let h : Head := headOf wd
  let vd : VReg := BitVec.ofNat 9 (fld wd 39 9)
  let va : VReg := BitVec.ofNat 9 (fld wd 30 9)
  let vb : VReg := BitVec.ofNat 9 (fld wd 21 9)
  let ty : ElemTy := ElemTy.ofCode (fld wd 8 4)
  need (fld wd 0 5 == 0 && fld wd 12 9 == 0) .reservedNonzero <|
  need (decide (vb.toNat < 320) && decide (va.toNat < 320) && decide (vd.toNat < 320)) .regRange <|
  need (ty.isAW) .type <|
  need (fld wd 5 3 == 7) .rounding <|
  .ok (.vpop h vd va vb ty)

/-- `VIDX` (R155). -/
def decVidx (wd : Nat) : Except Reason Instr :=
  let h : Head := headOf wd
  let vd : VReg := BitVec.ofNat 9 (fld wd 39 9)
  let ty : ElemTy := ElemTy.ofCode (fld wd 8 4)
  let rm : Rm := BitVec.ofNat 3 (fld wd 5 3)
  let form : BitVec 2 := BitVec.ofNat 2 (fld wd 0 2)
  need (fld wd 2 3 == 0 && fld wd 12 9 == 0 && fld wd 21 9 == 0 && fld wd 30 9 == 0) .reservedNonzero <|
  need (decide (vd.toNat < 320)) .regRange <|
  need (ty.isFLIN) .type <|
  need (rmPlain rm) .rounding <|
  need (decide (form.toNat ≤ 2)) .fieldValue <|
  .ok (.vidx h vd ty rm form)

/-- `VLUT` (R150). -/
def decVlut (wd : Nat) : Except Reason Instr :=
  let h : Head := headOf wd
  let vd : VReg := BitVec.ofNat 9 (fld wd 39 9)
  let va : VReg := BitVec.ofNat 9 (fld wd 30 9)
  let vb : VReg := BitVec.ofNat 9 (fld wd 21 9)
  let ty : ElemTy := ElemTy.ofCode (fld wd 8 4)
  need (fld wd 0 5 == 0 && fld wd 12 9 == 0) .reservedNonzero <|
  need (decide (vb.toNat < 320) && decide (va.toNat < 320) && decide (vd.toNat < 320)) .regRange <|
  need (ty.isAW) .type <|
  need (fld wd 5 3 == 7) .rounding <|
  .ok (.vlut h vd va vb ty)

/-- `VPAND` (R144). -/
def decVpand (wd : Nat) : Except Reason Instr :=
  let h : Head := headOf wd
  let vd : PReg := BitVec.ofNat 3 (fld wd 39 9)
  let va : PReg := BitVec.ofNat 3 (fld wd 30 9)
  let vb : PReg := BitVec.ofNat 3 (fld wd 21 9)
  need (fld wd 0 5 == 0 && fld wd 8 4 == 0 && fld wd 12 9 == 0) .reservedNonzero <|
  need (decide (fld wd 21 9 < 8) && decide (fld wd 30 9 < 8) && decide (fld wd 39 9 < 8)) .regRange <|
  need (fld wd 5 3 == 7) .rounding <|
  .ok (.vpand h vd va vb)

/-- `VPOR` (R144). -/
def decVpor (wd : Nat) : Except Reason Instr :=
  let h : Head := headOf wd
  let vd : PReg := BitVec.ofNat 3 (fld wd 39 9)
  let va : PReg := BitVec.ofNat 3 (fld wd 30 9)
  let vb : PReg := BitVec.ofNat 3 (fld wd 21 9)
  need (fld wd 0 5 == 0 && fld wd 8 4 == 0 && fld wd 12 9 == 0) .reservedNonzero <|
  need (decide (fld wd 21 9 < 8) && decide (fld wd 30 9 < 8) && decide (fld wd 39 9 < 8)) .regRange <|
  need (fld wd 5 3 == 7) .rounding <|
  .ok (.vpor h vd va vb)

/-- `VPNOT` (R144). -/
def decVpnot (wd : Nat) : Except Reason Instr :=
  let h : Head := headOf wd
  let vd : PReg := BitVec.ofNat 3 (fld wd 39 9)
  let va : PReg := BitVec.ofNat 3 (fld wd 30 9)
  need (fld wd 0 5 == 0 && fld wd 8 4 == 0 && fld wd 12 9 == 0 && fld wd 21 9 == 0) .reservedNonzero <|
  need (decide (fld wd 30 9 < 8) && decide (fld wd 39 9 < 8)) .regRange <|
  need (fld wd 5 3 == 7) .rounding <|
  .ok (.vpnot h vd va)

/-- `VPCNT` (R144). -/
def decVpcnt (wd : Nat) : Except Reason Instr :=
  let h : Head := headOf wd
  let vd : Reg := BitVec.ofNat 5 (fld wd 39 9)
  let va : PReg := BitVec.ofNat 3 (fld wd 30 9)
  need (fld wd 0 5 == 0 && fld wd 8 4 == 0 && fld wd 12 9 == 0 && fld wd 21 9 == 0) .reservedNonzero <|
  need (decide (fld wd 30 9 < 8) && decide (fld wd 39 9 < 32)) .regRange <|
  need (fld wd 5 3 == 7) .rounding <|
  .ok (.vpcnt h vd va)

/-- `VPFIRST` (R144). -/
def decVpfirst (wd : Nat) : Except Reason Instr :=
  let h : Head := headOf wd
  let vd : Reg := BitVec.ofNat 5 (fld wd 39 9)
  let va : PReg := BitVec.ofNat 3 (fld wd 30 9)
  need (fld wd 0 5 == 0 && fld wd 8 4 == 0 && fld wd 12 9 == 0 && fld wd 21 9 == 0) .reservedNonzero <|
  need (decide (fld wd 30 9 < 8) && decide (fld wd 39 9 < 32)) .regRange <|
  need (fld wd 5 3 == 7) .rounding <|
  .ok (.vpfirst h vd va)

/-- `VEXTR` (R159). -/
def decVextr (wd : Nat) : Except Reason Instr :=
  let h : Head := headOf wd
  let vd : Reg := BitVec.ofNat 5 (fld wd 39 9)
  let va : VReg := BitVec.ofNat 9 (fld wd 30 9)
  let vb : Reg := BitVec.ofNat 5 (fld wd 21 9)
  let ty : ElemTy := ElemTy.ofCode (fld wd 8 4)
  need (fld wd 0 5 == 0 && fld wd 12 9 == 0) .reservedNonzero <|
  need (decide (fld wd 21 9 < 32) && decide (va.toNat < 320) && decide (fld wd 39 9 < 32)) .regRange <|
  need (ty.isAW) .type <|
  need (fld wd 5 3 == 7) .rounding <|
  .ok (.vextr h vd va vb ty)

/-- `VINS` (R159). -/
def decVins (wd : Nat) : Except Reason Instr :=
  let h : Head := headOf wd
  let vd : VReg := BitVec.ofNat 9 (fld wd 39 9)
  let va : Reg := BitVec.ofNat 5 (fld wd 30 9)
  let vb : Reg := BitVec.ofNat 5 (fld wd 21 9)
  let ty : ElemTy := ElemTy.ofCode (fld wd 8 4)
  need (fld wd 0 5 == 0 && fld wd 12 9 == 0) .reservedNonzero <|
  need (decide (fld wd 21 9 < 32) && decide (fld wd 30 9 < 32) && decide (vd.toNat < 320)) .regRange <|
  need (ty.isAW) .type <|
  need (fld wd 5 3 == 7) .rounding <|
  .ok (.vins h vd va vb ty)

/-- `VCLAMP` (R138). -/
def decVclamp (wd : Nat) : Except Reason Instr :=
  let h : Head := headOf wd
  let vd : VReg := BitVec.ofNat 9 (fld wd 39 9)
  let va : VReg := BitVec.ofNat 9 (fld wd 30 9)
  let vb : VReg := BitVec.ofNat 9 (fld wd 21 9)
  let vc : VReg := BitVec.ofNat 9 (fld wd 12 9)
  let ty : ElemTy := ElemTy.ofCode (fld wd 8 4)
  need (fld wd 0 5 == 0) .reservedNonzero <|
  need (decide (vc.toNat < 320) && decide (vb.toNat < 320) && decide (va.toNat < 320) && decide (vd.toNat < 320)) .regRange <|
  need (ty.isFLIN) .type <|
  need (fld wd 5 3 == 7) .rounding <|
  .ok (.vclamp h vd va vb vc ty)

/-- `VROUND` (R141). -/
def decVround (wd : Nat) : Except Reason Instr :=
  let h : Head := headOf wd
  let vd : VReg := BitVec.ofNat 9 (fld wd 39 9)
  let va : VReg := BitVec.ofNat 9 (fld wd 30 9)
  let ty : ElemTy := ElemTy.ofCode (fld wd 8 4)
  let rm : Rm := BitVec.ofNat 3 (fld wd 5 3)
  need (fld wd 0 5 == 0 && fld wd 12 9 == 0 && fld wd 21 9 == 0) .reservedNonzero <|
  need (decide (va.toNat < 320) && decide (vd.toNat < 320)) .regRange <|
  need (ty.isFL) .type <|
  need (rmPlain rm) .rounding <|
  .ok (.vround h vd va ty rm)

/-- `VMULS` (R137). -/
def decVmuls (wd : Nat) : Except Reason Instr :=
  let h : Head := headOf wd
  let vd : VReg := BitVec.ofNat 9 (fld wd 39 9)
  let va : VReg := BitVec.ofNat 9 (fld wd 30 9)
  let vb : Reg := BitVec.ofNat 5 (fld wd 21 9)
  let ty : ElemTy := ElemTy.ofCode (fld wd 8 4)
  let rm : Rm := BitVec.ofNat 3 (fld wd 5 3)
  let sat : Bool := (fld wd 0 1 == 1)
  need (fld wd 1 4 == 0 && fld wd 12 9 == 0) .reservedNonzero <|
  need (decide (fld wd 21 9 < 32) && decide (va.toNat < 320) && decide (vd.toNat < 320)) .regRange <|
  need (ty.isFLIN) .type <|
  need (rmPlain rm) .rounding <|
  .ok (.vmuls h vd va vb ty rm sat)

/-- `VADDACC` (R160). -/
def decVaddacc (wd : Nat) : Except Reason Instr :=
  let h : Head := headOf wd
  let vd : Acc := BitVec.ofNat 6 ((fld wd 39 9) - 320)
  let va : VReg := BitVec.ofNat 9 (fld wd 30 9)
  let ty : ElemTy := ElemTy.ofCode (fld wd 8 4)
  let rm : Rm := BitVec.ofNat 3 (fld wd 5 3)
  need (fld wd 0 5 == 0 && fld wd 12 9 == 0 && fld wd 21 9 == 0) .reservedNonzero <|
  need (decide (va.toNat < 320) && (decide (320 ≤ fld wd 39 9) && decide (fld wd 39 9 < 384))) .regRange <|
  need (ty.isFL) .type <|
  need (rmPlain rm) .rounding <|
  .ok (.vaddacc h vd va ty rm)

/-- `VRDACC` (R160). -/
def decVrdacc (wd : Nat) : Except Reason Instr :=
  let h : Head := headOf wd
  let vd : VReg := BitVec.ofNat 9 (fld wd 39 9)
  let va : Acc := BitVec.ofNat 6 ((fld wd 30 9) - 320)
  let ty : ElemTy := ElemTy.ofCode (fld wd 8 4)
  let rm : Rm := BitVec.ofNat 3 (fld wd 5 3)
  let amax : Bool := (fld wd 1 1 == 1)
  let sat : Bool := (fld wd 0 1 == 1)
  need (fld wd 2 3 == 0 && fld wd 12 9 == 0 && fld wd 21 9 == 0) .reservedNonzero <|
  need ((decide (320 ≤ fld wd 30 9) && decide (fld wd 30 9 < 384)) && decide (vd.toNat < 320)) .regRange <|
  need (ty.isFLINNF) .type <|
  need (rmPlain rm) .rounding <|
  need ((!amax || ElemTy.isNF ty)) .fieldValue <|
  .ok (.vrdacc h vd va ty rm amax sat)

/-- `VZACC` (R160). -/
def decVzacc (wd : Nat) : Except Reason Instr :=
  let h : Head := headOf wd
  let vd : Acc := BitVec.ofNat 6 ((fld wd 39 9) - 320)
  need (fld wd 0 5 == 0 && fld wd 8 4 == 0 && fld wd 12 9 == 0 && fld wd 21 9 == 0 && fld wd 30 9 == 0) .reservedNonzero <|
  need ((decide (320 ≤ fld wd 39 9) && decide (fld wd 39 9 < 384))) .regRange <|
  need (fld wd 5 3 == 7) .rounding <|
  .ok (.vzacc h vd)

/-- `VLIVE` (R124). -/
def decVlive (wd : Nat) : Except Reason Instr :=
  let h : Head := headOf wd
  let vd : VReg := BitVec.ofNat 9 (fld wd 39 9)
  need (fld wd 0 5 == 0 && fld wd 8 4 == 0 && fld wd 12 9 == 0 && fld wd 21 9 == 0 && fld wd 30 9 == 0) .reservedNonzero <|
  need (decide (vd.toNat < 320)) .regRange <|
  need (fld wd 5 3 == 7) .rounding <|
  .ok (.vlive h vd)

/-- `VLIVE_NONE` (R124). -/
def decVliveNone (wd : Nat) : Except Reason Instr :=
  let h : Head := headOf wd
  need (fld wd 1 4 == 0 && fld wd 8 4 == 0 && fld wd 12 9 == 0 && fld wd 21 9 == 0 && fld wd 30 9 == 0 && fld wd 39 9 == 0) .reservedNonzero <|
  need (fld wd 5 3 == 7) .rounding <|
  need (fld wd 0 1 == 1) .fieldValue <|
  .ok (.vliveNone h)

/-- `MMUL` (R178). -/
def decMmul (wd : Nat) : Except Reason Instr :=
  let h : Head := headOf wd
  let ra : Reg := BitVec.ofNat 5 (fld wd 43 5)
  let rb : Reg := BitVec.ofNat 5 (fld wd 38 5)
  let acc : Acc := BitVec.ofNat 6 (fld wd 32 6)
  let v : VReg := BitVec.ofNat 9 (fld wd 23 9)
  let swen : Bool := (fld wd 22 1 == 1)
  let semw : BitVec 6 := BitVec.ofNat 6 (fld wd 16 6)
  let ssen : Bool := (fld wd 15 1 == 1)
  let sems : BitVec 6 := BitVec.ofNat 6 (fld wd 9 6)
  let ty : ElemTy := ElemTy.ofCode (fld wd 5 4)
  let rot : BitVec 4 := BitVec.ofNat 4 (fld wd 1 4)
  let sp : Bool := (fld wd 0 1 == 1)
  need ((sp || (ra == 0 && rot == 0))) .reservedNonzero <|
  need (decide (v.toNat < 320)) .regRange <|
  need (ty.isP) .type <|
  need (rotOk rot) .fieldValue <|
  .ok (.mmul h ra rb acc v swen semw ssen sems ty rot sp)

/-- `MMULS` (R178). -/
def decMmuls (wd : Nat) : Except Reason Instr :=
  let h : Head := headOf wd
  let ra : Reg := BitVec.ofNat 5 (fld wd 43 5)
  let rb : Reg := BitVec.ofNat 5 (fld wd 38 5)
  let acc : Acc := BitVec.ofNat 6 (fld wd 32 6)
  let v : VReg := BitVec.ofNat 9 (fld wd 23 9)
  let swen : Bool := (fld wd 22 1 == 1)
  let semw : BitVec 6 := BitVec.ofNat 6 (fld wd 16 6)
  let ssen : Bool := (fld wd 15 1 == 1)
  let sems : BitVec 6 := BitVec.ofNat 6 (fld wd 9 6)
  let ty : ElemTy := ElemTy.ofCode (fld wd 5 4)
  let rot : BitVec 4 := BitVec.ofNat 4 (fld wd 1 4)
  let sp : Bool := (fld wd 0 1 == 1)
  need ((sp || (ra == 0 && rot == 0))) .reservedNonzero <|
  need (decide (v.toNat < 320)) .regRange <|
  need (ty.isS) .type <|
  need (rotOk rot) .fieldValue <|
  .ok (.mmuls h ra rb acc v swen semw ssen sems ty rot sp)

/-- `MMULG` (R178). -/
def decMmulg (wd : Nat) : Except Reason Instr :=
  let h : Head := headOf wd
  let ra : Reg := BitVec.ofNat 5 (fld wd 43 5)
  let rb : Reg := BitVec.ofNat 5 (fld wd 38 5)
  let acc : Acc := BitVec.ofNat 6 (fld wd 32 6)
  let v : VReg := BitVec.ofNat 9 (fld wd 23 9)
  let swen : Bool := (fld wd 22 1 == 1)
  let semw : BitVec 6 := BitVec.ofNat 6 (fld wd 16 6)
  let ssen : Bool := (fld wd 15 1 == 1)
  let sems : BitVec 6 := BitVec.ofNat 6 (fld wd 9 6)
  let ty : ElemTy := ElemTy.ofCode (fld wd 5 4)
  need (fld wd 0 1 == 0 && fld wd 1 4 == 0) .reservedNonzero <|
  need (decide (v.toNat < 320)) .regRange <|
  need (ty.isP) .type <|
  .ok (.mmulg h ra rb acc v swen semw ssen sems ty)

/-- `MMULZ` (R178). -/
def decMmulz (wd : Nat) : Except Reason Instr :=
  let h : Head := headOf wd
  let ra : Reg := BitVec.ofNat 5 (fld wd 43 5)
  let rb : Reg := BitVec.ofNat 5 (fld wd 38 5)
  let acc : Acc := BitVec.ofNat 6 (fld wd 32 6)
  let v : VReg := BitVec.ofNat 9 (fld wd 23 9)
  let swen : Bool := (fld wd 22 1 == 1)
  let semw : BitVec 6 := BitVec.ofNat 6 (fld wd 16 6)
  let ssen : Bool := (fld wd 15 1 == 1)
  let sems : BitVec 6 := BitVec.ofNat 6 (fld wd 9 6)
  let ty : ElemTy := ElemTy.ofCode (fld wd 5 4)
  let rot : BitVec 4 := BitVec.ofNat 4 (fld wd 1 4)
  let sp : Bool := (fld wd 0 1 == 1)
  need ((sp || (ra == 0 && rot == 0))) .reservedNonzero <|
  need (decide (v.toNat < 320)) .regRange <|
  need (ty.isP) .type <|
  need (rotOk rot) .fieldValue <|
  .ok (.mmulz h ra rb acc v swen semw ssen sems ty rot sp)

/-- `MDRAIN` (R185). -/
def decMdrain (wd : Nat) : Except Reason Instr :=
  let h : Head := headOf wd
  let ra : Reg := BitVec.ofNat 5 (fld wd 43 5)
  let rb : Reg := BitVec.ofNat 5 (fld wd 38 5)
  let acc : Acc := BitVec.ofNat 6 (fld wd 32 6)
  let v : VReg := BitVec.ofNat 9 (fld wd 23 9)
  let swen : Bool := (fld wd 22 1 == 1)
  let semw : BitVec 6 := BitVec.ofNat 6 (fld wd 16 6)
  let ssen : Bool := (fld wd 15 1 == 1)
  let sems : BitVec 6 := BitVec.ofNat 6 (fld wd 9 6)
  let ty : ElemTy := ElemTy.ofCode (fld wd 5 4)
  let rot : BitVec 4 := BitVec.ofNat 4 (fld wd 1 4)
  let sp : Bool := (fld wd 0 1 == 1)
  need ((sp || (ra == 0 && rot == 0))) .reservedNonzero <|
  need (decide (v.toNat < 320)) .regRange <|
  need (ty.isDR) .type <|
  need (rotOk rot) .fieldValue <|
  .ok (.mdrain h ra rb acc v swen semw ssen sems ty rot sp)

/-- `MSCL` (R184). -/
def decMscl (wd : Nat) : Except Reason Instr :=
  let h : Head := headOf wd
  let v : VReg := BitVec.ofNat 9 (fld wd 23 9)
  let swen : Bool := (fld wd 22 1 == 1)
  let semw : BitVec 6 := BitVec.ofNat 6 (fld wd 16 6)
  let ssen : Bool := (fld wd 15 1 == 1)
  let sems : BitVec 6 := BitVec.ofNat 6 (fld wd 9 6)
  let col : Bool := (fld wd 0 1 == 1)
  need (fld wd 1 4 == 0 && fld wd 32 6 == 0 && fld wd 38 5 == 0 && fld wd 43 5 == 0) .reservedNonzero <|
  need (decide (v.toNat < 320)) .regRange <|
  need (fld wd 5 4 == 10) .type <|
  .ok (.mscl h v swen semw ssen sems col)

/-- `MSCL_OFF` (R184). -/
def decMsclOff (wd : Nat) : Except Reason Instr :=
  let h : Head := headOf wd
  let swen : Bool := (fld wd 22 1 == 1)
  let semw : BitVec 6 := BitVec.ofNat 6 (fld wd 16 6)
  let ssen : Bool := (fld wd 15 1 == 1)
  let sems : BitVec 6 := BitVec.ofNat 6 (fld wd 9 6)
  let col : Bool := (fld wd 0 1 == 1)
  need (fld wd 1 4 == 0 && fld wd 5 4 == 0 && fld wd 23 9 == 0 && fld wd 32 6 == 0 && fld wd 38 5 == 0 && fld wd 43 5 == 0) .reservedNonzero <|
  .ok (.msclOff h swen semw ssen sems col)

/-- `MBIAS` (R184). -/
def decMbias (wd : Nat) : Except Reason Instr :=
  let h : Head := headOf wd
  let ra : Reg := BitVec.ofNat 5 (fld wd 43 5)
  let v : VReg := BitVec.ofNat 9 (fld wd 23 9)
  let swen : Bool := (fld wd 22 1 == 1)
  let semw : BitVec 6 := BitVec.ofNat 6 (fld wd 16 6)
  let ssen : Bool := (fld wd 15 1 == 1)
  let sems : BitVec 6 := BitVec.ofNat 6 (fld wd 9 6)
  let grp : Bool := (fld wd 0 1 == 1)
  need (fld wd 1 4 == 0 && fld wd 32 6 == 0 && fld wd 38 5 == 0 && (grp || ra == 0)) .reservedNonzero <|
  need (decide (v.toNat < 320)) .regRange <|
  need (fld wd 5 4 == 10) .type <|
  .ok (.mbias h ra v swen semw ssen sems grp)

/-- `MBIAS_OFF` (R184). -/
def decMbiasOff (wd : Nat) : Except Reason Instr :=
  let h : Head := headOf wd
  let swen : Bool := (fld wd 22 1 == 1)
  let semw : BitVec 6 := BitVec.ofNat 6 (fld wd 16 6)
  let ssen : Bool := (fld wd 15 1 == 1)
  let sems : BitVec 6 := BitVec.ofNat 6 (fld wd 9 6)
  need (fld wd 0 1 == 0 && fld wd 1 4 == 0 && fld wd 5 4 == 0 && fld wd 23 9 == 0 && fld wd 32 6 == 0 && fld wd 38 5 == 0 && fld wd 43 5 == 0) .reservedNonzero <|
  .ok (.mbiasOff h swen semw ssen sems)

/-- `MACT` (R184). -/
def decMact (wd : Nat) : Except Reason Instr :=
  let h : Head := headOf wd
  let ra : Reg := BitVec.ofNat 5 (fld wd 43 5)
  let swen : Bool := (fld wd 22 1 == 1)
  let semw : BitVec 6 := BitVec.ofNat 6 (fld wd 16 6)
  let ssen : Bool := (fld wd 15 1 == 1)
  let sems : BitVec 6 := BitVec.ofNat 6 (fld wd 9 6)
  need (fld wd 0 1 == 0 && fld wd 1 4 == 0 && fld wd 5 4 == 0 && fld wd 23 9 == 0 && fld wd 32 6 == 0 && fld wd 38 5 == 0) .reservedNonzero <|
  .ok (.mact h ra swen semw ssen sems)

/-- `MWLD` (R182). -/
def decMwld (wd : Nat) : Except Reason Instr :=
  let h : Head := headOf wd
  let ra : Reg := BitVec.ofNat 5 (fld wd 43 5)
  let rb : Reg := BitVec.ofNat 5 (fld wd 38 5)
  let v : VReg := BitVec.ofNat 9 (fld wd 23 9)
  let swen : Bool := (fld wd 22 1 == 1)
  let semw : BitVec 6 := BitVec.ofNat 6 (fld wd 16 6)
  let ssen : Bool := (fld wd 15 1 == 1)
  let sems : BitVec 6 := BitVec.ofNat 6 (fld wd 9 6)
  let rot : BitVec 4 := BitVec.ofNat 4 (fld wd 1 4)
  need (fld wd 0 1 == 0 && fld wd 5 4 == 0 && fld wd 32 6 == 0) .reservedNonzero <|
  need (decide (v.toNat < 320)) .regRange <|
  need (rotOk rot) .fieldValue <|
  .ok (.mwld h ra rb v swen semw ssen sems rot)

/-- `MWSTR` (R182). -/
def decMwstr (wd : Nat) : Except Reason Instr :=
  let h : Head := headOf wd
  let ra : Reg := BitVec.ofNat 5 (fld wd 43 5)
  let rb : Reg := BitVec.ofNat 5 (fld wd 38 5)
  let v : VReg := BitVec.ofNat 9 (fld wd 23 9)
  let swen : Bool := (fld wd 22 1 == 1)
  let semw : BitVec 6 := BitVec.ofNat 6 (fld wd 16 6)
  let ssen : Bool := (fld wd 15 1 == 1)
  let sems : BitVec 6 := BitVec.ofNat 6 (fld wd 9 6)
  need (fld wd 0 1 == 0 && fld wd 1 4 == 0 && fld wd 5 4 == 0 && fld wd 32 6 == 0) .reservedNonzero <|
  need (decide (v.toNat < 320)) .regRange <|
  .ok (.mwstr h ra rb v swen semw ssen sems)

/-- `MWWAIT` (R183). -/
def decMwwait (wd : Nat) : Except Reason Instr :=
  let h : Head := headOf wd
  let swen : Bool := (fld wd 22 1 == 1)
  let semw : BitVec 6 := BitVec.ofNat 6 (fld wd 16 6)
  let ssen : Bool := (fld wd 15 1 == 1)
  let sems : BitVec 6 := BitVec.ofNat 6 (fld wd 9 6)
  need (fld wd 0 1 == 0 && fld wd 1 4 == 0 && fld wd 5 4 == 0 && fld wd 23 9 == 0 && fld wd 32 6 == 0 && fld wd 38 5 == 0 && fld wd 43 5 == 0) .reservedNonzero <|
  .ok (.mwwait h swen semw ssen sems)

/-- `MMETA` (R184). -/
def decMmeta (wd : Nat) : Except Reason Instr :=
  let h : Head := headOf wd
  let ra : Reg := BitVec.ofNat 5 (fld wd 43 5)
  let swen : Bool := (fld wd 22 1 == 1)
  let semw : BitVec 6 := BitVec.ofNat 6 (fld wd 16 6)
  let ssen : Bool := (fld wd 15 1 == 1)
  let sems : BitVec 6 := BitVec.ofNat 6 (fld wd 9 6)
  need (fld wd 0 1 == 0 && fld wd 1 4 == 0 && fld wd 5 4 == 0 && fld wd 23 9 == 0 && fld wd 32 6 == 0 && fld wd 38 5 == 0) .reservedNonzero <|
  .ok (.mmeta h ra swen semw ssen sems)

/-- `MFMT` (R184). -/
def decMfmt (wd : Nat) : Except Reason Instr :=
  let h : Head := headOf wd
  let ra : Reg := BitVec.ofNat 5 (fld wd 43 5)
  let swen : Bool := (fld wd 22 1 == 1)
  let semw : BitVec 6 := BitVec.ofNat 6 (fld wd 16 6)
  let ssen : Bool := (fld wd 15 1 == 1)
  let sems : BitVec 6 := BitVec.ofNat 6 (fld wd 9 6)
  need (fld wd 0 1 == 0 && fld wd 1 4 == 0 && fld wd 5 4 == 0 && fld wd 23 9 == 0 && fld wd 32 6 == 0 && fld wd 38 5 == 0) .reservedNonzero <|
  .ok (.mfmt h ra swen semw ssen sems)

/-- `MSYNC` (R187). -/
def decMsync (wd : Nat) : Except Reason Instr :=
  let h : Head := headOf wd
  need (fld wd 0 1 == 0 && fld wd 1 4 == 0 && fld wd 5 4 == 0 && fld wd 9 6 == 0 && fld wd 15 1 == 0 && fld wd 16 6 == 0 && fld wd 22 1 == 0 && fld wd 23 9 == 0 && fld wd 32 6 == 0 && fld wd 38 5 == 0 && fld wd 43 5 == 0) .reservedNonzero <|
  .ok (.msync h)

/-- `MQST` (R186). -/
def decMqst (wd : Nat) : Except Reason Instr :=
  let h : Head := headOf wd
  let v : VReg := BitVec.ofNat 9 (fld wd 23 9)
  let swen : Bool := (fld wd 22 1 == 1)
  let semw : BitVec 6 := BitVec.ofNat 6 (fld wd 16 6)
  let ssen : Bool := (fld wd 15 1 == 1)
  let sems : BitVec 6 := BitVec.ofNat 6 (fld wd 9 6)
  need (fld wd 0 1 == 0 && fld wd 1 4 == 0 && fld wd 5 4 == 0 && fld wd 32 6 == 0 && fld wd 38 5 == 0 && fld wd 43 5 == 0) .reservedNonzero <|
  need (decide (v.toNat < 320)) .regRange <|
  .ok (.mqst h v swen semw ssen sems)

/-- `MCONV` (R180). -/
def decMconv (wd : Nat) : Except Reason Instr :=
  let h : Head := headOf wd
  let ra : Reg := BitVec.ofNat 5 (fld wd 43 5)
  let rb : Reg := BitVec.ofNat 5 (fld wd 38 5)
  let acc : Acc := BitVec.ofNat 6 (fld wd 32 6)
  let v : VReg := BitVec.ofNat 9 (fld wd 23 9)
  let swen : Bool := (fld wd 22 1 == 1)
  let semw : BitVec 6 := BitVec.ofNat 6 (fld wd 16 6)
  let ssen : Bool := (fld wd 15 1 == 1)
  let sems : BitVec 6 := BitVec.ofNat 6 (fld wd 9 6)
  let ty : ElemTy := ElemTy.ofCode (fld wd 5 4)
  let rot : BitVec 4 := BitVec.ofNat 4 (fld wd 1 4)
  need (fld wd 0 1 == 0) .reservedNonzero <|
  need (decide (v.toNat < 320)) .regRange <|
  need (ty.isP) .type <|
  need (rotOk rot) .fieldValue <|
  .ok (.mconv h ra rb acc v swen semw ssen sems ty rot)

/-- `MDWC` (R181). -/
def decMdwc (wd : Nat) : Except Reason Instr :=
  let h : Head := headOf wd
  let ra : Reg := BitVec.ofNat 5 (fld wd 43 5)
  let rb : Reg := BitVec.ofNat 5 (fld wd 38 5)
  let acc : Acc := BitVec.ofNat 6 (fld wd 32 6)
  let v : VReg := BitVec.ofNat 9 (fld wd 23 9)
  let swen : Bool := (fld wd 22 1 == 1)
  let semw : BitVec 6 := BitVec.ofNat 6 (fld wd 16 6)
  let ssen : Bool := (fld wd 15 1 == 1)
  let sems : BitVec 6 := BitVec.ofNat 6 (fld wd 9 6)
  let ty : ElemTy := ElemTy.ofCode (fld wd 5 4)
  let rot : BitVec 4 := BitVec.ofNat 4 (fld wd 1 4)
  need (fld wd 0 1 == 0) .reservedNonzero <|
  need (decide (v.toNat < 320)) .regRange <|
  need (ty.isP) .type <|
  need (rotOk rot) .fieldValue <|
  .ok (.mdwc h ra rb acc v swen semw ssen sems ty rot)

/-- `MTR` (R182). -/
def decMtr (wd : Nat) : Except Reason Instr :=
  let h : Head := headOf wd
  let ra : Reg := BitVec.ofNat 5 (fld wd 43 5)
  let rb : Reg := BitVec.ofNat 5 (fld wd 38 5)
  let v : VReg := BitVec.ofNat 9 (fld wd 23 9)
  let swen : Bool := (fld wd 22 1 == 1)
  let semw : BitVec 6 := BitVec.ofNat 6 (fld wd 16 6)
  let ssen : Bool := (fld wd 15 1 == 1)
  let sems : BitVec 6 := BitVec.ofNat 6 (fld wd 9 6)
  let ty : ElemTy := ElemTy.ofCode (fld wd 5 4)
  let rot : BitVec 4 := BitVec.ofNat 4 (fld wd 1 4)
  need (fld wd 0 1 == 0 && fld wd 32 6 == 0) .reservedNonzero <|
  need (decide (v.toNat < 320)) .regRange <|
  need (ty.isP) .type <|
  need (rotOk rot) .fieldValue <|
  .ok (.mtr h ra rb v swen semw ssen sems ty rot)

/-- `MACC` (R186). -/
def decMacc (wd : Nat) : Except Reason Instr :=
  let h : Head := headOf wd
  let acc : Acc := BitVec.ofNat 6 (fld wd 32 6)
  let v : VReg := BitVec.ofNat 9 (fld wd 23 9)
  let swen : Bool := (fld wd 22 1 == 1)
  let semw : BitVec 6 := BitVec.ofNat 6 (fld wd 16 6)
  let ssen : Bool := (fld wd 15 1 == 1)
  let sems : BitVec 6 := BitVec.ofNat 6 (fld wd 9 6)
  need (fld wd 0 1 == 0 && fld wd 1 4 == 0 && fld wd 38 5 == 0 && fld wd 43 5 == 0) .reservedNonzero <|
  need (decide (v.toNat < 320)) .regRange <|
  need (fld wd 5 4 == 10) .type <|
  .ok (.macc h acc v swen semw ssen sems)

/-- `MCPY_OUT` (R186). -/
def decMcpyOut (wd : Nat) : Except Reason Instr :=
  let h : Head := headOf wd
  let acc : Acc := BitVec.ofNat 6 (fld wd 32 6)
  let v : VReg := BitVec.ofNat 9 (fld wd 23 9)
  let swen : Bool := (fld wd 22 1 == 1)
  let semw : BitVec 6 := BitVec.ofNat 6 (fld wd 16 6)
  let ssen : Bool := (fld wd 15 1 == 1)
  let sems : BitVec 6 := BitVec.ofNat 6 (fld wd 9 6)
  need (fld wd 0 1 == 0 && fld wd 1 4 == 0 && fld wd 5 4 == 0 && fld wd 38 5 == 0 && fld wd 43 5 == 0) .reservedNonzero <|
  need (decide (v.toNat < 320)) .regRange <|
  .ok (.mcpyOut h acc v swen semw ssen sems)

/-- `MCPY_IN` (R186). -/
def decMcpyIn (wd : Nat) : Except Reason Instr :=
  let h : Head := headOf wd
  let acc : Acc := BitVec.ofNat 6 (fld wd 32 6)
  let v : VReg := BitVec.ofNat 9 (fld wd 23 9)
  let swen : Bool := (fld wd 22 1 == 1)
  let semw : BitVec 6 := BitVec.ofNat 6 (fld wd 16 6)
  let ssen : Bool := (fld wd 15 1 == 1)
  let sems : BitVec 6 := BitVec.ofNat 6 (fld wd 9 6)
  need (fld wd 1 4 == 0 && fld wd 5 4 == 0 && fld wd 38 5 == 0 && fld wd 43 5 == 0) .reservedNonzero <|
  need (decide (v.toNat < 320)) .regRange <|
  need (fld wd 0 1 == 1) .fieldValue <|
  .ok (.mcpyIn h acc v swen semw ssen sems)

/-- `MSEM` (R186). -/
def decMsem (wd : Nat) : Except Reason Instr :=
  let h : Head := headOf wd
  let swen : Bool := (fld wd 22 1 == 1)
  let semw : BitVec 6 := BitVec.ofNat 6 (fld wd 16 6)
  let ssen : Bool := (fld wd 15 1 == 1)
  let sems : BitVec 6 := BitVec.ofNat 6 (fld wd 9 6)
  need (fld wd 0 1 == 0 && fld wd 1 4 == 0 && fld wd 5 4 == 0 && fld wd 23 9 == 0 && fld wd 32 6 == 0 && fld wd 38 5 == 0 && fld wd 43 5 == 0) .reservedNonzero <|
  .ok (.msem h swen semw ssen sems)

/-- `MABORT` (R188). -/
def decMabort (wd : Nat) : Except Reason Instr :=
  let h : Head := headOf wd
  need (fld wd 0 1 == 0 && fld wd 1 4 == 0 && fld wd 5 4 == 0 && fld wd 9 6 == 0 && fld wd 15 1 == 0 && fld wd 16 6 == 0 && fld wd 22 1 == 0 && fld wd 23 9 == 0 && fld wd 32 6 == 0 && fld wd 38 5 == 0 && fld wd 43 5 == 0) .reservedNonzero <|
  .ok (.mabort h)

/-- `LD` (R197). -/
def decLd (wd : Nat) : Except Reason Instr :=
  let h : Head := headOf wd
  let reg : Reg := BitVec.ofNat 5 (fld wd 39 5)
  let ra : Reg := BitVec.ofNat 5 (fld wd 34 5)
  let rot : BitVec 4 := BitVec.ofNat 4 (fld wd 30 4)
  let ty : ElemTy := ElemTy.ofCode (fld wd 26 4)
  let space : BitVec 2 := BitVec.ofNat 2 (fld wd 24 2)
  let off : BitVec 24 := BitVec.ofNat 24 (fld wd 0 24)
  need (fld wd 44 4 == 0 && (decide (space = 0) || ra == 0) && (decide (space ≠ 0) || rot == 0) && (decide (space ≠ 1) || decide (off.toNat < 0x400000))) .reservedNonzero <|
  need (ty.isLS) .type <|
  need (decide (space.toNat ≤ 2) && rotOk rot) .fieldValue <|
  .ok (.ld h reg ra rot ty space off)

/-- `ST` (R197). -/
def decSt (wd : Nat) : Except Reason Instr :=
  let h : Head := headOf wd
  let reg : Reg := BitVec.ofNat 5 (fld wd 39 5)
  let ra : Reg := BitVec.ofNat 5 (fld wd 34 5)
  let rot : BitVec 4 := BitVec.ofNat 4 (fld wd 30 4)
  let ty : ElemTy := ElemTy.ofCode (fld wd 26 4)
  let space : BitVec 2 := BitVec.ofNat 2 (fld wd 24 2)
  let off : BitVec 24 := BitVec.ofNat 24 (fld wd 0 24)
  need (fld wd 44 4 == 0 && (decide (space = 0) || ra == 0) && (decide (space ≠ 0) || rot == 0) && (decide (space ≠ 1) || decide (off.toNat < 0x400000))) .reservedNonzero <|
  need (ty.isLS) .type <|
  need (decide (space.toNat ≤ 2) && rotOk rot) .fieldValue <|
  .ok (.st h reg ra rot ty space off)

/-- `VLD` (R198). DESIGN CHOICE (log entry 45): where an opcode's type field is 0 in every instruction, a value in it is
RESERVED_NONZERO, the lowest of the reasons that it fails (R43, R60, R195). -/
def decVld (wd : Nat) : Except Reason Instr :=
  let h : Head := headOf wd
  let reg : VReg := BitVec.ofNat 9 (fld wd 39 9)
  let ra : Reg := BitVec.ofNat 5 (fld wd 34 5)
  let rot : BitVec 4 := BitVec.ofNat 4 (fld wd 30 4)
  let space : BitVec 2 := BitVec.ofNat 2 (fld wd 24 2)
  let off : BitVec 24 := BitVec.ofNat 24 (fld wd 0 24)
  need (fld wd 26 4 == 0 && (decide (space = 0) || ra == 0) && (decide (space ≠ 0) || rot == 0) && (decide (space ≠ 1) || decide (off.toNat < 0x400000))) .reservedNonzero <|
  need (decide (reg.toNat < 384)) .regRange <|
  need (decide (space.toNat ≤ 2) && rotOk rot) .fieldValue <|
  .ok (.vld h reg ra rot space off)

/-- `VST` (R198). -/
def decVst (wd : Nat) : Except Reason Instr :=
  let h : Head := headOf wd
  let reg : VReg := BitVec.ofNat 9 (fld wd 39 9)
  let ra : Reg := BitVec.ofNat 5 (fld wd 34 5)
  let rot : BitVec 4 := BitVec.ofNat 4 (fld wd 30 4)
  let space : BitVec 2 := BitVec.ofNat 2 (fld wd 24 2)
  let off : BitVec 24 := BitVec.ofNat 24 (fld wd 0 24)
  need (fld wd 26 4 == 0 && (decide (space = 0) || ra == 0) && (decide (space ≠ 0) || rot == 0) && (decide (space ≠ 1) || decide (off.toNat < 0x400000))) .reservedNonzero <|
  need (decide (reg.toNat < 384)) .regRange <|
  need (decide (space.toNat ≤ 2) && rotOk rot) .fieldValue <|
  .ok (.vst h reg ra rot space off)

/-- `VLDS` (R198). -/
def decVlds (wd : Nat) : Except Reason Instr :=
  let h : Head := headOf wd
  let reg : VReg := BitVec.ofNat 9 (fld wd 39 9)
  let ra : Reg := BitVec.ofNat 5 (fld wd 34 5)
  let rot : BitVec 4 := BitVec.ofNat 4 (fld wd 30 4)
  let space : BitVec 2 := BitVec.ofNat 2 (fld wd 24 2)
  let off : BitVec 24 := BitVec.ofNat 24 (fld wd 0 24)
  need (fld wd 26 4 == 0 && (decide (space = 0) || ra == 0) && (decide (space ≠ 0) || rot == 0) && (decide (space ≠ 1) || decide (off.toNat < 0x400000))) .reservedNonzero <|
  need (decide (reg.toNat < 384)) .regRange <|
  need (decide (space.toNat ≤ 2) && rotOk rot) .fieldValue <|
  .ok (.vlds h reg ra rot space off)

/-- `VSTS` (R198). -/
def decVsts (wd : Nat) : Except Reason Instr :=
  let h : Head := headOf wd
  let reg : VReg := BitVec.ofNat 9 (fld wd 39 9)
  let ra : Reg := BitVec.ofNat 5 (fld wd 34 5)
  let rot : BitVec 4 := BitVec.ofNat 4 (fld wd 30 4)
  let space : BitVec 2 := BitVec.ofNat 2 (fld wd 24 2)
  let off : BitVec 24 := BitVec.ofNat 24 (fld wd 0 24)
  need (fld wd 26 4 == 0 && (decide (space = 0) || ra == 0) && (decide (space ≠ 0) || rot == 0) && (decide (space ≠ 1) || decide (off.toNat < 0x400000))) .reservedNonzero <|
  need (decide (reg.toNat < 384)) .regRange <|
  need (decide (space.toNat ≤ 2) && rotOk rot) .fieldValue <|
  .ok (.vsts h reg ra rot space off)

/-- `VLDX` (R198). -/
def decVldx (wd : Nat) : Except Reason Instr :=
  let h : Head := headOf wd
  let reg : VReg := BitVec.ofNat 9 (fld wd 39 9)
  let ra : Reg := BitVec.ofNat 5 (fld wd 34 5)
  let rot : BitVec 4 := BitVec.ofNat 4 (fld wd 30 4)
  let space : BitVec 2 := BitVec.ofNat 2 (fld wd 24 2)
  let off : BitVec 24 := BitVec.ofNat 24 (fld wd 0 24)
  need (fld wd 26 4 == 0 && (decide (space = 0) || ra == 0) && (decide (space ≠ 0) || rot == 0) && (decide (space ≠ 1) || decide (off.toNat < 0x400000))) .reservedNonzero <|
  need (decide (reg.toNat < 384)) .regRange <|
  need (decide (space.toNat ≤ 2) && rotOk rot) .fieldValue <|
  .ok (.vldx h reg ra rot space off)

/-- `VSTX` (R198). -/
def decVstx (wd : Nat) : Except Reason Instr :=
  let h : Head := headOf wd
  let reg : VReg := BitVec.ofNat 9 (fld wd 39 9)
  let ra : Reg := BitVec.ofNat 5 (fld wd 34 5)
  let rot : BitVec 4 := BitVec.ofNat 4 (fld wd 30 4)
  let space : BitVec 2 := BitVec.ofNat 2 (fld wd 24 2)
  let off : BitVec 24 := BitVec.ofNat 24 (fld wd 0 24)
  need (fld wd 26 4 == 0 && (decide (space = 0) || ra == 0) && (decide (space ≠ 0) || rot == 0) && (decide (space ≠ 1) || decide (off.toNat < 0x400000))) .reservedNonzero <|
  need (decide (reg.toNat < 384)) .regRange <|
  need (decide (space.toNat ≤ 2) && rotOk rot) .fieldValue <|
  .ok (.vstx h reg ra rot space off)

/-- `TOUCH_R` (R201). -/
def decTouchR (wd : Nat) : Except Reason Instr :=
  let h : Head := headOf wd
  let rd : Reg := BitVec.ofNat 5 (fld wd 43 5)
  let ra : Reg := BitVec.ofNat 5 (fld wd 38 5)
  let rb : Reg := BitVec.ofNat 5 (fld wd 33 5)
  need (fld wd 0 24 == 0 && fld wd 28 5 == 0) .reservedNonzero <|
  need (fld wd 24 4 == 0) .fieldValue <|
  .ok (.touchR h rd ra rb)

/-- `TOUCH_W` (R201). -/
def decTouchW (wd : Nat) : Except Reason Instr :=
  let h : Head := headOf wd
  let rd : Reg := BitVec.ofNat 5 (fld wd 43 5)
  let ra : Reg := BitVec.ofNat 5 (fld wd 38 5)
  let rb : Reg := BitVec.ofNat 5 (fld wd 33 5)
  need (fld wd 0 24 == 0 && fld wd 28 5 == 0) .reservedNonzero <|
  need (fld wd 24 4 == 1) .fieldValue <|
  .ok (.touchW h rd ra rb)

/-- `CPY` (R204). -/
def decCpy (wd : Nat) : Except Reason Instr :=
  let h : Head := headOf wd
  let reg : Reg := BitVec.ofNat 5 (fld wd 39 5)
  let ra : Reg := BitVec.ofNat 5 (fld wd 34 5)
  let rot : BitVec 4 := BitVec.ofNat 4 (fld wd 30 4)
  let space : BitVec 2 := BitVec.ofNat 2 (fld wd 24 2)
  let off : BitVec 24 := BitVec.ofNat 24 (fld wd 0 24)
  need (fld wd 26 4 == 0 && fld wd 44 4 == 0 && (decide (space = 0) || ra == 0) && (decide (space ≠ 0) || rot == 0) && (decide (space ≠ 1) || decide (off.toNat < 0x400000))) .reservedNonzero <|
  need ((space == 1 || space == 2) && rotOk rot) .fieldValue <|
  .ok (.cpy h reg ra rot space off)

/-- `CPYW` (R204). -/
def decCpyw (wd : Nat) : Except Reason Instr :=
  let h : Head := headOf wd
  let reg : Reg := BitVec.ofNat 5 (fld wd 39 5)
  let ra : Reg := BitVec.ofNat 5 (fld wd 34 5)
  let rot : BitVec 4 := BitVec.ofNat 4 (fld wd 30 4)
  let space : BitVec 2 := BitVec.ofNat 2 (fld wd 24 2)
  let off : BitVec 24 := BitVec.ofNat 24 (fld wd 0 24)
  need (fld wd 26 4 == 0 && fld wd 44 4 == 0 && (decide (space = 0) || ra == 0) && (decide (space ≠ 0) || rot == 0) && (decide (space ≠ 1) || decide (off.toNat < 0x400000))) .reservedNonzero <|
  need ((space == 1 || space == 2) && rotOk rot) .fieldValue <|
  .ok (.cpyw h reg ra rot space off)

/-- `POOL_RESHAPE` (R119). -/
def decPoolReshape (wd : Nat) : Except Reason Instr :=
  let h : Head := headOf wd
  let rd : Reg := BitVec.ofNat 5 (fld wd 43 5)
  let ra : Reg := BitVec.ofNat 5 (fld wd 38 5)
  let role : BitVec 4 := BitVec.ofNat 4 (fld wd 24 4)
  let rel : Bool := (fld wd 10 1 == 1)
  let limit : BitVec 10 := BitVec.ofNat 10 (fld wd 0 10)
  need (fld wd 11 13 == 0 && fld wd 28 5 == 0 && fld wd 33 5 == 0) .reservedNonzero <|
  need (decide (role.toNat ≤ 5)) .fieldValue <|
  .ok (.poolReshape h rd ra role rel limit)

/-- `POOL_PIN` (R120). -/
def decPoolPin (wd : Nat) : Except Reason Instr :=
  let h : Head := headOf wd
  let rd : Reg := BitVec.ofNat 5 (fld wd 43 5)
  let ra : Reg := BitVec.ofNat 5 (fld wd 38 5)
  need (fld wd 0 24 == 0 && fld wd 28 5 == 0 && fld wd 33 5 == 0) .reservedNonzero <|
  need (fld wd 24 4 == 6) .fieldValue <|
  .ok (.poolPin h rd ra)

/-- `POOL_UNPIN` (R120). -/
def decPoolUnpin (wd : Nat) : Except Reason Instr :=
  let h : Head := headOf wd
  let rd : Reg := BitVec.ofNat 5 (fld wd 43 5)
  let ra : Reg := BitVec.ofNat 5 (fld wd 38 5)
  need (fld wd 0 24 == 0 && fld wd 28 5 == 0 && fld wd 33 5 == 0) .reservedNonzero <|
  need (fld wd 24 4 == 7) .fieldValue <|
  .ok (.poolUnpin h rd ra)

/-- `PSTAT` (R123). -/
def decPstat (wd : Nat) : Except Reason Instr :=
  let h : Head := headOf wd
  let rd : Reg := BitVec.ofNat 5 (fld wd 43 5)
  let which : BitVec 4 := BitVec.ofNat 4 (fld wd 0 4)
  need (fld wd 4 20 == 0 && fld wd 24 4 == 0 && fld wd 28 5 == 0 && fld wd 33 5 == 0 && fld wd 38 5 == 0) .reservedNonzero <|
  need (decide (which.toNat ≤ 8)) .fieldValue <|
  .ok (.pstat h rd which)

/-- `WBINV_ALL` (R128). -/
def decWbinvAll (wd : Nat) : Except Reason Instr :=
  let h : Head := headOf wd
  let rd : Reg := BitVec.ofNat 5 (fld wd 43 5)
  let keep : Bool := (fld wd 25 1 == 1)
  need (fld wd 0 24 == 0 && fld wd 26 2 == 0 && fld wd 28 5 == 0 && fld wd 33 5 == 0 && fld wd 38 5 == 0) .reservedNonzero <|
  need (fld wd 24 1 == 0) .fieldValue <|
  .ok (.wbinvAll h rd keep)

/-- `WBINV_RNG` (R128). -/
def decWbinvRng (wd : Nat) : Except Reason Instr :=
  let h : Head := headOf wd
  let rd : Reg := BitVec.ofNat 5 (fld wd 43 5)
  let ra : Reg := BitVec.ofNat 5 (fld wd 38 5)
  let rb : Reg := BitVec.ofNat 5 (fld wd 33 5)
  let keep : Bool := (fld wd 25 1 == 1)
  need (fld wd 0 24 == 0 && fld wd 26 2 == 0 && fld wd 28 5 == 0) .reservedNonzero <|
  need (fld wd 24 1 == 1) .fieldValue <|
  .ok (.wbinvRng h rd ra rb keep)

/-- `RSET` (R207). -/
def decRset (wd : Nat) : Except Reason Instr :=
  let h : Head := headOf wd
  let rd : Reg := BitVec.ofNat 5 (fld wd 43 5)
  let ra : Reg := BitVec.ofNat 5 (fld wd 38 5)
  let rb : Reg := BitVec.ofNat 5 (fld wd 33 5)
  let ring : BitVec 4 := BitVec.ofNat 4 (fld wd 24 4)
  need (fld wd 0 24 == 0 && fld wd 28 5 == 0) .reservedNonzero <|
  .ok (.rset h rd ra rb ring)

/-- `RSET_CLR` (R207). -/
def decRsetClr (wd : Nat) : Except Reason Instr :=
  let h : Head := headOf wd
  let rd : Reg := BitVec.ofNat 5 (fld wd 43 5)
  let ring : BitVec 4 := BitVec.ofNat 4 (fld wd 24 4)
  need (fld wd 1 23 == 0 && fld wd 28 5 == 0 && fld wd 33 5 == 0 && fld wd 38 5 == 0) .reservedNonzero <|
  need (fld wd 0 1 == 1) .fieldValue <|
  .ok (.rsetClr h rd ring)

/-- `RPUT` (R208). -/
def decRput (wd : Nat) : Except Reason Instr :=
  let h : Head := headOf wd
  let rd : Reg := BitVec.ofNat 5 (fld wd 43 5)
  let ra : Reg := BitVec.ofNat 5 (fld wd 38 5)
  let rb : Reg := BitVec.ofNat 5 (fld wd 33 5)
  let ring : BitVec 4 := BitVec.ofNat 4 (fld wd 24 4)
  let limit : BitVec 24 := BitVec.ofNat 24 (fld wd 0 24)
  need (fld wd 28 5 == 0) .reservedNonzero <|
  .ok (.rput h rd ra rb ring limit)

/-- `RGET` (R210). -/
def decRget (wd : Nat) : Except Reason Instr :=
  let h : Head := headOf wd
  let rd : Reg := BitVec.ofNat 5 (fld wd 43 5)
  let ring : BitVec 4 := BitVec.ofNat 4 (fld wd 24 4)
  let limit : BitVec 24 := BitVec.ofNat 24 (fld wd 0 24)
  need (fld wd 28 5 == 0 && fld wd 33 5 == 0 && fld wd 38 5 == 0) .reservedNonzero <|
  need (limit != 0) .fieldValue <|
  .ok (.rget h rd ring limit)

/-- `RCLAIM` (R210). -/
def decRclaim (wd : Nat) : Except Reason Instr :=
  let h : Head := headOf wd
  let rd : Reg := BitVec.ofNat 5 (fld wd 43 5)
  let rb : Reg := BitVec.ofNat 5 (fld wd 33 5)
  let ring : BitVec 4 := BitVec.ofNat 4 (fld wd 24 4)
  let n : BitVec 8 := BitVec.ofNat 8 (fld wd 0 8)
  need (fld wd 8 16 == 0 && fld wd 28 5 == 0 && fld wd 38 5 == 0) .reservedNonzero <|
  need (n != 0) .fieldValue <|
  .ok (.rclaim h rd rb ring n)

/-- `RCLAIM_REL` (R210). -/
def decRclaimRel (wd : Nat) : Except Reason Instr :=
  let h : Head := headOf wd
  let rd : Reg := BitVec.ofNat 5 (fld wd 43 5)
  let ring : BitVec 4 := BitVec.ofNat 4 (fld wd 24 4)
  let n : BitVec 8 := BitVec.ofNat 8 (fld wd 0 8)
  need (fld wd 9 15 == 0 && fld wd 28 5 == 0 && fld wd 33 5 == 0 && fld wd 38 5 == 0) .reservedNonzero <|
  need (n != 0 && fld wd 8 1 == 1) .fieldValue <|
  .ok (.rclaimRel h rd ring n)

/-- `RWAITF` (R210). -/
def decRwaitf (wd : Nat) : Except Reason Instr :=
  let h : Head := headOf wd
  let rd : Reg := BitVec.ofNat 5 (fld wd 43 5)
  let rb : Reg := BitVec.ofNat 5 (fld wd 33 5)
  let ring : BitVec 4 := BitVec.ofNat 4 (fld wd 24 4)
  let limit : BitVec 24 := BitVec.ofNat 24 (fld wd 0 24)
  need (fld wd 28 5 == 0 && fld wd 38 5 == 0) .reservedNonzero <|
  need (limit != 0) .fieldValue <|
  .ok (.rwaitf h rd rb ring limit)

/-- `RWAITE` (R210). -/
def decRwaite (wd : Nat) : Except Reason Instr :=
  let h : Head := headOf wd
  let rd : Reg := BitVec.ofNat 5 (fld wd 43 5)
  let rb : Reg := BitVec.ofNat 5 (fld wd 33 5)
  let ring : BitVec 4 := BitVec.ofNat 4 (fld wd 24 4)
  let limit : BitVec 24 := BitVec.ofNat 24 (fld wd 0 24)
  need (fld wd 28 5 == 0 && fld wd 38 5 == 0) .reservedNonzero <|
  need (limit != 0) .fieldValue <|
  .ok (.rwaite h rd rb ring limit)

/-- `RSTAT_POS` (R210). -/
def decRstatPos (wd : Nat) : Except Reason Instr :=
  let h : Head := headOf wd
  let rd : Reg := BitVec.ofNat 5 (fld wd 43 5)
  let ring : BitVec 4 := BitVec.ofNat 4 (fld wd 24 4)
  need (fld wd 0 24 == 0 && fld wd 28 5 == 0 && fld wd 33 5 == 0 && fld wd 38 5 == 0) .reservedNonzero <|
  .ok (.rstatPos h rd ring)

/-- `RSTAT_SPILL` (R210). -/
def decRstatSpill (wd : Nat) : Except Reason Instr :=
  let h : Head := headOf wd
  let rd : Reg := BitVec.ofNat 5 (fld wd 43 5)
  let ring : BitVec 4 := BitVec.ofNat 4 (fld wd 24 4)
  need (fld wd 1 23 == 0 && fld wd 28 5 == 0 && fld wd 33 5 == 0 && fld wd 38 5 == 0) .reservedNonzero <|
  need (fld wd 0 1 == 1) .fieldValue <|
  .ok (.rstatSpill h rd ring)

/-- `WENQ` (R212). -/
def decWenq (wd : Nat) : Except Reason Instr :=
  let h : Head := headOf wd
  let rd : Reg := BitVec.ofNat 5 (fld wd 43 5)
  let ra : Reg := BitVec.ofNat 5 (fld wd 38 5)
  let rb : Reg := BitVec.ofNat 5 (fld wd 33 5)
  let scope : BitVec 5 := BitVec.ofNat 5 (fld wd 28 5)
  let limit : BitVec 17 := BitVec.ofNat 17 (fld wd 7 17)
  let n : BitVec 7 := BitVec.ofNat 7 (fld wd 0 7)
  need (fld wd 24 4 == 0) .reservedNonzero <|
  need (n != 0) .fieldValue <|
  .ok (.wenq h rd ra rb scope limit n)

/-- `SEMI` (R216). -/
def decSemi (wd : Nat) : Except Reason Instr :=
  let h : Head := headOf wd
  let rd : Reg := BitVec.ofNat 5 (fld wd 43 5)
  let ra : Reg := BitVec.ofNat 5 (fld wd 38 5)
  let sem : BitVec 6 := BitVec.ofNat 6 (fld wd 0 6)
  need (fld wd 6 18 == 0 && fld wd 24 4 == 0 && fld wd 28 5 == 0 && fld wd 33 5 == 0) .reservedNonzero <|
  .ok (.semi h rd ra sem)

/-- `SEMW` (R216). -/
def decSemw (wd : Nat) : Except Reason Instr :=
  let h : Head := headOf wd
  let rd : Reg := BitVec.ofNat 5 (fld wd 43 5)
  let limit : BitVec 12 := BitVec.ofNat 12 (fld wd 12 12)
  let k : BitVec 6 := BitVec.ofNat 6 (fld wd 6 6)
  let sem : BitVec 6 := BitVec.ofNat 6 (fld wd 0 6)
  need (fld wd 28 5 == 0 && fld wd 33 5 == 0 && fld wd 38 5 == 0) .reservedNonzero <|
  need (k != 0 && limit != 0 && fld wd 24 4 == 0) .fieldValue <|
  .ok (.semw h rd limit k sem)

/-- `SEMW_TRY` (R216). -/
def decSemwTry (wd : Nat) : Except Reason Instr :=
  let h : Head := headOf wd
  let rd : Reg := BitVec.ofNat 5 (fld wd 43 5)
  let k : BitVec 6 := BitVec.ofNat 6 (fld wd 6 6)
  let sem : BitVec 6 := BitVec.ofNat 6 (fld wd 0 6)
  need (fld wd 12 12 == 0 && fld wd 28 5 == 0 && fld wd 33 5 == 0 && fld wd 38 5 == 0) .reservedNonzero <|
  need (fld wd 24 4 == 1) .fieldValue <|
  .ok (.semwTry h rd k sem)

/-- `SEMS` (R216). -/
def decSems (wd : Nat) : Except Reason Instr :=
  let h : Head := headOf wd
  let rd : Reg := BitVec.ofNat 5 (fld wd 43 5)
  let k : BitVec 6 := BitVec.ofNat 6 (fld wd 6 6)
  let sem : BitVec 6 := BitVec.ofNat 6 (fld wd 0 6)
  need (fld wd 12 12 == 0 && fld wd 24 4 == 0 && fld wd 28 5 == 0 && fld wd 33 5 == 0 && fld wd 38 5 == 0) .reservedNonzero <|
  need (k != 0) .fieldValue <|
  .ok (.sems h rd k sem)

/-- `MARK` (R221). -/
def decMark (wd : Nat) : Except Reason Instr :=
  let h : Head := headOf wd
  need (fld wd 0 24 == 0 && fld wd 24 4 == 0 && fld wd 28 5 == 0 && fld wd 33 5 == 0 && fld wd 38 5 == 0 && fld wd 43 5 == 0) .reservedNonzero <|
  .ok (.mark h)

/-- `FENCE_REL` (R261). -/
def decFenceRel (wd : Nat) : Except Reason Instr :=
  let h : Head := headOf wd
  let scope : BitVec 5 := BitVec.ofNat 5 (fld wd 28 5)
  need (fld wd 0 24 == 0 && fld wd 33 5 == 0 && fld wd 38 5 == 0 && fld wd 43 5 == 0) .reservedNonzero <|
  need (fld wd 24 4 == 0) .fieldValue <|
  .ok (.fenceRel h scope)

/-- `FENCE_ACQ` (R261). -/
def decFenceAcq (wd : Nat) : Except Reason Instr :=
  let h : Head := headOf wd
  let scope : BitVec 5 := BitVec.ofNat 5 (fld wd 28 5)
  need (fld wd 0 24 == 0 && fld wd 33 5 == 0 && fld wd 38 5 == 0 && fld wd 43 5 == 0) .reservedNonzero <|
  need (fld wd 24 4 == 1) .fieldValue <|
  .ok (.fenceAcq h scope)

/-- `FENCE_FULL` (R261). -/
def decFenceFull (wd : Nat) : Except Reason Instr :=
  let h : Head := headOf wd
  let scope : BitVec 5 := BitVec.ofNat 5 (fld wd 28 5)
  need (fld wd 0 24 == 0 && fld wd 33 5 == 0 && fld wd 38 5 == 0 && fld wd 43 5 == 0) .reservedNonzero <|
  need (fld wd 24 4 == 2) .fieldValue <|
  .ok (.fenceFull h scope)

/-- `EPUSH` (R219). -/
def decEpush (wd : Nat) : Except Reason Instr :=
  let h : Head := headOf wd
  let rd : Reg := BitVec.ofNat 5 (fld wd 43 5)
  let ra : Reg := BitVec.ofNat 5 (fld wd 38 5)
  let rb : Reg := BitVec.ofNat 5 (fld wd 33 5)
  let scope : BitVec 5 := BitVec.ofNat 5 (fld wd 28 5)
  need (fld wd 0 24 == 0 && fld wd 24 4 == 0) .reservedNonzero <|
  .ok (.epush h rd ra rb scope)

/-- `EPOP` (R220). -/
def decEpop (wd : Nat) : Except Reason Instr :=
  let h : Head := headOf wd
  let rd : Reg := BitVec.ofNat 5 (fld wd 43 5)
  let ra : Reg := BitVec.ofNat 5 (fld wd 38 5)
  let limit : BitVec 24 := BitVec.ofNat 24 (fld wd 0 24)
  need (fld wd 24 4 == 0 && fld wd 28 5 == 0 && fld wd 33 5 == 0) .reservedNonzero <|
  need (limit != 0) .fieldValue <|
  .ok (.epop h rd ra limit)

/-- `PFET` (R199). -/
def decPfet (wd : Nat) : Except Reason Instr :=
  let h : Head := headOf wd
  let rowsM1 : BitVec 5 := BitVec.ofNat 5 (fld wd 39 5)
  let ra : Reg := BitVec.ofNat 5 (fld wd 34 5)
  let off : BitVec 24 := BitVec.ofNat 24 (fld wd 0 24)
  need (fld wd 26 4 == 0 && (fld wd 24 2 != 0 || fld wd 30 4 == 0) && fld wd 44 4 == 0 && (fld wd 24 2 == 0 || fld wd 34 5 == 0) && (fld wd 24 2 != 1 || fld wd 22 2 == 0)) .reservedNonzero <|
  need (fld wd 24 2 == 0) .fieldValue <|
  .ok (.pfet h rowsM1 ra off)

/-- `DETACH` (R232). -/
def decDetach (wd : Nat) : Except Reason Instr :=
  let h : Head := headOf wd
  need (fld wd 0 24 == 0 && fld wd 24 4 == 0 && fld wd 28 5 == 0 && fld wd 33 5 == 0 && fld wd 38 5 == 0 && fld wd 43 5 == 0) .reservedNonzero <|
  .ok (.detach h)

/-- `JOIN_OPEN` (R234). -/
def decJoinOpen (wd : Nat) : Except Reason Instr :=
  let h : Head := headOf wd
  let rd : Reg := BitVec.ofNat 5 (fld wd 43 5)
  let id : BitVec 8 := BitVec.ofNat 8 (fld wd 0 8)
  need (fld wd 8 16 == 0 && fld wd 28 5 == 0 && fld wd 33 5 == 0 && fld wd 38 5 == 0) .reservedNonzero <|
  need (fld wd 24 4 == 0) .fieldValue <|
  .ok (.joinOpen h rd id)

/-- `JOIN` (R235). -/
def decJoin (wd : Nat) : Except Reason Instr :=
  let h : Head := headOf wd
  let limit : BitVec 16 := BitVec.ofNat 16 (fld wd 8 16)
  let id : BitVec 8 := BitVec.ofNat 8 (fld wd 0 8)
  need (fld wd 28 5 == 0 && fld wd 33 5 == 0 && fld wd 38 5 == 0 && fld wd 43 5 == 0) .reservedNonzero <|
  need (limit != 0 && fld wd 24 4 == 1) .fieldValue <|
  .ok (.join h limit id)

/-- `DSYNC` (R242). -/
def decDsync (wd : Nat) : Except Reason Instr :=
  let h : Head := headOf wd
  let scope : BitVec 5 := BitVec.ofNat 5 (fld wd 28 5)
  let level : BitVec 4 := BitVec.ofNat 4 (fld wd 24 4)
  let limit : BitVec 16 := BitVec.ofNat 16 (fld wd 8 16)
  let smask : BitVec 4 := BitVec.ofNat 4 (fld wd 0 4)
  need (fld wd 4 4 == 0 && fld wd 33 5 == 0 && fld wd 38 5 == 0 && fld wd 43 5 == 0) .reservedNonzero <|
  need (limit != 0 && decide (level.toNat ≤ 3)) .fieldValue <|
  .ok (.dsync h scope level limit smask)

/-- `DPHASE_COMP` (R241). -/
def decDphaseComp (wd : Nat) : Except Reason Instr :=
  let h : Head := headOf wd
  need (fld wd 0 24 == 0 && fld wd 28 5 == 0 && fld wd 33 5 == 0 && fld wd 38 5 == 0 && fld wd 43 5 == 0) .reservedNonzero <|
  need (fld wd 24 4 == 0) .fieldValue <|
  .ok (.dphaseComp h)

/-- `DPHASE_COMM` (R241). -/
def decDphaseComm (wd : Nat) : Except Reason Instr :=
  let h : Head := headOf wd
  need (fld wd 0 24 == 0 && fld wd 28 5 == 0 && fld wd 33 5 == 0 && fld wd 38 5 == 0 && fld wd 43 5 == 0) .reservedNonzero <|
  need (fld wd 24 4 == 1) .fieldValue <|
  .ok (.dphaseComm h)

/-- `SCSET` (R249). -/
def decScset (wd : Nat) : Except Reason Instr :=
  let h : Head := headOf wd
  let rd : Reg := BitVec.ofNat 5 (fld wd 43 5)
  let ra : Reg := BitVec.ofNat 5 (fld wd 38 5)
  let scope : BitVec 5 := BitVec.ofNat 5 (fld wd 28 5)
  need (fld wd 0 24 == 0 && fld wd 24 4 == 0 && fld wd 33 5 == 0) .reservedNonzero <|
  need ((scope != 0 && scope != 1 && scope != 30 && scope != 31)) .fieldValue <|
  .ok (.scset h rd ra scope)

/-- `SCGET` (R250). -/
def decScget (wd : Nat) : Except Reason Instr :=
  let h : Head := headOf wd
  let rd : Reg := BitVec.ofNat 5 (fld wd 43 5)
  let scope : BitVec 5 := BitVec.ofNat 5 (fld wd 28 5)
  let w : BitVec 4 := BitVec.ofNat 4 (fld wd 24 4)
  need (fld wd 0 24 == 0 && fld wd 33 5 == 0 && fld wd 38 5 == 0) .reservedNonzero <|
  need (decide (w.toNat ≤ 4)) .fieldValue <|
  .ok (.scget h rd scope w)

/-- `AMO` (R263). -/
def decAmo (wd : Nat) : Except Reason Instr :=
  let h : Head := headOf wd
  let rd : Reg := BitVec.ofNat 5 (fld wd 43 5)
  let ra : Reg := BitVec.ofNat 5 (fld wd 38 5)
  let rb : Reg := BitVec.ofNat 5 (fld wd 33 5)
  let scope : BitVec 5 := BitVec.ofNat 5 (fld wd 28 5)
  let op : BitVec 4 := BitVec.ofNat 4 (fld wd 24 4)
  let ord : BitVec 2 := BitVec.ofNat 2 (fld wd 2 2)
  let ty : BitVec 2 := BitVec.ofNat 2 (fld wd 0 2)
  need (fld wd 4 20 == 0) .reservedNonzero <|
  need (decide (op.toNat ≤ 9) && (ty != 3 && ((op == 9) == (ty == 2)))) .fieldValue <|
  .ok (.amo h rd ra rb scope op ord ty)

/-- `AMON` (R263). -/
def decAmon (wd : Nat) : Except Reason Instr :=
  let h : Head := headOf wd
  let ra : Reg := BitVec.ofNat 5 (fld wd 38 5)
  let rb : Reg := BitVec.ofNat 5 (fld wd 33 5)
  let scope : BitVec 5 := BitVec.ofNat 5 (fld wd 28 5)
  let op : BitVec 4 := BitVec.ofNat 4 (fld wd 24 4)
  let ord : BitVec 2 := BitVec.ofNat 2 (fld wd 2 2)
  let ty : BitVec 2 := BitVec.ofNat 2 (fld wd 0 2)
  need (fld wd 4 20 == 0 && fld wd 43 5 == 0) .reservedNonzero <|
  need (decide (op.toNat ≤ 9) && (op != 8 && ty != 3 && ((op == 9) == (ty == 2)) && (ord == 0 || ord == 2))) .fieldValue <|
  .ok (.amon h ra rb scope op ord ty)

/-- `ACAS` (R263). -/
def decAcas (wd : Nat) : Except Reason Instr :=
  let h : Head := headOf wd
  let rd : Reg := BitVec.ofNat 5 (fld wd 43 5)
  let ra : Reg := BitVec.ofNat 5 (fld wd 38 5)
  let rb : Reg := BitVec.ofNat 5 (fld wd 33 5)
  let scope : BitVec 5 := BitVec.ofNat 5 (fld wd 28 5)
  let ord : BitVec 2 := BitVec.ofNat 2 (fld wd 2 2)
  let ty : BitVec 2 := BitVec.ofNat 2 (fld wd 0 2)
  need (fld wd 4 20 == 0 && fld wd 24 4 == 0) .reservedNonzero <|
  need ((ty == 0 || ty == 1)) .fieldValue <|
  .ok (.acas h rd ra rb scope ord ty)

/-- `MWAIT` (R268). -/
def decMwait (wd : Nat) : Except Reason Instr :=
  let h : Head := headOf wd
  let rd : Reg := BitVec.ofNat 5 (fld wd 43 5)
  let limit : BitVec 24 := BitVec.ofNat 24 (fld wd 0 24)
  need (fld wd 24 4 == 0 && fld wd 28 5 == 0 && fld wd 33 5 == 0 && fld wd 38 5 == 0) .reservedNonzero <|
  need (limit != 0) .fieldValue <|
  .ok (.mwait h rd limit)

/-- `MARM` (R267). -/
def decMarm (wd : Nat) : Except Reason Instr :=
  let h : Head := headOf wd
  let rd : Reg := BitVec.ofNat 5 (fld wd 43 5)
  let ra : Reg := BitVec.ofNat 5 (fld wd 38 5)
  need (fld wd 0 24 == 0 && fld wd 24 4 == 0 && fld wd 28 5 == 0 && fld wd 33 5 == 0) .reservedNonzero <|
  .ok (.marm h rd ra)

/-- `CBCAST` (R243). -/
def decCbcast (wd : Nat) : Except Reason Instr :=
  let h : Head := headOf wd
  let rd : Reg := BitVec.ofNat 5 (fld wd 43 5)
  let ra : Reg := BitVec.ofNat 5 (fld wd 38 5)
  let limit : BitVec 16 := BitVec.ofNat 16 (fld wd 8 16)
  let src : BitVec 2 := BitVec.ofNat 2 (fld wd 0 2)
  need (fld wd 2 6 == 0 && fld wd 24 4 == 0 && fld wd 28 5 == 0 && fld wd 33 5 == 0) .reservedNonzero <|
  need (limit != 0) .fieldValue <|
  .ok (.cbcast h rd ra limit src)

/-- `DINFO` (R240). -/
def decDinfo (wd : Nat) : Except Reason Instr :=
  let h : Head := headOf wd
  let rd : Reg := BitVec.ofNat 5 (fld wd 43 5)
  let level : BitVec 4 := BitVec.ofNat 4 (fld wd 24 4)
  let which : BitVec 2 := BitVec.ofNat 2 (fld wd 0 2)
  need (fld wd 2 22 == 0 && fld wd 28 5 == 0 && fld wd 33 5 == 0 && fld wd 38 5 == 0) .reservedNonzero <|
  need (decide (level.toNat ≤ 3)) .fieldValue <|
  .ok (.dinfo h rd level which)

/-- `XSEM_I` (R244). -/
def decXsemI (wd : Nat) : Except Reason Instr :=
  let h : Head := headOf wd
  let rd : Reg := BitVec.ofNat 5 (fld wd 43 5)
  let ra : Reg := BitVec.ofNat 5 (fld wd 38 5)
  let sem : BitVec 4 := BitVec.ofNat 4 (fld wd 0 4)
  need (fld wd 4 20 == 0 && fld wd 28 5 == 0 && fld wd 33 5 == 0) .reservedNonzero <|
  need (fld wd 24 4 == 0) .fieldValue <|
  .ok (.xsemI h rd ra sem)

/-- `XSEM_W` (R244). -/
def decXsemW (wd : Nat) : Except Reason Instr :=
  let h : Head := headOf wd
  let rd : Reg := BitVec.ofNat 5 (fld wd 43 5)
  let limit : BitVec 12 := BitVec.ofNat 12 (fld wd 12 12)
  let k : BitVec 6 := BitVec.ofNat 6 (fld wd 6 6)
  let sem : BitVec 4 := BitVec.ofNat 4 (fld wd 0 4)
  need (fld wd 4 2 == 0 && fld wd 28 5 == 0 && fld wd 33 5 == 0 && fld wd 38 5 == 0) .reservedNonzero <|
  need (k != 0 && limit != 0 && fld wd 24 4 == 1) .fieldValue <|
  .ok (.xsemW h rd limit k sem)

/-- `XSEM_TRY` (R244). -/
def decXsemTry (wd : Nat) : Except Reason Instr :=
  let h : Head := headOf wd
  let rd : Reg := BitVec.ofNat 5 (fld wd 43 5)
  let k : BitVec 6 := BitVec.ofNat 6 (fld wd 6 6)
  let sem : BitVec 4 := BitVec.ofNat 4 (fld wd 0 4)
  need (fld wd 4 2 == 0 && fld wd 12 12 == 0 && fld wd 28 5 == 0 && fld wd 33 5 == 0 && fld wd 38 5 == 0) .reservedNonzero <|
  need (fld wd 24 4 == 2) .fieldValue <|
  .ok (.xsemTry h rd k sem)

/-- `XSEM_S` (R244). -/
def decXsemS (wd : Nat) : Except Reason Instr :=
  let h : Head := headOf wd
  let rd : Reg := BitVec.ofNat 5 (fld wd 43 5)
  let k : BitVec 6 := BitVec.ofNat 6 (fld wd 6 6)
  let sem : BitVec 4 := BitVec.ofNat 4 (fld wd 0 4)
  need (fld wd 4 2 == 0 && fld wd 12 12 == 0 && fld wd 28 5 == 0 && fld wd 33 5 == 0 && fld wd 38 5 == 0) .reservedNonzero <|
  need (k != 0 && fld wd 24 4 == 3) .fieldValue <|
  .ok (.xsemS h rd k sem)

/-- `VDEC` (R270). -/
def decVdec (wd : Nat) : Except Reason Instr :=
  let h : Head := headOf wd
  let rd : Reg := BitVec.ofNat 5 (fld wd 43 5)
  let ra : Reg := BitVec.ofNat 5 (fld wd 38 5)
  let rb : Reg := BitVec.ofNat 5 (fld wd 33 5)
  let scope : BitVec 5 := BitVec.ofNat 5 (fld wd 28 5)
  need (fld wd 0 24 == 0 && fld wd 24 4 == 0) .reservedNonzero <|
  .ok (.vdec h rd ra rb scope)

/-- `MASK` (R270). -/
def decMask (wd : Nat) : Except Reason Instr :=
  let h : Head := headOf wd
  let rd : Reg := BitVec.ofNat 5 (fld wd 43 5)
  let ra : Reg := BitVec.ofNat 5 (fld wd 38 5)
  let rb : Reg := BitVec.ofNat 5 (fld wd 33 5)
  let scope : BitVec 5 := BitVec.ofNat 5 (fld wd 28 5)
  need (fld wd 0 24 == 0 && fld wd 24 4 == 0) .reservedNonzero <|
  .ok (.mask h rd ra rb scope)

/-- `GSX` (R270). -/
def decGsx (wd : Nat) : Except Reason Instr :=
  let h : Head := headOf wd
  let rd : Reg := BitVec.ofNat 5 (fld wd 43 5)
  let ra : Reg := BitVec.ofNat 5 (fld wd 38 5)
  let rb : Reg := BitVec.ofNat 5 (fld wd 33 5)
  let scope : BitVec 5 := BitVec.ofNat 5 (fld wd 28 5)
  need (fld wd 0 24 == 0 && fld wd 24 4 == 0) .reservedNonzero <|
  .ok (.gsx h rd ra rb scope)

/-- `ENQ` (R313). -/
def decEnq (wd : Nat) : Except Reason Instr :=
  let h : Head := headOf wd
  let rd : Reg := BitVec.ofNat 5 (fld wd 43 5)
  let ra : Reg := BitVec.ofNat 5 (fld wd 38 5)
  let q : BitVec 10 := BitVec.ofNat 10 (fld wd 0 10)
  need (fld wd 10 14 == 0 && fld wd 28 5 == 0 && fld wd 33 5 == 0) .reservedNonzero <|
  need (fld wd 24 4 == 0) .fieldValue <|
  .ok (.enq h rd ra q)

/-- `ENQ_R` (R313). -/
def decEnqR (wd : Nat) : Except Reason Instr :=
  let h : Head := headOf wd
  let rd : Reg := BitVec.ofNat 5 (fld wd 43 5)
  let ra : Reg := BitVec.ofNat 5 (fld wd 38 5)
  let rb : Reg := BitVec.ofNat 5 (fld wd 33 5)
  need (fld wd 0 24 == 0 && fld wd 28 5 == 0) .reservedNonzero <|
  need (fld wd 24 4 == 1) .fieldValue <|
  .ok (.enqR h rd ra rb)

/-- `DEP_DEC` (R314). -/
def decDepDec (wd : Nat) : Except Reason Instr :=
  let h : Head := headOf wd
  let rd : Reg := BitVec.ofNat 5 (fld wd 43 5)
  let scope : BitVec 5 := BitVec.ofNat 5 (fld wd 28 5)
  let idx : BitVec 16 := BitVec.ofNat 16 (fld wd 0 16)
  need (fld wd 16 8 == 0 && fld wd 33 5 == 0 && fld wd 38 5 == 0) .reservedNonzero <|
  need (fld wd 24 4 == 0) .fieldValue <|
  .ok (.depDec h rd scope idx)

/-- `DEP_DECR` (R314). -/
def decDepDecr (wd : Nat) : Except Reason Instr :=
  let h : Head := headOf wd
  let rd : Reg := BitVec.ofNat 5 (fld wd 43 5)
  let ra : Reg := BitVec.ofNat 5 (fld wd 38 5)
  let scope : BitVec 5 := BitVec.ofNat 5 (fld wd 28 5)
  need (fld wd 0 24 == 0 && fld wd 33 5 == 0) .reservedNonzero <|
  need (fld wd 24 4 == 1) .fieldValue <|
  .ok (.depDecr h rd ra scope)

/-- `DEP_ARM` (R314). -/
def decDepArm (wd : Nat) : Except Reason Instr :=
  let h : Head := headOf wd
  let rd : Reg := BitVec.ofNat 5 (fld wd 43 5)
  let ra : Reg := BitVec.ofNat 5 (fld wd 38 5)
  let scope : BitVec 5 := BitVec.ofNat 5 (fld wd 28 5)
  let idx : BitVec 16 := BitVec.ofNat 16 (fld wd 0 16)
  need (fld wd 16 8 == 0 && fld wd 33 5 == 0) .reservedNonzero <|
  need (fld wd 24 4 == 2) .fieldValue <|
  .ok (.depArm h rd ra scope idx)

/-- `PWR` (R388). -/
def decPwr (wd : Nat) : Except Reason Instr :=
  let h : Head := headOf wd
  let ra : Reg := BitVec.ofNat 5 (fld wd 38 5)
  let rb : Reg := BitVec.ofNat 5 (fld wd 33 5)
  let dw : BitVec 4 := BitVec.ofNat 4 (fld wd 24 4)
  need (fld wd 0 24 == 0 && fld wd 28 5 == 0 && fld wd 43 5 == 0) .reservedNonzero <|
  need (decide (dw.toNat ≤ 1)) .fieldValue <|
  .ok (.pwr h ra rb dw)

/-- `PAMO_ADD` (R389). -/
def decPamoAdd (wd : Nat) : Except Reason Instr :=
  let h : Head := headOf wd
  let rd : Reg := BitVec.ofNat 5 (fld wd 43 5)
  let ra : Reg := BitVec.ofNat 5 (fld wd 38 5)
  let rb : Reg := BitVec.ofNat 5 (fld wd 33 5)
  let ord : BitVec 2 := BitVec.ofNat 2 (fld wd 2 2)
  let ty : BitVec 2 := BitVec.ofNat 2 (fld wd 0 2)
  need (fld wd 4 20 == 0 && fld wd 28 5 == 0) .reservedNonzero <|
  need (fld wd 24 4 == 0 && (ty == 0 || ty == 1)) .fieldValue <|
  .ok (.pamoAdd h rd ra rb ord ty)

/-- `PAMO_SWAP` (R389). -/
def decPamoSwap (wd : Nat) : Except Reason Instr :=
  let h : Head := headOf wd
  let rd : Reg := BitVec.ofNat 5 (fld wd 43 5)
  let ra : Reg := BitVec.ofNat 5 (fld wd 38 5)
  let rb : Reg := BitVec.ofNat 5 (fld wd 33 5)
  let ord : BitVec 2 := BitVec.ofNat 2 (fld wd 2 2)
  let ty : BitVec 2 := BitVec.ofNat 2 (fld wd 0 2)
  need (fld wd 4 20 == 0 && fld wd 28 5 == 0) .reservedNonzero <|
  need (fld wd 24 4 == 1 && (ty == 0 || ty == 1)) .fieldValue <|
  .ok (.pamoSwap h rd ra rb ord ty)

/-- `PAMO_CAS` (R389). -/
def decPamoCas (wd : Nat) : Except Reason Instr :=
  let h : Head := headOf wd
  let rd : Reg := BitVec.ofNat 5 (fld wd 43 5)
  let ra : Reg := BitVec.ofNat 5 (fld wd 38 5)
  let rb : Reg := BitVec.ofNat 5 (fld wd 33 5)
  let ord : BitVec 2 := BitVec.ofNat 2 (fld wd 2 2)
  let ty : BitVec 2 := BitVec.ofNat 2 (fld wd 0 2)
  need (fld wd 4 20 == 0 && fld wd 28 5 == 0) .reservedNonzero <|
  need (fld wd 24 4 == 2 && (ty != 3 && (ty != 2 || (rd != 0 && !(rd.getLsbD 0) && !(rb.getLsbD 0))))) .fieldValue <|
  .ok (.pamoCas h rd ra rb ord ty)

/-- `TMARK` (R352). -/
def decTmark (wd : Nat) : Except Reason Instr :=
  let h : Head := headOf wd
  let ra : Reg := BitVec.ofNat 5 (fld wd 38 5)
  let tag : BitVec 16 := BitVec.ofNat 16 (fld wd 0 16)
  need (fld wd 16 8 == 0 && fld wd 24 4 == 0 && fld wd 28 5 == 0 && fld wd 33 5 == 0 && fld wd 43 5 == 0) .reservedNonzero <|
  .ok (.tmark h ra tag)

/-- `RFSH_LAYER` (R286). -/
def decRfshLayer (wd : Nat) : Except Reason Instr :=
  let h : Head := headOf wd
  let rd : Reg := BitVec.ofNat 5 (fld wd 43 5)
  let ra : Reg := BitVec.ofNat 5 (fld wd 38 5)
  let scope : BitVec 5 := BitVec.ofNat 5 (fld wd 28 5)
  let die : BitVec 1 := BitVec.ofNat 1 (fld wd 0 1)
  need (fld wd 1 23 == 0 && fld wd 33 5 == 0) .reservedNonzero <|
  need (fld wd 24 4 == 0) .fieldValue <|
  .ok (.rfshLayer h rd ra scope die)

/-- `RFSH_TILE` (R286). -/
def decRfshTile (wd : Nat) : Except Reason Instr :=
  let h : Head := headOf wd
  let rd : Reg := BitVec.ofNat 5 (fld wd 43 5)
  let ra : Reg := BitVec.ofNat 5 (fld wd 38 5)
  let rb : Reg := BitVec.ofNat 5 (fld wd 33 5)
  let scope : BitVec 5 := BitVec.ofNat 5 (fld wd 28 5)
  let die : BitVec 1 := BitVec.ofNat 1 (fld wd 0 1)
  need (fld wd 1 23 == 0) .reservedNonzero <|
  need (fld wd 24 4 == 1) .fieldValue <|
  .ok (.rfshTile h rd ra rb scope die)

/-- `MTHR_THR` (R285). -/
def decMthrThr (wd : Nat) : Except Reason Instr :=
  let h : Head := headOf wd
  let rd : Reg := BitVec.ofNat 5 (fld wd 43 5)
  let ra : Reg := BitVec.ofNat 5 (fld wd 38 5)
  let rb : Reg := BitVec.ofNat 5 (fld wd 33 5)
  let scope : BitVec 5 := BitVec.ofNat 5 (fld wd 28 5)
  let die : BitVec 1 := BitVec.ofNat 1 (fld wd 0 1)
  need (fld wd 1 23 == 0) .reservedNonzero <|
  need (fld wd 24 4 == 0) .fieldValue <|
  .ok (.mthrThr h rd ra rb scope die)

/-- `MTHR_LIM` (R285). -/
def decMthrLim (wd : Nat) : Except Reason Instr :=
  let h : Head := headOf wd
  let rd : Reg := BitVec.ofNat 5 (fld wd 43 5)
  let ra : Reg := BitVec.ofNat 5 (fld wd 38 5)
  let rb : Reg := BitVec.ofNat 5 (fld wd 33 5)
  let scope : BitVec 5 := BitVec.ofNat 5 (fld wd 28 5)
  let die : BitVec 1 := BitVec.ofNat 1 (fld wd 0 1)
  need (fld wd 1 23 == 0) .reservedNonzero <|
  need (fld wd 24 4 == 1) .fieldValue <|
  .ok (.mthrLim h rd ra rb scope die)

/-- `MTHR_NREF` (R285). -/
def decMthrNref (wd : Nat) : Except Reason Instr :=
  let h : Head := headOf wd
  let rd : Reg := BitVec.ofNat 5 (fld wd 43 5)
  let ra : Reg := BitVec.ofNat 5 (fld wd 38 5)
  let rb : Reg := BitVec.ofNat 5 (fld wd 33 5)
  let scope : BitVec 5 := BitVec.ofNat 5 (fld wd 28 5)
  let die : BitVec 1 := BitVec.ofNat 1 (fld wd 0 1)
  need (fld wd 1 23 == 0) .reservedNonzero <|
  need (fld wd 24 4 == 2) .fieldValue <|
  .ok (.mthrNref h rd ra rb scope die)

/-- `DUMP` (R340). -/
def decDump (wd : Nat) : Except Reason Instr :=
  let h : Head := headOf wd
  let rd : Reg := BitVec.ofNat 5 (fld wd 43 5)
  let ra : Reg := BitVec.ofNat 5 (fld wd 38 5)
  let rb : Reg := BitVec.ofNat 5 (fld wd 33 5)
  let which : BitVec 4 := BitVec.ofNat 4 (fld wd 0 4)
  need (fld wd 4 20 == 0 && fld wd 24 4 == 0 && fld wd 28 5 == 0) .reservedNonzero <|
  .ok (.dump h rd ra rb which)

/-- `NTFY` (R390). -/
def decNtfy (wd : Nat) : Except Reason Instr :=
  let h : Head := headOf wd
  let ra : Reg := BitVec.ofNat 5 (fld wd 38 5)
  let v : BitVec 8 := BitVec.ofNat 8 (fld wd 0 8)
  need (fld wd 8 16 == 0 && fld wd 24 4 == 0 && fld wd 28 5 == 0 && fld wd 33 5 == 0 && fld wd 43 5 == 0) .reservedNonzero <|
  need (v != 0) .fieldValue <|
  .ok (.ntfy h ra v)

/-- The opcodes 0x00 to 0x3F of the map (R58): the row that the selector field names. DESIGN CHOICE (log entry 35): of a word
whose sub the table does not list, the unused bits are those that no form of its mnemonic uses. -/
def decodeGroupA (op n : Nat) : Except Reason Instr :=
  match op with
  | 0 => decNop n
  | 1 => decAdd n
  | 2 => decAddi n
  | 3 => decSub n
  | 4 => decMul n
  | 5 => decMulh n
  | 6 => decMulhn n
  | 7 => decDiv n
  | 8 => decDivn n
  | 9 => decRem n
  | 10 => decRemn n
  | 11 => decLand n
  | 12 => decAndi n
  | 13 => decLor n
  | 14 => decOri n
  | 15 => decLxor n
  | 16 => decXori n
  | 17 => decShl n
  | 18 => decShr n
  | 19 => decSha n
  | 20 => if fld n 32 6 == 0 then decShiL n else if fld n 32 6 == 1 then decShiR n else if fld n 32 6 == 2 then decShiA n else need (fld n 6 26 == 0) .reservedNonzero (.error .fieldValue)
  | 21 => decMin n
  | 22 => decMax n
  | 23 => decMinn n
  | 24 => decMaxn n
  | 25 => decSeq n
  | 26 => decSlt n
  | 27 => decSltn n
  | 28 => decLi n
  | 29 => decLih n
  | 30 => decMadd n
  | 31 => if fld n 32 6 == 0 then decBfx n else if fld n 32 6 == 1 then decBfxS n else need (fld n 13 19 == 0) .reservedNonzero (.error .fieldValue)
  | 32 => decBfi n
  | 33 => decClz n
  | 34 => decPopc n
  | 35 => decSel n
  | 36 => decB n
  | 37 => decBc n
  | 38 => decCall n
  | 39 => decJr n
  | 40 => decLoop n
  | 41 => decTok n
  | 42 => decMfs n
  | 43 => decMts n
  | 44 => decYieldI n
  | 45 => if fld n 32 6 == 0 then decBudgGet n else if fld n 32 6 == 1 then decBudgChk n else need (fld n 38 5 == 0) .reservedNonzero (.error .fieldValue)
  | 46 => decTrapI n
  | 47 => if fld n 24 4 == 0 then decTretResume n else if fld n 24 4 == 1 then decTretSkip n else if fld n 24 4 == 2 then decTretRestart n else if fld n 24 4 == 3 then decTretKill n else need (fld n 0 24 == 0 && fld n 28 20 == 0) .reservedNonzero (.error .fieldValue)
  | 48 => decHash n
  | 49 => if fld n 32 6 == 0 then decIdleCyc n else if fld n 32 6 == 1 then decIdleUntil n else need (fld n 43 5 == 0) .reservedNonzero (.error .fieldValue)
  | 50 => decHaltI n
  | 51 => decBrk n
  | _ => .error .opcodeUnassigned

/-- The opcodes 0x40 to 0x7F of the map (R58): the row that the selector field names. -/
def decodeGroupB (op n : Nat) : Except Reason Instr :=
  match op with
  | 64 => decVshape n
  | 65 => decVmov n
  | 66 => decVsplat n
  | 67 => decVadd n
  | 68 => decVsub n
  | 69 => decVmul n
  | 70 => decVfma n
  | 71 => decVfms n
  | 72 => decVdiv n
  | 73 => decVsqrt n
  | 74 => decVrsqrt n
  | 75 => decVrcp n
  | 76 => decVexp n
  | 77 => decVexp2 n
  | 78 => decVlog2 n
  | 79 => decVtanh n
  | 80 => decVsigm n
  | 81 => decVgelu n
  | 82 => decVmin n
  | 83 => decVmax n
  | 84 => decVminn n
  | 85 => decVmaxn n
  | 86 => decVabs n
  | 87 => decVneg n
  | 88 => decVand n
  | 89 => decVor n
  | 90 => decVxor n
  | 91 => decVshl n
  | 92 => decVshr n
  | 93 => decVcmp n
  | 94 => decVsel n
  | 95 => decVcvt n
  | 96 => decVscale n
  | 97 => decVrsum n
  | 98 => decVrmax n
  | 99 => decVrmin n
  | 100 => decVcsum n
  | 101 => decVscan n
  | 102 => decVsortk n
  | 103 => decVtrans n
  | 104 => decVperm n
  | 105 => decVrmrg n
  | 106 => decVrand n
  | 107 => decVdrop n
  | 108 => decVpush n
  | 109 => decVpop n
  | 110 => decVidx n
  | 111 => decVlut n
  | 112 => decVpand n
  | 113 => decVpor n
  | 114 => decVpnot n
  | 115 => decVpcnt n
  | 116 => decVpfirst n
  | 117 => decVextr n
  | 118 => decVins n
  | 119 => decVclamp n
  | 120 => decVround n
  | 121 => decVmuls n
  | 122 => decVaddacc n
  | 123 => decVrdacc n
  | 124 => decVzacc n
  | 125 => if fld n 0 1 == 0 then decVlive n else if fld n 0 1 == 1 then decVliveNone n else need (fld n 1 4 == 0 && fld n 8 31 == 0) .reservedNonzero (.error .fieldValue)
  | _ => .error .opcodeUnassigned

/-- The opcodes 0x80 to 0x9F of the map (R58): the row that the selector field names. -/
def decodeGroupC (op n : Nat) : Except Reason Instr :=
  match op with
  | 128 => decMmul n
  | 129 => decMmuls n
  | 130 => decMmulg n
  | 131 => decMmulz n
  | 132 => decMdrain n
  | 133 => if fld n 5 4 != 0 then decMscl n else if fld n 5 4 == 0 then decMsclOff n else need (fld n 1 4 == 0 && fld n 32 16 == 0) .reservedNonzero (.error .fieldValue)
  | 134 => if fld n 5 4 != 0 then decMbias n else if fld n 5 4 == 0 then decMbiasOff n else need (fld n 1 4 == 0 && fld n 32 11 == 0) .reservedNonzero (.error .fieldValue)
  | 135 => decMact n
  | 136 => decMwld n
  | 137 => decMwstr n
  | 138 => decMwwait n
  | 139 => decMmeta n
  | 140 => decMfmt n
  | 141 => decMsync n
  | 142 => decMqst n
  | 143 => decMconv n
  | 144 => decMdwc n
  | 145 => decMtr n
  | 146 => decMacc n
  | 147 => if fld n 0 1 == 0 then decMcpyOut n else if fld n 0 1 == 1 then decMcpyIn n else need (fld n 1 8 == 0 && fld n 38 10 == 0) .reservedNonzero (.error .fieldValue)
  | 148 => decMsem n
  | 149 => decMabort n
  | _ => .error .opcodeUnassigned

/-- The opcodes 0xA0 to 0xBF of the map (R58): the row that the selector field names. -/
def decodeGroupD (op n : Nat) : Except Reason Instr :=
  match op with
  | 160 => decLd n
  | 161 => decSt n
  | 162 => decVld n
  | 163 => decVst n
  | 164 => decVlds n
  | 165 => decVsts n
  | 166 => decVldx n
  | 167 => decVstx n
  | 168 => if fld n 24 4 == 0 then decTouchR n else if fld n 24 4 == 1 then decTouchW n else need (fld n 0 24 == 0 && fld n 28 5 == 0) .reservedNonzero (.error .fieldValue)
  | 169 => decCpy n
  | 170 => decCpyw n
  | 171 => if decide (fld n 24 4 ≤ 5) then decPoolReshape n else if fld n 24 4 == 6 then decPoolPin n else if fld n 24 4 == 7 then decPoolUnpin n else need (fld n 11 13 == 0 && fld n 28 10 == 0) .reservedNonzero (.error .fieldValue)
  | 172 => decPstat n
  | 173 => if fld n 24 1 == 0 then decWbinvAll n else if fld n 24 1 == 1 then decWbinvRng n else need (fld n 0 24 == 0 && fld n 26 7 == 0) .reservedNonzero (.error .fieldValue)
  | 174 => if fld n 0 1 == 0 then decRset n else if fld n 0 1 == 1 then decRsetClr n else need (fld n 1 23 == 0 && fld n 28 5 == 0) .reservedNonzero (.error .fieldValue)
  | 175 => decRput n
  | 176 => decRget n
  | 177 => if fld n 8 1 == 0 then decRclaim n else if fld n 8 1 == 1 then decRclaimRel n else need (fld n 9 15 == 0 && fld n 28 5 == 0 && fld n 38 5 == 0) .reservedNonzero (.error .fieldValue)
  | 178 => decRwaitf n
  | 179 => decRwaite n
  | 180 => if fld n 0 1 == 0 then decRstatPos n else if fld n 0 1 == 1 then decRstatSpill n else need (fld n 1 23 == 0 && fld n 28 15 == 0) .reservedNonzero (.error .fieldValue)
  | 181 => decWenq n
  | 182 => decSemi n
  | 183 => if fld n 24 4 == 0 then decSemw n else if fld n 24 4 == 1 then decSemwTry n else need (fld n 28 15 == 0) .reservedNonzero (.error .fieldValue)
  | 184 => decSems n
  | 185 => decMark n
  | 186 => if fld n 24 4 == 0 then decFenceRel n else if fld n 24 4 == 1 then decFenceAcq n else if fld n 24 4 == 2 then decFenceFull n else need (fld n 0 24 == 0 && fld n 33 15 == 0) .reservedNonzero (.error .fieldValue)
  | 187 => decEpush n
  | 188 => decEpop n
  | 189 => decPfet n
  | _ => .error .opcodeUnassigned

/-- The opcodes 0xC0 to 0xDF of the map (R58): the row that the selector field names. -/
def decodeGroupE (op n : Nat) : Except Reason Instr :=
  match op with
  | 192 => decDetach n
  | 193 => if fld n 24 4 == 0 then decJoinOpen n else if fld n 24 4 == 1 then decJoin n else need (fld n 28 15 == 0) .reservedNonzero (.error .fieldValue)
  | 194 => decDsync n
  | 195 => if fld n 24 4 == 0 then decDphaseComp n else if fld n 24 4 == 1 then decDphaseComm n else need (fld n 0 24 == 0 && fld n 28 20 == 0) .reservedNonzero (.error .fieldValue)
  | 196 => decScset n
  | 197 => decScget n
  | 198 => decAmo n
  | 199 => decAmon n
  | 200 => decAcas n
  | 201 => decMwait n
  | 202 => decMarm n
  | 203 => decCbcast n
  | 204 => decDinfo n
  | 205 => if fld n 24 4 == 0 then decXsemI n else if fld n 24 4 == 1 then decXsemW n else if fld n 24 4 == 2 then decXsemTry n else if fld n 24 4 == 3 then decXsemS n else need (fld n 4 2 == 0 && fld n 28 10 == 0) .reservedNonzero (.error .fieldValue)
  | _ => .error .opcodeUnassigned

/-- The opcodes 0xE0 to 0xFF of the map (R58): the row that the selector field names. -/
def decodeGroupF (op n : Nat) : Except Reason Instr :=
  match op with
  | 224 => decVdec n
  | 225 => decMask n
  | 226 => decGsx n
  | 227 => if fld n 24 4 == 0 then decEnq n else if fld n 24 4 == 1 then decEnqR n else need (fld n 10 14 == 0 && fld n 28 5 == 0) .reservedNonzero (.error .fieldValue)
  | 228 => if fld n 24 4 == 0 then decDepDec n else if fld n 24 4 == 1 then decDepDecr n else if fld n 24 4 == 2 then decDepArm n else need (fld n 16 8 == 0 && fld n 33 5 == 0) .reservedNonzero (.error .fieldValue)
  | 229 => decPwr n
  | 230 => if fld n 24 4 == 0 then decPamoAdd n else if fld n 24 4 == 1 then decPamoSwap n else if fld n 24 4 == 2 then decPamoCas n else need (fld n 4 20 == 0 && fld n 28 5 == 0) .reservedNonzero (.error .fieldValue)
  | 231 => decTmark n
  | 232 => if fld n 24 4 == 0 then decRfshLayer n else if fld n 24 4 == 1 then decRfshTile n else need (fld n 1 23 == 0) .reservedNonzero (.error .fieldValue)
  | 233 => if fld n 24 4 == 0 then decMthrThr n else if fld n 24 4 == 1 then decMthrLim n else if fld n 24 4 == 2 then decMthrNref n else need (fld n 1 23 == 0) .reservedNonzero (.error .fieldValue)
  | 234 => decDump n
  | 235 => decNtfy n
  | _ => .error .opcodeUnassigned

/-- Which group of the map an opcode lies in (R58). -/
def decodeOp (op n : Nat) : Except Reason Instr :=
  if op < 0x40 then decodeGroupA op n
  else if op < 0x80 then decodeGroupB op n
  else if op < 0xA0 then decodeGroupC op n
  else if op < 0xC0 then decodeGroupD op n
  else if op < 0xE0 then decodeGroupE op n
  else decodeGroupF op n

/-- An opcode lies in one of some runs, each given by its first and last opcode. -/
def inRuns (op : Nat) (runs : List (Nat × Nat)) : Bool := runs.any fun r => decide (r.1 ≤ op) && decide (op ≤ r.2)

/-- The opcodes that each set of streams may execute, bit 0 L, 1 X, 2 S, 3 K (R58). -/
def streamRuns : List (Nat × List (Nat × Nat)) :=
  [(15, [(0x00, 0x28), (0x2A, 0x2E), (0x30, 0x33), (0xB4, 0xB4), (0xB7, 0xB8), (0xC0, 0xC3), (0xC5, 0xC5), (0xCB, 0xCD),
      (0xE7, 0xE7)]),
   (13, [(0xA8, 0xA8), (0xB2, 0xB3), (0xBA, 0xBA), (0xC6, 0xC6), (0xC8, 0xCA)]),
   (12, [(0xA1, 0xA1), (0xAF, 0xAF), (0xB5, 0xB5), (0xC7, 0xC7), (0xE5, 0xE5)]),
   (9, [(0xA0, 0xA0), (0xB0, 0xB1)]),
   (8, [(0x2F, 0x2F), (0xAB, 0xAE), (0xB6, 0xB6), (0xBB, 0xBC), (0xC4, 0xC4), (0xE0, 0xE4), (0xE6, 0xE6), (0xE8, 0xEB)]),
   (7, [(0x29, 0x29)]),
   (5, [(0xB9, 0xB9)]),
   (4, [(0xA3, 0xA3), (0xA5, 0xA5), (0xA7, 0xA7), (0xAA, 0xAA)]),
   (2, [(0x40, 0x7D), (0x80, 0x95)]),
   (1, [(0xA2, 0xA2), (0xA4, 0xA4), (0xA6, 0xA6), (0xA9, 0xA9), (0xBD, 0xBD)])]

/-- The streams that may execute an opcode; zero for an unassigned value (R58, R59). -/
def opStreams (op : Nat) : Nat :=
  match streamRuns.find? fun e => inRuns op e.2 with
  | some e => e.1
  | none => 0

/-- The loop-nest eligible opcodes (R58, column LN). -/
def opLoopNest (op : Nat) : Bool :=
  inRuns op
    [(0x41, 0x72), (0x77, 0x7C), (0x80, 0x84), (0x88, 0x89), (0x8F, 0x93), (0xA2, 0xA7), (0xA9, 0xAA)]

/-- The opcodes of the formats whose fields a loop-nest record packs: V, M and D (R49 to R51, R53, R58). -/
def opLnShaped (op : Nat) : Bool := inRuns op [(0x40, 0x7D), (0x80, 0x95), (0xA0, 0xA7), (0xA9, 0xAA), (0xBD, 0xBD)]

/-- The opcode and the body with head of an encoded instruction, from the encoding tables of its chapter; `none` for a
loop-nest record and for an event, which are no instruction words. -/
def encodeParts (i : Instr) : Option (Nat × Nat) :=
  match i with
  | .nop h => some (0x00, pack [(24, 0), (4, 0), (5, 0), (5, 0), (5, 0), (5, 0), (4, h.guard.toNat), (4, h.tok.toNat)])
  | .add h rd ra rb => some (0x01, pack [(24, 0), (4, 0), (5, 0), (5, rb.toNat), (5, ra.toNat), (5, rd.toNat), (4, h.guard.toNat), (4, h.tok.toNat)])
  | .addi h rd ra imm => some (0x02, pack [(32, imm.toNat), (6, 0), (5, ra.toNat), (5, rd.toNat), (4, h.guard.toNat), (4, h.tok.toNat)])
  | .sub h rd ra rb => some (0x03, pack [(24, 0), (4, 0), (5, 0), (5, rb.toNat), (5, ra.toNat), (5, rd.toNat), (4, h.guard.toNat), (4, h.tok.toNat)])
  | .mul h rd ra rb => some (0x04, pack [(24, 0), (4, 0), (5, 0), (5, rb.toNat), (5, ra.toNat), (5, rd.toNat), (4, h.guard.toNat), (4, h.tok.toNat)])
  | .mulh h rd ra rb => some (0x05, pack [(24, 0), (4, 0), (5, 0), (5, rb.toNat), (5, ra.toNat), (5, rd.toNat), (4, h.guard.toNat), (4, h.tok.toNat)])
  | .mulhn h rd ra rb => some (0x06, pack [(24, 0), (4, 0), (5, 0), (5, rb.toNat), (5, ra.toNat), (5, rd.toNat), (4, h.guard.toNat), (4, h.tok.toNat)])
  | .div h rd ra rb => some (0x07, pack [(24, 0), (4, 0), (5, 0), (5, rb.toNat), (5, ra.toNat), (5, rd.toNat), (4, h.guard.toNat), (4, h.tok.toNat)])
  | .divn h rd ra rb => some (0x08, pack [(24, 0), (4, 0), (5, 0), (5, rb.toNat), (5, ra.toNat), (5, rd.toNat), (4, h.guard.toNat), (4, h.tok.toNat)])
  | .rem h rd ra rb => some (0x09, pack [(24, 0), (4, 0), (5, 0), (5, rb.toNat), (5, ra.toNat), (5, rd.toNat), (4, h.guard.toNat), (4, h.tok.toNat)])
  | .remn h rd ra rb => some (0x0A, pack [(24, 0), (4, 0), (5, 0), (5, rb.toNat), (5, ra.toNat), (5, rd.toNat), (4, h.guard.toNat), (4, h.tok.toNat)])
  | .land h rd ra rb => some (0x0B, pack [(24, 0), (4, 0), (5, 0), (5, rb.toNat), (5, ra.toNat), (5, rd.toNat), (4, h.guard.toNat), (4, h.tok.toNat)])
  | .andi h rd ra imm => some (0x0C, pack [(32, imm.toNat), (6, 0), (5, ra.toNat), (5, rd.toNat), (4, h.guard.toNat), (4, h.tok.toNat)])
  | .lor h rd ra rb => some (0x0D, pack [(24, 0), (4, 0), (5, 0), (5, rb.toNat), (5, ra.toNat), (5, rd.toNat), (4, h.guard.toNat), (4, h.tok.toNat)])
  | .ori h rd ra imm => some (0x0E, pack [(32, imm.toNat), (6, 0), (5, ra.toNat), (5, rd.toNat), (4, h.guard.toNat), (4, h.tok.toNat)])
  | .lxor h rd ra rb => some (0x0F, pack [(24, 0), (4, 0), (5, 0), (5, rb.toNat), (5, ra.toNat), (5, rd.toNat), (4, h.guard.toNat), (4, h.tok.toNat)])
  | .xori h rd ra imm => some (0x10, pack [(32, imm.toNat), (6, 0), (5, ra.toNat), (5, rd.toNat), (4, h.guard.toNat), (4, h.tok.toNat)])
  | .shl h rd ra rb => some (0x11, pack [(24, 0), (4, 0), (5, 0), (5, rb.toNat), (5, ra.toNat), (5, rd.toNat), (4, h.guard.toNat), (4, h.tok.toNat)])
  | .shr h rd ra rb => some (0x12, pack [(24, 0), (4, 0), (5, 0), (5, rb.toNat), (5, ra.toNat), (5, rd.toNat), (4, h.guard.toNat), (4, h.tok.toNat)])
  | .sha h rd ra rb => some (0x13, pack [(24, 0), (4, 0), (5, 0), (5, rb.toNat), (5, ra.toNat), (5, rd.toNat), (4, h.guard.toNat), (4, h.tok.toNat)])
  | .shiL h rd ra n => some (0x14, pack [(6, n.toNat), (26, 0), (6, 0), (5, ra.toNat), (5, rd.toNat), (4, h.guard.toNat), (4, h.tok.toNat)])
  | .shiR h rd ra n => some (0x14, pack [(6, n.toNat), (26, 0), (6, 1), (5, ra.toNat), (5, rd.toNat), (4, h.guard.toNat), (4, h.tok.toNat)])
  | .shiA h rd ra n => some (0x14, pack [(6, n.toNat), (26, 0), (6, 2), (5, ra.toNat), (5, rd.toNat), (4, h.guard.toNat), (4, h.tok.toNat)])
  | .min h rd ra rb => some (0x15, pack [(24, 0), (4, 0), (5, 0), (5, rb.toNat), (5, ra.toNat), (5, rd.toNat), (4, h.guard.toNat), (4, h.tok.toNat)])
  | .max h rd ra rb => some (0x16, pack [(24, 0), (4, 0), (5, 0), (5, rb.toNat), (5, ra.toNat), (5, rd.toNat), (4, h.guard.toNat), (4, h.tok.toNat)])
  | .minn h rd ra rb => some (0x17, pack [(24, 0), (4, 0), (5, 0), (5, rb.toNat), (5, ra.toNat), (5, rd.toNat), (4, h.guard.toNat), (4, h.tok.toNat)])
  | .maxn h rd ra rb => some (0x18, pack [(24, 0), (4, 0), (5, 0), (5, rb.toNat), (5, ra.toNat), (5, rd.toNat), (4, h.guard.toNat), (4, h.tok.toNat)])
  | .seq h rd ra rb => some (0x19, pack [(24, 0), (4, 0), (5, 0), (5, rb.toNat), (5, ra.toNat), (5, rd.toNat), (4, h.guard.toNat), (4, h.tok.toNat)])
  | .slt h rd ra rb => some (0x1A, pack [(24, 0), (4, 0), (5, 0), (5, rb.toNat), (5, ra.toNat), (5, rd.toNat), (4, h.guard.toNat), (4, h.tok.toNat)])
  | .sltn h rd ra rb => some (0x1B, pack [(24, 0), (4, 0), (5, 0), (5, rb.toNat), (5, ra.toNat), (5, rd.toNat), (4, h.guard.toNat), (4, h.tok.toNat)])
  | .li h rd imm => some (0x1C, pack [(32, imm.toNat), (6, 0), (5, 0), (5, rd.toNat), (4, h.guard.toNat), (4, h.tok.toNat)])
  | .lih h rd ra imm => some (0x1D, pack [(32, imm.toNat), (6, 0), (5, ra.toNat), (5, rd.toNat), (4, h.guard.toNat), (4, h.tok.toNat)])
  | .madd h rd ra rb rc => some (0x1E, pack [(24, 0), (4, 0), (5, rc.toNat), (5, rb.toNat), (5, ra.toNat), (5, rd.toNat), (4, h.guard.toNat), (4, h.tok.toNat)])
  | .bfx h rd ra w pos => some (0x1F, pack [(6, pos.toNat), (7, w.toNat), (19, 0), (6, 0), (5, ra.toNat), (5, rd.toNat), (4, h.guard.toNat), (4, h.tok.toNat)])
  | .bfxS h rd ra w pos => some (0x1F, pack [(6, pos.toNat), (7, w.toNat), (19, 0), (6, 1), (5, ra.toNat), (5, rd.toNat), (4, h.guard.toNat), (4, h.tok.toNat)])
  | .bfi h rd ra w pos => some (0x20, pack [(6, pos.toNat), (7, w.toNat), (19, 0), (6, 0), (5, ra.toNat), (5, rd.toNat), (4, h.guard.toNat), (4, h.tok.toNat)])
  | .clz h rd ra => some (0x21, pack [(24, 0), (4, 0), (5, 0), (5, 0), (5, ra.toNat), (5, rd.toNat), (4, h.guard.toNat), (4, h.tok.toNat)])
  | .popc h rd ra => some (0x22, pack [(24, 0), (4, 0), (5, 0), (5, 0), (5, ra.toNat), (5, rd.toNat), (4, h.guard.toNat), (4, h.tok.toNat)])
  | .sel h rd ra rb rc => some (0x23, pack [(24, 0), (4, 0), (5, rc.toNat), (5, rb.toNat), (5, ra.toNat), (5, rd.toNat), (4, h.guard.toNat), (4, h.tok.toNat)])
  | .b h disp slot => some (0x24, pack [(3, slot.toNat), (27, disp.toNat), (5, 0), (3, 0), (5, 0), (5, 0), (4, h.guard.toNat), (4, h.tok.toNat)])
  | .bc h ra rb cond disp slot => some (0x25, pack [(3, slot.toNat), (27, disp.toNat), (5, 0), (3, cond.toNat), (5, rb.toNat), (5, ra.toNat), (4, h.guard.toNat), (4, h.tok.toNat)])
  | .call h rl disp slot => some (0x26, pack [(3, slot.toNat), (27, disp.toNat), (5, rl.toNat), (3, 0), (5, 0), (5, 0), (4, h.guard.toNat), (4, h.tok.toNat)])
  | .jr h rd ra => some (0x27, pack [(24, 0), (4, 0), (5, 0), (5, 0), (5, ra.toNat), (5, rd.toNat), (4, h.guard.toNat), (4, h.tok.toNat)])
  | .loop h rl disp slot => some (0x28, pack [(3, slot.toNat), (27, disp.toNat), (5, rl.toNat), (3, 0), (5, 0), (5, 0), (4, h.guard.toNat), (4, h.tok.toNat)])
  | .tok h n => some (0x29, pack [(24, 0), (4, n.toNat), (5, 0), (5, 0), (5, 0), (5, 0), (4, h.guard.toNat), (4, h.tok.toNat)])
  | .mfs h rd sr => some (0x2A, pack [(12, sr.toNat), (20, 0), (6, 0), (5, 0), (5, rd.toNat), (4, h.guard.toNat), (4, h.tok.toNat)])
  | .mts h ra sr => some (0x2B, pack [(12, sr.toNat), (20, 0), (6, 0), (5, ra.toNat), (5, 0), (4, h.guard.toNat), (4, h.tok.toNat)])
  | .yieldI h => some (0x2C, pack [(24, 0), (4, 0), (5, 0), (5, 0), (5, 0), (5, 0), (4, h.guard.toNat), (4, h.tok.toNat)])
  | .budgGet h rd => some (0x2D, pack [(32, 0), (6, 0), (5, 0), (5, rd.toNat), (4, h.guard.toNat), (4, h.tok.toNat)])
  | .budgChk h rd imm => some (0x2D, pack [(32, imm.toNat), (6, 1), (5, 0), (5, rd.toNat), (4, h.guard.toNat), (4, h.tok.toNat)])
  | .trapI h imm => some (0x2E, pack [(32, imm.toNat), (6, 0), (5, 0), (5, 0), (4, h.guard.toNat), (4, h.tok.toNat)])
  | .tretResume h => some (0x2F, pack [(24, 0), (4, 0), (5, 0), (5, 0), (5, 0), (5, 0), (4, h.guard.toNat), (4, h.tok.toNat)])
  | .tretSkip h => some (0x2F, pack [(24, 0), (4, 1), (5, 0), (5, 0), (5, 0), (5, 0), (4, h.guard.toNat), (4, h.tok.toNat)])
  | .tretRestart h => some (0x2F, pack [(24, 0), (4, 2), (5, 0), (5, 0), (5, 0), (5, 0), (4, h.guard.toNat), (4, h.tok.toNat)])
  | .tretKill h => some (0x2F, pack [(24, 0), (4, 3), (5, 0), (5, 0), (5, 0), (5, 0), (4, h.guard.toNat), (4, h.tok.toNat)])
  | .hash h rd ra rb => some (0x30, pack [(24, 0), (4, 0), (5, 0), (5, rb.toNat), (5, ra.toNat), (5, rd.toNat), (4, h.guard.toNat), (4, h.tok.toNat)])
  | .idleCyc h imm => some (0x31, pack [(32, imm.toNat), (6, 0), (5, 0), (5, 0), (4, h.guard.toNat), (4, h.tok.toNat)])
  | .idleUntil h ra imm => some (0x31, pack [(32, imm.toNat), (6, 1), (5, ra.toNat), (5, 0), (4, h.guard.toNat), (4, h.tok.toNat)])
  | .haltI h ra => some (0x32, pack [(24, 0), (4, 0), (5, 0), (5, 0), (5, ra.toNat), (5, 0), (4, h.guard.toNat), (4, h.tok.toNat)])
  | .brk h imm => some (0x33, pack [(32, imm.toNat), (6, 0), (5, 0), (5, 0), (4, h.guard.toNat), (4, h.tok.toNat)])
  | .loopNestRecord _ _ => none
  | .vshape h rowsLo colsLo colsHi rowsHi => some (0x40, pack [(2, rowsHi.toNat), (2, colsHi.toNat), (1, 0), (3, 7), (4, 0), (9, 0), (9, colsLo.toNat), (9, rowsLo.toNat), (9, 0), (4, h.guard.toNat), (4, h.tok.toNat)])
  | .vmov h vd va ty => some (0x41, pack [(5, 0), (3, 7), (4, ty.code), (9, 0), (9, 0), (9, va.toNat), (9, vd.toNat), (4, h.guard.toNat), (4, h.tok.toNat)])
  | .vsplat h vd va ty => some (0x42, pack [(5, 0), (3, 7), (4, ty.code), (9, 0), (9, 0), (9, va.toNat), (9, vd.toNat), (4, h.guard.toNat), (4, h.tok.toNat)])
  | .vadd h vd va vb ty rm sat => some (0x43, pack [(1, sat.toNat), (4, 0), (3, rm.toNat), (4, ty.code), (9, 0), (9, vb.toNat), (9, va.toNat), (9, vd.toNat), (4, h.guard.toNat), (4, h.tok.toNat)])
  | .vsub h vd va vb ty rm sat => some (0x44, pack [(1, sat.toNat), (4, 0), (3, rm.toNat), (4, ty.code), (9, 0), (9, vb.toNat), (9, va.toNat), (9, vd.toNat), (4, h.guard.toNat), (4, h.tok.toNat)])
  | .vmul h vd va vb ty rm sat => some (0x45, pack [(1, sat.toNat), (4, 0), (3, rm.toNat), (4, ty.code), (9, 0), (9, vb.toNat), (9, va.toNat), (9, vd.toNat), (4, h.guard.toNat), (4, h.tok.toNat)])
  | .vfma h vd va vb vc ty rm sat => some (0x46, pack [(1, sat.toNat), (4, 0), (3, rm.toNat), (4, ty.code), (9, vc.toNat), (9, vb.toNat), (9, va.toNat), (9, vd.toNat), (4, h.guard.toNat), (4, h.tok.toNat)])
  | .vfms h vd va vb vc ty rm sat => some (0x47, pack [(1, sat.toNat), (4, 0), (3, rm.toNat), (4, ty.code), (9, vc.toNat), (9, vb.toNat), (9, va.toNat), (9, vd.toNat), (4, h.guard.toNat), (4, h.tok.toNat)])
  | .vdiv h vd va vb ty rm sat => some (0x48, pack [(1, sat.toNat), (4, 0), (3, rm.toNat), (4, ty.code), (9, 0), (9, vb.toNat), (9, va.toNat), (9, vd.toNat), (4, h.guard.toNat), (4, h.tok.toNat)])
  | .vsqrt h vd va ty rm sat => some (0x49, pack [(1, sat.toNat), (4, 0), (3, rm.toNat), (4, ty.code), (9, 0), (9, 0), (9, va.toNat), (9, vd.toNat), (4, h.guard.toNat), (4, h.tok.toNat)])
  | .vrsqrt h vd va ty rm sat => some (0x4A, pack [(1, sat.toNat), (4, 0), (3, rm.toNat), (4, ty.code), (9, 0), (9, 0), (9, va.toNat), (9, vd.toNat), (4, h.guard.toNat), (4, h.tok.toNat)])
  | .vrcp h vd va ty rm sat => some (0x4B, pack [(1, sat.toNat), (4, 0), (3, rm.toNat), (4, ty.code), (9, 0), (9, 0), (9, va.toNat), (9, vd.toNat), (4, h.guard.toNat), (4, h.tok.toNat)])
  | .vexp h vd va ty rm sat => some (0x4C, pack [(1, sat.toNat), (4, 0), (3, rm.toNat), (4, ty.code), (9, 0), (9, 0), (9, va.toNat), (9, vd.toNat), (4, h.guard.toNat), (4, h.tok.toNat)])
  | .vexp2 h vd va ty rm sat => some (0x4D, pack [(1, sat.toNat), (4, 0), (3, rm.toNat), (4, ty.code), (9, 0), (9, 0), (9, va.toNat), (9, vd.toNat), (4, h.guard.toNat), (4, h.tok.toNat)])
  | .vlog2 h vd va ty rm sat => some (0x4E, pack [(1, sat.toNat), (4, 0), (3, rm.toNat), (4, ty.code), (9, 0), (9, 0), (9, va.toNat), (9, vd.toNat), (4, h.guard.toNat), (4, h.tok.toNat)])
  | .vtanh h vd va ty rm sat => some (0x4F, pack [(1, sat.toNat), (4, 0), (3, rm.toNat), (4, ty.code), (9, 0), (9, 0), (9, va.toNat), (9, vd.toNat), (4, h.guard.toNat), (4, h.tok.toNat)])
  | .vsigm h vd va ty rm sat => some (0x50, pack [(1, sat.toNat), (4, 0), (3, rm.toNat), (4, ty.code), (9, 0), (9, 0), (9, va.toNat), (9, vd.toNat), (4, h.guard.toNat), (4, h.tok.toNat)])
  | .vgelu h vd va ty rm sat => some (0x51, pack [(1, sat.toNat), (4, 0), (3, rm.toNat), (4, ty.code), (9, 0), (9, 0), (9, va.toNat), (9, vd.toNat), (4, h.guard.toNat), (4, h.tok.toNat)])
  | .vmin h vd va vb ty => some (0x52, pack [(5, 0), (3, 7), (4, ty.code), (9, 0), (9, vb.toNat), (9, va.toNat), (9, vd.toNat), (4, h.guard.toNat), (4, h.tok.toNat)])
  | .vmax h vd va vb ty => some (0x53, pack [(5, 0), (3, 7), (4, ty.code), (9, 0), (9, vb.toNat), (9, va.toNat), (9, vd.toNat), (4, h.guard.toNat), (4, h.tok.toNat)])
  | .vminn h vd va vb ty => some (0x54, pack [(5, 0), (3, 7), (4, ty.code), (9, 0), (9, vb.toNat), (9, va.toNat), (9, vd.toNat), (4, h.guard.toNat), (4, h.tok.toNat)])
  | .vmaxn h vd va vb ty => some (0x55, pack [(5, 0), (3, 7), (4, ty.code), (9, 0), (9, vb.toNat), (9, va.toNat), (9, vd.toNat), (4, h.guard.toNat), (4, h.tok.toNat)])
  | .vabs h vd va ty sat => some (0x56, pack [(1, sat.toNat), (4, 0), (3, 7), (4, ty.code), (9, 0), (9, 0), (9, va.toNat), (9, vd.toNat), (4, h.guard.toNat), (4, h.tok.toNat)])
  | .vneg h vd va ty sat => some (0x57, pack [(1, sat.toNat), (4, 0), (3, 7), (4, ty.code), (9, 0), (9, 0), (9, va.toNat), (9, vd.toNat), (4, h.guard.toNat), (4, h.tok.toNat)])
  | .vand h vd va vb ty => some (0x58, pack [(5, 0), (3, 7), (4, ty.code), (9, 0), (9, vb.toNat), (9, va.toNat), (9, vd.toNat), (4, h.guard.toNat), (4, h.tok.toNat)])
  | .vor h vd va vb ty => some (0x59, pack [(5, 0), (3, 7), (4, ty.code), (9, 0), (9, vb.toNat), (9, va.toNat), (9, vd.toNat), (4, h.guard.toNat), (4, h.tok.toNat)])
  | .vxor h vd va vb ty => some (0x5A, pack [(5, 0), (3, 7), (4, ty.code), (9, 0), (9, vb.toNat), (9, va.toNat), (9, vd.toNat), (4, h.guard.toNat), (4, h.tok.toNat)])
  | .vshl h vd va vb ty => some (0x5B, pack [(5, 0), (3, 7), (4, ty.code), (9, 0), (9, vb.toNat), (9, va.toNat), (9, vd.toNat), (4, h.guard.toNat), (4, h.tok.toNat)])
  | .vshr h vd va vb ty => some (0x5C, pack [(5, 0), (3, 7), (4, ty.code), (9, 0), (9, vb.toNat), (9, va.toNat), (9, vd.toNat), (4, h.guard.toNat), (4, h.tok.toNat)])
  | .vcmp h vd va vb ty cond => some (0x5D, pack [(3, cond.toNat), (2, 0), (3, 7), (4, ty.code), (9, 0), (9, vb.toNat), (9, va.toNat), (9, vd.toNat), (4, h.guard.toNat), (4, h.tok.toNat)])
  | .vsel h vd va vb vc ty => some (0x5E, pack [(5, 0), (3, 7), (4, ty.code), (9, vc.toNat), (9, vb.toNat), (9, va.toNat), (9, vd.toNat), (4, h.guard.toNat), (4, h.tok.toNat)])
  | .vcvt h vd va src ty rm amax sat => some (0x5F, pack [(1, sat.toNat), (1, amax.toNat), (3, 0), (3, rm.toNat), (4, ty.code), (4, src.code), (5, 0), (9, 0), (9, va.toNat), (9, vd.toNat), (4, h.guard.toNat), (4, h.tok.toNat)])
  | .vscale h vd va vb ty rm col sat => some (0x60, pack [(1, sat.toNat), (1, col.toNat), (3, 0), (3, rm.toNat), (4, ty.code), (9, 0), (9, vb.toNat), (9, va.toNat), (9, vd.toNat), (4, h.guard.toNat), (4, h.tok.toNat)])
  | .vrsum h vd va ty rm => some (0x61, pack [(5, 0), (3, rm.toNat), (4, ty.code), (9, 0), (9, 0), (9, va.toNat), (9, vd.toNat), (4, h.guard.toNat), (4, h.tok.toNat)])
  | .vrmax h vd va ty => some (0x62, pack [(5, 0), (3, 7), (4, ty.code), (9, 0), (9, 0), (9, va.toNat), (9, vd.toNat), (4, h.guard.toNat), (4, h.tok.toNat)])
  | .vrmin h vd va ty => some (0x63, pack [(5, 0), (3, 7), (4, ty.code), (9, 0), (9, 0), (9, va.toNat), (9, vd.toNat), (4, h.guard.toNat), (4, h.tok.toNat)])
  | .vcsum h vd va ty rm => some (0x64, pack [(5, 0), (3, rm.toNat), (4, ty.code), (9, 0), (9, 0), (9, va.toNat), (9, vd.toNat), (4, h.guard.toNat), (4, h.tok.toNat)])
  | .vscan h vd va ty rm excl => some (0x65, pack [(1, excl.toNat), (4, 0), (3, rm.toNat), (4, ty.code), (9, 0), (9, 0), (9, va.toNat), (9, vd.toNat), (4, h.guard.toNat), (4, h.tok.toNat)])
  | .vsortk h vd va vb km1 ty => some (0x66, pack [(5, 0), (3, 7), (4, ty.code), (9, km1.toNat), (9, vb.toNat), (9, va.toNat), (9, vd.toNat), (4, h.guard.toNat), (4, h.tok.toNat)])
  | .vtrans h vd va ty => some (0x67, pack [(5, 0), (3, 7), (4, ty.code), (9, 0), (9, 0), (9, va.toNat), (9, vd.toNat), (4, h.guard.toNat), (4, h.tok.toNat)])
  | .vperm h vd va vb ty row => some (0x68, pack [(1, row.toNat), (4, 0), (3, 7), (4, ty.code), (9, 0), (9, vb.toNat), (9, va.toNat), (9, vd.toNat), (4, h.guard.toNat), (4, h.tok.toNat)])
  | .vrmrg h vd va vb sh ty => some (0x69, pack [(5, 0), (3, 7), (4, ty.code), (9, sh.toNat), (9, vb.toNat), (9, va.toNat), (9, vd.toNat), (4, h.guard.toNat), (4, h.tok.toNat)])
  | .vrand h vd ty => some (0x6A, pack [(5, 0), (3, 7), (4, ty.code), (9, 0), (9, 0), (9, 0), (9, vd.toNat), (4, h.guard.toNat), (4, h.tok.toNat)])
  | .vdrop h vd va => some (0x6B, pack [(5, 0), (3, 7), (4, 0), (9, 0), (9, 0), (9, va.toNat), (9, vd.toNat), (4, h.guard.toNat), (4, h.tok.toNat)])
  | .vpush h vd va vb ty => some (0x6C, pack [(5, 0), (3, 7), (4, ty.code), (9, 0), (9, vb.toNat), (9, va.toNat), (9, vd.toNat), (4, h.guard.toNat), (4, h.tok.toNat)])
  | .vpop h vd va vb ty => some (0x6D, pack [(5, 0), (3, 7), (4, ty.code), (9, 0), (9, vb.toNat), (9, va.toNat), (9, vd.toNat), (4, h.guard.toNat), (4, h.tok.toNat)])
  | .vidx h vd ty rm form => some (0x6E, pack [(2, form.toNat), (3, 0), (3, rm.toNat), (4, ty.code), (9, 0), (9, 0), (9, 0), (9, vd.toNat), (4, h.guard.toNat), (4, h.tok.toNat)])
  | .vlut h vd va vb ty => some (0x6F, pack [(5, 0), (3, 7), (4, ty.code), (9, 0), (9, vb.toNat), (9, va.toNat), (9, vd.toNat), (4, h.guard.toNat), (4, h.tok.toNat)])
  | .vpand h vd va vb => some (0x70, pack [(5, 0), (3, 7), (4, 0), (9, 0), (9, vb.toNat), (9, va.toNat), (9, vd.toNat), (4, h.guard.toNat), (4, h.tok.toNat)])
  | .vpor h vd va vb => some (0x71, pack [(5, 0), (3, 7), (4, 0), (9, 0), (9, vb.toNat), (9, va.toNat), (9, vd.toNat), (4, h.guard.toNat), (4, h.tok.toNat)])
  | .vpnot h vd va => some (0x72, pack [(5, 0), (3, 7), (4, 0), (9, 0), (9, 0), (9, va.toNat), (9, vd.toNat), (4, h.guard.toNat), (4, h.tok.toNat)])
  | .vpcnt h vd va => some (0x73, pack [(5, 0), (3, 7), (4, 0), (9, 0), (9, 0), (9, va.toNat), (9, vd.toNat), (4, h.guard.toNat), (4, h.tok.toNat)])
  | .vpfirst h vd va => some (0x74, pack [(5, 0), (3, 7), (4, 0), (9, 0), (9, 0), (9, va.toNat), (9, vd.toNat), (4, h.guard.toNat), (4, h.tok.toNat)])
  | .vextr h vd va vb ty => some (0x75, pack [(5, 0), (3, 7), (4, ty.code), (9, 0), (9, vb.toNat), (9, va.toNat), (9, vd.toNat), (4, h.guard.toNat), (4, h.tok.toNat)])
  | .vins h vd va vb ty => some (0x76, pack [(5, 0), (3, 7), (4, ty.code), (9, 0), (9, vb.toNat), (9, va.toNat), (9, vd.toNat), (4, h.guard.toNat), (4, h.tok.toNat)])
  | .vclamp h vd va vb vc ty => some (0x77, pack [(5, 0), (3, 7), (4, ty.code), (9, vc.toNat), (9, vb.toNat), (9, va.toNat), (9, vd.toNat), (4, h.guard.toNat), (4, h.tok.toNat)])
  | .vround h vd va ty rm => some (0x78, pack [(5, 0), (3, rm.toNat), (4, ty.code), (9, 0), (9, 0), (9, va.toNat), (9, vd.toNat), (4, h.guard.toNat), (4, h.tok.toNat)])
  | .vmuls h vd va vb ty rm sat => some (0x79, pack [(1, sat.toNat), (4, 0), (3, rm.toNat), (4, ty.code), (9, 0), (9, vb.toNat), (9, va.toNat), (9, vd.toNat), (4, h.guard.toNat), (4, h.tok.toNat)])
  | .vaddacc h vd va ty rm => some (0x7A, pack [(5, 0), (3, rm.toNat), (4, ty.code), (9, 0), (9, 0), (9, va.toNat), (9, (vd.toNat + 320)), (4, h.guard.toNat), (4, h.tok.toNat)])
  | .vrdacc h vd va ty rm amax sat => some (0x7B, pack [(1, sat.toNat), (1, amax.toNat), (3, 0), (3, rm.toNat), (4, ty.code), (9, 0), (9, 0), (9, (va.toNat + 320)), (9, vd.toNat), (4, h.guard.toNat), (4, h.tok.toNat)])
  | .vzacc h vd => some (0x7C, pack [(5, 0), (3, 7), (4, 0), (9, 0), (9, 0), (9, 0), (9, (vd.toNat + 320)), (4, h.guard.toNat), (4, h.tok.toNat)])
  | .vlive h vd => some (0x7D, pack [(5, 0), (3, 7), (4, 0), (9, 0), (9, 0), (9, 0), (9, vd.toNat), (4, h.guard.toNat), (4, h.tok.toNat)])
  | .vliveNone h => some (0x7D, pack [(1, 1), (4, 0), (3, 7), (4, 0), (9, 0), (9, 0), (9, 0), (9, 0), (4, h.guard.toNat), (4, h.tok.toNat)])
  | .mmul h ra rb acc v swen semw ssen sems ty rot sp => some (0x80, pack [(1, sp.toNat), (4, rot.toNat), (4, ty.code), (6, sems.toNat), (1, ssen.toNat), (6, semw.toNat), (1, swen.toNat), (9, v.toNat), (6, acc.toNat), (5, rb.toNat), (5, ra.toNat), (4, h.guard.toNat), (4, h.tok.toNat)])
  | .mmuls h ra rb acc v swen semw ssen sems ty rot sp => some (0x81, pack [(1, sp.toNat), (4, rot.toNat), (4, ty.code), (6, sems.toNat), (1, ssen.toNat), (6, semw.toNat), (1, swen.toNat), (9, v.toNat), (6, acc.toNat), (5, rb.toNat), (5, ra.toNat), (4, h.guard.toNat), (4, h.tok.toNat)])
  | .mmulg h ra rb acc v swen semw ssen sems ty => some (0x82, pack [(1, 0), (4, 0), (4, ty.code), (6, sems.toNat), (1, ssen.toNat), (6, semw.toNat), (1, swen.toNat), (9, v.toNat), (6, acc.toNat), (5, rb.toNat), (5, ra.toNat), (4, h.guard.toNat), (4, h.tok.toNat)])
  | .mmulz h ra rb acc v swen semw ssen sems ty rot sp => some (0x83, pack [(1, sp.toNat), (4, rot.toNat), (4, ty.code), (6, sems.toNat), (1, ssen.toNat), (6, semw.toNat), (1, swen.toNat), (9, v.toNat), (6, acc.toNat), (5, rb.toNat), (5, ra.toNat), (4, h.guard.toNat), (4, h.tok.toNat)])
  | .mdrain h ra rb acc v swen semw ssen sems ty rot sp => some (0x84, pack [(1, sp.toNat), (4, rot.toNat), (4, ty.code), (6, sems.toNat), (1, ssen.toNat), (6, semw.toNat), (1, swen.toNat), (9, v.toNat), (6, acc.toNat), (5, rb.toNat), (5, ra.toNat), (4, h.guard.toNat), (4, h.tok.toNat)])
  | .mscl h v swen semw ssen sems col => some (0x85, pack [(1, col.toNat), (4, 0), (4, 10), (6, sems.toNat), (1, ssen.toNat), (6, semw.toNat), (1, swen.toNat), (9, v.toNat), (6, 0), (5, 0), (5, 0), (4, h.guard.toNat), (4, h.tok.toNat)])
  | .msclOff h swen semw ssen sems col => some (0x85, pack [(1, col.toNat), (4, 0), (4, 0), (6, sems.toNat), (1, ssen.toNat), (6, semw.toNat), (1, swen.toNat), (9, 0), (6, 0), (5, 0), (5, 0), (4, h.guard.toNat), (4, h.tok.toNat)])
  | .mbias h ra v swen semw ssen sems grp => some (0x86, pack [(1, grp.toNat), (4, 0), (4, 10), (6, sems.toNat), (1, ssen.toNat), (6, semw.toNat), (1, swen.toNat), (9, v.toNat), (6, 0), (5, 0), (5, ra.toNat), (4, h.guard.toNat), (4, h.tok.toNat)])
  | .mbiasOff h swen semw ssen sems => some (0x86, pack [(1, 0), (4, 0), (4, 0), (6, sems.toNat), (1, ssen.toNat), (6, semw.toNat), (1, swen.toNat), (9, 0), (6, 0), (5, 0), (5, 0), (4, h.guard.toNat), (4, h.tok.toNat)])
  | .mact h ra swen semw ssen sems => some (0x87, pack [(1, 0), (4, 0), (4, 0), (6, sems.toNat), (1, ssen.toNat), (6, semw.toNat), (1, swen.toNat), (9, 0), (6, 0), (5, 0), (5, ra.toNat), (4, h.guard.toNat), (4, h.tok.toNat)])
  | .mwld h ra rb v swen semw ssen sems rot => some (0x88, pack [(1, 0), (4, rot.toNat), (4, 0), (6, sems.toNat), (1, ssen.toNat), (6, semw.toNat), (1, swen.toNat), (9, v.toNat), (6, 0), (5, rb.toNat), (5, ra.toNat), (4, h.guard.toNat), (4, h.tok.toNat)])
  | .mwstr h ra rb v swen semw ssen sems => some (0x89, pack [(1, 0), (4, 0), (4, 0), (6, sems.toNat), (1, ssen.toNat), (6, semw.toNat), (1, swen.toNat), (9, v.toNat), (6, 0), (5, rb.toNat), (5, ra.toNat), (4, h.guard.toNat), (4, h.tok.toNat)])
  | .mwwait h swen semw ssen sems => some (0x8A, pack [(1, 0), (4, 0), (4, 0), (6, sems.toNat), (1, ssen.toNat), (6, semw.toNat), (1, swen.toNat), (9, 0), (6, 0), (5, 0), (5, 0), (4, h.guard.toNat), (4, h.tok.toNat)])
  | .mmeta h ra swen semw ssen sems => some (0x8B, pack [(1, 0), (4, 0), (4, 0), (6, sems.toNat), (1, ssen.toNat), (6, semw.toNat), (1, swen.toNat), (9, 0), (6, 0), (5, 0), (5, ra.toNat), (4, h.guard.toNat), (4, h.tok.toNat)])
  | .mfmt h ra swen semw ssen sems => some (0x8C, pack [(1, 0), (4, 0), (4, 0), (6, sems.toNat), (1, ssen.toNat), (6, semw.toNat), (1, swen.toNat), (9, 0), (6, 0), (5, 0), (5, ra.toNat), (4, h.guard.toNat), (4, h.tok.toNat)])
  | .msync h => some (0x8D, pack [(1, 0), (4, 0), (4, 0), (6, 0), (1, 0), (6, 0), (1, 0), (9, 0), (6, 0), (5, 0), (5, 0), (4, h.guard.toNat), (4, h.tok.toNat)])
  | .mqst h v swen semw ssen sems => some (0x8E, pack [(1, 0), (4, 0), (4, 0), (6, sems.toNat), (1, ssen.toNat), (6, semw.toNat), (1, swen.toNat), (9, v.toNat), (6, 0), (5, 0), (5, 0), (4, h.guard.toNat), (4, h.tok.toNat)])
  | .mconv h ra rb acc v swen semw ssen sems ty rot => some (0x8F, pack [(1, 0), (4, rot.toNat), (4, ty.code), (6, sems.toNat), (1, ssen.toNat), (6, semw.toNat), (1, swen.toNat), (9, v.toNat), (6, acc.toNat), (5, rb.toNat), (5, ra.toNat), (4, h.guard.toNat), (4, h.tok.toNat)])
  | .mdwc h ra rb acc v swen semw ssen sems ty rot => some (0x90, pack [(1, 0), (4, rot.toNat), (4, ty.code), (6, sems.toNat), (1, ssen.toNat), (6, semw.toNat), (1, swen.toNat), (9, v.toNat), (6, acc.toNat), (5, rb.toNat), (5, ra.toNat), (4, h.guard.toNat), (4, h.tok.toNat)])
  | .mtr h ra rb v swen semw ssen sems ty rot => some (0x91, pack [(1, 0), (4, rot.toNat), (4, ty.code), (6, sems.toNat), (1, ssen.toNat), (6, semw.toNat), (1, swen.toNat), (9, v.toNat), (6, 0), (5, rb.toNat), (5, ra.toNat), (4, h.guard.toNat), (4, h.tok.toNat)])
  | .macc h acc v swen semw ssen sems => some (0x92, pack [(1, 0), (4, 0), (4, 10), (6, sems.toNat), (1, ssen.toNat), (6, semw.toNat), (1, swen.toNat), (9, v.toNat), (6, acc.toNat), (5, 0), (5, 0), (4, h.guard.toNat), (4, h.tok.toNat)])
  | .mcpyOut h acc v swen semw ssen sems => some (0x93, pack [(1, 0), (4, 0), (4, 0), (6, sems.toNat), (1, ssen.toNat), (6, semw.toNat), (1, swen.toNat), (9, v.toNat), (6, acc.toNat), (5, 0), (5, 0), (4, h.guard.toNat), (4, h.tok.toNat)])
  | .mcpyIn h acc v swen semw ssen sems => some (0x93, pack [(1, 1), (4, 0), (4, 0), (6, sems.toNat), (1, ssen.toNat), (6, semw.toNat), (1, swen.toNat), (9, v.toNat), (6, acc.toNat), (5, 0), (5, 0), (4, h.guard.toNat), (4, h.tok.toNat)])
  | .msem h swen semw ssen sems => some (0x94, pack [(1, 0), (4, 0), (4, 0), (6, sems.toNat), (1, ssen.toNat), (6, semw.toNat), (1, swen.toNat), (9, 0), (6, 0), (5, 0), (5, 0), (4, h.guard.toNat), (4, h.tok.toNat)])
  | .mabort h => some (0x95, pack [(1, 0), (4, 0), (4, 0), (6, 0), (1, 0), (6, 0), (1, 0), (9, 0), (6, 0), (5, 0), (5, 0), (4, h.guard.toNat), (4, h.tok.toNat)])
  | .ld h reg ra rot ty space off => some (0xA0, pack [(24, off.toNat), (2, space.toNat), (4, ty.code), (4, rot.toNat), (5, ra.toNat), (5, reg.toNat), (4, 0), (4, h.guard.toNat), (4, h.tok.toNat)])
  | .st h reg ra rot ty space off => some (0xA1, pack [(24, off.toNat), (2, space.toNat), (4, ty.code), (4, rot.toNat), (5, ra.toNat), (5, reg.toNat), (4, 0), (4, h.guard.toNat), (4, h.tok.toNat)])
  | .vld h reg ra rot space off => some (0xA2, pack [(24, off.toNat), (2, space.toNat), (4, 0), (4, rot.toNat), (5, ra.toNat), (9, reg.toNat), (4, h.guard.toNat), (4, h.tok.toNat)])
  | .vst h reg ra rot space off => some (0xA3, pack [(24, off.toNat), (2, space.toNat), (4, 0), (4, rot.toNat), (5, ra.toNat), (9, reg.toNat), (4, h.guard.toNat), (4, h.tok.toNat)])
  | .vlds h reg ra rot space off => some (0xA4, pack [(24, off.toNat), (2, space.toNat), (4, 0), (4, rot.toNat), (5, ra.toNat), (9, reg.toNat), (4, h.guard.toNat), (4, h.tok.toNat)])
  | .vsts h reg ra rot space off => some (0xA5, pack [(24, off.toNat), (2, space.toNat), (4, 0), (4, rot.toNat), (5, ra.toNat), (9, reg.toNat), (4, h.guard.toNat), (4, h.tok.toNat)])
  | .vldx h reg ra rot space off => some (0xA6, pack [(24, off.toNat), (2, space.toNat), (4, 0), (4, rot.toNat), (5, ra.toNat), (9, reg.toNat), (4, h.guard.toNat), (4, h.tok.toNat)])
  | .vstx h reg ra rot space off => some (0xA7, pack [(24, off.toNat), (2, space.toNat), (4, 0), (4, rot.toNat), (5, ra.toNat), (9, reg.toNat), (4, h.guard.toNat), (4, h.tok.toNat)])
  | .touchR h rd ra rb => some (0xA8, pack [(24, 0), (4, 0), (5, 0), (5, rb.toNat), (5, ra.toNat), (5, rd.toNat), (4, h.guard.toNat), (4, h.tok.toNat)])
  | .touchW h rd ra rb => some (0xA8, pack [(24, 0), (4, 1), (5, 0), (5, rb.toNat), (5, ra.toNat), (5, rd.toNat), (4, h.guard.toNat), (4, h.tok.toNat)])
  | .cpy h reg ra rot space off => some (0xA9, pack [(24, off.toNat), (2, space.toNat), (4, 0), (4, rot.toNat), (5, ra.toNat), (5, reg.toNat), (4, 0), (4, h.guard.toNat), (4, h.tok.toNat)])
  | .cpyw h reg ra rot space off => some (0xAA, pack [(24, off.toNat), (2, space.toNat), (4, 0), (4, rot.toNat), (5, ra.toNat), (5, reg.toNat), (4, 0), (4, h.guard.toNat), (4, h.tok.toNat)])
  | .pfet h rowsM1 ra off => some (0xBD, pack [(24, off.toNat), (2, 0), (4, 0), (4, 0), (5, ra.toNat), (5, rowsM1.toNat), (4, 0), (4, h.guard.toNat), (4, h.tok.toNat)])
  | .poolReshape h rd ra role rel limit => some (0xAB, pack [(10, limit.toNat), (1, rel.toNat), (13, 0), (4, role.toNat), (5, 0), (5, 0), (5, ra.toNat), (5, rd.toNat), (4, h.guard.toNat), (4, h.tok.toNat)])
  | .poolPin h rd ra => some (0xAB, pack [(24, 0), (4, 6), (5, 0), (5, 0), (5, ra.toNat), (5, rd.toNat), (4, h.guard.toNat), (4, h.tok.toNat)])
  | .poolUnpin h rd ra => some (0xAB, pack [(24, 0), (4, 7), (5, 0), (5, 0), (5, ra.toNat), (5, rd.toNat), (4, h.guard.toNat), (4, h.tok.toNat)])
  | .pstat h rd which => some (0xAC, pack [(4, which.toNat), (20, 0), (4, 0), (5, 0), (5, 0), (5, 0), (5, rd.toNat), (4, h.guard.toNat), (4, h.tok.toNat)])
  | .wbinvAll h rd keep => some (0xAD, pack [(24, 0), (1, 0), (1, keep.toNat), (2, 0), (5, 0), (5, 0), (5, 0), (5, rd.toNat), (4, h.guard.toNat), (4, h.tok.toNat)])
  | .wbinvRng h rd ra rb keep => some (0xAD, pack [(24, 0), (1, 1), (1, keep.toNat), (2, 0), (5, 0), (5, rb.toNat), (5, ra.toNat), (5, rd.toNat), (4, h.guard.toNat), (4, h.tok.toNat)])
  | .rset h rd ra rb ring => some (0xAE, pack [(24, 0), (4, ring.toNat), (5, 0), (5, rb.toNat), (5, ra.toNat), (5, rd.toNat), (4, h.guard.toNat), (4, h.tok.toNat)])
  | .rsetClr h rd ring => some (0xAE, pack [(1, 1), (23, 0), (4, ring.toNat), (5, 0), (5, 0), (5, 0), (5, rd.toNat), (4, h.guard.toNat), (4, h.tok.toNat)])
  | .rput h rd ra rb ring limit => some (0xAF, pack [(24, limit.toNat), (4, ring.toNat), (5, 0), (5, rb.toNat), (5, ra.toNat), (5, rd.toNat), (4, h.guard.toNat), (4, h.tok.toNat)])
  | .rget h rd ring limit => some (0xB0, pack [(24, limit.toNat), (4, ring.toNat), (5, 0), (5, 0), (5, 0), (5, rd.toNat), (4, h.guard.toNat), (4, h.tok.toNat)])
  | .rclaim h rd rb ring n => some (0xB1, pack [(8, n.toNat), (16, 0), (4, ring.toNat), (5, 0), (5, rb.toNat), (5, 0), (5, rd.toNat), (4, h.guard.toNat), (4, h.tok.toNat)])
  | .rclaimRel h rd ring n => some (0xB1, pack [(8, n.toNat), (1, 1), (15, 0), (4, ring.toNat), (5, 0), (5, 0), (5, 0), (5, rd.toNat), (4, h.guard.toNat), (4, h.tok.toNat)])
  | .rwaitf h rd rb ring limit => some (0xB2, pack [(24, limit.toNat), (4, ring.toNat), (5, 0), (5, rb.toNat), (5, 0), (5, rd.toNat), (4, h.guard.toNat), (4, h.tok.toNat)])
  | .rwaite h rd rb ring limit => some (0xB3, pack [(24, limit.toNat), (4, ring.toNat), (5, 0), (5, rb.toNat), (5, 0), (5, rd.toNat), (4, h.guard.toNat), (4, h.tok.toNat)])
  | .rstatPos h rd ring => some (0xB4, pack [(24, 0), (4, ring.toNat), (5, 0), (5, 0), (5, 0), (5, rd.toNat), (4, h.guard.toNat), (4, h.tok.toNat)])
  | .rstatSpill h rd ring => some (0xB4, pack [(1, 1), (23, 0), (4, ring.toNat), (5, 0), (5, 0), (5, 0), (5, rd.toNat), (4, h.guard.toNat), (4, h.tok.toNat)])
  | .wenq h rd ra rb scope limit n => some (0xB5, pack [(7, n.toNat), (17, limit.toNat), (4, 0), (5, scope.toNat), (5, rb.toNat), (5, ra.toNat), (5, rd.toNat), (4, h.guard.toNat), (4, h.tok.toNat)])
  | .semi h rd ra sem => some (0xB6, pack [(6, sem.toNat), (18, 0), (4, 0), (5, 0), (5, 0), (5, ra.toNat), (5, rd.toNat), (4, h.guard.toNat), (4, h.tok.toNat)])
  | .semw h rd limit k sem => some (0xB7, pack [(6, sem.toNat), (6, k.toNat), (12, limit.toNat), (4, 0), (5, 0), (5, 0), (5, 0), (5, rd.toNat), (4, h.guard.toNat), (4, h.tok.toNat)])
  | .semwTry h rd k sem => some (0xB7, pack [(6, sem.toNat), (6, k.toNat), (12, 0), (4, 1), (5, 0), (5, 0), (5, 0), (5, rd.toNat), (4, h.guard.toNat), (4, h.tok.toNat)])
  | .sems h rd k sem => some (0xB8, pack [(6, sem.toNat), (6, k.toNat), (12, 0), (4, 0), (5, 0), (5, 0), (5, 0), (5, rd.toNat), (4, h.guard.toNat), (4, h.tok.toNat)])
  | .mark h => some (0xB9, pack [(24, 0), (4, 0), (5, 0), (5, 0), (5, 0), (5, 0), (4, h.guard.toNat), (4, h.tok.toNat)])
  | .fenceRel h scope => some (0xBA, pack [(24, 0), (4, 0), (5, scope.toNat), (5, 0), (5, 0), (5, 0), (4, h.guard.toNat), (4, h.tok.toNat)])
  | .fenceAcq h scope => some (0xBA, pack [(24, 0), (4, 1), (5, scope.toNat), (5, 0), (5, 0), (5, 0), (4, h.guard.toNat), (4, h.tok.toNat)])
  | .fenceFull h scope => some (0xBA, pack [(24, 0), (4, 2), (5, scope.toNat), (5, 0), (5, 0), (5, 0), (4, h.guard.toNat), (4, h.tok.toNat)])
  | .epush h rd ra rb scope => some (0xBB, pack [(24, 0), (4, 0), (5, scope.toNat), (5, rb.toNat), (5, ra.toNat), (5, rd.toNat), (4, h.guard.toNat), (4, h.tok.toNat)])
  | .epop h rd ra limit => some (0xBC, pack [(24, limit.toNat), (4, 0), (5, 0), (5, 0), (5, ra.toNat), (5, rd.toNat), (4, h.guard.toNat), (4, h.tok.toNat)])
  | .detach h => some (0xC0, pack [(24, 0), (4, 0), (5, 0), (5, 0), (5, 0), (5, 0), (4, h.guard.toNat), (4, h.tok.toNat)])
  | .joinOpen h rd id => some (0xC1, pack [(8, id.toNat), (16, 0), (4, 0), (5, 0), (5, 0), (5, 0), (5, rd.toNat), (4, h.guard.toNat), (4, h.tok.toNat)])
  | .join h limit id => some (0xC1, pack [(8, id.toNat), (16, limit.toNat), (4, 1), (5, 0), (5, 0), (5, 0), (5, 0), (4, h.guard.toNat), (4, h.tok.toNat)])
  | .dsync h scope level limit smask => some (0xC2, pack [(4, smask.toNat), (4, 0), (16, limit.toNat), (4, level.toNat), (5, scope.toNat), (5, 0), (5, 0), (5, 0), (4, h.guard.toNat), (4, h.tok.toNat)])
  | .dphaseComp h => some (0xC3, pack [(24, 0), (4, 0), (5, 0), (5, 0), (5, 0), (5, 0), (4, h.guard.toNat), (4, h.tok.toNat)])
  | .dphaseComm h => some (0xC3, pack [(24, 0), (4, 1), (5, 0), (5, 0), (5, 0), (5, 0), (4, h.guard.toNat), (4, h.tok.toNat)])
  | .cbcast h rd ra limit src => some (0xCB, pack [(2, src.toNat), (6, 0), (16, limit.toNat), (4, 0), (5, 0), (5, 0), (5, ra.toNat), (5, rd.toNat), (4, h.guard.toNat), (4, h.tok.toNat)])
  | .dinfo h rd level which => some (0xCC, pack [(2, which.toNat), (22, 0), (4, level.toNat), (5, 0), (5, 0), (5, 0), (5, rd.toNat), (4, h.guard.toNat), (4, h.tok.toNat)])
  | .xsemI h rd ra sem => some (0xCD, pack [(4, sem.toNat), (20, 0), (4, 0), (5, 0), (5, 0), (5, ra.toNat), (5, rd.toNat), (4, h.guard.toNat), (4, h.tok.toNat)])
  | .xsemW h rd limit k sem => some (0xCD, pack [(4, sem.toNat), (2, 0), (6, k.toNat), (12, limit.toNat), (4, 1), (5, 0), (5, 0), (5, 0), (5, rd.toNat), (4, h.guard.toNat), (4, h.tok.toNat)])
  | .xsemTry h rd k sem => some (0xCD, pack [(4, sem.toNat), (2, 0), (6, k.toNat), (12, 0), (4, 2), (5, 0), (5, 0), (5, 0), (5, rd.toNat), (4, h.guard.toNat), (4, h.tok.toNat)])
  | .xsemS h rd k sem => some (0xCD, pack [(4, sem.toNat), (2, 0), (6, k.toNat), (12, 0), (4, 3), (5, 0), (5, 0), (5, 0), (5, rd.toNat), (4, h.guard.toNat), (4, h.tok.toNat)])
  | .scset h rd ra scope => some (0xC4, pack [(24, 0), (4, 0), (5, scope.toNat), (5, 0), (5, ra.toNat), (5, rd.toNat), (4, h.guard.toNat), (4, h.tok.toNat)])
  | .scget h rd scope w => some (0xC5, pack [(24, 0), (4, w.toNat), (5, scope.toNat), (5, 0), (5, 0), (5, rd.toNat), (4, h.guard.toNat), (4, h.tok.toNat)])
  | .amo h rd ra rb scope op ord ty => some (0xC6, pack [(2, ty.toNat), (2, ord.toNat), (20, 0), (4, op.toNat), (5, scope.toNat), (5, rb.toNat), (5, ra.toNat), (5, rd.toNat), (4, h.guard.toNat), (4, h.tok.toNat)])
  | .amon h ra rb scope op ord ty => some (0xC7, pack [(2, ty.toNat), (2, ord.toNat), (20, 0), (4, op.toNat), (5, scope.toNat), (5, rb.toNat), (5, ra.toNat), (5, 0), (4, h.guard.toNat), (4, h.tok.toNat)])
  | .acas h rd ra rb scope ord ty => some (0xC8, pack [(2, ty.toNat), (2, ord.toNat), (20, 0), (4, 0), (5, scope.toNat), (5, rb.toNat), (5, ra.toNat), (5, rd.toNat), (4, h.guard.toNat), (4, h.tok.toNat)])
  | .marm h rd ra => some (0xCA, pack [(24, 0), (4, 0), (5, 0), (5, 0), (5, ra.toNat), (5, rd.toNat), (4, h.guard.toNat), (4, h.tok.toNat)])
  | .mwait h rd limit => some (0xC9, pack [(24, limit.toNat), (4, 0), (5, 0), (5, 0), (5, 0), (5, rd.toNat), (4, h.guard.toNat), (4, h.tok.toNat)])
  | .vdec h rd ra rb scope => some (0xE0, pack [(24, 0), (4, 0), (5, scope.toNat), (5, rb.toNat), (5, ra.toNat), (5, rd.toNat), (4, h.guard.toNat), (4, h.tok.toNat)])
  | .mask h rd ra rb scope => some (0xE1, pack [(24, 0), (4, 0), (5, scope.toNat), (5, rb.toNat), (5, ra.toNat), (5, rd.toNat), (4, h.guard.toNat), (4, h.tok.toNat)])
  | .gsx h rd ra rb scope => some (0xE2, pack [(24, 0), (4, 0), (5, scope.toNat), (5, rb.toNat), (5, ra.toNat), (5, rd.toNat), (4, h.guard.toNat), (4, h.tok.toNat)])
  | .rfshLayer h rd ra scope die => some (0xE8, pack [(1, die.toNat), (23, 0), (4, 0), (5, scope.toNat), (5, 0), (5, ra.toNat), (5, rd.toNat), (4, h.guard.toNat), (4, h.tok.toNat)])
  | .rfshTile h rd ra rb scope die => some (0xE8, pack [(1, die.toNat), (23, 0), (4, 1), (5, scope.toNat), (5, rb.toNat), (5, ra.toNat), (5, rd.toNat), (4, h.guard.toNat), (4, h.tok.toNat)])
  | .mthrThr h rd ra rb scope die => some (0xE9, pack [(1, die.toNat), (23, 0), (4, 0), (5, scope.toNat), (5, rb.toNat), (5, ra.toNat), (5, rd.toNat), (4, h.guard.toNat), (4, h.tok.toNat)])
  | .mthrLim h rd ra rb scope die => some (0xE9, pack [(1, die.toNat), (23, 0), (4, 1), (5, scope.toNat), (5, rb.toNat), (5, ra.toNat), (5, rd.toNat), (4, h.guard.toNat), (4, h.tok.toNat)])
  | .mthrNref h rd ra rb scope die => some (0xE9, pack [(1, die.toNat), (23, 0), (4, 2), (5, scope.toNat), (5, rb.toNat), (5, ra.toNat), (5, rd.toNat), (4, h.guard.toNat), (4, h.tok.toNat)])
  | .enq h rd ra q => some (0xE3, pack [(10, q.toNat), (14, 0), (4, 0), (5, 0), (5, 0), (5, ra.toNat), (5, rd.toNat), (4, h.guard.toNat), (4, h.tok.toNat)])
  | .enqR h rd ra rb => some (0xE3, pack [(24, 0), (4, 1), (5, 0), (5, rb.toNat), (5, ra.toNat), (5, rd.toNat), (4, h.guard.toNat), (4, h.tok.toNat)])
  | .depDec h rd scope idx => some (0xE4, pack [(16, idx.toNat), (8, 0), (4, 0), (5, scope.toNat), (5, 0), (5, 0), (5, rd.toNat), (4, h.guard.toNat), (4, h.tok.toNat)])
  | .depDecr h rd ra scope => some (0xE4, pack [(24, 0), (4, 1), (5, scope.toNat), (5, 0), (5, ra.toNat), (5, rd.toNat), (4, h.guard.toNat), (4, h.tok.toNat)])
  | .depArm h rd ra scope idx => some (0xE4, pack [(16, idx.toNat), (8, 0), (4, 2), (5, scope.toNat), (5, 0), (5, ra.toNat), (5, rd.toNat), (4, h.guard.toNat), (4, h.tok.toNat)])
  | .pwr h ra rb dw => some (0xE5, pack [(24, 0), (4, dw.toNat), (5, 0), (5, rb.toNat), (5, ra.toNat), (5, 0), (4, h.guard.toNat), (4, h.tok.toNat)])
  | .pamoAdd h rd ra rb ord ty => some (0xE6, pack [(2, ty.toNat), (2, ord.toNat), (20, 0), (4, 0), (5, 0), (5, rb.toNat), (5, ra.toNat), (5, rd.toNat), (4, h.guard.toNat), (4, h.tok.toNat)])
  | .pamoSwap h rd ra rb ord ty => some (0xE6, pack [(2, ty.toNat), (2, ord.toNat), (20, 0), (4, 1), (5, 0), (5, rb.toNat), (5, ra.toNat), (5, rd.toNat), (4, h.guard.toNat), (4, h.tok.toNat)])
  | .pamoCas h rd ra rb ord ty => some (0xE6, pack [(2, ty.toNat), (2, ord.toNat), (20, 0), (4, 2), (5, 0), (5, rb.toNat), (5, ra.toNat), (5, rd.toNat), (4, h.guard.toNat), (4, h.tok.toNat)])
  | .tmark h ra tag => some (0xE7, pack [(16, tag.toNat), (8, 0), (4, 0), (5, 0), (5, 0), (5, ra.toNat), (5, 0), (4, h.guard.toNat), (4, h.tok.toNat)])
  | .dump h rd ra rb which => some (0xEA, pack [(4, which.toNat), (20, 0), (4, 0), (5, 0), (5, rb.toNat), (5, ra.toNat), (5, rd.toNat), (4, h.guard.toNat), (4, h.tok.toNat)])
  | .ntfy h ra v => some (0xEB, pack [(8, v.toNat), (16, 0), (4, 0), (5, 0), (5, 0), (5, ra.toNat), (5, 0), (4, h.guard.toNat), (4, h.tok.toNat)])
  | .idleWake => none
  | .matrixCommandStart => none
  | .matrixCommandComplete => none
  | .matrixSemExpired => none
  | .touchWindowExpiry => none
  | .tileBusy => none
  | .ringWaitExpired => none
  | .spillMove => none
  | .semWaitExpired => none
  | .markWaitExpired => none
  | .engineWaitExpired => none
  | .joinExpired => none
  | .domExpired => none
  | .monitorEviction => none
  | .spuriousEvent => none
  | .mwaitExpired => none
  | .openStream => none
  | .decodeUnit => none
  | .closeStream => none
  | .maskCommand => none
  | .gsxCommand => none
  | .rfshCommand => none
  | .mthrCommand => none
  | .heldEnqueueEntry => none
  | .tokenWaitExpired => none
  | .frameFetch => none
  | .driftRelease => none
  | .pageWalk => none
  | .tinvWrite => none
  | .invalidationComplete => none
  | .xscanWrite => none
  | .scanComplete => none
  | .seedWrite => none
  | .bgrantWrite => none
  | .stopatWrite => none
  | .hostStopAt => none
  | .selectionRound => none
  | .controlIntervalStart => none
  | .reserve => none
  | .reservationRetry => none
  | .grantLapse => none
  | .bind => none
  | .budgetExhausted => none
  | .sliceEnd => none
  | .currentReturn => none
  | .contextStopped => none
  | .handlerSliceBind => none
  | .handlerSliceEnd => none
  | .traceFrameTimeout => none
  | .replayStarved => none
  | .registerWrite => none
  | .queueControlWrite => none
  | .hostEnqueue => none
  | .partitionWrite => none
  | .l2ModeWrite => none
  | .l2ModeSwitch => none
  | .contextInstall => none
  | .hostStop => none
  | .scopeCommand => none
  | .eventWordClear => none
  | .resetContext => none
  | .resetPartition => none
  | .resetModule => none
  | .functionLevelReset => none
  | .hotReset => none
  | .coldBoot => none
  | .recoveryBlock => none
  | .recoveryCommit => none
  | .getVersion => none
  | .getCapabilities => none
  | .negotiateAlgorithms => none
  | .getDigests => none
  | .getCertificate => none
  | .challenge => none
  | .getMeasurements => none
  | .spdmUnsupported => none
  | .incomingPostedWrite => none
  | .incomingRead => none
  | .incomingAtomicOp => none
  | .outboundCompletion => none
  | .completionTimeout => none
  | .ptmDialogue => none
  | .miosorFlitRetry => none
  | .retrain => none
  | .laneRepair => none
  | .stackPauseEnd => none
  | .sentinelUpdate => none
  | .rowActivation => none
  | .refreshWindowStart => none
  | .regulatorWrite => none
  | .regulatorChangeDone => none
  | .clusterPowerWrite => none
  | .regulatorSwitch => none
  | .thermal => none
  | .eolUpdate => none
  | .measurementUpdate => none
  | .ceLasting => none
  | .poolRowRetire => none
  | .instructionRetire => none
  | .videoCommandCompletion => none
  | .portLinkChange => none

/-- The values that the field of role D accepts, opcode by opcode (R56); a field the opcode does not use is zero. -/
def lnRangeD (op : Nat) : Int × Int :=
  match op with
  | 65 | 66 | 67 | 68 | 69 | 70 | 71 | 72 | 73 | 74 | 75 | 76 | 77 | 78 | 79 | 80 | 81 | 82 | 83 | 84 | 85 | 86 | 87 | 88 | 89 | 90 | 91 | 92 | 94 | 95 | 96 | 97 | 98 | 99 | 100 | 101 | 102 | 103 | 104 | 105 | 106 | 108 | 109 | 110 | 111 | 119 | 120 | 121 | 123 => (0, 319)
  | 93 | 107 | 112 | 113 | 114 => (0, 7)
  | 122 | 124 => (320, 383)
  | 128 | 129 | 130 | 131 | 132 | 143 | 144 | 146 | 147 => (0, 63)
  | 162 | 163 | 164 | 165 | 166 | 167 => (0, 383)
  | 169 | 170 => (0, 31)
  | _ => (0, 0)

/-- The values that the field of role A accepts, opcode by opcode (R56); a field the opcode does not use is zero. -/
def lnRangeA (op : Nat) : Int × Int :=
  match op with
  | 65 | 67 | 68 | 69 | 70 | 71 | 72 | 73 | 74 | 75 | 76 | 77 | 78 | 79 | 80 | 81 | 82 | 83 | 84 | 85 | 86 | 87 | 88 | 89 | 90 | 91 | 92 | 93 | 94 | 95 | 96 | 97 | 98 | 99 | 100 | 101 | 102 | 103 | 104 | 105 | 108 | 109 | 111 | 119 | 120 | 121 | 122 | 128 | 129 | 130 | 131 | 132 | 136 | 137 | 143 | 144 | 145 | 146 | 147 => (0, 319)
  | 66 | 107 => (0, 31)
  | 112 | 113 | 114 => (0, 7)
  | 123 => (320, 383)
  | _ => (0, 0)

/-- The values that the field of role B accepts, opcode by opcode (R56); a field the opcode does not use is zero. -/
def lnRangeB (op : Nat) : Int × Int :=
  match op with
  | 67 | 68 | 69 | 70 | 71 | 72 | 82 | 83 | 84 | 85 | 88 | 89 | 90 | 91 | 92 | 93 | 94 | 96 | 102 | 104 | 105 | 108 | 109 | 111 | 119 => (0, 319)
  | 112 | 113 => (0, 7)
  | 121 => (0, 31)
  | _ => (0, 0)

/-- Bits 47 to 0 of an instruction word with its head, and its opcode (R42). -/
def decodeWord (w : Nat) : Except Reason Instr := decodeOp (w / 2 ^ 56 % 2 ^ 8) (w % 2 ^ 56)

/-- The 64-bit word of an encoded instruction (R42); `none` for a loop-nest record and for an event. -/
def encodeWord (i : Instr) : Option Nat :=
  (encodeParts i).map fun p => p.2 + 2 ^ 56 * p.1

/-- The token bits of a head that name no queue of the stream (R24). -/
def badTokens (st : StreamId) (tok : Nat) : Bool :=
  match st with
  | .L => tok.testBit 3 || tok.testBit 1
  | .X => false
  | .S => tok.testBit 2 || tok.testBit 0
  | .K => tok != 0

/-- The checks of a word that depend on the stream it stands on: opcode and token bits first (reasons 0x05 to 0x07),
then the word's own checks; `dsync` must name its own stream (R60, R237). -/
def scanWord (st : StreamId) (w : Nat) : Except Reason Instr :=
  let op := w / 2 ^ 56 % 2 ^ 8
  need (opStreams op != 0) .opcodeUnassigned <|
  need ((opStreams op).testBit st.num) .opcodeStream <|
  need (!badTokens st (fld w 52 4)) .tokenBit <|
  match decodeWord w with
  | .error r => .error r
  | .ok i =>
    match i with
    | .dsync _ _ _ _ smask => need (smask.toNat.testBit st.num) .fieldValue (.ok i)
    | _ => .ok i

/-- The signed value of the `w` low bits of a natural number. -/
def signedOf (w n : Nat) : Int := (BitVec.ofNat w n).toInt

/-- The stride of a role at a nesting level (R54). -/
def LnRec.stride (s : BitVec 64) (lvl : Nat) : Int := signedOf 16 (s.toNat / 2 ^ (16 * lvl))

/-- The number of expanded issues of a record (R55). -/
def LnRec.count (r : LnRec) : Nat := r.trip 0 * r.trip 1 * r.trip 2 * r.trip 3

/-- The space field of a record of format D (R53). -/
def LnRec.space (r : LnRec) : Nat := fld r.fixed.toNat 24 2

/-- The scalar register field `ra` of a record of format M or D (R53). -/
def LnRec.ra (r : LnRec) : Nat := fld r.fixed.toNat 34 5

/-- The base of role A as a number: for the offset of space MEM it is signed, and for CLUSTER its core position stands
apart (R55, R56). -/
def LnRec.baseA (r : LnRec) : Int :=
  match lnFormat r.op.toNat with
  | .D => if r.space = 0 then signedOf 24 r.bA.toNat else r.bA.toNat
  | _ => r.bA.toNat

/-- The unit of role A: strides of the offset field count rows of 128 bytes (R55). -/
def LnRec.unitA (r : LnRec) : Int :=
  match lnFormat r.op.toNat with
  | .D => 128
  | _ => 1

/-- A computed field at an index tuple (R55). -/
def lnField (base : Int) (s : BitVec 64) (unit : Int) (i0 i1 i2 i3 : Nat) : Int :=
  base + ((i0 : Int) * LnRec.stride s 0 + (i1 : Int) * LnRec.stride s 1 + (i2 : Int) * LnRec.stride s 2 +
    (i3 : Int) * LnRec.stride s 3) * unit

/-- The least value of a computed field over the corners of the index box (R56). -/
def lnLow (r : LnRec) (base : Int) (s : BitVec 64) (unit : Int) : Int :=
  base + ([0, 1, 2, 3].map fun l => min 0 (((r.trip l : Int) - 1) * LnRec.stride s l * unit)).sum

/-- The greatest value of a computed field over the corners of the index box (R56). -/
def lnHigh (r : LnRec) (base : Int) (s : BitVec 64) (unit : Int) : Int :=
  base + ([0, 1, 2, 3].map fun l => max 0 (((r.trip l : Int) - 1) * LnRec.stride s l * unit)).sum

/-- The range of the offset field in each space (R56). -/
def lnOffRange (r : LnRec) : Int × Int :=
  if r.space = 0 then (-0x800000, 0x7FFFFF)
  else if r.space = 1 then (0, 0x3FFFFF)
  else
    let p : Int := (fld r.bA.toNat 22 2 : Nat) * 0x400000
    (p, p + 0x3FFFFF)

/-- The range that role A of a record accepts (R56). -/
def lnRangeOfA (r : LnRec) : Int × Int :=
  match lnFormat r.op.toNat with
  | .D => lnOffRange r
  | _ => lnRangeA r.op.toNat

/-- Every corner of the index box lies in the ranges of the opcode (R56); a record that issues nothing has no corner. -/
def lnCornersOk (r : LnRec) : Bool :=
  let inside (base : Int) (s : BitVec 64) (unit : Int) (rg : Int × Int) : Bool :=
    decide (rg.1 ≤ lnLow r base s unit) && decide (lnHigh r base s unit ≤ rg.2)
  r.count == 0 ||
    (inside r.bD.toNat r.sD 1 (lnRangeD r.op.toNat) && inside r.bB.toNat r.sB 1 (lnRangeB r.op.toNat) &&
      ((lnFormat r.op.toNat == .D && r.space == 3) || inside r.baseA r.sA r.unitA (lnRangeOfA r)))

/-- The single instruction's word that a record issues, with the given values in its D, A and B fields and its token
bits zero (R55). -/
def lnWord (r : LnRec) (guard : BitVec 4) (d a b : Nat) : Nat :=
  let f := r.fixed.toNat
  let body :=
    match lnFormat r.op.toNat with
    | .V => [(5, fld f 18 5), (3, fld f 23 3), (4, fld f 26 4), (9, fld f 30 9), (9, b), (9, a), (9, d)]
    | .M => [(1, fld f 6 1), (4, fld f 7 4), (4, fld f 11 4), (6, fld f 15 6), (1, fld f 21 1), (6, fld f 22 6),
        (1, fld f 28 1), (9, a), (6, d), (5, fld f 29 5), (5, fld f 34 5)]
    | .D => [(24, a), (2, fld f 24 2), (4, fld f 26 4), (4, fld f 30 4), (5, fld f 34 5), (9, d)]
  pack (body ++ [(4, guard.toNat), (4, 0), (8, r.op.toNat)])

/-- The word that the expanded issue of an index tuple executes (R55). A negative offset is held modulo 2^24. -/
def lnIssueWord (r : LnRec) (guard : BitVec 4) (i0 i1 i2 i3 : Nat) : Nat :=
  let v (base : Int) (s : BitVec 64) (unit : Int) : Nat := (lnField base s unit i0 i1 i2 i3 % 2 ^ 24).toNat
  lnWord r guard (v r.bD.toNat r.sD 1) (v r.baseA r.sA r.unitA) (v r.bB.toNat r.sB 1)

/-- The lower of two reasons. -/
def Reason.least (a b : Option Reason) : Option Reason :=
  match a, b with
  | none, b => b
  | a, none => a
  | some x, some y => if x.code ≤ y.code then some x else some y

/-- The lowest reason among the checks that a record fails, without those of its stream (R53 to R56, R60). The fixed
fields are checked in a word whose D, A and B fields hold a value that the opcode accepts. A `cpy` or `cpyw` record
strides no scalar register (R201). An opcode that is not eligible fails LN_OPCODE, unless it fails a lower check: DESIGN CHOICE
(log entry 45): one of a format that has no packed fields and no roles D, A and B fails no check of theirs. -/
def lnReason (h : Head) (r : LnRec) : Option Reason :=
  let op := r.op.toNat
  let neutral := lnWord r h.guard (lnRangeD op).1.toNat (lnRangeA op).1.toNat (lnRangeB op).1.toNat
  let fixedBad : Option Reason :=
    match decodeWord neutral with
    | .error e => if opLnShaped op then some e else none
    | .ok _ => none
  let own : Option Reason := if opLnShaped op && !r.wf then some .reservedNonzero else none
  let eligible : Option Reason := if opLoopNest op then none else some .lnOpcode
  let corner : Option Reason := if opLoopNest op && !lnCornersOk r then some .lnRange else none
  let stride : Option Reason := if (op = 0xA9 ∨ op = 0xAA) ∧ r.sD ≠ 0 then some .fieldValue else none
  [own, fixedBad, eligible, corner, stride].foldl Reason.least none

/-- Word 0 of a loop-nest record (R53). -/
def encodeRecordHead (st : StreamId) (h : Head) (r : LnRec) : Nat :=
  pack [(39, r.fixed.toNat), (4, h.guard.toNat), (4, h.tok.toNat), (8, r.op.toNat), (2, st.num), (3, 0), (4, 2)]

/-- The eight words of a loop-nest record (R53, R54). -/
def encodeRecord (st : StreamId) (h : Head) (r : LnRec) : List Nat :=
  [encodeRecordHead st h r, r.trips.toNat, r.sD.toNat, r.sA.toNat, r.sB.toNat,
    pack [(24, r.bD.toNat), (24, r.bA.toNat), (16, 0)], pack [(24, r.bB.toNat), (32, 0), (8, 0)], 0]

/-- The head and the record that eight words hold, without any check (R53, R54). -/
def recordFields (ws : List Nat) : Head × LnRec :=
  let w (n : Nat) : Nat := ws.getD n 0
  (⟨BitVec.ofNat 4 (fld (w 0) 43 4), BitVec.ofNat 4 (fld (w 0) 39 4)⟩,
    { op := BitVec.ofNat 8 (fld (w 0) 47 8), fixed := BitVec.ofNat 39 (w 0)
      trips := BitVec.ofNat 64 (w 1), sD := BitVec.ofNat 64 (w 2), sA := BitVec.ofNat 64 (w 3)
      sB := BitVec.ofNat 64 (w 4), bD := BitVec.ofNat 24 (w 5), bA := BitVec.ofNat 24 (fld (w 5) 24 24)
      bB := BitVec.ofNat 24 (w 6) })

/-- The words of a record that must be zero are zero; the immediate is so for every eligible opcode (R53, R54). -/
def recordZeros (ws : List Nat) : Bool :=
  let w (n : Nat) : Nat := ws.getD n 0
  fld (w 0) 57 3 == 0 && fld (w 5) 48 16 == 0 && fld (w 6) 56 8 == 0 && (!opLoopNest (fld (w 0) 47 8) || fld (w 6) 24 32 == 0) && fld (w 7) 0 64 == 0

/-- Reads a loop-nest record (R53, R54); the checks of the stream are the scanner's. -/
def decodeRecord (ws : List Nat) : Except Reason Instr :=
  let (h, r) := recordFields ws
  need (fld (ws.getD 0 0) 60 4 == 2) .badKind <|
  need (opStreams r.op.toNat != 0) .opcodeUnassigned <|
  need (recordZeros ws) .reservedNonzero <|
  match lnReason h r with
  | some e => .error e
  | none => .ok (.loopNestRecord h r)

/-- The checks of a record on a stream, in ascending order of reason (R60). -/
def scanRecord (st : StreamId) (ws : List Nat) : Except Reason Instr :=
  let (h, r) := recordFields ws
  need (opStreams r.op.toNat != 0) .opcodeUnassigned <|
  need ((opStreams r.op.toNat).testBit st.num) .opcodeStream <|
  need (!badTokens st h.tok.toNat) .tokenBit <|
  decodeRecord ws

/-- The header of a packet (R40). -/
def encodeHeader (st : StreamId) (count : Nat) : Nat := pack [(55, 0), (2, st.num), (3, count), (4, 1)]

/-- The number of instruction words of a packet's header (R40). -/
def headerCount (w : Nat) : Nat := fld w 57 3

/-- Whether a frame is a loop-nest record (R39). -/
def isRecord (ws : List Nat) : Bool := fld (ws.getD 0 0) 60 4 == 2

/-- The first slot of a packet whose word fails, with the lowest reason it fails (R60). -/
def scanSlots (st : StreamId) (ws : List Nat) (count : Nat) : List Nat → Option (Nat × Reason)
  | [] => none
  | slot :: rest =>
    if slot < count then
      match scanWord st (ws.getD (slot + 1) 0) with
      | .error r => some (slot, r)
      | .ok _ => scanSlots st ws count rest
    else none

/-- The scanner's answer for one frame of a page tagged with a stream: the failing slot and the reason, or `none` where
the frame passes (R60). -/
def scanFrame (st : StreamId) (ws : List Nat) : Option (Nat × Reason) :=
  let w0 := ws.getD 0 0
  let kind := fld w0 60 4
  if kind ≠ 1 ∧ kind ≠ 2 then some (7, .badKind)
  else if fld w0 55 2 ≠ st.num then some (7, .streamTag)
  else if kind = 2 then
    match scanRecord st ws with
    | .error r => some (7, r)
    | .ok _ => none
  else
    let count := headerCount w0
    if count = 0 then some (7, .countZero)
    else if (ws.drop (count + 1)).any (· != 0) then some (7, .slotNonzero)
    else if w0 % 2 ^ 55 ≠ 0 then some (7, .reservedNonzero)
    else scanSlots st ws count [0, 1, 2, 3, 4, 5, 6]

/-- The instruction at a slot of a frame (R14, R41). -/
def frameInstr (ws : List Nat) (slot : Nat) : Except Reason Instr :=
  if isRecord ws then decodeRecord ws else decodeWord (ws.getD (slot + 1) 0)

/-- The streams that may hold an instruction, lowest first, for building a frame of it. -/
def streamFor (op : Nat) : StreamId :=
  if (opStreams op).testBit 0 then .L
  else if (opStreams op).testBit 1 then .X
  else if (opStreams op).testBit 2 then .S
  else .K

/-- The words of an encoded instruction: one word, or the eight words of a record for a stream that may hold it; none
for an event (R42, R53). -/
def encode (i : Instr) : List Nat :=
  match i with
  | .loopNestRecord h r => encodeRecord (streamFor r.op.toNat) h r
  | i =>
    match encodeWord i with
    | some w => [w]
    | none => []

/-- Reads an instruction from its words, one or eight (R42, R53). -/
def decode (ws : List Nat) : Except Reason Instr :=
  match ws with
  | [w] => decodeWord w
  | ws => decodeRecord ws

/-- An instruction that the encodings can hold: its operands are well formed, and a record passes its own checks. -/
def Instr.encodable (i : Instr) : Bool :=
  match i with
  | .loopNestRecord h r => r.wf && (lnReason h r == none) && (opStreams r.op.toNat != 0)
  | i => i.wf && (encodeParts i).isSome

/-- The words of 64 bits of a number, the lowest first. -/
def wordsOf (n : Nat) : Nat → List Nat
  | 0 => []
  | k + 1 => n % 2 ^ 64 :: wordsOf (n / 2 ^ 64) k

/-- The instruction of a row's bits: one 64-bit word, or a record of eight words. -/
def decodeTableWord (nbits w : Nat) : Option Instr :=
  let r := if nbits ≤ 64 then decodeWord (w % 2 ^ 64) else decodeRecord (wordsOf w 8)
  match r with
  | .ok i => some i
  | .error _ => none

end Sys2Proof
end

