-- ==== Sys2Proof/Machine/Fetch.lean ====
section
/-! DEFINITION. Fetching frames: executability, delivery, drift and private fetch. -/

namespace Sys2Proof.Machine

/-- A frame for a stream from its page, or the trap of its fetch (R16, R322, R339). -/
def State.fetchFrame (s : State) (core : Nat) (k : StreamId) (pc : Nat) : Except Trap FrameRec :=
  let denied : Trap := { code := .fetchDenied, faddr := w64 pc, detail := 2 }
  let va := pc - pc % 64
  let x := s.ctxOf core
  match s.translate core x va with
  | none => .error denied
  | some e =>
    let pa := e.phys va
    if !e.x ∨ e.xs ≠ k.num ∨ e.cls ≠ 0 ∨ tblFind s.scanned (pa / 4096) ≠ some k.num then .error denied
    else if s.homeBad (some (s.ctx x).part) (pa / 128) then .error { code := .dataUncorrectable, faddr := w64 pc, detail := 2 }
    else
      let p := some (s.ctx x).part
      .ok { addr := va, pa := pa, words := (List.range 8).map fun i => s.homeRead p (pa + 8 * i) 8 }

/-- The members of a fetch group: the cores of the cluster bound to its slice whose stream is attached in it (R227). -/
def State.groupMembers (s : State) (i : Nat) (g : FetchGroup) : List Nat :=
  ((List.range 4).map fun p => 4 * i + p).filter fun c =>
    (s.core c).slice == some g.slice && ((s.core c).stream g.kind).attached && (((s.core c).stream g.kind).group == g.id) &&
      (((s.core c).stream g.kind).mode == .run)

/-- The head is the last instruction of its frame. -/
def Stream.lastOfFrame (st : Stream) : Bool :=
  match st.iq with
  | f :: _ => isRecord f.words || (headerCount (f.words.getD 0 0) == st.pc.toNat % 8 + 1)
  | [] => false

/-- The consumed count: frames whose last instruction has issued (R229). `Stream.consumed` counts those that the stream has
left. DESIGN CHOICE (log entry 45): the last instruction of a loop-nest record's frame is the record, which issues when it takes
its pops. -/
def Stream.consumedCount (st : Stream) : Nat :=
  match st.ahead.getLast? with
  | some a => a.consumed
  | none => if st.issued ∧ st.lastOfFrame then st.consumed + 1 else st.consumed

/-- The least consumed count of a group (R229). -/
def State.leastConsumed (s : State) (i : Nat) (g : FetchGroup) : Nat :=
  match (s.groupMembers i g).map fun c => ((s.core c).stream g.kind).consumedCount with
  | [] => 0
  | a :: rest => rest.foldl min a

/-- The depth of the drift bound (R229). -/
def driftDepth : Nat := 32

/-- What a delivery comes to. -/
inductive Delivery where
  | done (s : State)
  /-- The drift bound withholds the frame (R229). -/
  | stalled (s : State)
  | trap (t : Trap)

/-- The drift bound withholds a further frame from a member (R229). -/
def State.withheld (s : State) (i : Nat) (g : FetchGroup) (st : Stream) : Bool :=
  decide (s.leastConsumed i g + driftDepth < st.consumed + st.iq.length + 1)

/-- Delivers the frame that holds an address to a stream: by its fetch group, which fetches each frame once, or by private
fetch (R227, R229). -/
def State.deliver (s : State) (core : Nat) (k : StreamId) (pc : Nat) : Delivery :=
  let st := s.stream core k
  let i := clusterOf core
  match s.fetchGroup core k with
  | none =>
    match s.fetchFrame core k pc with
    | .error t => .trap t
    | .ok f => .done (s.setStream core k { st with iq := st.iq ++ [f] })
  | some g =>
    let n := st.consumed + st.iq.length
    if s.withheld i g st then
      .stalled (s.setStream core k { st with stalled := some (st.stalled.getD (s.cluster i).cycles) })
    else
      let st := { st with stalled := none }
      match g.frames.find? fun e => e.1 == n && e.2.addr == pc - pc % 64 with
      | some e =>
        .done (s.setStream core k { st with iq := st.iq ++ [e.2] })
      | none =>
        match s.fetchFrame core k pc with
        | .error t => .trap t
        | .ok f =>
          let low := s.leastConsumed i g
          let frames := (g.frames.filter fun e => decide (low ≤ e.1)) ++ [(n, f)]
          let s := s.setFetchGroup i { g with frames := frames }
          .done (s.setStream core k { st with iq := st.iq ++ [f] })

/-- The slot of a PC does not exist in the frame (R16). -/
def slotMissing (f : FrameRec) (pc : Nat) : Bool :=
  if isRecord f.words then decide (pc % 8 ≠ 0) else decide (headerCount (f.words.getD 0 0) ≤ pc % 8)

/-- The front of the queue holds the frame of the PC. -/
def Stream.hasFrame (st : Stream) : Bool :=
  match st.iq with
  | f :: _ => f.addr == st.pc.toNat - st.pc.toNat % 64
  | [] => false

/-- The executing stream's fetch traps: the head is the target PC (R16). -/
def State.trapFetch (s : State) (t : Trap) : State :=
  (s.setSt { s.st with fetchTrap := true, iq := [] }).trapCur t

/-- The executing stream's queue holds the frame of its PC, or its fetch has stalled or trapped. -/
def State.fetchHead (s : State) : Delivery :=
  if s.st.hasFrame then .done s
  else s.deliver s.curCore s.curK s.st.pc.toNat

/-- The word of the head, as R356 reads it. -/
def State.headWord (s : State) (f : FrameRec) : Nat :=
  if isRecord f.words then fld (f.words.getD 0 0) 47 8 else f.words.getD (s.st.pc.toNat % 8 + 1) 0

/-- What a turn of the executing stream comes to: an instruction at its head, a state to stand at, or a word that no rule
gives a meaning. -/
inductive Ready where
  | run (s : State) (i : Instr)
  | rest (s : State)
  | bad (r : Reason)

/-- The instruction at the head of the executing stream, fetched where it is not yet in the queue (R14, R16, R229). -/
def State.ready (s : State) : Ready :=
  if !s.canRun s.curCore s.curK then .rest s
  else
    match s.fetchHead with
    | .stalled s => .rest s
    | .trap t => .rest (s.trapFetch t)
    | .done s =>
      match s.st.iq with
      | [] => .rest s
      | f :: _ =>
        let pc := s.st.pc.toNat
        if slotMissing f pc then .rest (s.trapFetch { code := .badTarget, faddr := w64 pc })
        else
          match frameInstr f.words (pc % 8) with
          | .ok i => .run { s with word := s.headWord f } i
          | .error r => .bad r

end Sys2Proof.Machine
end

