-- ==== Sys2Proof/Machine/Order.lean ====
section
/-! DEFINITION. Scope entries, and the release and acquire parts that they qualify (R246 to R261, R382). -/

namespace Sys2Proof.Machine

/-- The mask of the cores of a list. -/
def coreMask (cores : List Nat) : BitVec 192 := BitVec.ofNat 192 ((cores.map fun c => 2 ^ c).sum)

/-- A fixed entry as it resolves for an issuing core (R247). -/
def fixedScope (n core : Nat) : ScopeEntry :=
  let cores : BitVec 192 :=
    if n = 0 then coreMask [core]
    else if n = 1 then coreMask ((List.range 4).map fun p => core / 4 * 4 + p)
    else BitVec.allOnes 192
  { cores := cores, slices := BitVec.allOnes 64, engines := if n ≤ 1 then 0 else 0x7F7F, classes := 0xF, valid := true }

/-- The entries that no `scset` changes (R247). -/
def isFixedScope (n : Nat) : Bool := n == 0 || n == 1 || n == 30 || n == 31

/-- An entry of a context's table, as it resolves for a core (R246, R247). -/
def State.scopeEntry (s : State) (x n core : Nat) : ScopeEntry :=
  if isFixedScope n then fixedScope n core else tblGet {} (s.ctx x).scopes n

/-- A word of an entry's image (R246). -/
def ScopeEntry.word (e : ScopeEntry) (w : Nat) : W64 :=
  match w with
  | 0 => w64 (bits e.cores 0 64)
  | 1 => w64 (bits e.cores 64 64)
  | 2 => w64 (bits e.cores 128 64)
  | 3 => e.slices
  | 4 => w64 (e.engines.toNat + e.classes.toNat * 2 ^ 16 + e.valid.toNat * 2 ^ 32 + e.gen.toNat * 2 ^ 40)
  | _ => 0

/-- The entry names an agent other than the core (R248, R258). -/
def ScopeEntry.namesOther (e : ScopeEntry) (n core : Nat) : Bool :=
  n == 31 || e.engines != 0 || (e.cores &&& ~~~ coreMask [core]) != 0

/-- A DEV row is one of the entry's locations, for a partition's agents (R248). -/
def State.inLocs (s : State) (e : ScopeEntry) (p row : Nat) : Bool :=
  e.classes.getLsbD 1 && e.slices.getLsbD (s.sliceBit p (row * 128))

/-- Captures entry `n` at issue; an invalid one traps SCOPE_STALE (R251, R252). The steps that follow use the entry as it was
captured: what holds it is `captScope`, and none of its fields changes while it is held (R249). -/
def captureScope (n : Nat) : Op ScopeEntry := fun s =>
  let e := s.scopeEntry s.curCtx n s.curCore
  if e.valid ∨ s.st.captScope.isSome then .ok (s.setSt { s.st with captScope := some (n, e.gen.toNat) }) e
  else .trap s { code := .scopeStale, faddr := w64 (n + 256 * e.gen.toNat) }

/-- The lines of the executing core whose rows are locations of an entry. -/
def State.scopeRows (s : State) (e : ScopeEntry) : List Nat :=
  (s.cur.ways.filter fun l => s.inLocs e (s.ctx s.curCtx).part l.1).map Prod.fst

/-- Posted writes of a core that no release knows to have reached their completers (R382). -/
def Core.postedHost (c : Core) : Bool := decide (c.hostFlushed < c.hostSent)
def Core.postedPeer (c : Core) : Bool := decide (c.peerFlushed < c.peerSent)

/-- The prior posted writes of the core reach their completers: the steps are the counts of the writes that the flush covers,
and the zero-length reads, which go out through both ports before either is waited for (R382). One that comes back poisoned or
refused, or has timed out, is uncorrectable data (R383). DESIGN CHOICE (log entry 47): such a read has no address, and its trap or
record gives 0. -/
def flushPosted : Op Unit :=
  opBind (opStep fun s => .ok s (if s.cur.postedHost then s.cur.hostSent else 0)) fun host =>
    opBind (opStep fun s => .ok s (if s.cur.postedPeer then s.cur.peerSent else 0)) fun peer =>
      unitOf
        (opStep fun s =>
          let read (peer : Bool) (j : Nat) : Outbound := { peer := peer, bus := 0, len := 0, va := 0, key := s.noteKey j }
          let sent := (if host = 0 then [] else [read false 2]) ++ (if peer = 0 then [] else [read true 3])
          let open' := sent.filter fun o => (tblFind s.st.notes o.key).isNone
          let failed := sent.filter fun o => match tblFind s.st.notes o.key with
            | some (.answer (.data _)) => false
            | _ => true
          if open' ≠ [] then .req s open'
          else
            opBind (opEach (fun _ => unitOf (uncorrectable 0 0 .read)) failed)
              (fun _ s =>
                let c := s.cur
                .ok (s.setCur { c with hostFlushed := max c.hostFlushed host, peerFlushed := max c.peerFlushed peer }) 0) s)

/-- The release part of R261 with a captured entry `e`, number `n`: once for the head that has it. What the core's earlier
`amon`s do is performed first, whatever the entry names (R256, R263). -/
def releasePart (n : Nat) (e : ScopeEntry) : Op Unit :=
  opBind
    (opOnce fun s =>
      let s := s.landAmons s.curCore
      if e.namesOther n s.curCore then (s.scopeRows e).foldl (fun s r => s.wayClean s.curCore r) s else s)
    fun _ => if n = 31 then flushPosted else opPure ()

/-- The acquire part of R261. -/
def State.acquireScope (s : State) (n : Nat) (e : ScopeEntry) : State :=
  if e.namesOther n s.curCore then (s.scopeRows e).foldl (fun s r => s.wayEvict s.curCore r) s else s
def acquirePart (n : Nat) (e : ScopeEntry) : Op Unit := fun s => .ok (s.acquireScope n e) ()

/-- A release with a fixed entry (R102, R313, R324, R388, R390). -/
def releaseFixed (n : Nat) : Op Unit := fun s => releasePart n (fixedScope n s.curCore) s

/-- An acquire with a fixed entry. -/
def acquireFixed (n : Nat) : Op Unit := fun s => acquirePart n (fixedScope n s.curCore) s

end Sys2Proof.Machine
end

