-- ==== Sys2Proof/Machine/Sysreg.lean ====
section
/-! DEFINITION. Special registers: their values, their writes by `mts`, by a handler and by the host, and the requests
that writes start (R34, R100, R299, R323, R324, R337, R345). -/

namespace Sys2Proof.Machine

/-! ### Words -/

/-- `%status` of a stream, with the state field given (R35). -/
def State.statusWord (s : State) (core : Nat) (k : StreamId) (state : Nat) : W64 :=
  let st := s.stream core k
  w64 (st.flags.toNat + st.rm.toNat * 2 ^ 7 + (if (s.ctx (s.ctxOf core)).replayMode = 2 then 2 ^ 10 else 0) +
    st.attached.toNat * 2 ^ 11 + state * 2 ^ 12 + st.last.toNat * 2 ^ 16)

/-- The state of a stream, the halt with it (R31). -/
def Core.stateCode (c : Core) (k : StreamId) : Nat := if (c.stream k).stopped then 10 else c.stateOf k

/-- The count of vector banks (R114). -/
def Core.vb (c : Core) : Nat := (c.banksOf 1).length - 2

/-- `%pool` (R117). -/
def Core.poolReg (c : Core) : W64 :=
  w64 (c.poolStatus.toNat + c.vlive.toNat * 2 ^ 4 + c.vb * 2 ^ 16 + (c.banksOf 2).length * 2 ^ 20 +
    (c.banksOf 3).length * 2 ^ 25 + (c.banksOf 4).length * 2 ^ 30 + (c.banksOf 5).length * 2 ^ 37 +
    c.poolBusy.toNat * 2 ^ 44)

/-- `%mstat` (R169). -/
def Matrix.mstat (m : Matrix) : W64 :=
  w64 (m.flags.toNat + m.aborted.toNat * 2 ^ 8 + m.done.toNat * 2 ^ 16 + m.qlen * 2 ^ 32)

/-- `%stopat` (R344). -/
def Ctx.stopat (c : Ctx) : W64 :=
  w64 (c.stopatRc.toNat + c.stopatCore.toNat * 2 ^ 52 + c.stopatK.toNat * 2 ^ 60 + c.stopatEn.toNat * 2 ^ 63)

/-- `%trace` (R348). -/
def Ctx.traceWord (c : Ctx) : W64 :=
  w64 (c.traceCls.toNat + c.traceDesc.toNat * 2 ^ 6 + c.traceEn.toNat * 2 ^ 63)

/-- `%htgt` (R337). -/
def Ctx.htgt (c : Ctx) : W64 :=
  w64 (c.htgtCore.toNat + c.htgtK.toNat * 2 ^ 8 + c.htgtErr.toNat * 2 ^ 62 + c.htgtEn.toNat * 2 ^ 63)

/-- `%cause` (R334). -/
def Ctx.causeWord (c : Ctx) : W64 :=
  match c.cause with
  | none => 0
  | some (who, t) =>
    let w :=
      match who with
      | .host => 0
      | .stream core k => 2 ^ 32 + core * 2 ^ 16 + k.num * 2 ^ 8
      | .matrix core => 2 * 2 ^ 32 + core * 2 ^ 16
      | .engine h => 3 * 2 ^ 32 + h * 2 ^ 16
    w64 (t.code.code + w + t.detail % 2 ^ 8 * 2 ^ 40 + min c.causes 65535 * 2 ^ 48)

/-- `%faddr` (R334). -/
def Ctx.faddrWord (c : Ctx) : W64 :=
  match c.cause with
  | none => 0
  | some (_, t) => t.faddr

/-- The die of a core (R5). -/
def dieOf (core : Nat) : Nat := core / 96

/-- Cycles since the slice was bound, on the clock of the core's own cluster (`%cycle`). -/
def State.cycleReg (s : State) (core : Nat) : Nat :=
  match s.sliceOf core with
  | some v => s.cyclesOf core - tblGet 0 v.boundAt (clusterOf core)
  | none => 0

/-- The word of a predicate that `%pwsel` selects (R20). -/
def State.predWord (s : State) (core : Nat) (k : StreamId) : W64 :=
  let sel := (s.stream core k).pwsel
  (((s.core core).pred (BitVec.ofNat 3 (bits sel 5 3))) >>> (64 * bits sel 0 5)).setWidth 64

/-- A predicate with one of its 64-bit words replaced. -/
def setPredWord (p : BitVec 2048) (w : Nat) (v : W64) : BitVec 2048 :=
  BitVec.ofNat 2048 (setBits p.toNat (64 * w) 64 v.toNat)

/-- The value of a special register, of a core and a stream of it (R34 and the tables of the later chapters). `own` marks
a read by the stream itself, which sees its own writes (R36). -/
def State.readSr (s : State) (n core : Nat) (k : StreamId) (own : Bool) : W64 :=
  let c := if own then (s.core core).seenBy k else s.core core
  let st := c.stream k
  let x := s.ctx (s.ctxOf core)
  match n with
  | 0x000 => w64 k.num
  | 0x001 => w64 core
  | 0x002 => w64 (s.ctxOf core)
  | 0x003 => w64 x.part
  | 0x004 => st.rc
  | 0x005 => st.pc.setWidth 64
  | 0x006 => s.statusWord core k (if own then 1 else c.stateCode k)
  | 0x007 => st.tlim.setWidth 64
  | 0x008 => w64 c.tokqWord
  | 0x00A => st.pwsel.setWidth 64
  | 0x00B => s.predWord core k
  | 0x010 => s.deviceTime
  | 0x011 => w64 (if own then s.cycleReg core else st.cutCycles)
  | 0x012 => match s.sliceOf core with
    | some v => v.budget.setWidth 64
    | none => 0
  | 0x013 => (s.die (dieOf core)).seed
  | 0x014 => x.bgrant.setWidth 64
  | 0x015 => c.shdr.setWidth 64
  | 0x020 => 32
  | 0x021 => c.dom.setWidth 64
  | 0x022 => w64 c.dphs.toNat
  | 0x030 => c.amax
  | 0x031 => c.poolReg
  | 0x032 => c.srkey
  | 0x033 => c.srctr
  | 0x034 => c.vrkey
  | 0x035 => c.vrctr
  | 0x040 => x.causeWord
  | 0x041 => x.faddrWord
  | 0x043 => w64 (x.tinvDone.toNat + x.tinvBad.toNat * 2 ^ 32)
  | 0x044 => w64 (x.xscanReport.toNat + x.xscanStatus.toNat * 2 ^ 56)
  | 0x050 => st.lnpos
  | 0x060 => w64 x.brken.toNat
  | 0x061 => x.stopat
  | 0x062 => x.htgt
  | 0x070 => w64 (st.vshapeRows.toNat + st.vshapeCols.toNat * 2 ^ 16)
  | 0x071 => st.vsp
  | 0x080 => c.matrix.mstat
  | 0x081 => c.matrix.mlim.setWidth 64
  | 0x090 => w64 (st.lsxStride.toNat + st.lsxIreg.toNat * 2 ^ 48)
  | 0x091 => x.spillq.setWidth 64
  | 0x0A0 => st.hcsel.setWidth 64
  | 0x0A1 => w64 (tblGet 0 (c.stream (StreamId.ofNum (bits st.hcsel 8 2))).hc (bits st.hcsel 0 8))
  | 0x0A2 => x.traceWord
  | 0x0B0 => st.hatom.setWidth 64
  | _ => 0

/-! ### Requests -/

/-- The die's lottery state is set; a written 0 is stored as 1 (R300). -/
def State.writeSeed (s : State) (die : Nat) (v : W64) : State :=
  s.setDie die { s.die die with seed := if v = 0 then 1 else v }

/-- A stream of a slice's gang carries BUDGET_EXHAUSTED (R299). -/
def State.sliceExhausted (s : State) (v : Slice) : Bool :=
  v.cores.any fun c => allStreams.any fun k =>
    match (s.stream c k).trap with
    | some t => t.code == .budgetExhausted
    | none => false

/-- A grant of cycles to the bound slices of a context that exhausted their budget (R299). -/
def State.grantBudget (s : State) (x : Nat) (v : W64) : State :=
  let n := bits v 0 32
  let c := s.ctx x
  let s := s.setCtx x { c with bgrant := c.bgrant + BitVec.ofNat 32 n }
  { s with
    slices := tblMap s.slices fun sl =>
      if sl.ctx = x ∧ sl.handler = false ∧ s.sliceExhausted sl then
        { sl with budget := BitVec.ofNat 32 (min (sl.budget.toNat + n) (2 ^ 32 - 1)), ext := true }
      else sl }

/-- `%stopat` is written (R344). -/
def State.writeStopat (s : State) (x : Nat) (v : W64) : State :=
  s.setCtx x
    { s.ctx x with
      stopatEn := v.getLsbD 63, stopatK := v.extractLsb' 60 2, stopatCore := v.extractLsb' 52 8
      stopatRc := v.extractLsb' 0 52 }

/-- `%brken` is written (R107). -/
def State.writeBrken (s : State) (x : Nat) (v : W64) : State := s.setCtx x { s.ctx x with brken := v.getLsbD 0 }

/-- `%trace` is written (R348). -/
def State.writeTrace (s : State) (x : Nat) (v : W64) : State :=
  s.setCtx x
    { s.ctx x with traceEn := v.getLsbD 63, traceDesc := v.extractLsb' 6 50, traceCls := v.extractLsb' 0 6 }

/-- A write to `%tinv` starts an invalidation, or marks itself malformed (R324). -/
def State.startInval (s : State) (x : Nat) (v : W64) : State :=
  let c := s.ctx x
  let all := v.getLsbD 63
  let va := bits v 12 44 * 4096
  let code := bits v 0 4
  if (all && (decide (va ≠ 0) || decide (code ≠ 0))) || (!all && (decide (9 < code) || decide (va % pageSize code ≠ 0))) then
    s.setCtx x { c with tinvBad := true }
  else s.setCtx x { c with tinv := c.tinv ++ [{ all := all, va := va, len := pageSize code }] }

/-- A write to `%tinvf` (R324). -/
def State.writeTinvf (s : State) (x : Nat) (v : W64) : State :=
  s.setCtx x { s.ctx x with tinvBad := (s.ctx x).tinvBad && !v.getLsbD 32 }

/-- The first frame of a 4 KiB frame that the scanner rejects: its byte offset in the frame, the slot and the reason
(R60, R61). -/
def State.scanFrame4K (s : State) (p : Nat) (pa : Nat) (k : StreamId) : Option (Nat × Nat × Nat) :=
  (List.range 64).findSome? fun i =>
    let ws := (List.range 8).map fun j => s.homeRead (some p) (pa + 64 * i + 8 * j) 8
    match scanFrame k ws with
    | some (slot, r) => some (64 * i, slot, r.code)
    | none => none

/-- The next page of a scan request: it is translated, and its frame scanned against the tag of its entry; a failure ends the
request (R323). DESIGN CHOICE (log entry 35): a page whose bytes cannot be read, for uncorrectable data, ends the request as a page
that fails translation does. -/
def State.scanPage (s : State) (x : Nat) (r : ScanReq) : ScanReq :=
  if r.left = 0 ∨ r.status ≠ 0 ∨ r.changed ≠ none then r
  else
    let p := (s.ctx x).part
    let off := 4096 * r.frames.length
    let va := (r.va + off) % 2 ^ 56
    let ends (status report : Nat) : ScanReq := { r with left := 0, status := status, report := report }
    match s.translateOn (dieOf (s.part p).hcore.toNat) x va with
    | none => ends 2 (off + 7 * 2 ^ 32)
    | some e =>
      let pa := e.phys va
      if e.cls ≠ 0 ∨ !e.r ∨ !e.x ∨ (List.range 32).any fun i => s.homeBad (some p) (pa / 4096 * 32 + i) then ends 2 (off + 7 * 2 ^ 32)
      else
        match s.scanFrame4K p pa (StreamId.ofNum e.xs) with
        | some (o, slot, c) => ends 1 (off + o + slot * 2 ^ 32 + c * 2 ^ 40)
        | none => { r with left := r.left - 1, frames := r.frames ++ [(pa / 4096, e.xs)] }

/-- The pages of a scan request that are left, in order, at this instant. -/
def State.scanPages (s : State) (x : Nat) : Nat → ScanReq → ScanReq
  | 0, r => r
  | n + 1, r => s.scanPages x n (s.scanPage x r)

/-- A write to `%xscan` starts a scan request (R323). -/
def State.startScan (s : State) (x : Nat) (v : W64) : State :=
  let c := s.ctx x
  s.setCtx x { c with scans := c.scans ++ [{ va := bits v 12 44 * 4096, left := bits v 0 8 + 1 }] }

/-- `%htgt` is written (R337). -/
def State.writeHtgt (s : State) (x : Nat) (v : W64) : State :=
  let c := s.ctx x
  s.setCtx x
    { c with
      htgtEn := v.getLsbD 63, htgtErr := c.htgtErr && !v.getLsbD 62
      htgtK := v.extractLsb' 8 2, htgtCore := v.extractLsb' 0 8 }

/-! ### Writes -/

/-- Writes a special register of a core and a stream of it, field by field (R100). The registers whose write is a request
stand apart. -/
def State.writeSr (s : State) (n core : Nat) (k : StreamId) (v : W64) : State :=
  let c := s.core core
  let st := c.stream k
  let x := s.ctxOf core
  let stream (st : Stream) : State := s.setCore core (c.setStream k st)
  match n with
  | 0x006 => stream { st with flags := st.flags &&& ~~~ v.extractLsb' 0 6, rm := v.extractLsb' 7 3 }
  | 0x007 => stream { st with tlim := v.extractLsb' 0 32 }
  | 0x00A => stream { st with pwsel := v.extractLsb' 0 8 }
  | 0x00B =>
    let p : PReg := BitVec.ofNat 3 (bits st.pwsel 5 3)
    s.setCore core (c.setPred p (setPredWord (c.pred p) (bits st.pwsel 0 5) v))
  | 0x013 => s.writeSeed (dieOf core) v
  | 0x014 => s.grantBudget x v
  | 0x021 | 0x030 | 0x032 | 0x033 | 0x034 | 0x035 | 0x080 | 0x081 => s.setCore core (c.putSr n v)
  | 0x043 => s.writeTinvf x v
  | 0x050 => stream { st with lnpos := v }
  | 0x060 => s.writeBrken x v
  | 0x061 => s.writeStopat x v
  | 0x062 => s.writeHtgt x v
  | 0x070 => stream { st with vshapeRows := v.extractLsb' 0 12, vshapeCols := v.extractLsb' 16 12 }
  | 0x071 => stream { st with vsp := v &&& 0x30FFF0FFF }
  | 0x090 => stream { st with lsxStride := v.extractLsb' 0 32, lsxIreg := v.extractLsb' 48 9 }
  | 0x091 => s.setCtx x { s.ctx x with spillq := v.extractLsb' 0 32 }
  | 0x0A0 => stream { st with hcsel := v.extractLsb' 0 10 }
  | 0x0A2 => s.writeTrace x v
  | 0x0B0 => stream { st with hatom := st.hatom &&& ~~~ (v.extractLsb' 0 2 &&& 2) }
  | _ => s

/-! ### Privilege and redirection (R33, R337) -/

/-- The registers that only HANDLER may read, and those that only HANDLER may write (R34). -/
def srReadH (n : Nat) : Bool := [0x040, 0x041, 0x043, 0x044, 0x061, 0x062].contains n
def srWriteH (n : Nat) : Bool :=
  [0x013, 0x014, 0x021, 0x042, 0x043, 0x044, 0x050, 0x060, 0x061, 0x062, 0x091, 0x0A2].contains n

/-- The registers of stream scope and of core scope, which `%htgt` redirects (R337). -/
def srRedirected (n : Nat) : Bool :=
  [0x000, 0x001, 0x002, 0x003, 0x004, 0x005, 0x006, 0x007, 0x008, 0x00A, 0x00B, 0x011, 0x012, 0x015, 0x021, 0x022,
   0x030, 0x031, 0x032, 0x033, 0x034, 0x035, 0x050, 0x070, 0x071, 0x080, 0x081, 0x090, 0x0A0, 0x0A1, 0x0B0].contains n

/-- PRIV_VIOLATION with the opcode and the register number (R33, R335). -/
def privViolation (opcode n : Nat) : Trap := { code := .privViolation, faddr := w64 (opcode + n * 2 ^ 8) }

/-- Whose register an access of the executing stream reaches: its own, that of the target of `%htgt`, or none's. -/
def State.srTarget (s : State) (n : Nat) : Option (Nat × StreamId × Bool) :=
  let c := s.ctx s.curCtx
  if s.isHandler && c.htgtEn && srRedirected n then
    let t := c.htgtCore.toNat
    match s.sliceOf t with
    | some v => if v.ctx = s.curCtx ∧ v.handler = false then some (t, StreamId.ofNum c.htgtK.toNat, false) else none
    | none => none
  else some (s.curCore, s.curK, true)

/-- A redirected access found no target (R337). -/
def State.htgtMiss (s : State) : State := s.setCtx s.curCtx { s.ctx s.curCtx with htgtErr := true }

/-- Bits of a predicate register written lane by lane: the lanes of `mask` that the turn may take, and in later turns the
others (R22). -/
def opPredBits (p : PReg) (mask val : Nat) : Op Unit := fun s =>
  let i := s.st.noteIdx
  let key := s.noteKey 0
  let done := ((tblFind s.st.notes key).getD (.num 0)).value
  let may :=
    match s.chosen with
    | none => mask
    | some l => l.foldl (fun m j => if i ≤ j then m ||| (2 ^ (j - i) &&& mask) else m) 0
  let now := may - (may &&& done)
  let old := (s.cur.pred p).toNat
  let s := s.setCur (s.cur.setPred p (BitVec.ofNat 2048 (old - (old &&& now) + (val &&& now))))
  let s := s.note key (.num (done ||| now))
  if done ||| now = mask then .ok (s.setSt { s.st with noteIdx := i + 1 }) ()
  else .pause (if done ||| now = 0 then s else s.setFirm)

/-- What keeps an `mfs` from issuing: requests of the context that have not completed (R323, R324). -/
def mfsHold (sr : BitVec 12) (s : State) : Option (WaitKind × Nat) :=
  let c := s.ctx s.curCtx
  if s.isHandler && ((sr == 0x043 && c.tinv != []) || (sr == 0x044 && c.scans != [])) then some (.regWait, 0) else none

/-- `mfs` (R100, R101). -/
def effMfs (rd : Reg) (sr : BitVec 12) : Op Flow := fun s =>
  let n := sr.toNat
  if srReadH n && !s.isHandler then .trap s (privViolation 0x2A n)
  else
    match s.srTarget n with
    | none => .ok (s.htgtMiss.wx rd 0) .next
    | some (core, k, own) =>
      let v := s.readSr n core k own
      let s := if n = 0x040 then s.setCtx s.curCtx { s.ctx s.curCtx with causeRead := true } else s
      .ok (s.wx rd v) .next

/-- A write of a register of core scope by a stream of the core. The other streams see it at once, or, in a turn of
`Act.late`, later; the stream's earlier writes of the register come before it (R36, R226). -/
def State.lateWrite (s : State) (n : Nat) (v : W64) : State :=
  let k := s.curK
  let s := s.landOwn n
  if s.late then s.setCur { s.cur with pending := s.cur.pending ++ [.sr k n v] } else s.setCur (s.cur.putSr n v)

/-- A write of a special register by its own stream. -/
def State.writeOwnSr (s : State) (n : Nat) (v : W64) : State :=
  if isLateSr n then s.lateWrite n v else s.writeSr n s.curCore s.curK v

/-- `mts` (R100, R101, R323, R324). -/
def effMts (ra : Reg) (sr : BitVec 12) : Op Flow := fun s =>
  let n := sr.toNat
  let v := s.rx ra
  if srWriteH n && !s.isHandler then .trap s (privViolation 0x2B n)
  else if n = 0x042 then
    opBind (releaseFixed 31) (fun _ s => .ok (s.startInval s.curCtx v) .next) s
  else if n = 0x044 then .ok (s.startScan s.curCtx v) .next
  else
    match s.srTarget n with
    | none => .ok s.htgtMiss .next
    | some (core, k, own) =>
      if !own then .ok (s.writeSr n core k v) .next
      else if n = 0x00B then
        let w := 64 * bits s.st.pwsel 0 5
        opBind (opPredBits (BitVec.ofNat 3 (bits s.st.pwsel 5 3)) ((2 ^ 64 - 1) * 2 ^ w) (v.toNat * 2 ^ w))
          (fun _ => opPure .next) s
      else .ok (s.writeOwnSr n v) .next

end Sys2Proof.Machine
end

