-- ==== Sys2Proof/Machine/Scalar.lean ====
section
/-! DEFINITION. The scalar and control group (R89 to R110). -/

namespace Sys2Proof.Machine

/-! ### Shared operations -/

/-- A register-operand instruction: rd := f (x[ra], x[rb]) (R93). -/
def eff2 (f : W64 → W64 → W64) (rd ra rb : Reg) : Op Flow :=
  effect fun s => s.wx rd (f (s.rx ra) (s.rx rb))

/-- rd := f (x[ra]) (R93, R95). -/
def eff1 (f : W64 → W64) (rd ra : Reg) : Op Flow := effect fun s => s.wx rd (f (s.rx ra))

/-- The sign-extended immediate (R95). -/
def sext32 (imm : BitVec 32) : W64 := imm.signExtend 64

/-- The word of a condition. -/
def boolWord (b : Bool) : W64 := if b then 1 else 0

/-- High half of the signed and of the unsigned product (R93). -/
def mulHigh (a b : W64) : W64 := BitVec.ofInt 64 (a.toInt * b.toInt / 2 ^ 64)
def mulHighN (a b : W64) : W64 := w64 (a.toNat * b.toNat / 2 ^ 64)

/-- Quotients and remainders with the borderline cases of R94. -/
def divS (a b : W64) : W64 := if b = 0 then BitVec.allOnes 64 else BitVec.ofInt 64 (a.toInt.tdiv b.toInt)
def remS (a b : W64) : W64 := if b = 0 then a else BitVec.ofInt 64 (a.toInt.tmod b.toInt)
def divU (a b : W64) : W64 := if b = 0 then BitVec.allOnes 64 else w64 (a.toNat / b.toNat)
def remU (a b : W64) : W64 := if b = 0 then a else w64 (a.toNat % b.toNat)

/-- Bits [5:0] of a shift count (R93). -/
def shiftCount (b : W64) : Nat := bits b 0 6
def shiftL (a b : W64) : W64 := a <<< shiftCount b
def shiftR (a b : W64) : W64 := a >>> shiftCount b
def shiftA (a b : W64) : W64 := a.sshiftRight (shiftCount b)

/-- Zero bits above the highest one bit, and one bits (R93). -/
def leadingZeros (a : W64) : Nat := if a = 0 then 64 else 63 - Nat.log2 a.toNat
def popCount (a : W64) : Nat := ((List.range 64).filter fun i => a.getLsbD i).length

/-- The field of R96. -/
def fieldMask (w pos : Nat) : W64 := w64 ((2 ^ w - 1) * 2 ^ pos)
def extractField (signed : Bool) (a : W64) (w pos : Nat) : W64 :=
  let f := bits a pos w
  if signed && decide (2 ^ (w - 1) ≤ f) then BitVec.ofInt 64 ((f : Int) - 2 ^ w) else w64 f
def insertField (d a : W64) (w pos : Nat) : W64 :=
  (d &&& ~~~ fieldMask w pos) ||| ((a <<< pos) &&& fieldMask w pos)

/-! ### Transfers (R48, R97, R98) -/

/-- Where a B-format transfer goes, from the frame of its PC; an address that does not exist is kept as it is formed
modulo 2^64 (R48, R97). -/
def branchTarget (pc : PcWord) (disp : BitVec 27) (slot : BitVec 3) : Except W64 PcWord :=
  let frame : Int := (pc.toNat - pc.toNat % 64 : Nat)
  let t : Int := frame + disp.toInt * 64
  if t < 0 ∨ (lastFrame : Int) < t then .error (BitVec.ofInt 64 (t + slot.toNat))
  else .ok (BitVec.ofInt 56 (t + slot.toNat))

/-- Goes to a B-format target (R97). -/
def opTarget (disp : BitVec 27) (slot : BitVec 3) : Op PcWord := fun s =>
  match branchTarget s.st.pc disp slot with
  | .error a => .trap s { code := .badTarget, faddr := a }
  | .ok pc => if badTransfer pc then .trap s { code := .badTarget, faddr := w64 pc.toNat } else .ok s pc

/-- The next PC as a link, or the trap of R98. -/
def opLink : Op PcWord := fun s =>
  match s.nextPc with
  | some pc => .ok s pc
  | none => .trap s noNextPc

/-- The conditions of `bc` (R48). -/
def branchCond (cond : BitVec 3) (a b : W64) : Bool :=
  match cond.toNat with
  | 0 => a == b
  | 1 => a != b
  | 2 => decide (a.toInt < b.toInt)
  | 3 => decide (b.toInt ≤ a.toInt)
  | 4 => decide (a.toNat < b.toNat)
  | _ => decide (b.toNat ≤ a.toNat)

/-- A taken or untaken transfer. -/
def effBranch (taken : State → Bool) (disp : BitVec 27) (slot : BitVec 3) (f : State → State) : Op Flow := fun s =>
  if taken s then opBind (opTarget disp slot) (fun pc s => .ok (f s) (.jump pc)) s
  else .ok (f s) .next

/-- A call through a register or a displacement: the link is written after the target is read. -/
def effLink (target : Op PcWord) (rl : Reg) : Op Flow :=
  opBind opLink fun link => opBind target fun pc s => .ok (s.wx rl (link.setWidth 64)) (.jump pc)

/-- The target of `jr` (R97). -/
def opJumpTarget (ra : Reg) : Op PcWord := fun s =>
  let a := s.rx ra
  if 2 ^ 56 ≤ a.toNat then .trap s { code := .badTarget, faddr := a }
  else
    let pc := a.extractLsb' 0 56
    if badTransfer pc then .trap s { code := .badTarget, faddr := a } else .ok s pc

/-! ### Ends (R102, R103, R108) -/

/-- The base word's field (R115). -/
def poolField (w lo n : Nat) : Nat := w / 2 ^ lo % 2 ^ n

/-- The canonical layout of a valid base word, as roles by bank (R115). -/
def canonicalRole (w b : Nat) : Nat :=
  let vb := poolField w 0 4
  let t := poolField w 4 5
  let wy := poolField w 9 5
  let g := poolField w 14 7
  let sc := poolField w 21 7
  if b < vb ∨ b = 10 ∨ b = 11 then 1
  else if 64 ≤ b + t then 2
  else
    let i := if b < 10 then b - vb else b - 12 + (10 - vb)
    if i < wy then 3 else if i < wy + g then 4 else if i < wy + g + sc then 5 else 0

/-- The pool stands in its base layout (R103). -/
def Core.poolIsBase (c : Core) (base : Nat) : Bool :=
  (List.range 64).all fun b => tblGet 0 c.roles b == canonicalRole base b

/-- `yield` ends the stream's part of the slice; on the K stream of a handler slice the action is kill (R102, R103). -/
def effYield : Op Flow := fun s =>
  let base :=
    match s.sliceOf s.curCore with
    | some v => v.hdr.poolWord
    | none => 0
  if s.curK = .K ∧ !s.cur.poolIsBase base then .trap s { code := .poolNotBase, faddr := s.cur.poolReg, resumable := false }
  else
    opBind (releaseFixed 31)
      (fun _ s =>
        .ok (if s.isHandler then s.setCtx s.curCtx { s.ctx s.curCtx with action := some .kill } else s) .last) s

/-- `tret` ends its stream's part of the slice as R102 states, and records its action (R108). -/
def effTret (a : TretAction) : Op Flow := fun s =>
  if !s.isHandler then .trap s (privViolation 0x2F 0)
  else
    opBind (releaseFixed 31) (fun _ s => .ok (s.setCtx s.curCtx { s.ctx s.curCtx with action := some a }) .last) s

/-- The remaining budget (R104). -/
def State.budget (s : State) : BitVec 32 :=
  match s.sliceOf s.curCore with
  | some v => v.budget
  | none => 0

/-! ### Meanings -/

def execNop (h : Head) (s : State) := runHead h (effect id) s
def execAdd (h : Head) (rd ra rb : Reg) (s : State) := runHead h (eff2 (· + ·) rd ra rb) s
def execAddi (h : Head) (rd ra : Reg) (imm : BitVec 32) (s : State) := runHead h (eff1 (· + sext32 imm) rd ra) s
def execSub (h : Head) (rd ra rb : Reg) (s : State) := runHead h (eff2 (· - ·) rd ra rb) s
def execMul (h : Head) (rd ra rb : Reg) (s : State) := runHead h (eff2 (· * ·) rd ra rb) s
def execMulh (h : Head) (rd ra rb : Reg) (s : State) := runHead h (eff2 mulHigh rd ra rb) s
def execMulhn (h : Head) (rd ra rb : Reg) (s : State) := runHead h (eff2 mulHighN rd ra rb) s
def execDiv (h : Head) (rd ra rb : Reg) (s : State) := runHead h (eff2 divS rd ra rb) s
def execDivn (h : Head) (rd ra rb : Reg) (s : State) := runHead h (eff2 divU rd ra rb) s
def execRem (h : Head) (rd ra rb : Reg) (s : State) := runHead h (eff2 remS rd ra rb) s
def execRemn (h : Head) (rd ra rb : Reg) (s : State) := runHead h (eff2 remU rd ra rb) s
def execLand (h : Head) (rd ra rb : Reg) (s : State) := runHead h (eff2 (· &&& ·) rd ra rb) s
def execAndi (h : Head) (rd ra : Reg) (imm : BitVec 32) (s : State) := runHead h (eff1 (· &&& sext32 imm) rd ra) s
def execLor (h : Head) (rd ra rb : Reg) (s : State) := runHead h (eff2 (· ||| ·) rd ra rb) s
def execOri (h : Head) (rd ra : Reg) (imm : BitVec 32) (s : State) := runHead h (eff1 (· ||| sext32 imm) rd ra) s
def execLxor (h : Head) (rd ra rb : Reg) (s : State) := runHead h (eff2 (· ^^^ ·) rd ra rb) s
def execXori (h : Head) (rd ra : Reg) (imm : BitVec 32) (s : State) := runHead h (eff1 (· ^^^ sext32 imm) rd ra) s
def execShl (h : Head) (rd ra rb : Reg) (s : State) := runHead h (eff2 shiftL rd ra rb) s
def execShr (h : Head) (rd ra rb : Reg) (s : State) := runHead h (eff2 shiftR rd ra rb) s
def execSha (h : Head) (rd ra rb : Reg) (s : State) := runHead h (eff2 shiftA rd ra rb) s
def execShiL (h : Head) (rd ra : Reg) (n : BitVec 6) (s : State) := runHead h (eff1 (· <<< n.toNat) rd ra) s
def execShiR (h : Head) (rd ra : Reg) (n : BitVec 6) (s : State) := runHead h (eff1 (· >>> n.toNat) rd ra) s
def execShiA (h : Head) (rd ra : Reg) (n : BitVec 6) (s : State) := runHead h (eff1 (·.sshiftRight n.toNat) rd ra) s
def execMin (h : Head) (rd ra rb : Reg) (s : State) := runHead h (eff2 (fun a b => if a.toInt ≤ b.toInt then a else b) rd ra rb) s
def execMax (h : Head) (rd ra rb : Reg) (s : State) := runHead h (eff2 (fun a b => if a.toInt ≤ b.toInt then b else a) rd ra rb) s
def execMinn (h : Head) (rd ra rb : Reg) (s : State) := runHead h (eff2 (fun a b => if a.toNat ≤ b.toNat then a else b) rd ra rb) s
def execMaxn (h : Head) (rd ra rb : Reg) (s : State) := runHead h (eff2 (fun a b => if a.toNat ≤ b.toNat then b else a) rd ra rb) s
def execSeq (h : Head) (rd ra rb : Reg) (s : State) := runHead h (eff2 (fun a b => boolWord (a == b)) rd ra rb) s
def execSlt (h : Head) (rd ra rb : Reg) (s : State) := runHead h (eff2 (fun a b => boolWord (decide (a.toInt < b.toInt))) rd ra rb) s
def execSltn (h : Head) (rd ra rb : Reg) (s : State) := runHead h (eff2 (fun a b => boolWord (decide (a.toNat < b.toNat))) rd ra rb) s
def execLi (h : Head) (rd : Reg) (imm : BitVec 32) (s : State) := runHead h (effect fun s => s.wx rd (sext32 imm)) s
def execLih (h : Head) (rd ra : Reg) (imm : BitVec 32) (s : State) := runHead h (eff1 (fun a => imm ++ a.extractLsb' 0 32) rd ra) s
def execMadd (h : Head) (rd ra rb rc : Reg) (s : State) :=
  runHead h (effect fun s => s.wx rd (s.rx ra * s.rx rb + s.rx rc)) s
def execBfx (h : Head) (rd ra : Reg) (w : BitVec 7) (pos : BitVec 6) (s : State) :=
  runHead h (eff1 (fun a => extractField false a w.toNat pos.toNat) rd ra) s
def execBfxS (h : Head) (rd ra : Reg) (w : BitVec 7) (pos : BitVec 6) (s : State) :=
  runHead h (eff1 (fun a => extractField true a w.toNat pos.toNat) rd ra) s
def execBfi (h : Head) (rd ra : Reg) (w : BitVec 7) (pos : BitVec 6) (s : State) :=
  runHead h (effect fun s => s.wx rd (insertField (s.rx rd) (s.rx ra) w.toNat pos.toNat)) s
def execClz (h : Head) (rd ra : Reg) (s : State) := runHead h (eff1 (fun a => w64 (leadingZeros a)) rd ra) s
def execPopc (h : Head) (rd ra : Reg) (s : State) := runHead h (eff1 (fun a => w64 (popCount a)) rd ra) s
def execSel (h : Head) (rd ra rb rc : Reg) (s : State) :=
  runHead h (effect fun s => s.wx rd (if s.rx rc ≠ 0 then s.rx ra else s.rx rb)) s
def execHash (h : Head) (rd ra rb : Reg) (s : State) := runHead h (eff2 counterHash rd ra rb) s

/-- `b` (R98). -/
def execB (h : Head) (disp : BitVec 27) (slot : BitVec 3) (s : State) :=
  runBranch h (effBranch (fun _ => true) disp slot id) s

/-- `bc` (R98). -/
def execBc (h : Head) (ra rb : Reg) (cond : BitVec 3) (disp : BitVec 27) (slot : BitVec 3) (s : State) :=
  runBranch h (effBranch (fun s => branchCond cond (s.rx ra) (s.rx rb)) disp slot id) s

/-- `call` (R98). -/
def execCall (h : Head) (rl : Reg) (disp : BitVec 27) (slot : BitVec 3) (s : State) :=
  runBranch h (effLink (opTarget disp slot) rl) s

/-- `jr` (R98). -/
def execJr (h : Head) (rd ra : Reg) (s : State) := runBranch h (effLink (opJumpTarget ra) rd) s

/-- `loop` (R98). -/
def execLoop (h : Head) (rl : Reg) (disp : BitVec 27) (slot : BitVec 3) (s : State) :=
  runBranch h (effBranch (fun s => s.rx rl - 1 != 0) disp slot fun s => s.wx rl (s.rx rl - 1)) s

/-- `tok` (R99). -/
def execTok (h : Head) (n : BitVec 4) (s : State) := runTok h { n := n.toNat + 1 } (effect id) s

/-- `mfs` and `mts` (R100, R101). -/
def execMfs (h : Head) (rd : Reg) (sr : BitVec 12) (s : State) := 
  runForm h { now := true } (mfsHold sr) (opPure ()) (fun _ => effMfs rd sr) s
def execMts (h : Head) (ra : Reg) (sr : BitVec 12) (s : State) := runHead h (effMts ra sr) s

/-- `yield` (R102, R103). -/
def execYieldI (h : Head) (s : State) := runHead h effYield s

/-- `budg` (R104). -/
def execBudgGet (h : Head) (rd : Reg) (s : State) := runNow h (effect fun s => s.wx rd (s.budget.setWidth 64)) s
def execBudgChk (h : Head) (rd : Reg) (imm : BitVec 32) (s : State) :=
  runNow h
    (fun s =>
      if s.budget.toNat < imm.toNat then .trap s { code := .budgetExhausted, faddr := imm.setWidth 64 }
      else .ok (s.wx rd (s.budget.setWidth 64)) .next) s

/-- `trap`, `halt` and `brk` (R106). -/
def execTrapI (h : Head) (imm : BitVec 32) (s : State) :=
  runHead h (opTrap { code := .softTrap, faddr := imm.setWidth 64 }) s
def execHaltI (h : Head) (ra : Reg) (s : State) :=
  runHead h (fun s => .trap s { code := .halt, faddr := s.rx ra, resumable := false }) s
def execBrk (h : Head) (imm : BitVec 32) (s : State) :=
  runNow h
    (fun s =>
      if (s.ctx s.curCtx).brken then .trap s { code := .breakpoint, faddr := imm.setWidth 64 } else .ok s .next) s

/-- `tret` (R108). -/
def execTretResume (h : Head) (s : State) := runHead h (effTret .resume) s
def execTretSkip (h : Head) (s : State) := runHead h (effTret .skip) s
def execTretRestart (h : Head) (s : State) := runHead h (effTret .restart) s
def execTretKill (h : Head) (s : State) := runHead h (effTret .kill) s

/-- `idle.cyc`: n cycles after its issue (R109). -/
def execIdleCyc (h : Head) (imm : BitVec 32) (s : State) :=
  runHead h
    (fun s => if s.st.issuedAt + imm.toNat ≤ s.cyc then .ok s .next else .wait s (.idleCyc imm.toNat) 0) s

/-- `idle.until`: device time at or after x[ra] + n modulo 2^64 (R109). -/
def execIdleUntil (h : Head) (ra : Reg) (imm : BitVec 32) (s : State) :=
  runHead h
    (fun s =>
      let t := (s.rx ra + imm.setWidth 64).toNat
      if t ≤ s.deviceTime.toNat then .ok s .next else .wait s (.idleUntil t) 0) s

end Sys2Proof.Machine
end

