-- ==== Sys2Proof/Machine/Sems.lean ====
section
/-! DEFINITION. Semaphores of a core and the instructions that act on them (R216, R217). -/

namespace Sys2Proof.Machine

/-- The rank of waits that begin in one cycle (R216, R244): streams in the order L, X, S, K, by core, then the engine. -/
def SemWaiter.rank : SemWaiter → Nat
  | .stream core k => core % 4 * 4 + k.num
  | .matrix _ => 16

/-- Joins the waiters, in the order in which waits began (R216). -/
def Sem.join (v : Sem) (w : SemWaiter) (now : Nat) : Sem :=
  if v.hasWaiter w then v
  else
    let before (e : SemWaiter × Nat) : Bool := decide (e.2 < now) || (e.2 == now && decide (e.1.rank ≤ w.rank))
    { v with waiters := v.waiters.takeWhile before ++ (w, now) :: v.waiters.dropWhile before }

/-- A take by an agent that waits: it succeeds when the agent is the first waiter and the value suffices (R216). -/
def Sem.take (v : Sem) (w : SemWaiter) (k now : Nat) : Sem × Bool :=
  let v := v.join w now
  match v.waiters with
  | (w', _) :: rest =>
    if w' = w ∧ k ≤ v.value.toNat then ({ value := v.value - BitVec.ofNat 16 k, waiters := rest }, true) else (v, false)
  | [] => (v, false)

/-- `semw.try`: the value after it and the result (R216). -/
def Sem.try' (v : Sem) (k : Nat) : Sem × W64 :=
  if k = 0 then (v, v.value.setWidth 64)
  else if v.waiters = [] ∧ k ≤ v.value.toNat then ({ v with value := v.value - BitVec.ofNat 16 k }, v.value.setWidth 64)
  else (v, BitVec.allOnes 64)

/-- A signal; `none` where the value would overflow (R216). -/
def Sem.signal (v : Sem) (k : Nat) : Option Sem :=
  if 0xFFFF < v.value.toNat + k then none else some { v with value := v.value + BitVec.ofNat 16 k }

/-- SEM_OVERFLOW with the semaphore, its value and k (R335). -/
def semOverflow (n : Nat) (v : Sem) (k : Nat) : Trap :=
  { code := .semOverflow, faddr := w64 (n + v.value.toNat * 2 ^ 16 + k * 2 ^ 32) }

/-- The operations on a semaphore reached by a read and a write of the state: `get`, `set`, its number in a trap record,
and its kind of wait. -/
def effSemWait (get : State → Sem) (set : State → Sem → State) (wait : WaitKind) (rd : Reg) (limit k : Nat) : Op Flow :=
  fun s =>
    let old := get s
    let (v, ok) := old.take (.stream s.curCore s.curK) k s.cyc
    let s := set s v
    if ok then .ok (s.wx rd (old.value.setWidth 64)) .next else .wait s wait (limit * 4096)

def effSemTry (get : State → Sem) (set : State → Sem → State) (rd : Reg) (k : Nat) : Op Flow := fun s =>
  let (v, r) := (get s).try' k
  .ok ((set s v).wx rd r) .next

/-- A signal orders what its stream has written before it (R36, R217). -/
def effSemSignal (get : State → Sem) (set : State → Sem → State) (num : Nat) (rd : Reg) (k : Nat) : Op Flow := fun s =>
  match (get s).signal k with
  | none => .trap s (semOverflow num (get s) k)
  | some v => .ok ((set (s.landSr s.curCore s.curK) v).wx rd (v.value.setWidth 64)) .next

def effSemInit (get : State → Sem) (set : State → Sem → State) (rd ra : Reg) : Op Flow := fun s =>
  let a := s.rx ra
  let old := get s
  if 0xFFFF < a.toNat then .trap s (memParam 3 a.toNat)
  else .ok ((set (s.landSr s.curCore s.curK) { old with value := a.setWidth 16 }).wx rd (old.value.setWidth 64)) .next

/-- A semaphore of the executing core. -/
def getSem (n : Nat) (s : State) : Sem := s.cur.sem n
def putSem (n : Nat) (s : State) (v : Sem) : State := s.setCur (s.cur.setSem n v)

/-- `semi` (R216). -/
def execSemi (h : Head) (rd ra : Reg) (sem : BitVec 6) (s : State) :=
  runHead h (effSemInit (getSem sem.toNat) (putSem sem.toNat) rd ra) s

/-- `semw` (R216). -/
def execSemw (h : Head) (rd : Reg) (limit : BitVec 12) (k sem : BitVec 6) (s : State) :=
  runHead h (effSemWait (getSem sem.toNat) (putSem sem.toNat) (.sem sem.toNat k.toNat) rd limit.toNat k.toNat) s

/-- `semw.try` (R216). -/
def execSemwTry (h : Head) (rd : Reg) (k sem : BitVec 6) (s : State) :=
  runHead h (effSemTry (getSem sem.toNat) (putSem sem.toNat) rd k.toNat) s

/-- `sems` (R216). -/
def execSems (h : Head) (rd : Reg) (k sem : BitVec 6) (s : State) :=
  runHead h (effSemSignal (getSem sem.toNat) (putSem sem.toNat) sem.toNat rd k.toNat) s

end Sys2Proof.Machine
end

