-- ==== Sys2Proof/Machine/Cluster.lean ====
section
/-! DEFINITION. The cluster front-end instructions and events: detachment, joins, barriers, broadcasts, domains and
cluster semaphores (R227 to R245). -/

namespace Sys2Proof.Machine

/-! ### Heads of other streams -/

/-- The instruction at the head of the executing stream, where its frame is in the queue. -/
def State.headInstr (s : State) : Option Instr :=
  match s.st.iq with
  | f :: _ => match frameInstr f.words (s.st.pc.toNat % 8) with
    | .ok i => some i
    | .error _ => none
  | [] => none

/-- The head of an instruction in a packet of the executing stream's queue. -/
def State.headFields (s : State) : Head :=
  match s.st.iq with
  | f :: _ => headOf (f.words.getD (s.st.pc.toNat % 8 + 1) 0)
  | [] => ⟨0, 0⟩

/-- A waiting head of another stream completes: its effect, and its retirement at its next PC. -/
def State.completeHead (s : State) (core : Nat) (k : StreamId) (f : State → State) : State :=
  let o := { s with curCore := core, curK := k }
  let r :=
    match o.nextPc with
    | some pc => (f o).traceWait.retire o.headFields 1 pc false
    | none => o.trapCur noNextPc
  { r with curCore := s.curCore, curK := s.curK }

/-! ### Detachment (R230, R232) -/

def execDetach (h : Head) (s : State) := runHead h (effect fun s => s.detach s.curCore s.curK false) s

/-- DRIFT_RELEASE: once the drift bound of a group has withheld frames from a member for 4,096 cycles, and still does, its
slowest members detach (R230). -/
def execDriftRelease (s : State) : Host.Outcome State Fault Refusal :=
  let i := s.ev.cluster
  let now := (s.cluster i).cycles
  let due (g : FetchGroup) : Bool :=
    g.kind == s.ev.k && (s.groupMembers i g).any fun m =>
      let st := (s.core m).stream g.kind
      s.withheld i g st &&
        (match st.stalled with
         | some t => decide (4096 ≤ now - t)
         | none => false)
  match (s.cluster i).groups.find? due with
  | none => .next s
  | some g =>
    let low := s.leastConsumed i g
    let slow := (s.groupMembers i g).filter fun c => ((s.core c).stream g.kind).consumedCount == low
    .next ((slow.foldl (fun s c => s.detachOne c g.kind true) s).traceDetach slow g.kind true)

/-! ### Joins (R233 to R236) -/

/-- An entry is the one of a slice, a stream kind and an identifier. -/
def JoinEntry.is (e : JoinEntry) (slice : Nat) (k : StreamId) (id : Nat) : Bool :=
  e.slice == slice && e.kind == k && e.id == id

/-- The entry of the executing stream. -/
def State.joinEntry (s : State) (id : Nat) : Option JoinEntry :=
  (s.cluster (clusterOf s.curCore)).joins.find? fun e => e.is (s.cur.slice.getD 0) s.curK id

/-- An entry changed in its place. -/
def State.setJoin (s : State) (i : Nat) (e : JoinEntry) : State :=
  let c := s.cluster i
  s.setCluster i { c with joins := c.joins.map fun d => if d.is e.slice e.kind e.id then e else d }

/-- The cores of a position mask of a cluster, ascending. -/
def positionCores (i : Nat) (m : BitVec 4) : List Nat :=
  ((List.range 4).filter fun p => m.getLsbD p).map fun p => 4 * i + p

/-- `join.open` (R234). -/
def effJoinOpen (rd : Reg) (id : Nat) : Op Flow :=
  effect fun s =>
    let i := clusterOf s.curCore
    let c := s.cluster i
    match s.joinEntry id with
    | some _ => s.wx rd 0
    | none =>
      if 8 ≤ c.joins.length then s.wx rd 1
      else
        let expected :=
          match s.fetchGroup s.curCore s.curK with
          | some g => positionMask (s.groupMembers i g)
          | none => positionMask [s.curCore]
        let e : JoinEntry :=
          { slice := s.cur.slice.getD 0, kind := s.curK, id := id, expected := expected, arrived := 0, expiry := none }
        (s.setCluster i { c with joins := c.joins ++ [e] }).wx rd 0

def execJoinOpen (h : Head) (rd : Reg) (id : BitVec 8) (s : State) := runHead h (effJoinOpen rd id.toNat) s

/-- The next PC of a stream's head. -/
def State.nextPcOf (s : State) (core : Nat) (k : StreamId) : Option PcWord :=
  ({ s with curCore := core, curK := k }).nextPc

/-- A stream that retires its join enters the new fetch group; where its next PC is not the group's, it detaches at once
(R235). -/
def State.attachAt (group : Nat) (path : Option PcWord) (s : State) : State :=
  let s := s.setSt
    { s.st with iq := s.st.iq.take 1, consumed := 0, transfers := 0, stalled := none, group := group, attached := true }
  if s.nextPc = path then s else s.detach s.curCore s.curK false

/-- A completed entry: it is freed, the members that wait retire their joins, and all of them form one fetch group at the
next PC of the one of lowest position. -/
def State.completeJoin (s : State) (e : JoinEntry) (members : List Nat) : State :=
  let i := clusterOf s.curCore
  let path := match members with
    | c :: _ => s.nextPcOf c e.kind
    | [] => none
  let c := s.cluster i
  let g : FetchGroup := { id := c.nextGroup, slice := e.slice, kind := e.kind }
  let s := s.setCluster i
    { c with joins := c.joins.filter fun d => !d.is e.slice e.kind e.id, groups := c.groups ++ [g], nextGroup := c.nextGroup + 1 }
  let s := s.traceRec s.curCtx (traceKey 4 i 0) 4 0x31 (e.arrived.toNat + e.kind.num * 2 ^ 4 + e.id * 2 ^ 8)
  let s := (members.filter fun m => m != s.curCore).foldl (fun s m => s.completeHead m e.kind (State.attachAt g.id path)) s
  s.attachAt g.id path

/-- JOIN_EXPIRED of an entry (R235). -/
def joinExpired (e : JoinEntry) : Trap :=
  { code := .joinExpired, faddr := w64 (e.id + e.arrived.toNat * 2 ^ 8 + (e.expected &&& ~~~ e.arrived).toNat * 2 ^ 12) }

/-- `join` (R235): it arrives and waits; the arrival that completes the entry ends the waits of all; at the expiry the waiting
stream of the lowest position traps, and the entry is kept. After an expiry, the first arrival of a member that had arrived before sets it afresh (R236). A member that has trapped at the join, or whose context has stopped there, has arrived, and the others wait for
it to issue its join again. -/
def effJoin (id limit : Nat) : Op Flow := fun s =>
  let i := clusterOf s.curCore
  let bit := positionMask [s.curCore]
  let unknown (reason : Nat) : Res Flow := .trap s { code := .joinUnknown, faddr := w64 (id + reason * 2 ^ 8) }
  match s.joinEntry id with
  | none => unknown 0
  | some e =>
    if e.expected &&& bit = 0 then unknown 1
    else
      let arrives := !s.st.arrived (.join id)
      let again := arrives && (e.arrived &&& bit != 0) && e.expiry.isNone
      let expiry := if e.arrived = 0 ∨ again then some (s.cyc + limit * 256) else e.expiry
      let e := { e with arrived := e.arrived ||| bit, expiry := expiry }
      let st (c : Nat) : Stream := (s.core c).stream s.curK
      let waiting (c : Nat) : Bool := c == s.curCore || (st c).arrived (.join id)
      let members := positionCores i e.expected
      let here := members.filter waiting
      let came (c : Nat) : Bool := (st c).rejoin == some id || ((st c).wait.any fun w => w.kind == .join id)
      let back := members.any fun c => came c && !waiting c
      let s := s.setJoin i e
      if e.arrived = e.expected ∧ back = false then .ok (s.completeJoin e here) .next
      else if e.arrived ≠ e.expected ∧ (e.expiry.any fun t => decide (t ≤ s.cyc)) ∧ here.head? = some s.curCore then
        .trap (s.setJoin i { e with expiry := none }) (joinExpired e)
      else .wait s (.join id) 0

def execJoin (h : Head) (limit : BitVec 16) (id : BitVec 8) (s : State) := runHead h (effJoin id.toNat limit.toNat) s

/-- JOIN_EXPIRED: an entry of the cluster has expired (R235). -/
def execJoinExpired (s : State) : Host.Outcome State Fault Refusal :=
  let i := s.ev.cluster
  let c := s.cluster i
  let due (e : JoinEntry) : Bool :=
    e.kind == s.ev.k && e.id == s.ev.n && e.arrived != e.expected &&
      (match e.expiry with
       | some t => decide (t ≤ c.cycles)
       | none => false)
  match c.joins.find? due with
  | none => .next s
  | some e =>
    let here := (positionCores i e.expected).filter fun m =>
      (s.core m).slice == some e.slice && ((s.core m).stream e.kind).arrived (.join e.id)
    match here with
    | [] => .next s
    | m :: _ => .next ((s.setJoin i { e with expiry := none }).raiseTrap m e.kind (joinExpired e))

/-! ### Domains (R239 to R241) -/

/-- DOM_PARAM (R335). -/
def domParam (v : W64) (detail : Nat) : Trap := { code := .domParam, faddr := v, detail := detail }

/-- The values of `%dom` are consistent, or DOM_PARAM (R239). -/
def opDomain (detail : Nat) : Op Unit := fun s =>
  if s.ownCore.domOk s.gang.length then .ok s () else .trap s (domParam (s.ownCore.dom.setWidth 64) detail)

/-- The value that `dinfo` writes (R240). DESIGN CHOICE (log entry 47): after a HANDLER write that leaves rank 0 of the domain to no
core, the core number of its member of rank 0 is a free value. -/
def State.dinfo (s : State) (level which : Nat) : W64 :=
  let n := s.ownCore.domN level
  let r := s.ownCore.domR3
  match which with
  | 0 => w64 (r / n)
  | 1 => w64 n
  | 2 => w64 (r % n)
  | _ => match s.atRank level 0 with
    | some m => w64 m
    | none => Config.freeWord s.free

def execDinfo (h : Head) (rd : Reg) (level : BitVec 4) (which : BitVec 2) (s : State) :=
  runHead h
    (opBind (opDomain level.toNat) fun _ s =>
      .ok { s.wx rd (s.dinfo level.toNat which.toNat) with
        free := if which = 3 ∧ s.atRank level.toNat 0 = none then s.free + 1 else s.free } .next) s

/-- `dphase` (R241). -/
def effPhase (v : Bool) : Op Flow :=
  effect fun s =>
    (s.lateWrite 0x022 (boolWord v)).traceRec s.curCtx (traceKey 0 s.curCore s.curK.num) 4 0x32 v.toNat

def execDphaseComp (h : Head) (s : State) := runHead h (effPhase false) s
def execDphaseComm (h : Head) (s : State) := runHead h (effPhase true) s

/-! ### Barriers (R242) -/

/-- The acquire of a stream's captured scope entry. -/
def State.acquireCaptured (s : State) : State :=
  match s.st.captScope with
  | some (n, _) => s.acquireScope n (s.scopeEntry s.curCtx n s.curCore)
  | none => s

/-- On arrival: the release, and the mask and the phase that the barrier compares. -/
def opArrive (n : Nat) (e : ScopeEntry) (smask : Nat) : Op Unit := fun s =>
  if s.st.capt.isSome then .ok s ()
  else
    opBind (releasePart n e)
      (fun _ => opMod fun s => s.setSt { s.st with capt := some (smask + (s.cur.seenBy s.curK).dphs.toNat * 16) }) s

/-- The mask that a stream brought to its barrier. -/
def Stream.smask (st : Stream) : Nat := st.capt.getD 0 % 16

/-- The streams that a barrier pairs, from the mask of one arrival on: those that a paired arrival names, at the same level and
with the same number (R242). `fuel` bounds the streams. -/
def State.pairedMask (s : State) (level n : Nat) (members : List Nat) : Nat → Nat → Nat
  | 0, p => p
  | fuel + 1, p =>
    let more := (members.flatMap fun m => allStreams.map fun k => (s.core m).stream k).filter fun st =>
      st.arrivedAt (.dsync level) level n && (st.smask &&& p) != 0
    s.pairedMask level n members fuel (more.foldl (fun q st => q ||| st.smask) p)

/-- `dsync`, its entry captured at its issue: the last arrival checks the masks and phases of the paired arrivals and completes
the barrier for all. -/
def effDsync (scope level limit smask : Nat) (e : ScopeEntry) : Op Flow :=
  opBind (opDomain level) fun _ => opBind (opArrive scope e smask) fun _ => fun s =>
    let members := s.domMembers level
    let n := tblGet 0 s.st.pairs level
    let want := members.flatMap fun m => (streamsOf (s.pairedMask level n members 4 smask)).map fun k => (m, k)
    let others := want.filter fun e => !(e.1 == s.curCore && e.2 == s.curK)
    let capt (e : Nat × StreamId) : Nat := (s.stream e.1 e.2).capt.getD 0
    let inComm (m : Nat) : Bool := want.any fun e => e.1 == m && capt e / 16 % 2 == 1
    if !others.all fun e => (s.stream e.1 e.2).arrivedAt (.dsync level) level n then .wait s (.dsync level) (limit * 256)
    else if others.any fun e => capt e % 16 != smask then .trap s (domParam (w64 smask) level)
    else if !(want.all fun e => capt e / 16 % 2 == capt (s.curCore, s.curK) / 16 % 2) then
      .trap s { code := .domPhase, faddr := w64 (s.rankMask level inComm), detail := level }
    else
      let s := others.foldl (fun s e => s.completeHead e.1 e.2 State.acquireCaptured) s
      .ok s.acquireCaptured .next

def execDsync (h : Head) (scope : BitVec 5) (level : BitVec 4) (limit : BitVec 16) (smask : BitVec 4) (s : State) :=
  runForm h { kind := .pair level.toNat } noHold (captureScope scope.toNat)
    (effDsync scope.toNat level.toNat limit.toNat smask.toNat) s

/-! ### Broadcast (R243) -/

/-- The destination of a waiting `cbcast`. -/
def State.cbcastDest (s : State) : Reg :=
  match s.headInstr with
  | some (.cbcast _ rd _ _ _) => rd
  | _ => 0

/-- `cbcast`: each member brings its value and the rank it names; the last arrival of one number writes every member's
result. DESIGN CHOICE (log entry 45): its DOM_PARAM records level 4, as its DOM_EXPIRED does (R245). DESIGN CHOICE (log entry 47): the
`x[ra]` of a rank that a HANDLER write has left to no core is a free value. -/
def effCbcast (rd ra : Reg) (limit src : Nat) : Op Flow :=
  opBind (opDomain 4) fun _ => fun s =>
    let members := s.domMembers 1
    if s.ownCore.domN 1 ≤ src then .trap s (domParam (w64 src) 4)
    else
      let mine := s.st.capt.getD ((s.rx ra).toNat + src * 2 ^ 64)
      let n := tblGet 0 s.st.pairs 4
      let s := s.setSt { s.st with capt := some mine }
      let others := members.filter fun m => m != s.curCore
      let capt (m : Nat) : Nat := (s.stream m s.curK).capt.getD 0
      if !others.all fun m => (s.stream m s.curK).arrivedAt .cbcast 4 n then .wait s .cbcast (limit * 256)
      else if others.any fun m => capt m / 2 ^ 64 != src then .trap s (domParam (w64 src) 4)
      else
        let v := match s.atRank 1 src with
          | some m => w64 (capt m)
          | none => Config.freeWord s.free
        let s := if s.atRank 1 src = none then { s with free := s.free + 1 } else s
        let s := others.foldl (fun s m => s.completeHead m s.curK fun s => s.wx s.cbcastDest v) s
        .ok (s.wx rd v) .next

def execCbcast (h : Head) (rd ra : Reg) (limit : BitVec 16) (src : BitVec 2) (s : State) :=
  runTok h { kind := .pair 4 } (effCbcast rd ra limit.toNat src.toNat) s

/-! ### Cluster semaphores (R244) -/

/-- A semaphore of the executing core's cluster. -/
def getXsem (n : Nat) (s : State) : Sem := (s.cluster (clusterOf s.curCore)).xsem n
def putXsem (n : Nat) (s : State) (v : Sem) : State :=
  s.setCluster (clusterOf s.curCore) ((s.cluster (clusterOf s.curCore)).setXsem n v)

/-- The owning core must be bound to the issuing core's slice. -/
def opXsem (n : Nat) : Op Unit := fun s =>
  let owner := clusterOf s.curCore * 4 + n / 4
  if (s.core owner).slice = s.cur.slice then .ok s () else .trap s (domParam (w64 n) (0x80 + n))

/-- What follows a take: an acquire with entry 1. -/
def acquired (eff : Op Flow) : Op Flow := opBind eff fun fl => opBind (acquireFixed 1) fun _ => opPure fl

def execXsemI (h : Head) (rd ra : Reg) (sem : BitVec 4) (s : State) :=
  runHead h (opBind (opXsem sem.toNat) fun _ => effSemInit (getXsem sem.toNat) (putXsem sem.toNat) rd ra) s

def execXsemW (h : Head) (rd : Reg) (limit : BitVec 12) (k : BitVec 6) (sem : BitVec 4) (s : State) :=
  let n := sem.toNat
  runHead h
    (opBind (opXsem n) fun _ =>
      acquired (effSemWait (getXsem n) (putXsem n) (.xsem n k.toNat) rd limit.toNat k.toNat)) s

def execXsemTry (h : Head) (rd : Reg) (k : BitVec 6) (sem : BitVec 4) (s : State) :=
  let n := sem.toNat
  runHead h
    (opBind (opXsem n) fun _ s =>
      let took := k != 0 && (getXsem n s).waiters.isEmpty && decide (k.toNat ≤ (getXsem n s).value.toNat)
      let eff := effSemTry (getXsem n) (putXsem n) rd k.toNat
      (if took then acquired eff else eff) s) s

def execXsemS (h : Head) (rd : Reg) (k : BitVec 6) (sem : BitVec 4) (s : State) :=
  let n := sem.toNat
  runHead h
    (opBind (opXsem n) fun _ => opBind (releaseFixed 1) fun _ =>
      effSemSignal (getXsem n) (putXsem n) (64 + n) rd k.toNat) s

/-! ### Expired waits of streams (R27, R210, R216, R219, R221, R242) -/

/-- A wait of a stream of one of some kinds goes on and has passed its limit: the stream traps (R27). -/
def State.expireWait (s : State) (core : Nat) (k : StreamId) (kinds : WaitKind → Bool) : State :=
  match (s.core core).waiting k with
  | some w =>
    if kinds w.kind && s.expired core w && (s.stream core k).trap.isNone && !(s.stream core k).stopped then
      s.raiseTrap core k (s.expiryTrap core k w.kind)
    else s
  | none => s

def execTokenWaitExpired (s : State) : Host.Outcome State Fault Refusal :=
  .next (s.expireWait s.ev.core s.ev.k WaitKind.isToken)

def execSemWaitExpired (s : State) : Host.Outcome State Fault Refusal :=
  .next (s.expireWait s.ev.core s.ev.k fun w => match w with
    | .sem _ _ | .xsem _ _ => true
    | _ => false)

def execMarkWaitExpired (s : State) : Host.Outcome State Fault Refusal :=
  .next (s.expireWait s.ev.core s.ev.k fun w => match w with
    | .mark _ => true
    | _ => false)

def execEngineWaitExpired (s : State) : Host.Outcome State Fault Refusal :=
  .next (s.expireWait s.ev.core s.ev.k fun w => w.state == 7)

def execDomExpired (s : State) : Host.Outcome State Fault Refusal :=
  .next (s.expireWait s.ev.core s.ev.k fun w => match w with
    | .dsync _ | .cbcast => true
    | _ => false)

end Sys2Proof.Machine
end

