-- ==== Sys2Proof/Machine/Bind.lean ====
section
/-! DEFINITION. Binding a slice to its cores (R18, R116, R227, R239, R307), and what the passing of time does. -/

namespace Sys2Proof.Machine

/-- The domain sizes of a gang (R239). -/
def gangDomains (n : Nat) : Nat × Nat :=
  match n with
  | 1 => (1, 1)
  | 2 => (2, 2)
  | 4 => (4, 4)
  | 8 => (4, 8)
  | _ => (4, 16)

/-- `%dom` of the core of rank `r` in a gang of `n` (R239). -/
def gangDom (n r : Nat) : BitVec 32 :=
  let (n1, n2) := gangDomains n
  BitVec.ofNat 32 (n1 + n2 * 2 ^ 8 + n * 2 ^ 16 + r * 2 ^ 24)

/-- A stream as its first fetch finds it (R18). -/
def boundStream (pc arg cycles group : Nat) : Stream :=
  { mode := .run, pc := BitVec.ofNat 56 pc, x := tblPut 0 [] 1 (w64 arg), headSince := cycles, group := group }

/-- Pool roles of a base word (R115). -/
def canonicalRoles (w : Nat) : Tbl Nat :=
  ((List.range 64).map fun b => (b, canonicalRole w b)).filter fun e => decide (e.2 ≠ 0)

/-- A core set up for a slice (R18, R19, R28, R116, R205, R216, R307). The rows of its banks that have been retired, failed
banks, its translations, its touch windows and the counts of its posted writes stay. -/
def boundCore (old : Core) (n : Nat) (h : Header) (gang rank cycles group : Nat) : Core :=
  let pc (k : StreamId) : Nat := (h.code + h.entry k) % 2 ^ 56
  let st (k : StreamId) : Stream := boundStream (pc k) h.arg cycles (group + k.num)
  { l := st .L, xs := st .X, s := st .S, k := st .K
    slice := some n
    roles := canonicalRoles h.poolWord
    vlive := BitVec.ofNat 9 (32 * poolField h.poolWord 0 4)
    retired := old.retired, failed := old.failed, tlb := old.tlb, windows := old.windows
    hostSent := old.hostSent, hostFlushed := old.hostFlushed, peerSent := old.peerSent, peerFlushed := old.peerFlushed
    dom := gangDom gang rank
    shdr := BitVec.ofNat 56 h.addr }

/-- Binds a slice to its cores, as slice `nextSlice` (R307). -/
def State.bindSlice (s : State) (v : Slice) : State :=
  let n := s.nextSlice
  let clusters := (v.cores.map clusterOf).dedup
  let v := { v with boundAt := clusters.foldl (fun t i => tblSet t i (s.cluster i).cycles) [] }
  let s := { s.setSlice n v with nextSlice := n + 1 }
  let open' (s : State) (i : Nat) : State :=
    let c := s.cluster i
    let groups := allStreams.map fun k => ({ id := c.nextGroup + k.num, slice := n, kind := k } : FetchGroup)
    s.setCluster i { c with groups := c.groups ++ groups, nextGroup := c.nextGroup + 4 }
  let bind (s : State) (e : Nat × Nat) : State :=
    let (core, rank) := e
    let i := clusterOf core
    let cl := s.cluster i
    let own := (List.range 4).map fun j => 4 * (core % 4) + j
    let cl := { cl with xsems := cl.xsems.filter fun e => !own.contains e.1 }
    let s := s.setCluster i cl
    s.setCore core (boundCore (s.core core) n v.hdr v.cores.length rank cl.cycles (cl.nextGroup - 4))
  (v.cores.zipIdx).foldl bind (clusters.foldl open' s)

/-! ### Time (R4, R308, R346, R368) -/

/-- Cycles of a cluster's clock in `ns` ns, counting from a device time, and the fraction left over in units of 1/2000. -/
def State.clusterRun (s : State) (i ns : Nat) : Nat × Nat :=
  let c := s.cluster i
  let idle := min ns (c.clockStop - s.time)
  let t := c.frac + (ns - idle) * s.halfMhz i
  (t / 2000, t % 2000)

/-- The class of a stream's cycles in which nothing of it issues (R346). -/
def Core.cycleClass (c : Core) (k : StreamId) (core : Nat) : Nat :=
  let st := c.stream k
  if st.mode = .yielded then 0x7E
  else
    match c.waiting k with
    | some w => c.waitClass core w.kind
    | none => if !st.hasFrame then 0x03 else if st.issued then 0x01 else 0x02

/-- A head counter, saturating at 2^48 − 1 (R346). -/
def addCount (t : Tbl Nat) (cls n : Nat) : Tbl Nat :=
  if n = 0 then t else tblSet t cls (min (tblGet 0 t cls + n) (2 ^ 48 - 1))

/-- Cycles pass for a stream of a core; the class of each is decided at its end, and a cycle in which it has issued and
yielded counts as DONE (R346). -/
def Core.pass (c : Core) (core n : Nat) (k : StreamId) : Stream :=
  let st := c.stream k
  if n = 0 ∨ st.stopped then st
  else
    let cls := c.cycleClass k core
    let i := if st.issuedNow ∧ cls ≠ 0x7E then 1 else 0
    { st with issuedNow := false, hc := addCount (addCount st.hc 0 i) cls (n - i) }

/-- The streams of a traced slice stand in their classes as time is about to pass (R350). -/
def State.traceClasses (s : State) : State :=
  s.cores.foldl
    (fun s e =>
      match s.sliceOf e.1 with
      | some v =>
        if (s.ctx v.ctx).traceEn && !v.handler then
          allStreams.foldl
            (fun s k => if (s.stream e.1 k).stopped then s else s.setClassOf e.1 k ((s.core e.1).cycleClass k e.1)) s
        else s
      | none => s)
    s

/-- The slice counts its budget: it has not ended, and its context is not stopped, or it is the handler slice that serves the
stop (R32, R308, R316). -/
def State.counts (s : State) (v : Slice) : Bool :=
  v.ended.isNone && (v.handler || !((s.ctx v.ctx).mode == .stopped))

/-- How far device time is slewed while `ns` ns pass: at most 100 ppm (R393). -/
def State.slewOf (s : State) (ns : Nat) : Int := max (-(ns / 10000 : Nat)) (min s.fabric.slew (ns / 10000 : Nat))

/-- The ballast rises of gangs that have ended in the present instant: the admissions of the instant come before them, and the
levels rise only while the ballast is on (R306, R370). -/
def State.applyRises (s : State) : State :=
  (if s.pack.ballastEn then s.pack.rises else []).foldl
    (fun s e =>
      let s := s.setRegulator e.1 ((s.regulator e.1).ballastRise s.time e.2)
      { s with pack := { s.pack with fades := satInc s.pack.fades } })
    { s with pack := { s.pack with rises := [] } }

/-- Device time passes: the clocks run, the budgets of bound slices count, and the head counters take the cycles; those of a
handler slice, whose context is STOPPED, take none, nor do those of a slice that has ended (R346). -/
def State.elapse (s : State) (ns : Nat) : State :=
  let s := s.applyRises.traceClasses
  let run (i : Nat) : Nat := (s.clusterRun i ns).1
  let cores := tblMapKey s.cores fun core c =>
    match s.sliceOf core with
    | none => c
    | some v =>
      if v.handler || v.ended.isSome then c
      else
        let f (k : StreamId) : Stream := c.pass core (run (clusterOf core)) k
        { c with l := f .L, xs := f .X, s := f .S, k := f .K }
  let slices := tblMap s.slices fun v =>
    if s.counts v then
      let n := run (clusterOf (v.cores.headD 0))
      { v with budget := BitVec.ofNat 32 (v.budget.toNat - n), cycles := v.cycles + n }
    else v
  let clusters := tblMapKey s.clusters fun i c =>
    let (n, f) := s.clusterRun i ns
    { c with cycles := c.cycles + n, frac := f }
  let d := s.slewOf ns
  { s with
    time := (s.time + ns + d).toNat, cores := cores, slices := slices, clusters := clusters
    fabric := { s.fabric with slew := s.fabric.slew - d, sinceDialogue := s.fabric.sinceDialogue + ns } }
where
  tblMapKey {α : Type} (t : Tbl α) (f : Nat → α → α) : Tbl α := t.map fun e => (e.1, f e.1 e.2)

end Sys2Proof.Machine
end

