-- ==== Sys2Proof/Machine/Operands.lean ====
section
/-! DEFINITION. Operands in the pool: vector registers, accumulators and their elements, scratchpad bytes with their
rotation codes and role checks (R72, R111 to R113, R125, R129, R132, R238). -/

namespace Sys2Proof.Machine

/-! ### Rows of the pool -/

/-- A row of a core's pool as a number (R111, R116). -/
def Core.poolRow (c : Core) (bank row : Nat) : Nat := (tblGet (0 : Row) c.pool (bank * 512 + row)).toNat

/-- Writes the masked bytes of a pool row; a write of the whole row gives it fresh check bits (R111, R399). -/
def Core.setPoolRow (c : Core) (bank row v mask : Nat) : Core :=
  let key := bank * 512 + row
  { c with
    pool := tblPut (0 : Row) c.pool key (BitVec.ofNat 1024 (mergeBytes 128 (c.poolRow bank row) v mask))
    poolUe := if mask = 2 ^ 128 - 1 then c.poolUe.filter (· != key) else c.poolUe }

/-- POOL_ROLE at a physical pool address (R113, R335). -/
def poolRole (addr role pos : Nat) : Trap := { code := .poolRole, faddr := w64 (addr + role * 2 ^ 24 + pos * 2 ^ 28) }

/-- POOL_ROLE of a register number (R113, R335). -/
def poolRoleReg (k role pos : Nat) : Trap :=
  { code := .poolRole, faddr := w64 (k + role * 2 ^ 24 + pos * 2 ^ 28), detail := 1 }

/-- The physical bank of a logical bank at a row under a rotation code (R125). -/
def rotBank (code bank row : Nat) : Nat :=
  if code = 0 then bank
  else if code ≤ 6 then bank ^^^ (row % 2 ^ code)
  else
    let c := code - 8
    bank - bank % 2 ^ c + (bank % 2 ^ c + row) % 2 ^ c

/-- A bank whose role a reshape is about to change is closed to the accesses that issued after it (R122). -/
def State.bankHeld (s : State) (bank : Nat) : Bool :=
  match s.cur.reshape with
  | some r => r.banks.contains bank && !r.before.contains (s.curK, s.st.rc, s.st.lnpos)
  | none => false

/-- Uncorrectable data of a pool row read by the executing stream is treated as of an HBM row (R339, R372). -/
def opPoolRow (core bank row : Nat) : Op Nat := fun s =>
  if (s.core core).poolUe.contains (bank * 512 + row) then
    uncorrectable (bank * 2 ^ 16 + row * 2 ^ 7) (bank * 2 ^ 16 + row * 2 ^ 7) .read s
  else .ok s ((s.core core).poolRow bank row)

/-! ### Scratchpad operands (R112, R113, R125, R238) -/

/-- The core that a POOL or CLUSTER operand reaches: the own core, or a sibling bound to the same slice (R51, R238). -/
def opSpaceCore (space off : Nat) : Op Nat := fun s =>
  if space = 1 then .ok s s.curCore
  else
    let core := s.curCore / 4 * 4 + off / 2 ^ 22 % 4
    if (s.core core).slice = s.cur.slice ∧ s.cur.slice.isSome then .ok s core else .trap s (memParam 1 off)

/-- The physical bank of a scratchpad row, which must have the role SCR (R113); an access of the own core that issued after
a reshape waits for it (R122). -/
def opScrBank (core rot addr : Nat) : Op Nat := fun s =>
  let bank := rotBank rot (addr / 2 ^ 16 % 64) (addr / 2 ^ 7 % 512)
  if core = s.curCore ∧ s.bankHeld bank then .wait s .busy 0 else
  let role := tblGet 0 (s.core core).roles bank
  if role = 5 then .ok s bank else .trap s (poolRole (bank * 2 ^ 16 + addr % 2 ^ 16) role (core % 4))

/-- Bytes of one scratchpad row. -/
def opScrPart (core rot addr n : Nat) : Op Nat :=
  opBind (opScrBank core rot addr) fun bank =>
    opBind (opPoolRow core bank (addr / 2 ^ 7 % 512)) fun v => opPure (v / 2 ^ (8 * (addr % 128)) % 2 ^ (8 * n))

/-- Writes bytes of one scratchpad row. -/
def opScrPut (core rot addr n v : Nat) : Op Unit :=
  opBind (opScrBank core rot addr) fun bank =>
    opMod fun s =>
      s.setCore core
        ((s.core core).setPoolRow bank (addr / 2 ^ 7 % 512) (v % 2 ^ (8 * n) * 2 ^ (8 * (addr % 128)))
          (spanMask (addr % 128) n))

/-- `n` bytes row by row, each part by an operation of its address and length; `fuel` bounds the rows. -/
def opSpanRead (part : Nat → Nat → Op Nat) : Nat → Nat → Nat → Op Nat
  | 0, _, _ => opPure 0
  | fuel + 1, addr, n =>
    if n = 0 then opPure 0
    else
      let m := min n (128 - addr % 128)
      opBind (part addr m) fun v =>
        opBind (opSpanRead part fuel (addr + m) (n - m)) fun w => opPure (v + w * 2 ^ (8 * m))

/-- Writes `n` bytes row by row. -/
def opSpanWrite (part : Nat → Nat → Nat → Op Unit) : Nat → Nat → Nat → Nat → Op Unit
  | 0, _, _, _ => opPure ()
  | fuel + 1, addr, n, v =>
    if n = 0 then opPure ()
    else
      let m := min n (128 - addr % 128)
      opBind (part addr m (v % 2 ^ (8 * m))) fun _ =>
        opSpanWrite part fuel (addr + m) (n - m) (v / 2 ^ (8 * m))

/-- The rows that `n` bytes may touch. -/
def spanRows (n : Nat) : Nat := n / 128 + 2

/-- `n` bytes of scratchpad from a pool address, and the same written. -/
def opScrRead (core rot addr n : Nat) : Op Nat := opSpanRead (opScrPart core rot) (spanRows n) addr n
def opScrWrite (core rot addr n v : Nat) : Op Unit := opSpanWrite (opScrPut core rot) (spanRows n) addr n v

/-! ### Registers (R114) -/

/-- Bank and first row of a register field: v0 to v319, then acc0 to acc63 (R43, R114). -/
def regBank (k : Nat) : Nat := if k < 320 then k / 32 else 10 + (k - 320) / 32
def regRow (k : Nat) : Nat := k % 32 * 16

/-- The register of an accumulator (R43). -/
def accReg (a : Acc) : VReg := BitVec.ofNat 9 (320 + a.toNat)

/-- The 2,048-byte image of a register (R72). -/
def Core.image (c : Core) (k : Nat) : Nat :=
  ((List.range 16).map fun j => c.poolRow (regBank k) (regRow k + j) * 2 ^ (1024 * j)).sum

/-- A register is written: a dead vector register becomes live (R124). -/
def Core.raiseLive (c : Core) (k : Nat) : Core :=
  if k < 320 ∧ c.vlive.toNat ≤ k then { c with vlive := BitVec.ofNat 9 (k + 1) } else c

/-- Writes the bytes of a register's row that a mask names. -/
def Core.setRegRow (c : Core) (k j v mask : Nat) : Core :=
  if mask = 0 then c else (c.setPoolRow (regBank k) (regRow k + j) v mask).raiseLive k

/-- Writes the image of a register. -/
def Core.setImage (c : Core) (k img : Nat) : Core :=
  (List.range 16).foldl (fun c j => c.setRegRow k j (img / 2 ^ (1024 * j) % 2 ^ 1024) (2 ^ 128 - 1)) c

/-- The register's bank is in REG (R113). -/
def Core.regTrap (c : Core) (core k : Nat) : Option Trap :=
  if k < 320 ∧ 32 * c.vb ≤ k then some (poolRoleReg k (tblGet 0 c.roles (regBank k)) (core % 4)) else none

/-- The named registers stand in REG banks (R113), and no reshape is about to change them (R122). -/
def opRegs (ks : List VReg) : Op Unit := fun s =>
  if ks.any fun k => s.bankHeld (regBank k.toNat) then .wait s .busy 0
  else
    match ks.findSome? fun k => s.cur.regTrap s.curCore k.toNat with
    | some t => .trap s t
    | none => .ok s ()

/-- A row of a register of the executing core. -/
def opRegRow (k j : Nat) : Op Nat := fun s => opPoolRow s.curCore (regBank k) (regRow k + j) s

/-- An image from its rows. -/
def imageOf (rows : List Nat) : Nat := (rows.zipIdx.map fun e => e.1 * 2 ^ (1024 * e.2)).sum

/-- The image of a register as an instruction reads it: row by row, in no order (R163). -/
def opImage (k : VReg) : Op Nat :=
  opBind (opGroup ((List.range 16).map (opRegRow k.toNat))) fun rows => opPure (imageOf rows)

/-- The images of an instruction's operands: a register that stands twice among them is read once (R163). -/
def opImages (ks : List VReg) : Op (List Nat) :=
  let once := ks.dedup
  opBind (opMap opImage once) fun imgs => opPure (ks.map fun k => imgs.getD (once.idxOf k) 0)

/-! ### Elements (R72, R129) -/

/-- Element `i` of width `w` of an image. -/
def elem (w img i : Nat) : Nat := img / 2 ^ (w * i) % 2 ^ w

/-- The image with some elements replaced, in order. -/
def setElems (w img : Nat) (upd : List (Nat × Nat)) : Nat := upd.foldl (fun m e => setBits m (w * e.1) w e.2) img

/-- The bytes of some elements, as a mask. -/
def elemMask (w : Nat) (upd : List (Nat × Nat)) : Nat :=
  upd.foldl (fun m e => m ||| spanMask (w * e.1 / 8) (ceilDiv w 8)) 0

/-- Rows of a register written one by one, in no order (R163): the value and the byte mask of each, from the register file as
the row finds it. An X instruction makes the register live at its retirement (R124). -/
def opWriteRows (k : Nat) (row : Nat → Core → Nat × Nat) : Op Unit :=
  opBind
    (firmly (opGroup ((List.range 16).map fun j s =>
      let w := row j s.cur
      .ok (if w.2 = 0 then s else s.setCur (s.cur.setPoolRow (regBank k) (regRow k + j) w.1 w.2)) w.2)))
    fun ms => opMod fun s => if ms.all (· == 0) then s else
      let s := s.landSr s.curCore s.curK
      s.setCur (s.cur.raiseLive k)

/-- Writes elements of a register. -/
def opWriteElems (k : VReg) (w : Nat) (upd : List (Nat × Nat)) : Op Unit :=
  let per := 1024 / w
  opWriteRows k.toNat fun j c =>
    let mine := (upd.filter fun e => e.1 / per == j).map fun e => (e.1 % per, e.2)
    (setElems w (c.poolRow (regBank k.toNat) (regRow k.toNat + j)) mine, elemMask w mine)

/-- Writes the image of a register. -/
def opWriteImage (k : VReg) (img : Nat) : Op Unit := opWriteRows k.toNat fun j _ => (elem 1024 img j, 2 ^ 128 - 1)

/-- Elements of one register. -/
def capacity (w : Nat) : Nat := 16384 / w

/-! ### The shape (R129 to R132) -/

/-- Rows and columns of the tile, with the check of R132 for the widths of the operands. -/
def opShape (widths : List Nat) : Op (Nat × Nat) := fun s =>
  let r := s.st.vshapeRows.toNat
  let c := s.st.vshapeCols.toNat
  if r = 0 ∨ c = 0 ∨ 2048 < r * c ∨ (widths.any fun w => decide (16384 < r * c * w)) then
    .trap s { code := .vshape, faddr := w64 (r + c * 2 ^ 16) }
  else .ok s (r, c)

/-- The lanes of a tile that the guard enables, ascending (R135). -/
def State.enabled (s : State) (n : Nat) : List Nat := (List.range n).filter fun i => s.st.lanes.getLsbD i

/-- Raises sticky flags of the executing stream (R80, R35). -/
def State.orFlags (s : State) (fl : FlagSet) : State := s.setSt { s.st with flags := s.st.flags ||| fl }

end Sys2Proof.Machine
end

