-- ==== Sys2Proof/Machine/CoreMem.lean ====
section
/-! DEFINITION. Loads and stores, row accesses, prefetch, touch windows, tensor copies and fences (R193 to R204, R261). -/

namespace Sys2Proof.Machine

/-! ### Addresses (R51, R194) -/

/-- A MEM-space address: modulo 2^56 (R194). -/
def memVa (a : Int) : Nat := (a % 2 ^ 56).toNat

/-- The operand address of a format-D access: virtual in MEM, a pool address else (R51). -/
def State.operandAddr (s : State) (ra : Reg) (space : BitVec 2) (off : BitVec 24) : Int :=
  if space = 0 then (memVa ((s.rx ra).toNat + off.toInt) : Int) else (bits off 0 22 : Nat)

/-- The core that a POOL or CLUSTER operand reaches. -/
def opOperandCore (space : BitVec 2) (off : BitVec 24) : Op Nat := opSpaceCore space.toNat off.toNat

/-- A unit of a space read or written, within the present step (R193). -/
def unitRead (space : BitVec 2) (off : BitVec 24) (rot a n : Nat) : Op Nat :=
  if space = 0 then readUnit a n else opBind (opOperandCore space off) fun core => opScrRead core rot a n
def unitWrite (space : BitVec 2) (off : BitVec 24) (rot a n v : Nat) : Op Unit :=
  if space = 0 then writeUnit a n v else opBind (opOperandCore space off) fun core => opScrWrite core rot a n v

/-! ### Scalar loads and stores (R197) -/

/-- A value of `n` bytes extended to 64 bits: with its sign for .i types (R197). -/
def extendTo64 (t : ElemTy) (v : Nat) : W64 := BitVec.ofInt 64 (intValue t v)

def effLd (reg ra : Reg) (rot : BitVec 4) (ty : ElemTy) (space : BitVec 2) (off : BitVec 24) : Op Flow := fun s =>
  let n := ty.width / 8
  let a := (s.operandAddr ra space off).toNat
  opBind (opAccess (unitRead space off rot.toNat (a - a % n) n)) (fun v s => .ok (s.wx reg (extendTo64 ty v)) .next) s

def effSt (reg ra : Reg) (rot : BitVec 4) (ty : ElemTy) (space : BitVec 2) (off : BitVec 24) : Op Flow := fun s =>
  let n := ty.width / 8
  let a := (s.operandAddr ra space off).toNat
  opBind (opAccess (noValue (unitWrite space off rot.toNat (a - a % n) n (bits (s.rx reg) 0 (8 * n))))) (fun _ s => .ok s .next) s

def execLd (h : Head) (reg ra : Reg) (rot : BitVec 4) (ty : ElemTy) (space : BitVec 2) (off : BitVec 24) (s : State) :=
  runAccess h (effLd reg ra rot ty space off) s
def execSt (h : Head) (reg ra : Reg) (rot : BitVec 4) (ty : ElemTy) (space : BitVec 2) (off : BitVec 24) (s : State) :=
  runAccess h (effSt reg ra rot ty space off) s

/-! ### Row accesses (R196, R198) -/

/-- Where the rows of an access lie: at 128-byte steps, at the stride of `%lsx`, or at the offsets of its index register. -/
inductive RowMode where
  | plain | strided | indexed
  deriving DecidableEq, Repr

/-- The row of the index register, which an indexed access reads at its issue (R198); 0 for the other accesses. -/
def opIndexRow (m : RowMode) : Op Nat := fun s =>
  let ireg := s.st.lsxIreg
  if m ≠ .indexed ∨ s.enabled 16 = [] then .ok s 0
  else if 320 ≤ ireg.toNat then .trap s (memParam 1 ireg.toNat)
  else opBind (opRegs [ireg]) (fun _ => opStep (opRegRow ireg.toNat 0)) s

/-- The offset of row `j` from the operand address. -/
def rowOffset (m : RowMode) (stride : Int) (idx j : Nat) : Int :=
  match m with
  | .plain => 128 * (j : Int)
  | .strided => j * stride
  | .indexed => intValue .i32 (elem 32 idx j)

/-- The enabled rows with the addresses of their units; in a pool space they must all lie in the pool (R198). -/
def opRowAddrs (m : RowMode) (ra : Reg) (space : BitVec 2) (off : BitVec 24) (idx : Nat) : Op (List (Nat × Nat)) := fun s =>
  let base := s.operandAddr ra space off
  let l : List (Nat × Int) := (s.enabled 16).map fun j => (j, (base + rowOffset m s.st.lsxStride.toInt idx j) / 128 * 128)
  if space = 0 then .ok s (l.map fun e => (e.1, memVa e.2))
  else
    match l.find? fun e => decide (e.2 < 0) || decide (0x3FFFFF < e.2) with
    | some e => .trap s { code := .memParam, faddr := BitVec.ofInt 64 e.2, detail := 1 }
    | none => .ok s (l.map fun e => (e.1, e.2.toNat))

/-- Loads the enabled rows of a register: the units are read in no order, and then the rows are written in no order (R163,
R198). DESIGN CHOICE (log entry 36): an access with no row enabled does not check the register. -/
def effRowLoad (m : RowMode) (reg : VReg) (ra : Reg) (rot : BitVec 4) (space : BitVec 2) (off : BitVec 24) (idx : Nat) : Op Flow :=
  opBind (opRowAddrs m ra space off idx) fun rows => opBind (if rows = [] then opPure () else opRegs [reg]) fun _ =>
    opBind (opGroup (rows.map fun e => unitRead space off rot.toNat e.2 128)) fun vs =>
      opBind
        (firmly (opGroup ((rows.zip vs).map fun e s =>
          let s := s.landLive s.curCore
          .ok (s.setCur (s.cur.setRegRow reg.toNat e.1.1 e.2 (2 ^ 128 - 1))) 0)))
        fun _ => opPure .next

/-- An earlier step of the present group, `d` steps back, has not been taken. -/
def State.stepOpen (s : State) (d : Nat) : Bool := (tblFind s.st.notes (4 * (s.st.noteIdx - d))).isNone

/-- Stores the enabled rows of a register, in no order but for two rows of one address (R198). -/
def effRowStore (m : RowMode) (reg : VReg) (ra : Reg) (rot : BitVec 4) (space : BitVec 2) (off : BitVec 24) (idx : Nat) : Op Flow :=
  opBind (opRowAddrs m ra space off idx) fun rows => opBind (if rows = [] then opPure () else opRegs [reg]) fun _ =>
    opBind
      (opGroup (rows.zipIdx.map fun e s =>
        if (List.range e.2).any fun i => (rows.getD i (0, 0)).2 == e.1.2 && s.stepOpen (e.2 - i) then .pause s
        else
          opBind (opRegRow reg.toNat e.1.1)
            (fun v => noValue (unitWrite space off rot.toNat e.1.2 128 v)) s))
      fun _ => opPure .next

/-- A row access: the enabled rows are its lanes, and the index register is read at its issue (R198). -/
def runRows (h : Head) (m : RowMode) (eff : Nat → Op Flow) (s : State) : Host.Outcome State Fault Refusal :=
  runForm h { lanes := true, kind := .access } noHold (opIndexRow m) eff s

def execVld (h : Head) (reg : VReg) (ra : Reg) (rot : BitVec 4) (space : BitVec 2) (off : BitVec 24) (s : State) :=
  runRows h .plain (effRowLoad .plain reg ra rot space off) s
def execVst (h : Head) (reg : VReg) (ra : Reg) (rot : BitVec 4) (space : BitVec 2) (off : BitVec 24) (s : State) :=
  runRows h .plain (effRowStore .plain reg ra rot space off) s
def execVlds (h : Head) (reg : VReg) (ra : Reg) (rot : BitVec 4) (space : BitVec 2) (off : BitVec 24) (s : State) :=
  runRows h .strided (effRowLoad .strided reg ra rot space off) s
def execVsts (h : Head) (reg : VReg) (ra : Reg) (rot : BitVec 4) (space : BitVec 2) (off : BitVec 24) (s : State) :=
  runRows h .strided (effRowStore .strided reg ra rot space off) s
def execVldx (h : Head) (reg : VReg) (ra : Reg) (rot : BitVec 4) (space : BitVec 2) (off : BitVec 24) (s : State) :=
  runRows h .indexed (effRowLoad .indexed reg ra rot space off) s
def execVstx (h : Head) (reg : VReg) (ra : Reg) (rot : BitVec 4) (space : BitVec 2) (off : BitVec 24) (s : State) :=
  runRows h .indexed (effRowStore .indexed reg ra rot space off) s

/-! ### Prefetch (R199) -/

/-- Brings a row towards the core where it is a DEV row that can be read; what the core has sent to the row is performed first,
so that no later load sees less (R199, R253). -/
def State.prefetch (s : State) (va : Nat) : State :=
  match s.translate s.curCore s.curCtx va with
  | some e =>
    let row := e.phys va / 128
    let s := if e.cls = 0 then s.landRow s.curCore row else s
    if e.cls = 0 ∧ s.cur.banksOf 3 ≠ [] ∧ !s.homeBad (some s.curPart) row then s.wayTouch s.curCore row else s
  | none => s

def execPfet (h : Head) (rowsM1 : BitVec 5) (ra : Reg) (off : BitVec 24) (s : State) :=
  runNow h
    (effect fun s =>
      let a := (s.operandAddr ra 0 off).toNat / 128 * 128
      (List.range (rowsM1.toNat + 1)).foldl (fun s i => s.prefetch ((a + 128 * i) % 2 ^ 56)) s) s

/-! ### Touch windows (R201, R202) -/

/-- The pages of a range with the rights of a kind, or the trap of the first that fails (R201). `fuel` bounds the pages. DESIGN
CHOICE (log entry 45): where no page is mapped, whose size would give the page's address, the trap gives the address of the
least page, of 4 KiB. -/
def State.touchPages (s : State) (write : Bool) : Nat → Nat → Nat → List TlbEntry → Except Trap (List TlbEntry)
  | 0, _, _, l => .ok l
  | fuel + 1, va, n, l =>
    if n = 0 then .ok l
    else
      match s.translate s.curCore s.curCtx va with
      | none => .error { code := .touchFault, faddr := w64 (va / 4096 * 4096), detail := write.toNat }
      | some e =>
        if !e.r then .error { code := .touchFault, faddr := w64 e.va, detail := 0 }
        else if write && !e.w then .error { code := .touchFault, faddr := w64 e.va, detail := 1 }
        else
          let m := e.size - (va - e.va)
          s.touchPages write fuel ((va + m) % 2 ^ 56) (n - min n m) (l ++ [e])

/-- Opens a window of a core; of eight open windows, the one that would expire first closes (R201). -/
def State.openWindow (s : State) (core : Nat) (w : Window) : State :=
  let now := s.cyclesOf core
  let ws := (s.core core).windows
  let live := ws.filter (Window.openAt now)
  let sooner (m : Option Window) (x : Window) : Option Window :=
    match m with
    | some y => if x.expiry < y.expiry then some x else some y
    | none => some x
  let kept :=
    match if live.length < 8 then none else live.foldl sooner none with
    | some x => ws.set (ws.findIdx fun y => y == x) { x with expiry := now }
    | none => ws
  s.setCore core { s.core core with windows := (kept ++ [w]).filter (s.windowHeld core) }

/-- Translates and pins a range (R201). DESIGN CHOICE (log entry 47): a base keeps its low 56 bits, as the address of an access
does, and a range that passes the top of the address space pins the pages at address 0 on, though no access beyond the top is
covered. -/
def effTouch (write : Bool) (rd ra rb : Reg) : Op Flow := fun s =>
  let n := (s.rx rb).toNat
  if n = 0 ∨ 2 ^ 24 < n then .trap s (memParam 1 n)
  else
    let va := (s.rx ra).toNat % 2 ^ 56
    match s.touchPages write (n / 4096 + 2) va n [] with
    | .error t => .trap s t
    | .ok pages =>
      let w : Window :=
        { ctx := s.curCtx, base := va, len := n, write := write, opened := s.cyc, expiry := s.cyc + 4096, pages := pages }
      .ok ((s.openWindow s.curCore w).wx rd (w64 pages.length)) .next

def execTouchR (h : Head) (rd ra rb : Reg) (s : State) := runHead h (effTouch false rd ra rb) s
def execTouchW (h : Head) (rd ra rb : Reg) (s : State) := runHead h (effTouch true rd ra rb) s

/-! ### Tensor copies (R203, R204) -/

/-- A copy's descriptor: memory base, element size, and for each dimension its count and its strides. -/
structure CopyDesc where
  base : Nat
  esz : Nat
  dims : List (Nat × Int × Int)
  deriving DecidableEq, Repr

/-- A signed 32-bit field. -/
def signed32 (v : Nat) : Int := intValue .i32 (v % 2 ^ 32)

/-- The descriptor in its 16 words; `none` where a field that must be zero is not (R203, R204). -/
def parseCopy (img : Nat) : Option CopyDesc :=
  let word (i : Nat) : Nat := elem 64 img i
  let count (k : Nat) : Nat := elem 16 img (8 + k)
  let ms (k : Nat) : Nat := elem 32 img (8 + k)
  let ps (k : Nat) : Nat := elem 32 img (16 + k)
  let d := word 1 / 16 % 8 + 1
  let rest := (List.range 8).drop d
  if word 0 / 2 ^ 56 ≠ 0 ∨ word 1 / 128 ≠ 0 ∨ word 1 / 8 % 2 ≠ 0 ∨ ((List.range 4).any fun i => word (12 + i) != 0) ∨
      (rest.any fun k => count k != 0 || ms k != 0 || ps k != 0) then none
  else
    some { base := word 0, esz := 2 ^ (word 1 % 8)
           dims := (List.range d).map fun k => (count k, signed32 (ms k), signed32 (ps k)) }

/-- Elements of the index box. -/
def CopyDesc.total (c : CopyDesc) : Nat := (c.dims.map Prod.fst).prod

/-- Offsets in memory and in the pool of the element at a place in index order. -/
def copyOffset : List (Nat × Int × Int) → Nat → Int × Int
  | [], _ => (0, 0)
  | (n, ms, ps) :: rest, i =>
    let (m, p) := copyOffset rest (i / n)
    (m + (i % n : Nat) * ms, p + (i % n : Nat) * ps)

/-- Least and greatest offset in the pool. -/
def CopyDesc.poolMin (c : CopyDesc) : Int := (c.dims.map fun d => min 0 (((d.1 : Int) - 1) * d.2.2)).sum
def CopyDesc.poolMax (c : CopyDesc) : Int := (c.dims.map fun d => max 0 (((d.1 : Int) - 1) * d.2.2)).sum

/-- The units of an element: itself where it is of 1 to 8 bytes and both addresses are aligned to it, else its bytes
(R193): offsets and length. -/
def copyUnits (esz m q : Nat) : List Nat × Nat :=
  if esz ≤ 8 ∧ m % esz = 0 ∧ q % esz = 0 then ([0], esz) else (List.range esz, 1)

/-- The units of a copy from pool address `p`, in index order: memory address, pool address and length (R193, R204). -/
def CopyDesc.units (c : CopyDesc) (p : Int) : List (Nat × Nat × Nat) :=
  (List.range c.total).flatMap fun i =>
    let (dm, dq) := copyOffset c.dims i
    let m := memVa (c.base + dm)
    let q := (p + dq).toNat
    let (offs, n) := copyUnits c.esz m q
    offs.map fun o => ((m + o) % 2 ^ 56, q + o, n)

/-- Moves one unit, within the present step. -/
def moveUnit (out : Bool) (core rot : Nat) (u : Nat × Nat × Nat) : Op Unit :=
  if out then opBind (opScrRead core rot u.2.1 u.2.2) fun v => writeUnit u.1 u.2.2 v
  else opBind (readUnit u.1 u.2.2) fun v => opScrWrite core rot u.2.1 u.2.2 v

/-- Two units of a copy write a byte in common. -/
def unitsMeet (out : Bool) (a b : Nat × Nat × Nat) : Bool :=
  let at' (u : Nat × Nat × Nat) : Nat := if out then u.1 else u.2.1
  decide (at' a < at' b + b.2.2) && decide (at' b < at' a + a.2.2)

/-- The descriptor of a copy, read at its issue (R203). -/
def opCopyDesc (reg : Reg) : Op Nat := fun s =>
  let at' := (s.rx reg).toNat
  if at' % 128 ≠ 0 then .trap s (memParam 5 at') else opStep (readUnit (at' % 2 ^ 56) 128) s

/-- A copy by its descriptor: its units move in no order, but for those that write one byte (R204). -/
def effCopy (out : Bool) (reg : Reg) (rot : BitVec 4) (space : BitVec 2) (off : BitVec 24) (img : Nat) : Op Flow := fun s =>
  match parseCopy img with
  | none => .trap s (memParam 5 (s.rx reg).toNat)
  | some d =>
    if d.total = 0 then .ok s .next
    else
      let p : Int := (bits off 0 22 : Nat)
      if p + d.poolMin < 0 ∨ 0x3FFFFF < p + d.poolMax + d.esz - 1 then .trap s (memParam 5 (s.rx reg).toNat)
      else
        opBind (opOperandCore space off)
          (fun core =>
            let us := d.units p
            opBind
              (opGroup (us.zipIdx.map fun e s =>
                if (List.range e.2).any fun i => s.stepOpen (e.2 - i) && unitsMeet out (us.getD i (0, 0, 0)) e.1 then .pause s
                else noValue (moveUnit out core rot.toNat e.1) s))
              fun _ => opPure .next) s

def execCpy (h : Head) (reg _ra : Reg) (rot : BitVec 4) (space : BitVec 2) (off : BitVec 24) (s : State) :=
  runCapture h (opCopyDesc reg) (effCopy false reg rot space off) s
def execCpyw (h : Head) (reg _ra : Reg) (rot : BitVec 4) (space : BitVec 2) (off : BitVec 24) (s : State) :=
  runCapture h (opCopyDesc reg) (effCopy true reg rot space off) s

/-! ### Fences (R261) -/

/-- A fence with its parts, under the entry that it captured at its issue (R251). -/
def effFence (rel acq : Bool) (scope : BitVec 5) (e : ScopeEntry) : Op Flow :=
  let n := scope.toNat
  opBind (if rel then releasePart n e else opPure ()) fun _ =>
    opBind (if acq then acquirePart n e else opPure ()) fun _ => opPure .next

/-- An instruction that captures a scope entry at its issue (R251). -/
def runScope (h : Head) (scope : BitVec 5) (eff : ScopeEntry → Op Flow) (s : State) : Host.Outcome State Fault Refusal :=
  runCapture h (captureScope scope.toNat) eff s

def execFenceRel (h : Head) (scope : BitVec 5) (s : State) := runScope h scope (effFence true false scope) s
def execFenceAcq (h : Head) (scope : BitVec 5) (s : State) := runScope h scope (effFence false true scope) s
def execFenceFull (h : Head) (scope : BitVec 5) (s : State) := runScope h scope (effFence true true scope) s

end Sys2Proof.Machine
end

