-- ==== Sys2Proof/Machine/Matrix.lean ====
section
/-! DEFINITION. Matrix commands: their parameters, their checks at acceptance, the queue, `msync` and `mabort` (R164 to
R177, R187, R188). -/

namespace Sys2Proof.Machine

/-! ### Parameters of a command (R171 to R174) -/

def MCmd.ety (c : MCmd) : ElemTy := ElemTy.ofCode c.ty
def MCmd.w (c : MCmd) : Nat := c.ety.width

/-- Products of the array, convolutions with them; and the weight loads (R178 to R183). -/
def MCmd.isConv (c : MCmd) : Bool := c.op == 0x8F || c.op == 0x90
def MCmd.isProduct (c : MCmd) : Bool := decide (0x80 ≤ c.op ∧ c.op ≤ 0x83) || c.isConv
def MCmd.isLoad (c : MCmd) : Bool := c.op == 0x88 || c.op == 0x89 || c.op == 0x91

/-- The command names a scratchpad operand (R171). -/
def MCmd.isScr (c : MCmd) : Bool :=
  (c.mod && (decide (0x80 ≤ c.op ∧ c.op ≤ 0x84))) || c.op == 0x88 || c.isConv || c.op == 0x91

/-- Group counts (R172). -/
def MCmd.counts (c : MCmd) : List Nat := (List.range 8).map fun g => bits c.wa (8 * g) 8

/-- The conv word and the channel count (R172). -/
def MCmd.chans (c : MCmd) : Nat := bits c.wa 25 11 + 1
def MCmd.ho (c : MCmd) : Nat := bits c.wb 36 7 + 1
def MCmd.wo (c : MCmd) : Nat := bits c.wb 28 8 + 1
def MCmd.stride (c : MCmd) : Nat := bits c.wb 19 1 + 1
def MCmd.kw (c : MCmd) : Nat := bits c.wb 16 3
def MCmd.kh (c : MCmd) : Nat := bits c.wb 13 3

/-- Rows, columns and positions of a product, a drain or a transpose (R172, R180, R181). -/
def MCmd.rows (c : MCmd) : Nat :=
  if c.op = 0x82 then c.counts.sum else if c.isConv then c.ho * c.wo else bits c.wb 32 8 + 1
def MCmd.cols (c : MCmd) : Nat :=
  if c.op = 0x90 then c.chans else if c.op = 0x8F then bits c.wb 20 8 + 1 else bits c.wb 40 8 + 1
def MCmd.kk (c : MCmd) : Nat :=
  if c.op = 0x8F then c.kh * c.kw * c.chans else if c.op = 0x90 then c.kh * c.kw else bits c.wb 16 13

def MCmd.trow (c : MCmd) : Nat := bits c.wb 0 13
/-- TILE rows that a weight load writes. -/
def MCmd.count (c : MCmd) : Nat := if c.op = 0x91 then c.kk * c.w / 4 else bits c.wb 16 14
/-- The first TILE row that a weight load writes; `mtr` displaces its source alone (R182). -/
def MCmd.firstRow (c : MCmd) : Nat := if c.op = 0x91 then c.trow else c.trow + c.v

/-- The pitch in 128-byte rows, with the default of the command (R172, R180, R182, R185). -/
def MCmd.pitch (c : MCmd) : Nat :=
  let p := if c.isScr then bits c.wa 36 12 else 0
  if p ≠ 0 then p
  else if c.op = 0x84 then ceilDiv (c.cols * c.w) 1024
  else if c.op = 0x91 then ceilDiv (c.kk * c.w) 1024
  else ceilDiv (((c.wo - 1) * c.stride + c.kw) * c.chans * c.w) 1024

/-- Bytes of the register or scratchpad operand. -/
def MCmd.span (c : MCmd) : Nat :=
  if c.op = 0x84 then (c.rows - 1) * 128 * c.pitch + ceilDiv (c.cols * c.w) 8
  else if c.isConv then
    ((c.ho - 1) * c.stride + c.kh - 1) * 128 * c.pitch + ((c.wo - 1) * c.stride + c.kw) * c.chans * c.w / 8
  else if c.op = 0x91 then (c.cols - 1) * 128 * c.pitch + ceilDiv (c.kk * c.w) 8
  else if c.op = 0x88 then 128 * c.count
  else 16 * c.w * c.kk

/-- The first pool address of the scratchpad operand. -/
def MCmd.addr (c : MCmd) : Nat := bits c.wa 0 22 + 128 * c.v

/-- First accumulator and number of accumulators that a command names (R164). -/
def MCmd.accs (c : MCmd) : Nat × Nat :=
  if c.isProduct || c.op == 0x84 then (c.acc, ceilDiv c.rows 2)
  else if c.op = 0x92 ∨ c.op = 0x93 then (c.acc, 1)
  else (c.acc, 0)

/-- TILE rows that a command reads or writes, as ranges (R174). -/
def MCmd.tiles (c : MCmd) : List (Nat × Nat) :=
  let q := c.w * c.kk
  if c.op = 0x81 then [(c.trow, c.trow + q / 8), (c.mrow, c.mrow + 8 * ceilDiv c.kk 32)]
  else if c.op = 0x82 then
    (c.counts.zipIdx.filter fun e => e.1 != 0).map fun e => (c.trow + e.2 * q / 4, c.trow + (e.2 + 1) * q / 4)
  else if c.isProduct then [(c.trow, c.trow + q / 4)]
  else if c.isLoad then [(c.firstRow, c.firstRow + c.count)]
  else []

/-- The same as rows of the pool: TILE row 0 stands at the first of the TILE banks that were there at acceptance (R174). -/
def MCmd.tileSpan (c : MCmd) : List (Nat × Nat) := c.tiles.map fun r => ((64 - c.t) * 512 + r.1, (64 - c.t) * 512 + r.2)

/-- Two lists of ranges share a row. -/
def rangesMeet (a b : List (Nat × Nat)) : Bool := a.any fun x => b.any fun y => decide (x.1 < y.2) && decide (y.1 < x.2)

/-- The bank of a TILE row (R174). -/
def tileBank (t q : Nat) : Nat := (64 - t + q / 512) % 64

/-- The TILE banks that a command names (R183). -/
def MCmd.banks (c : MCmd) : List Nat :=
  c.tiles.flatMap fun r => if r.1 < r.2 then (List.range ((r.2 - 1) / 512 + 1 - r.1 / 512)).map fun i => tileBank c.t ((r.1 / 512 + i) * 512) else []

/-- Commands accepted and not completed, and their TILE banks. -/
def Matrix.all (m : Matrix) : List MCmd := m.queue ++ m.running.toList ++ m.weights
def Matrix.tileBanks (m : Matrix) : List Nat := m.all.flatMap MCmd.banks

/-- An accepted command that has not completed names an accumulator (R161). -/
def Matrix.namesAcc (m : Matrix) (a : Nat) : Bool := m.all.any fun c => decide (c.accs.1 ≤ a ∧ a < c.accs.1 + c.accs.2)

/-- A count of groups, which R177 bounds. -/
def MCmd.isGrouped (c : MCmd) : Bool := c.op == 0x82 || (c.op == 0x86 && c.mod)

/-! ### Checks at acceptance (R176, R177) -/

/-- A mask of the bits from `lo` to `hi`. -/
def fieldBits (hi lo : Nat) : Nat := 2 ^ (hi + 1) - 2 ^ lo

/-- The listed bits of x[ra] and x[rb] (R172, R184). -/
def MCmd.listed (c : MCmd) : Nat × Nat :=
  let all := 2 ^ 64 - 1
  let desc := fieldBits 47 36 + fieldBits 24 0
  let a :=
    if c.isConv then fieldBits 47 0
    else if c.isScr then desc
    else if c.isGrouped || c.op == 0x89 then all
    else if c.op = 0x87 then fieldBits 63 32 + fieldBits 3 0
    else if c.op = 0x8C then fieldBits 3 0
    else if c.op = 0x8B then fieldBits 12 0
    else 0
  let b :=
    if c.op = 0x82 then fieldBits 47 40 + fieldBits 28 16 + fieldBits 12 0
    else if c.op = 0x84 then fieldBits 47 32
    else if c.op = 0x8F then fieldBits 42 0
    else if c.op = 0x90 then fieldBits 42 28 + fieldBits 19 0
    else if c.isProduct then fieldBits 47 32 + fieldBits 28 16 + fieldBits 12 0
    else if c.op = 0x91 then fieldBits 47 40 + fieldBits 28 16 + fieldBits 12 0
    else if c.op = 0x88 then fieldBits 29 16 + fieldBits 12 0
    else if c.op = 0x89 then fieldBits 32 32 + fieldBits 29 16 + fieldBits 12 0
    else 0
  (a, b)

/-- The activation bound and code are valid (R184). -/
def actValid (w : W64) : Bool :=
  let code := bits w 0 4
  let bound := bits w 32 32
  if code = 5 then
    match f32Fmt.value bound with
    | .fin s n _ => !s && n != 0
    | _ => false
  else decide (code < 5) && bound == 0

/-- The checks of R176 that a command fails, in order. DESIGN CHOICE (log entry 45): check 2 bounds the K of `mconv`, which its
words give as a product, as it bounds the K of a shape word. -/
def MCmd.fails (c : MCmd) : List Nat :=
  let (a, b) := c.listed
  let ranged := c.isProduct || c.op == 0x91
  [ (1, c.wa.toNat &&& a != c.wa.toNat || c.wb.toNat &&& b != c.wb.toNat ||
      (c.isScr && bits c.wa 24 1 == 0 && bits c.wa 22 2 != 0)),
    (2, (ranged && (c.kk == 0 || decide (8191 < c.kk))) || (c.op == 0x81 && c.kk % 4 != 0) ||
      (c.isConv && (c.kh == 0 || c.kw == 0 || c.chans * c.w % 8 != 0)) ||
      ((c.isProduct || c.op == 0x84) && decide (128 < c.rows)) || (c.op == 0x90 && decide (256 < c.chans)) ||
      ((c.op == 0x88 || c.op == 0x89) && (c.count == 0 || decide (8192 < c.count)))),
    (3, decide (64 < c.accs.1 + c.accs.2)),
    (4, ((c.isProduct || c.op == 0x84) && !c.isScr && decide (655360 < c.v * 2048 + c.span)) ||
      (c.op == 0x86 && c.mod && decide (316 < c.v))),
    (5, c.tiles.any fun r => decide (512 * c.t < r.2)),
    (6, c.isScr && (decide (2 ^ 22 < c.addr + c.span) || (c.isProduct && !c.isConv && bits c.wa 36 12 != 0))),
    (7, c.op == 0x87 && !actValid c.wa),
    (8, c.op == 0x89 && bits c.wb 32 1 == 1 && c.v != 0) ].filterMap fun e => if e.2 then some e.1 else none

/-- The trap that acceptance raises, if any: RAGGED_BOUND before MATRIX_PARAM (R176, R177). -/
def MCmd.refusal (c : MCmd) : Option Trap :=
  if c.isGrouped && decide (128 < c.counts.sum) then some { code := .raggedBound, faddr := w64 c.counts.sum }
  else
    match c.fails with
    | [] => none
    | n :: _ => some { code := .matrixParam, faddr := w64 n }

/-! ### The queue (R166, R167, R187, R188) -/

def State.setMatrix (s : State) (core : Nat) (m : Matrix) : State := s.setCore core { s.core core with matrix := m }

/-- The metadata row that an execution of a command leaves (R184). -/
def MCmd.metaAfter (c : MCmd) (row : BitVec 13) : BitVec 13 := if c.op = 0x8B then c.wa.setWidth 13 else row

/-- The queued commands with the metadata row that each will find, from the one in force. -/
def Matrix.renumber (m : Matrix) : Matrix :=
  let start := match m.running with
    | some c => c.metaAfter m.metaRow
    | none => m.metaRow
  let (q, last) := m.queue.foldl
    (fun (a : List MCmd × BitVec 13) c => (a.1 ++ [{ c with mrow := a.2.toNat }], c.metaAfter a.2)) ([], start)
  { m with queue := q, metaNext := last }

/-- Accepts a command, whose words are read now (R166); the stream's writes to `%mlim` come before it (R168). -/
def effMatrix (c : MCmd) (ra rb : Reg) : Op Flow := fun s =>
  let s := s.landOwn 0x081
  let m := s.cur.matrix
  let c := { c with
    seq := m.accepted % 2 ^ 16, num := m.accepted, wa := s.rx ra, wb := s.rx rb
    t := (s.cur.banksOf 2).length, mrow := m.metaNext.toNat }
  match c.refusal with
  | some t => .trap s t
  | none =>
    let m := { m with queue := m.queue ++ [c], accepted := m.accepted + 1, metaNext := c.metaAfter m.metaNext }
    .ok (s.setMatrix s.curCore m) .next

/-- What keeps a command from issuing: a full queue, where its guard is true (R166). -/
def matrixHold (h : Head) (s : State) : Option (WaitKind × Nat) :=
  if s.guardBit h && decide (16 ≤ s.cur.matrix.qlen) then some (.matrixQueue, s.st.tlim.toNat) else none

/-- A queued command: it issues once the queue has room, is accepted, and retires (R166). -/
def runMatrix (h : Head) (c : MCmd) (ra rb : Reg) (s : State) : Host.Outcome State Fault Refusal :=
  runForm h { now := true } (matrixHold h) (opPure ()) (fun _ => effMatrix c ra rb) s

/-- `msync`, and `mabort` once it has discarded the commands that have not started. -/
def effMsync : Op Flow := fun s =>
  if s.cur.matrix.qlen = 0 then .ok s .next else .wait s .matrixDone s.st.tlim.toNat

/-- The engine's wait for a semaphore is given up. -/
def State.leaveMatrixSems (s : State) (core : Nat) : State :=
  let c := s.core core
  s.setCore core { c with sems := tblMap c.sems fun v => { v with waiters := v.waiters.filter fun e => e.1 != .matrix core } }

/-- Discards every accepted command that has not started (R188). -/
def State.abortMatrix (s : State) (core : Nat) : State :=
  let s := s.leaveMatrixSems core
  let m := (s.core core).matrix
  s.setMatrix core
    { m with queue := [], aborted := BitVec.ofNat 8 (min 255 (m.aborted.toNat + m.queue.length)) }.renumber

/-- `mabort`: the discard takes place at its issue, once (R188). -/
def effMabort : Op Flow := fun s =>
  match s.st.capt with
  | some _ => effMsync s
  | none =>
    let s := s.abortMatrix s.curCore
    effMsync (s.setSt { s.st with capt := some 0 })

/-- The optional semaphore fields of a command (R50). -/
structure MSem where
  swen : Bool
  semw : BitVec 6
  ssen : Bool
  sems : BitVec 6
  deriving DecidableEq, Repr

/-- A command from its fields. -/
def mcmd (op : Nat) (acc : Acc) (v : VReg) (z : MSem) (ty : Nat) (rot : BitVec 4) (mod : Bool) : MCmd :=
  { seq := 0, op := op, acc := acc.toNat, v := v.toNat, ty := ty, rot := rot.toNat, mod := mod
    swen := z.swen, semw := z.semw.toNat, ssen := z.ssen, sems := z.sems.toNat }

/-- Products (R178). -/
def execMmul (h : Head) (ra rb : Reg) (acc : Acc) (v : VReg) (swen : Bool) (semw : BitVec 6) (ssen : Bool) (sems : BitVec 6)
    (ty : ElemTy) (rot : BitVec 4) (sp : Bool) (s : State) :=
  runMatrix h (mcmd 0x80 acc v ⟨swen, semw, ssen, sems⟩ ty.code rot sp) ra rb s
def execMmuls (h : Head) (ra rb : Reg) (acc : Acc) (v : VReg) (swen : Bool) (semw : BitVec 6) (ssen : Bool) (sems : BitVec 6)
    (ty : ElemTy) (rot : BitVec 4) (sp : Bool) (s : State) :=
  runMatrix h (mcmd 0x81 acc v ⟨swen, semw, ssen, sems⟩ ty.code rot sp) ra rb s
def execMmulg (h : Head) (ra rb : Reg) (acc : Acc) (v : VReg) (swen : Bool) (semw : BitVec 6) (ssen : Bool) (sems : BitVec 6)
    (ty : ElemTy) (s : State) :=
  runMatrix h (mcmd 0x82 acc v ⟨swen, semw, ssen, sems⟩ ty.code 0 false) ra rb s
def execMmulz (h : Head) (ra rb : Reg) (acc : Acc) (v : VReg) (swen : Bool) (semw : BitVec 6) (ssen : Bool) (sems : BitVec 6)
    (ty : ElemTy) (rot : BitVec 4) (sp : Bool) (s : State) :=
  runMatrix h (mcmd 0x83 acc v ⟨swen, semw, ssen, sems⟩ ty.code rot sp) ra rb s

/-- `mdrain` (R185). -/
def execMdrain (h : Head) (ra rb : Reg) (acc : Acc) (v : VReg) (swen : Bool) (semw : BitVec 6) (ssen : Bool)
    (sems : BitVec 6) (ty : ElemTy) (rot : BitVec 4) (sp : Bool) (s : State) :=
  runMatrix h (mcmd 0x84 acc v ⟨swen, semw, ssen, sems⟩ ty.code rot sp) ra rb s

/-- Epilogue configuration (R184). -/
def execMscl (h : Head) (v : VReg) (swen : Bool) (semw : BitVec 6) (ssen : Bool) (sems : BitVec 6) (col : Bool) (s : State) :=
  runMatrix h (mcmd 0x85 0 v ⟨swen, semw, ssen, sems⟩ ElemTy.f32.code 0 col) 0 0 s
def execMsclOff (h : Head) (swen : Bool) (semw : BitVec 6) (ssen : Bool) (sems : BitVec 6) (col : Bool) (s : State) :=
  runMatrix h (mcmd 0x85 0 0 ⟨swen, semw, ssen, sems⟩ 0 0 col) 0 0 s
def execMbias (h : Head) (ra : Reg) (v : VReg) (swen : Bool) (semw : BitVec 6) (ssen : Bool) (sems : BitVec 6) (grp : Bool)
    (s : State) :=
  runMatrix h (mcmd 0x86 0 v ⟨swen, semw, ssen, sems⟩ ElemTy.f32.code 0 grp) ra 0 s
def execMbiasOff (h : Head) (swen : Bool) (semw : BitVec 6) (ssen : Bool) (sems : BitVec 6) (s : State) :=
  runMatrix h (mcmd 0x86 0 0 ⟨swen, semw, ssen, sems⟩ 0 0 false) 0 0 s
def execMact (h : Head) (ra : Reg) (swen : Bool) (semw : BitVec 6) (ssen : Bool) (sems : BitVec 6) (s : State) :=
  runMatrix h (mcmd 0x87 0 0 ⟨swen, semw, ssen, sems⟩ 0 0 false) ra 0 s
def execMmeta (h : Head) (ra : Reg) (swen : Bool) (semw : BitVec 6) (ssen : Bool) (sems : BitVec 6) (s : State) :=
  runMatrix h (mcmd 0x8B 0 0 ⟨swen, semw, ssen, sems⟩ 0 0 false) ra 0 s
def execMfmt (h : Head) (ra : Reg) (swen : Bool) (semw : BitVec 6) (ssen : Bool) (sems : BitVec 6) (s : State) :=
  runMatrix h (mcmd 0x8C 0 0 ⟨swen, semw, ssen, sems⟩ 0 0 false) ra 0 s

/-- Weight loads (R182), and the wait for them (R183). -/
def execMwld (h : Head) (ra rb : Reg) (v : VReg) (swen : Bool) (semw : BitVec 6) (ssen : Bool) (sems : BitVec 6)
    (rot : BitVec 4) (s : State) :=
  runMatrix h (mcmd 0x88 0 v ⟨swen, semw, ssen, sems⟩ 0 rot false) ra rb s
def execMwstr (h : Head) (ra rb : Reg) (v : VReg) (swen : Bool) (semw : BitVec 6) (ssen : Bool) (sems : BitVec 6) (s : State) :=
  runMatrix h (mcmd 0x89 0 v ⟨swen, semw, ssen, sems⟩ 0 0 false) ra rb s
def execMtr (h : Head) (ra rb : Reg) (v : VReg) (swen : Bool) (semw : BitVec 6) (ssen : Bool) (sems : BitVec 6) (ty : ElemTy)
    (rot : BitVec 4) (s : State) :=
  runMatrix h (mcmd 0x91 0 v ⟨swen, semw, ssen, sems⟩ ty.code rot false) ra rb s
def execMwwait (h : Head) (swen : Bool) (semw : BitVec 6) (ssen : Bool) (sems : BitVec 6) (s : State) :=
  runMatrix h (mcmd 0x8A 0 0 ⟨swen, semw, ssen, sems⟩ 0 0 false) 0 0 s

/-- Convolutions (R180, R181). -/
def execMconv (h : Head) (ra rb : Reg) (acc : Acc) (v : VReg) (swen : Bool) (semw : BitVec 6) (ssen : Bool) (sems : BitVec 6)
    (ty : ElemTy) (rot : BitVec 4) (s : State) :=
  runMatrix h (mcmd 0x8F acc v ⟨swen, semw, ssen, sems⟩ ty.code rot false) ra rb s
def execMdwc (h : Head) (ra rb : Reg) (acc : Acc) (v : VReg) (swen : Bool) (semw : BitVec 6) (ssen : Bool) (sems : BitVec 6)
    (ty : ElemTy) (rot : BitVec 4) (s : State) :=
  runMatrix h (mcmd 0x90 acc v ⟨swen, semw, ssen, sems⟩ ty.code rot false) ra rb s

/-- Accumulator transfers and queue control (R186). -/
def execMqst (h : Head) (v : VReg) (swen : Bool) (semw : BitVec 6) (ssen : Bool) (sems : BitVec 6) (s : State) :=
  runMatrix h (mcmd 0x8E 0 v ⟨swen, semw, ssen, sems⟩ 0 0 false) 0 0 s
def execMacc (h : Head) (acc : Acc) (v : VReg) (swen : Bool) (semw : BitVec 6) (ssen : Bool) (sems : BitVec 6) (s : State) :=
  runMatrix h (mcmd 0x92 acc v ⟨swen, semw, ssen, sems⟩ ElemTy.f32.code 0 false) 0 0 s
def execMcpyOut (h : Head) (acc : Acc) (v : VReg) (swen : Bool) (semw : BitVec 6) (ssen : Bool) (sems : BitVec 6) (s : State) :=
  runMatrix h (mcmd 0x93 acc v ⟨swen, semw, ssen, sems⟩ 0 0 false) 0 0 s
def execMcpyIn (h : Head) (acc : Acc) (v : VReg) (swen : Bool) (semw : BitVec 6) (ssen : Bool) (sems : BitVec 6) (s : State) :=
  runMatrix h (mcmd 0x93 acc v ⟨swen, semw, ssen, sems⟩ 0 0 true) 0 0 s
def execMsem (h : Head) (swen : Bool) (semw : BitVec 6) (ssen : Bool) (sems : BitVec 6) (s : State) :=
  runMatrix h (mcmd 0x94 0 0 ⟨swen, semw, ssen, sems⟩ 0 0 false) 0 0 s

/-- `msync` (R187) and `mabort` (R188). -/
def execMsync (h : Head) (s : State) := runNow h effMsync s
def execMabort (h : Head) (s : State) := runNow h effMabort s

end Sys2Proof.Machine
end

