-- ==== Sys2Proof/Machine/Pool.lean ====
section
/-! DEFINITION. Reshaping, pinning and reading the pool's layout, and the cache's write-back (R117 to R123, R127, R128). -/

namespace Sys2Proof.Machine

/-! ### Layouts (R114, R119) -/

/-- The status codes of `pool` (R119). -/
inductive PoolStatus where
  | ok | regLive | ringOccupied | scrPinned | tileBusy | bankBounds | roleLimit
  deriving DecidableEq, Repr

def PoolStatus.code : PoolStatus → Nat
  | .ok => 0
  | .regLive => 1
  | .ringOccupied => 2
  | .scrPinned => 3
  | .tileBusy => 4
  | .bankBounds => 5
  | .roleLimit => 6

/-- The banks of x[ra], where the range is well formed (R118, R119). -/
def bankRange (v : W64) : Option (List Nat) :=
  let first := bits v 0 6
  let n := bits v 6 7
  if bits v 13 51 ≠ 0 ∨ n = 0 ∨ 64 < first + n then none else some ((List.range n).map fun i => first + i)

def roleOf (roles : Tbl Nat) (b : Nat) : Nat := tblGet 0 roles b

/-- Banks of a role in a layout. -/
def roleBanks (roles : Tbl Nat) (r : Nat) : List Nat := (List.range 64).filter fun b => roleOf roles b == r

/-- The placement of R114: REG is banks 0 to vb − 1 with 10 and 11, and TILE is one run that ends at bank 63. -/
def placementOk (roles : Tbl Nat) : Bool :=
  let reg := roleBanks roles 1
  let vb := (reg.filter fun b => decide (b < 10)).length
  let t := (roleBanks roles 2).length
  decide (1 ≤ vb) && (reg == (List.range vb) ++ [10, 11]) && (roleBanks roles 2 == (List.range t).map fun i => 64 - t + i)

/-- A layout with some banks given a role. -/
def setRoles (roles : Tbl Nat) (banks : List Nat) (r : Nat) : Tbl Nat := banks.foldl (fun t b => tblPut 0 t b r) roles

/-! ### Rings in released banks (R121) -/

/-- The rows of a ring's storage, as rows of the pool address space. -/
def Ring.rows (r : Ring) : List Nat := (List.range (ceilDiv (r.cap * r.rsz) 128)).map fun i => r.base / 128 + i

/-- The enabled rings whose storage reaches one of some banks. -/
def Core.ringsIn (c : Core) (banks : List Nat) : List Nat :=
  (List.range 16).filter fun n => let r := c.ring n; r.enabled && r.rows.any fun q => banks.contains (q / 512)

/-- The lowest row from which `n` rows are free RING rows. -/
@[irreducible] def freeRun (roles : Tbl Nat) (used : List Nat) (n : Nat) : Option Nat :=
  (List.range 32768).find? fun q =>
    decide (q + n ≤ 32768) && (List.range n).all fun i => roleOf roles ((q + i) / 512) == 4 && !used.contains (q + i)

/-- New bases for the rings that move, in ascending order; `none` where one does not fit (R121). -/
def placeRings (c : Core) (roles : Tbl Nat) : List Nat → List Nat → Option (List (Nat × Nat))
  | [], _ => some []
  | n :: rest, used =>
    match freeRun roles used (c.ring n).rows.length with
    | none => none
    | some q =>
      match placeRings c roles rest (used ++ (List.range (c.ring n).rows.length).map fun i => q + i) with
      | none => none
      | some l => some ((n, q) :: l)

/-- A row of the pool by its place in the address space. -/
def Core.rowAt (c : Core) (q : Nat) : Nat := c.poolRow (q / 512) (q % 512)

/-- A row of the pool moved to another place, as `c` holds it, with what makes it uncorrectable (R372). -/
def Core.moveRow (c d : Core) (src dst : Nat) : Core :=
  let d := d.setPoolRow (dst / 512) (dst % 512) (c.rowAt src) (2 ^ 128 - 1)
  if c.poolUe.contains src then { d with poolUe := d.poolUe ++ [dst] } else d

/-- Rings moved to new bases with their storage. -/
def Core.moveRings (c : Core) (l : List (Nat × Nat)) : Core :=
  l.foldl
    (fun d e =>
      let r := c.ring e.1
      let d := (List.range r.rows.length).foldl (fun d i => c.moveRow d (r.base / 128 + i) (e.2 + i)) d
      d.setRing e.1 { r with base := e.2 * 128 })
    c

/-! ### The reshape (R119, R122) -/

/-- The banks of a layout change, emptied. -/
def Core.clearBanks (c : Core) (banks : List Nat) : Core :=
  { c with
    pool := c.pool.filter fun e => !banks.contains (e.1 / 512)
    poolUe := c.poolUe.filter fun q => !banks.contains (q / 512)
    ways := c.ways.filter fun e => !banks.contains e.2.bank }

/-- The switch point: the new core, or a refusal. DESIGN CHOICE (log entry 36): the rows that the moving rings leave in the
remaining RING banks count as free when the rings are placed. -/
def Core.switch (c : Core) (roles : Tbl Nat) (rel : List Nat) (relocate : Bool) : Except PoolStatus Core :=
  let vb := ((roleBanks roles 1).length - 2)
  let hit := c.ringsIn (rel.filter fun b => roleOf c.roles b == 4)
  let held := hit.any fun n => let r := c.ring n; r.used != 0 || r.spill != []
  let kept := (List.range 16).filter fun n => (c.ring n).enabled && !hit.contains n
  let moves := placeRings c roles hit (kept.flatMap fun n => (c.ring n).rows)
  if (rel.any fun b => roleOf c.roles b == 1) ∧ 32 * vb < c.vlive.toNat then .error .regLive
  else if rel.any fun b => c.pins.getLsbD b then .error .scrPinned
  else if relocate = false ∧ held then .error .ringOccupied
  else if relocate then
    match moves with
    | none => .error .ringOccupied
    | some l => .ok { ((c.moveRings l).clearBanks rel) with roles := roles }
  else .ok { ((hit.foldl (fun c n => c.setRing n {}) c).clearBanks rel) with roles := roles }

/-- The status of a `pool`, in rd and in `%pool` (R118). -/
def State.poolResult (s : State) (rd : Reg) (st : PoolStatus) : State :=
  (s.setCur { s.cur with poolStatus := BitVec.ofNat 3 st.code }).wx rd (w64 st.code)

/-- What a role-setting `pool` asks for: the new layout and the banks that leave their role, or the status that refuses it
before any wait (R119). -/
def Core.reshapePlan (c : Core) (v : W64) (role : Nat) : Except PoolStatus (Tbl Nat × List Nat) :=
  match bankRange v with
  | none => .error .bankBounds
  | some banks =>
    let new := setRoles c.roles banks role
    if !placementOk new then .error .bankBounds
    else if 16 < (roleBanks new 2).length ∨ 16 < (roleBanks new 3).length then .error .roleLimit
    else .ok (new, banks.filter fun b => roleOf c.roles b != role)

/-- The head waits for room in a memory ring or in a ring of another core: a `wenq` that has made its pool access (R212). -/
def WaitKind.elsewhere (core : Nat) : WaitKind → Bool
  | .memRing _ => true
  | .ring c _ => c != core
  | _ => false

/-- The accesses of the other streams of a core that have issued and have not been performed (R122). -/
def Core.issuedAccesses (c : Core) (core : Nat) : List (StreamId × W64 × W64) :=
  [StreamId.L, .X, .S].flatMap fun k =>
    let st := c.stream k
    let room := match st.wait with
      | some w => w.kind.elsewhere core
      | none => false
    let head := (st.issued || st.expIssued) && st.kind == .access && !room
    (if head then [(k, st.rc, st.lnpos)] else []) ++
      st.ahead.zipIdx.filterMap fun a => if a.1.kind == .access then some (k, st.rc + 1 + w64 a.2, st.lnpos) else none

/-- At its issue a reshape names the accesses that come before it (R122). -/
def opReshapeIssue (ra : Reg) (role : Nat) : Op Unit :=
  opOnce fun s =>
    match s.cur.reshapePlan (s.rx ra) role with
    | .ok (_, gone) => s.setCur { s.cur with reshape := some { banks := gone, before := s.cur.issuedAccesses s.curCore } }
    | .error _ => s

/-- The wait for the TILE banks that leave their role: 0 when no command names one, 1 when the limit has passed (R119). -/
def opTileWait (gone : List Nat) (limit : Nat) : Op Nat :=
  opStep fun s =>
    let c := s.cur
    let named := c.matrix.tileBanks.any fun b => gone.contains b && roleOf c.roles b == 2
    let since := match s.st.wait with
      | some w => if w.kind = .poolTile then w.since else s.cyc
      | none => s.cyc
    if named ∧ s.cyc - since < limit * 256 then .wait s .poolTile 0 else .ok s named.toNat

/-- The accesses that issued before the reshape have been performed (R122). -/
def opEarlierDone : Op Unit := fun s =>
  let before := match s.cur.reshape with
    | some r => r.before
    | none => []
  if before.any fun e => (s.cur.issuedAccesses s.curCore).contains e then .wait s .busy 0 else .ok s ()

/-- A role-setting `pool` (R119, R122). One whose range lies wholly in the role completes at once. -/
def effReshape (rd ra : Reg) (role : Nat) (rel : Bool) (limit : Nat) : Op Flow := fun s =>
  match s.cur.reshapePlan (s.rx ra) role with
  | .error st => .ok (s.poolResult rd st) .next
  | .ok (new, gone) =>
    if gone = [] then .ok (s.poolResult rd .ok) .next
    else
    opBind (opTileWait gone limit)
      (fun refused =>
        if refused = 1 then fun s => .ok (s.poolResult rd .tileBusy) .next
        else
          opBind opEarlierDone fun _ s =>
            let lines := s.cur.ways.filter fun e => gone.contains e.2.bank
            let s := lines.foldl (fun s e => s.wayClean s.curCore e.1) s
            match s.cur.switch new gone rel with
            | .error st => .ok (s.poolResult rd st) .next
            | .ok c => .ok ((s.setCur c).poolResult rd .ok) .next) s

def execPoolReshape (h : Head) (rd ra : Reg) (role : BitVec 4) (rel : Bool) (limit : BitVec 10) (s : State) :=
  runForm h { kind := .pool } noHold (opReshapeIssue ra role.toNat) (fun _ => effReshape rd ra role.toNat rel limit.toNat) s

/-- `pool.pin` and `pool.unpin` (R120). -/
def effPin (pin : Bool) (rd ra : Reg) : Op Flow := fun s =>
  match bankRange (s.rx ra) with
  | none => .ok (s.poolResult rd .bankBounds) .next
  | some banks =>
    if banks.any fun b => roleOf s.cur.roles b != 5 then .ok (s.poolResult rd .bankBounds) .next
    else
      let mask : BitVec 64 := BitVec.ofNat 64 ((banks.map fun b => 2 ^ b).sum)
      let s := s.setCur { s.cur with pins := if pin then s.cur.pins ||| mask else s.cur.pins &&& ~~~ mask }
      .ok (s.poolResult rd .ok) .next

def execPoolPin (h : Head) (rd ra : Reg) (s : State) := runTok h { kind := .pool } (effPin true rd ra) s
def execPoolUnpin (h : Head) (rd ra : Reg) (s : State) := runTok h { kind := .pool } (effPin false rd ra) s

/-! ### Occupancy (R123) -/

/-- A mask of banks. -/
def bankMask (l : List Nat) : W64 := w64 ((l.dedup.map fun b => 2 ^ b).sum)

/-- The banks of the records that a ring holds. -/
def Ring.heldBanks (r : Ring) : List Nat :=
  if r.enabled then
    (List.range (min r.used r.cap)).map fun i => (r.base + (r.head.toNat + i) % r.cap * r.rsz) / 2 ^ 16
  else []

/-- Dirty lines of the cache. -/
def Core.dirtyLines (c : Core) : Tbl Line := c.ways.filter fun e => e.2.dirty != 0

/-- The busy mask of R123. -/
def Core.busyBanks (c : Core) : W64 :=
  let live := (List.range 10).filter fun b => decide (32 * b < c.vlive.toNat) && roleOf c.roles b == 1
  let tile := c.matrix.tileBanks.filter fun b => roleOf c.roles b == 2
  let way := c.dirtyLines.map fun e => e.2.bank
  let ring := ((List.range 16).flatMap fun n => (c.ring n).heldBanks).filter fun b => roleOf c.roles b == 4
  bankMask (live ++ tile ++ way ++ ring) ||| c.pins

def Core.pstat (c : Core) (sel : Nat) : W64 :=
  match sel with
  | 0 => c.poolReg
  | 1 => c.busyBanks
  | 7 => c.pins
  | 8 => w64 c.dirtyLines.length
  | n => bankMask (c.banksOf (n - 1))

def execPstat (h : Head) (rd : Reg) (which : BitVec 4) (s : State) :=
  runHead h (effect fun s => s.wx rd ((s.cur.seenBy s.curK).pstat which.toNat)) s

/-! ### Write-back (R128) -/

/-- The physical rows of DEV pages in a virtual range, as ranges of rows; unmapped pages are skipped. `fuel` bounds the
pages. -/
def State.rowRanges (s : State) : Nat → Nat → Nat → List (Nat × Nat)
  | 0, _, _ => []
  | fuel + 1, va, n =>
    if n = 0 then []
    else
      let m := min n (4096 - va % 4096)
      let rest := s.rowRanges fuel ((va + m) % 2 ^ 56) (n - m)
      match s.translate s.curCore s.curCtx va with
      | some e => if e.cls = 0 then (e.phys va / 128, (e.phys va + m - 1) / 128) :: rest else rest
      | none => rest

/-- Acts on the lines that a test selects: writes back the dirty ones, and drops them all unless they are kept. -/
def effWbinv (pick : State → Nat → Bool) (keep : Bool) (rd : Reg) : Op Flow := fun s =>
  let lines := s.cur.ways.filter fun e => pick s e.1
  let n := (lines.filter fun e => e.2.dirty != 0).length
  let act (s : State) (e : Nat × Line) : State := if keep then s.wayClean s.curCore e.1 else s.wayEvict s.curCore e.1
  .ok ((lines.foldl act s).wx rd (w64 n)) .next

def execWbinvAll (h : Head) (rd : Reg) (keep : Bool) (s : State) := runHead h (effWbinv (fun _ _ => true) keep rd) s
def execWbinvRng (h : Head) (rd ra rb : Reg) (keep : Bool) (s : State) :=
  runHead h
    (fun s =>
      let n := min (s.rx rb).toNat (2 ^ 56)
      let l := s.rowRanges (n / 4096 + 2) ((s.rx ra).toNat % 2 ^ 56) n
      effWbinv (fun _ row => l.any fun e => decide (e.1 ≤ row) && decide (row ≤ e.2)) keep rd s) s

end Sys2Proof.Machine
end

