-- ==== Sys2Proof/Machine/Funcs.lean ====
section
/-! DEFINITION. The functions of R140, correctly rounded. Each is enclosed between two fixed-point values; where both
round alike, that is the rounding of the exact value. Where they do not, more fraction bits are taken. -/

namespace Sys2Proof.Machine

/-- One in fixed point with `p` fraction bits. -/
def fxOne (p : Nat) : Nat := 2 ^ p

/-- Bounds of the errors of the evaluations below, in units of the last place: of all but erf, and of erf for arguments up to
16, whose terms grow to e^128. -/
def fxErr : Nat := 2 ^ 64
def fxErrErf : Nat := 2 ^ 256

/-- Sum of y^(2k+1) / (2k+1) over `fuel` terms, from the term `t` = y^(2k+1), with `y2` = y²; alternating where `alt`. -/
def fxOddSum (p y2 : Nat) (alt : Bool) : Nat → Nat → Nat → Int
  | 0, _, _ => 0
  | fuel + 1, k, t =>
    if t = 0 then 0
    else
      let u : Int := (t / (2 * k + 1) : Nat)
      (if alt && k % 2 == 1 then -u else u) + fxOddSum p y2 alt fuel (k + 1) (t * y2 / fxOne p)

/-- The inverse hyperbolic tangent of a fixed-point value below 1/2, and the inverse tangent. -/
def fxAtanh (p y : Nat) : Nat := (fxOddSum p (y * y / fxOne p) false (p + 60) 0 y).toNat
def fxAtan (p y : Nat) : Nat := (fxOddSum p (y * y / fxOne p) true (p + 60) 0 y).toNat

/-- ln 2, and π (Machin). -/
def fxLn2 (p : Nat) : Nat := 2 * fxAtanh p (fxOne p / 3)
def fxPi (p : Nat) : Nat := 4 * (4 * fxAtan p (fxOne p / 5) - fxAtan p (fxOne p / 239))

/-- Sum of r^n / n! from the term `t` on. -/
def fxExpSum (p r : Nat) : Nat → Nat → Nat → Nat
  | 0, _, _ => 0
  | fuel + 1, n, t => if t = 0 then 0 else t + fxExpSum p r fuel (n + 1) (t * r / fxOne p / (n + 1))

/-- e^x of a fixed-point x: a value in [1, 2) and a power of two. -/
def fxExp (p : Nat) (x : Int) : Nat × Int :=
  let k := x / (fxLn2 p : Int)
  let r := (x % (fxLn2 p : Int)).toNat
  (fxExpSum p r (p + 60) 0 (fxOne p), k)

/-- e^−x of a fixed-point x ≥ 0, as fixed point. -/
def fxExpNeg (p x : Nat) : Nat :=
  let (m, k) := fxExp p (-(x : Int))
  m / 2 ^ (-k).toNat

/-- n × 2^e as fixed point, rounded down. -/
def fxOf (p n : Nat) (e : Int) : Nat :=
  let k := e + p
  if 0 ≤ k then n * 2 ^ k.toNat else n / 2 ^ (-k).toNat

/-- The sum a^2n / (2n+1)!! over `fuel` terms, from the term `t`. -/
def fxGaussSum (p a2 : Nat) : Nat → Nat → Nat → Nat
  | 0, _, _ => 0
  | fuel + 1, n, t => if t = 0 then 0 else t + fxGaussSum p a2 fuel (n + 1) (t * a2 / fxOne p / (2 * n + 3))

/-- erf (a / √2) of a fixed-point a: √(2/π) e^(−a²/2) a Σ a^2n / (2n+1)!!. -/
def fxErf (p a : Nat) : Nat :=
  let a2 := a * a / fxOne p
  let c := Nat.sqrt (2 * fxOne p * fxOne p * fxOne p / fxPi p)
  let g := fxGaussSum p a2 (4 * p) 0 (fxOne p) * a / fxOne p
  c * (g * fxExpNeg p (a2 / 2) / fxOne p) / fxOne p

/-- An enclosure of a magnitude: (lo × 2^e, hi × 2^e), the value lying strictly between. -/
structure Encl where
  neg : Bool
  lo : Nat
  hi : Nat
  e : Int

/-- An enclosure around a value of `n` units of 2^e with an error of `err` units. -/
def encl (neg : Bool) (n err : Nat) (e : Int) : Encl := ⟨neg, max 1 (n - err), n + err, e⟩

/-- Magnitudes that lie beyond every format, and below half its least value. -/
def enclHuge (neg : Bool) : Encl := ⟨neg, 1, 1, 10000⟩
def enclTiny (neg : Bool) : Encl := ⟨neg, 1, 1, -10000⟩
/-- Just below (−1)^neg × n × 2^e. -/
def enclBelow (neg : Bool) (n : Nat) (e : Int) : Encl := ⟨neg, n * 2 ^ 400 - 1, n * 2 ^ 400 - 1, e - 400⟩

/-- The functions of R140 that need an enclosure. -/
inductive Func where
  | exp | exp2 | log2 | tanh | sigm | gelu
  deriving DecidableEq, Repr

def Func.num : Func → Nat
  | .exp => 0
  | .exp2 => 1
  | .log2 => 2
  | .tanh => 3
  | .sigm => 4
  | .gelu => 5

/-- The magnitude n × 2^e exceeds 2^k. -/
def beyond (n : Nat) (e : Int) (k : Nat) : Bool := decide ((k : Int) < (Nat.log2 n : Int) + e + 1)

/-- e^x of a signed fixed-point x. -/
def enclExp (p : Nat) (x : Int) : Encl :=
  let (m, k) := fxExp p x
  encl false m fxErr (k - p)

/-- log₂ of n × 2^e, whose value is no power of two. -/
def enclLog2 (p n : Nat) (e : Int) : Encl :=
  let l := Nat.log2 n
  let num := (n - 2 ^ l) * fxOne p
  let y := num / (n + 2 ^ l)
  let f := 2 * fxAtanh p y * fxOne p / fxLn2 p
  let z : Int := ((l : Int) + e) * fxOne p + f
  encl (decide (z < 0)) z.natAbs fxErr (-(p : Int))

/-- An enclosure of f (a), from values of `p` fraction bits, for a finite non-zero a whose f (a) is not dyadic. -/
def Func.encl (f : Func) (neg : Bool) (n : Nat) (e : Int) (p : Nat) : Encl :=
  let x := fxOf p n e
  match f with
  | .exp =>
    if beyond n e 10 then if neg then enclTiny false else enclHuge false
    else enclExp p (if neg then -(x : Int) else x)
  | .exp2 =>
    if beyond n e 10 then if neg then enclTiny false else enclHuge false
    else
      let z : Int := if neg then -(x : Int) else x
      let k := z / (fxOne p : Int)
      let r := (z % (fxOne p : Int)).toNat
      let (m, j) := fxExp p ((r * fxLn2 p / fxOne p : Nat) : Int)
      Machine.encl false m fxErr (k + j - p)
  | .log2 => enclLog2 p n e
  | .tanh =>
    if beyond n e 7 then enclBelow neg 1 0
    else
      let t := fxExpNeg p (2 * x)
      Machine.encl neg ((fxOne p - t) * fxOne p / (fxOne p + t)) fxErr (-(p : Int))
  | .sigm =>
    if beyond n e 8 then if neg then enclTiny false else enclBelow false 1 0
    else
      let t := fxExpNeg p x
      Machine.encl false ((if neg then t else fxOne p) * fxOne p / (fxOne p + t)) fxErr (-(p : Int))
  | .gelu =>
    if beyond n e 4 then if neg then enclTiny true else enclBelow false n e
    else
      let v := (if neg then fxOne p - fxErf p x else fxOne p + fxErf p x)
      Machine.encl neg (n * v) (n * fxErrErf) (e - p - 1)

/-- The rounding of the exact value: that of both ends of the first enclosure whose ends round alike. No f (a) that is left to
an enclosure lies on the boundary of two roundings, so that some precision decides; those listed are far beyond what a 32-bit
format needs. What they leave is a free value. -/
def roundEncl (f : Fmt) (mode : Mode) (sat : Bool) (c : Nat → Encl) (free : Nat) : List Nat → Nat × FlagSet
  | [] => (free, flagNx)
  | p :: rest =>
    let v := c p
    let a := f.roundFin mode sat v.neg v.lo v.e true
    let b := f.roundFin mode sat v.neg v.hi v.e true
    if a = b then a else roundEncl f mode sat c free rest

/-- The precisions tried, in fraction bits. -/
def fxPrecisions : List Nat := [640, 1280, 2560, 5120, 10240, 20480]

/-- The number of a rounding mode. -/
def Mode.num : Mode → Nat
  | .rne => 0
  | .rz => 1
  | .rmi => 2
  | .rpi => 3
  | .rs _ => 4

/-- f of a finite non-zero value in a format (R140). -/
def Func.fin (fn : Func) (t : ElemTy) (f : Fmt) (mode : Mode) (sat neg : Bool) (n : Nat) (e : Int) (bitsIn : Nat) :
    Nat × FlagSet :=
  let free := Config.functionResult fn.num t.code mode.num bitsIn % 2 ^ t.width
  match fn with
  | .exp2 =>
    -- an integral argument gives a power of two
    if 0 ≤ e ∨ n % 2 ^ (-e).toNat = 0 then
      let k : Int := if 0 ≤ e then n * 2 ^ e.toNat else ((n / 2 ^ (-e).toNat : Nat) : Int)
      let k := min k 10000
      f.pack mode sat (.fin false 1 (if neg then -k else k) false)
    else roundEncl f mode sat (fn.encl neg n e) free fxPrecisions
  | .log2 =>
    if neg then (f.nan, flagNv)
    else if n = 2 ^ Nat.log2 n then f.pack mode sat (exactOf ((Nat.log2 n : Int) + e) 0 false)
    else roundEncl f mode sat (fn.encl false n e) free fxPrecisions
  | _ => roundEncl f mode sat (fn.encl neg n e) free fxPrecisions

/-- The functions at zeros and infinities (R140). -/
def Func.special (fn : Func) (x : Num) : Exact × FlagSet :=
  match fn, x with
  | _, .nan sig => (.nan, flagIf sig flagNv)
  | .exp, .inf s => (if s then .fin false 0 0 false else .inf false, 0)
  | .exp2, .inf s => (if s then .fin false 0 0 false else .inf false, 0)
  | .exp, .fin _ _ _ => (.fin false 1 0 false, 0)
  | .exp2, .fin _ _ _ => (.fin false 1 0 false, 0)
  | .log2, .inf s => if s then (.nan, flagNv) else (.inf false, 0)
  | .log2, .fin _ _ _ => (.inf true, flagDz)
  | .tanh, .inf s => (.fin s 1 0 false, 0)
  | .tanh, .fin s _ _ => (.fin s 0 0 false, 0)
  | .sigm, .inf s => (if s then .fin false 0 0 false else .fin false 1 0 false, 0)
  | .sigm, .fin _ _ _ => (.fin false 1 (-1) false, 0)
  | .gelu, .inf s => (if s then .fin true 0 0 false else .inf false, 0)
  | .gelu, .fin s _ _ => (.fin s 0 0 false, 0)

/-- A function of R140 on a pattern. -/
def Func.apply (fn : Func) (t : ElemTy) (mode : Mode) (sat : Bool) (v : Nat) : Nat × FlagSet :=
  let f := (fmtOf t).getD f32Fmt
  match f.value v with
  | .fin s n e => if n = 0 then packTy t mode sat (fn.special (.fin s n e)) else fn.fin t f mode sat s n e v
  | x => packTy t mode sat (fn.special x)

/-- The square root of a positive value, with at least 80 bits (R140). -/
def sqrtExact (n : Nat) (e : Int) : Exact :=
  let k := 160 + (e % 2).toNat
  let m := n * 2 ^ k
  let q := Nat.sqrt m
  .fin false q ((e - k) / 2) (q * q != m)

/-- `vsqrt` (R140). -/
def Num.sqrt (x : Num) : Exact × FlagSet :=
  match x with
  | .nan sig => (.nan, flagIf sig flagNv)
  | .inf s => if s then (.nan, flagNv) else (.inf false, 0)
  | .fin s n e => if n = 0 then (.fin s 0 0 false, 0) else if s then (.nan, flagNv) else (sqrtExact n e, 0)

/-- `vrsqrt` (R140): 1 / √(n × 2^e) as √(2^k / n) with an even power of two apart. -/
def Num.rsqrt (x : Num) : Exact × FlagSet :=
  match x with
  | .nan sig => (.nan, flagIf sig flagNv)
  | .inf s => if s then (.nan, flagNv) else (.fin false 0 0 false, 0)
  | .fin s n e =>
    if n = 0 then (.inf s, flagDz)
    else if s then (.nan, flagNv)
    else
      let k := 240 + (e % 2).toNat
      let m := 2 ^ k / n
      let q := Nat.sqrt m
      (.fin false q ((-e - k) / 2) (q * q * n != 2 ^ k), 0)

/-- `vrcp` (R140). -/
def Num.rcp (x : Num) : Exact × FlagSet := (Num.fin false 1 0).div x

end Sys2Proof.Machine
end

