-- ==== Sys2Proof/Machine/MatrixExec.lean ====
section
/-! DEFINITION. What matrix commands do when the engine executes them (R83, R84, R164 to R191), and the events of the
engine. -/

namespace Sys2Proof.Machine

/-! ### Operands of the engine -/

/-- The key of a row of a core's pool among the rows that a command has read. -/
def seenKey (core bank row : Nat) : Nat := core % 4 * 32768 + bank * 512 + row

/-- A row of a command's source: as the engine has read it before, or as it stands, where `check` finds that the path reaches its
bank (R113, R122, R163, R189). -/
def MCmd.opRow (c : MCmd) (check : Op Unit) (core bank row : Nat) : Op Nat :=
  match tblFind c.seen (seenKey core bank row) with
  | some v => opPure v
  | none => opBind check fun _ => opPoolRow core bank row

/-- A register of the engine's own core stands in REG (R113). -/
def opRegCheck (k : Nat) : Op Unit := fun s =>
  match s.cur.regTrap s.curCore k with
  | some t => .trap s t
  | none => .ok s ()

/-- A row of the register file v0 to v319, which is one run of rows (R173). -/
def MCmd.opFileRow (c : MCmd) (q : Nat) : Op Nat := fun s => c.opRow (opRegCheck (q / 16)) s.curCore (q / 512) (q % 512) s

/-- Bytes laid over rows: byte address, length and value of each part within one row. `fuel` bounds the rows. -/
def rowParts : Nat → Nat → Nat → Nat → List (Nat × Nat × Nat)
  | 0, _, _, _ => []
  | fuel + 1, a, n, v =>
    if n = 0 then []
    else
      let m := min n (128 - a % 128)
      (a, m, v % 2 ^ (8 * m)) :: rowParts fuel (a + m) (n - m) (v / 2 ^ (8 * m))

/-- The row that a part of bytes goes to, in a bank of a core. -/
def rowPut (core bank : Nat) (reg : Option Nat) (p : Nat × Nat × Nat) : RowPut :=
  { core := core, bank := bank, row := p.1 / 128 % 512, reg := reg, v := p.2.2 * 2 ^ (8 * (p.1 % 128)), mask := spanMask (p.1 % 128) p.2.1 }

/-- Rows of the register file that bytes go to; each register must stand in REG (R113). -/
def opFilePuts (a n v : Nat) : Op (List RowPut) := fun s =>
  let parts := rowParts (spanRows n) a n v
  match parts.findSome? fun p => s.cur.regTrap s.curCore (p.1 / 2048) with
  | some t => .trap s t
  | none => .ok s (parts.map fun p => rowPut s.curCore (p.1 / 2 ^ 16) (some (p.1 / 2048)) p)

/-- A row as it is written: a register that was dead becomes live, above what a `vlive` that has retired leaves (R124, R163, R399). -/
def State.putRow (s : State) (p : RowPut) : State :=
  let s := if p.reg.isSome then s.landLive p.core else s
  let c := s.core p.core
  let top := 8 * p.mask.log2 + 4
  let v := if p.half then p.v % 2 ^ top + c.poolRow p.bank p.row / 2 ^ top % 16 * 2 ^ top else p.v
  let d := c.setPoolRow p.bank p.row v p.mask
  let d := if p.half then { d with poolUe := c.poolUe } else d
  s.setCore p.core (match p.reg with
    | some k => d.raiseLive k
    | none => d)

/-- POOL_ROLE of a row that is to be written: its register has left REG, or its bank has left SCR, at the first byte of the write
(R113, R122). -/
def State.putTrap (s : State) (core : Nat) (p : RowPut) : Option Trap :=
  match p.reg with
  | some k => (s.core core).regTrap core k
  | none =>
    let role := tblGet 0 (s.core p.core).roles p.bank
    let byte := ((List.range 128).find? fun i => p.mask.testBit i).getD 0
    if role = 5 then none else some (poolRole (p.bank * 2 ^ 16 + p.row * 128 + byte) role (p.core % 4))

/-- Writes those rows of a command whose places a test names; a row that its path reaches no more traps (R122, R189). -/
def State.putRows (s : State) (core : Nat) (c : MCmd) (pick : Nat → Bool) : State × MCmd × Option Trap :=
  let chosen := c.outs.zipIdx.filter fun e => pick e.2
  match chosen.findSome? fun e => s.putTrap core e.1 with
  | some t => (s, c, some t)
  | none =>
    (chosen.foldl (fun s e => s.putRow e.1) s,
      { c with outs := (c.outs.zipIdx.filter fun e => !pick e.2).map Prod.fst }, none)

/-- The bank of a TILE row, which must have the role TILE (R113, R174). -/
def opTileBank (t q : Nat) : Op Nat := fun s =>
  let bank := tileBank t q
  let role := tblGet 0 s.cur.roles bank
  if role = 2 then .ok s bank else .trap s (poolRole (bank * 2 ^ 16 + q % 512 * 128) role (s.curCore % 4))

/-- A row of TILE. -/
def opTileOf (t q : Nat) : Op Nat :=
  opBind (opTileBank t q) fun bank s => opPoolRow s.curCore bank (q % 512) s

/-- Bytes that rows hold, one at a time: the rows that the spans reach, each read once, as a function of a byte address and a
length of at most a row. -/
def opRowsOf (row : Nat → Op Nat) (spans : List (Nat × Nat)) : Op (Nat → Nat → Nat) :=
  let rows := (spans.flatMap fun e => (List.range (ceilDiv (e.1 % 128 + e.2) 128)).map fun i => e.1 / 128 + i).dedup
  opBind (opMap row rows) fun vs =>
    let t : Tbl Nat := (rows.zip vs).foldl (fun t e => tblSet t e.1 e.2) []
    opPure fun a n => (tblGet 0 t (a / 128) + tblGet 0 t (a / 128 + 1) * 2 ^ 1024) / 2 ^ (8 * (a % 128)) % 2 ^ (8 * n)

/-- Writes one TILE row. -/
def opTileRow (t q v : Nat) : Op Unit :=
  opBind (opTileBank t q) fun bank => opMod fun s => s.setCur (s.cur.setPoolRow bank (q % 512) v (2 ^ 128 - 1))

/-- The core of the command's scratchpad operand (R172). DESIGN CHOICE (log entry 47): where that core is not bound to the same slice,
the engine raises MEM_PARAM, check 1, with the low 24 bits of the descriptor, as R238 has a stream's CLUSTER access do, though R335
does not list the code for the matrix engine. -/
def MCmd.opCore (c : MCmd) : Op Nat := opSpaceCore (if c.wa.getLsbD 24 then 2 else 1) (bits c.wa 0 24)

/-- A row of the command's register or scratchpad operand, by its place in the register file or in the pool's address
space (R125, R172, R173). -/
def MCmd.opSourceRow (c : MCmd) (q : Nat) : Op Nat :=
  if c.isScr then
    opBind c.opCore fun core =>
      c.opRow (unitOf (opScrBank core c.rot (128 * q))) core (rotBank c.rot (q / 512 % 64) (q % 512)) (q % 512)
  else c.opFileRow q

/-- The first byte of the operand in that space. -/
def MCmd.start (c : MCmd) : Nat := if c.isScr then c.addr else c.v * 2048

/-- The operand's bytes in some spans of offsets, as a function of offset and length. -/
def MCmd.opSpans (c : MCmd) (spans : List (Nat × Nat)) : Op (Nat → Nat → Nat) :=
  opBind (opRowsOf c.opSourceRow (spans.map fun e => (c.start + e.1, e.2))) fun f => opPure fun off n => f (c.start + off) n

/-- One span of the operand. -/
def MCmd.opRead (c : MCmd) (off n : Nat) : Op Nat := opBind (c.opSpans [(off, n)]) fun f => opPure (f off n)

/-- The rows that bytes of the operand go to. -/
def MCmd.opPuts (c : MCmd) (off n v : Nat) : Op (List RowPut) :=
  if c.isScr then
    opBind c.opCore fun core =>
      opMap (fun p => opBind (opScrBank core c.rot p.1) fun bank => opPure (rowPut core bank none p))
        (rowParts (spanRows n) (c.addr + off) n v)
  else opFilePuts (c.v * 2048 + off) n v

/-- A row of the array: 256 FP32 elements in 8 rows of the pool (R164). -/
def opArrayRow (r : Nat) : Op Nat := fun s =>
  opBind (opMap (fun j => opPoolRow s.curCore (10 + r / 64) (r % 64 * 8 + j)) (List.range 8))
    (fun rows => opPure ((rows.zipIdx.map fun e => e.1 * 2 ^ (1024 * e.2)).sum)) s

/-- The rows that the first `n` elements of a row of the array go to. -/
def arrayPuts (core r n v : Nat) : List RowPut :=
  (List.range 8).filterMap fun j =>
    let m := min 128 (4 * n - 128 * j)
    if m = 0 then none
    else
      some { core := core, bank := 10 + r / 64, row := r % 64 * 8 + j, reg := some (320 + r / 2), v := v / 2 ^ (1024 * j) % 2 ^ 1024
             mask := 2 ^ m - 1 }

/-- Elements of a number, the first lowest. -/
def joinElems (w : Nat) : List Nat → Nat
  | [] => 0
  | v :: rest => v % 2 ^ w + 2 ^ w * joinElems w rest

/-! ### Products (R83, R178 to R181) -/

/-- The exact sum of finite terms; an exact zero of numbers that have a sign of zero is −0 where every one is (R83). -/
def sumTerms (signed : Bool) (ps : List Num) : Exact :=
  let e := ps.foldl (fun e p => match p with | .fin _ _ k => min e k | _ => e) 0
  let z := (ps.map fun p => match p with | .fin s n k => signedInt s (n * 2 ^ (k - e).toNat) | _ => 0).sum
  exactOf z e (signed && ps.all fun p => p.isZero && p.isNeg)

/-- The sum of one group, rounded into FP32 (R83). -/
def groupSum (t : ElemTy) (terms : List (Nat × Nat)) : Nat × FlagSet :=
  let ps := terms.map fun e => ((valueOf t e.1).mulNum (valueOf t e.2)).1
  let posInf := ps.any fun p => p == .inf false
  let negInf := ps.any fun p => p == .inf true
  if ps.any Num.isNan ∨ (posInf ∧ negInf) then (f32Fmt.nan, flagNv)
  else if posInf then (f32Fmt.infMag, 0)
  else if negInf then (f32Fmt.signed true f32Fmt.infMag, 0)
  else f32Fmt.pack .rne false (sumTerms (fmtOf t).isSome ps)

/-- One group added to an accumulator element (R83). -/
def groupStep (t : ElemTy) (acc : Nat) (terms : List (Nat × Nat)) : Nat × FlagSet :=
  let (g, f1) := groupSum t terms
  let (r, f2) := add32 acc g
  (r, f1 ||| f2)

/-- Positions in a group (R83). -/
def MCmd.groupSize (c : MCmd) : Nat := if c.w ≤ 8 then 32 else 16

/-- The offset of an element of a convolution's input: channel `ch` of the pixel that row `i` reads for kernel position (u, v)
(R180, R181). -/
def MCmd.pixel (c : MCmd) (i u v ch : Nat) : Nat :=
  let y := i / c.wo * c.stride + u
  let x := i % c.wo * c.stride + v
  y * 1024 * c.pitch + (x * c.chans + ch) * c.w

/-- Position `q` of row `i` in a convolution's input, as a bit offset; for `mdwc`, of column `j`. -/
def MCmd.convBit (c : MCmd) (i j q : Nat) : Nat :=
  if c.op = 0x90 then c.pixel i (q / c.kw) (q % c.kw) j
  else c.pixel i (q / (c.kw * c.chans)) (q / c.chans % c.kw) (q % c.chans)

/-- The A operand of positions `k0` to `k0 + n − 1`: row i and, for `mdwc`, column j. Only the rows are read that hold an
element of it (R173, R180, R181). -/
def MCmd.opA (c : MCmd) (k0 n : Nat) : Op (Nat → Nat → Nat → Nat) :=
  let part (bit len : Nat) : Nat × Nat := (bit / 8, ceilDiv (bit % 8 + len) 8)
  let get (f : Nat → Nat → Nat) (bit : Nat) : Nat := f (bit / 8) (ceilDiv (bit % 8 + c.w) 8) / 2 ^ (bit % 8) % 2 ^ c.w
  if c.isConv then
    let spans := (List.range c.rows).flatMap fun i => (List.range n).map fun k =>
      part (c.convBit i 0 (k0 + k)) (if c.op = 0x90 then c.chans * c.w else c.w)
    opBind (c.opSpans spans) fun f => opPure fun i j k => get f (c.convBit i j (k0 + k))
  else
    let bit (i k : Nat) : Nat := (128 * (k0 + k) + i) * c.w
    opBind (c.opSpans ((List.range n).map fun k => part (bit 0 k) (c.rows * c.w))) fun f => opPure fun i _ k => get f (bit i k)

/-- Weight rows from TILE row `q` on, `n` of them from number `r0`: of each, only what the columns below N need (R174); the
element of a row and a column. -/
def MCmd.opWeights (c : MCmd) (q r0 n : Nat) : Op (Nat → Nat → Nat) :=
  let at' (k : Nat) : Nat := 128 * q + 32 * c.w * (r0 + k)
  opBind (opRowsOf (opTileOf c.t) ((List.range n).map fun k => (at' k, ceilDiv (c.cols * c.w) 8))) fun f =>
    opPure fun k j => f (at' k + j * c.w / 8) (ceilDiv (j * c.w % 8 + c.w) 8) / 2 ^ (j * c.w % 8) % 2 ^ c.w

/-- The weight rows of positions `k0` to `k0 + n − 1`, by group of rows (R174). -/
def MCmd.opB (c : MCmd) (k0 n : Nat) : Op (List (Nat → Nat → Nat)) :=
  if c.op = 0x81 then opBind (c.opWeights c.trow (k0 / 2) (n / 2)) fun f => opPure [f]
  else if c.op = 0x82 then
    opMap
      (fun g =>
        if c.counts.getD g 0 = 0 then opPure fun _ _ => 0
        else c.opWeights (c.trow + g * c.kk * c.w / 4) k0 n)
      (List.range 8)
  else opBind (c.opWeights c.trow k0 n) fun f => opPure [f]

/-- The group of a row (R178, R185). -/
def groupOf : List Nat → Nat → Nat → Option Nat
  | [], _, _ => none
  | n :: rest, g, i => if i < n then some g else groupOf rest (g + 1) (i - n)

/-- The metadata words of a block, by column (R175). -/
def opMeta (c : MCmd) (row q : Nat) : Op (List Nat) :=
  let a := 128 * row + 1024 * q
  opBind (opRowsOf (opTileOf c.t) [(a, 4 * c.cols)]) fun f =>
    opPure ((List.range c.cols).map fun j => f (a + 4 * j) 4)

/-- Kept positions of group h of a metadata word (R175). -/
def metaFirst (word h : Nat) : Nat := word / 2 ^ (4 * h) % 4
def metaSecond (word h : Nat) : Nat := word / 2 ^ (4 * h + 2) % 4

/-- SPARSE_META with its word's pool address (R179, R335); the group goes to the record (R332). -/
def sparseMeta (t row q j : Nat) : Trap :=
  let a := 128 * row + 1024 * q + 4 * j
  { code := .sparseMeta, faddr := w64 (tileBank t (a / 128) * 2 ^ 16 + a / 128 % 512 * 128 + a % 128) }

/-- The first illegal group of a word: groups at or beyond position K are not read (R175). -/
def badGroup (c : MCmd) (q word : Nat) : Option Nat :=
  (List.range 8).find? fun h => decide (32 * q + 4 * h < c.kk) && decide (metaSecond word h ≤ metaFirst word h)

/-- The check of every metadata word (R179). -/
def opCheckMeta (c : MCmd) : Op Unit := fun s =>
  let row := s.cur.matrix.metaRow.toNat
  opEach
    (fun q =>
      opBind (opMeta c row q) fun words s =>
        match words.zipIdx.findSome? fun e => (badGroup c q e.1).map fun h => (e.2, h) with
        | some (j, h) =>
          .trap (s.setMatrix s.curCore { s.cur.matrix with group := h }) (sparseMeta c.t row q j)
        | none => .ok s ())
    (List.range (ceilDiv c.kk 32)) s

/-- The terms of an element for positions k0 to k0 + n − 1. -/
def MCmd.terms (c : MCmd) (a : Nat → Nat → Nat → Nat) (b : List (Nat → Nat → Nat)) (words : List Nat) (n i j : Nat) :
    List (Nat × Nat) :=
  if c.op = 0x81 then
    let word := words.getD j 0
    let w (k : Nat) : Nat := (b.getD 0 fun _ _ => 0) k j
    (List.range (n / 4)).flatMap fun h =>
      [(a i j (4 * h + metaFirst word h), w (2 * h)), (a i j (4 * h + metaSecond word h), w (2 * h + 1))]
  else
    let g := if c.op = 0x82 then (groupOf c.counts 0 i).getD 0 else 0
    (List.range n).map fun k => (a i j k, (b.getD g fun _ _ => 0) k j)

/-- One group of R83 of every element of a product (R178): the rows of the array that it changes, and its flags. -/
def MCmd.opProduct (c : MCmd) (u : Nat) : Op (List RowPut × FlagSet) := fun s =>
  let k0 := u * c.groupSize
  let n := min c.groupSize (c.kk - k0)
  let row := s.cur.matrix.metaRow.toNat
  opBind (if c.op = 0x81 ∧ u = 0 then opCheckMeta c else opPure ())
    (fun _ => opBind (c.opA k0 n) fun a => opBind (c.opB k0 n) fun b =>
      opBind (if c.op = 0x81 then opMeta c row u else opPure []) fun words =>
        opBind
          (opMap
            (fun i =>
              opBind (opArrayRow (2 * c.acc + i)) fun old =>
                let r := (List.range c.cols).map fun j =>
                  groupStep c.ety (if c.op = 0x83 ∧ u = 0 then 0 else elem 32 old j) (c.terms a b words n i j)
                fun s =>
                  .ok s (arrayPuts s.curCore (2 * c.acc + i) c.cols (joinElems 32 (r.map Prod.fst)),
                    (r.map Prod.snd).foldl (· ||| ·) 0))
            (List.range c.rows))
          fun rs => opPure (rs.flatMap Prod.fst, (rs.map Prod.snd).foldl (· ||| ·) 0)) s

/-! ### The epilogue (R84, R184, R185) -/

/-- The activation of an FP32 pattern (R184). -/
def activate (code bound t : Nat) : Nat × FlagSet :=
  let x := f32Fmt.value t
  let positive := !x.isNeg && !x.isZero
  let relu := if positive then t else 0
  match x with
  | .nan sig => (f32Fmt.nan, flagIf sig flagNv)
  | _ =>
    match code with
    | 1 => (relu, 0)
    | 2 => Func.gelu.apply .f32 .rne false t
    | 3 => Func.sigm.apply .f32 .rne false t
    | 4 => Func.tanh.apply .f32 .rne false t
    | _ => (if (f32Fmt.value bound).lt (f32Fmt.value relu) then bound else relu, 0)

/-- The bias of an element, where there is one (R185). -/
def Matrix.biasAt (m : Matrix) (i j : Nat) : Option Nat :=
  match m.bias with
  | none => none
  | some l =>
    match m.biasGrp with
    | none => some (l.getD j 0).toNat
    | some w =>
      match groupOf ((List.range 8).map fun g => bits w (8 * g) 8) 0 i with
      | some g => some (l.getD (256 * g + j) 0).toNat
      | none => none

/-- A stage of the epilogue. -/
def stage (on : Bool) (f : Nat → Nat × FlagSet) (t : Nat × FlagSet) : Nat × FlagSet :=
  if on then
    let (v, fl) := f t.1
    (v, fl ||| t.2)
  else t

/-- The FP32 value that the epilogue converts (R84). -/
def Matrix.epilogue (m : Matrix) (i j acc : Nat) : Nat × FlagSet :=
  let scale (l : Option (List (BitVec 32))) (n : Nat) (t : Nat × FlagSet) : Nat × FlagSet :=
    stage l.isSome (fun v => mul32 v ((l.getD []).getD n 0).toNat) t
  let t := scale m.colScale j (scale m.rowScale i (acc, 0))
  let b := m.biasAt i j
  let t := stage b.isSome (fun v => add32 v (b.getD 0)) t
  stage (bits m.act 0 4 != 0) (activate (bits m.act 0 4) (bits m.act 32 32)) t

/-- The drain format's rounding mode (R184). -/
def drainMode (rm : Nat) : Mode :=
  match rm with
  | 0 => .rne
  | 1 => .rz
  | 2 => .rmi
  | _ => .rpi

/-- The type takes the amax modifier (R133, R185). -/
def isNarrowFloat (t : ElemTy) : Bool := t == .e4m3 || t == .e5m2 || t == .e2m1

/-- The last of some rows keeps the high half of its last byte. -/
def lastHalf : List RowPut → List RowPut
  | [] => []
  | [p] => [{ p with half := true }]
  | p :: rest => p :: lastHalf rest

/-- One row of a drain: the pool rows it goes to, its flags, and the values that the conversion took (R185). -/
def MCmd.opDrainRow (c : MCmd) (i : Nat) : Op (List RowPut × FlagSet × List Nat) := fun s =>
  let m := s.cur.matrix
  opBind (opArrayRow (2 * c.acc + i))
    (fun row =>
      let ts := (List.range c.cols).map fun j => m.epilogue i j (elem 32 row j)
      let vs := ts.map fun t => stage true (convert .f32 c.ety (drainMode (bits m.fmt 0 2)) (m.fmt.getLsbD 2)) t
      let fl := (vs.map Prod.snd).foldl (· ||| ·) 0
      let n := ceilDiv (c.cols * c.w) 8
      let off := i * 128 * c.pitch
      let v := joinElems c.w (vs.map Prod.fst)
      opBind (c.opPuts off n v) fun ps =>
        opPure (if c.cols * c.w % 8 = 0 then ps else lastHalf ps, fl, ts.map Prod.fst)) s

/-! ### Weight loads (R182) -/

/-- Bytes of DEV memory at a virtual address, one row at most each; the read issues now (R182, R202). -/
def opDevPart (va n : Nat) : Op Nat := fun s =>
  let va := va % 2 ^ 56
  match s.entryAt s.cyc va n .read with
  | .error t => .trap s t
  | .ok e =>
    if e.cls ≠ 0 then .trap s { code := .memFault, faddr := w64 va, resumable := false }
    else
      let pa := e.phys va
      let (s, row, bad) := (s.landRow s.curCore (pa / 128)).coreRow s.curCore (pa / 128)
      if bad then uncorrectable va (e.recordPa va) .read s else .ok s (row / 2 ^ (8 * (pa % 128)) % 2 ^ (8 * n))

def opDevRead (va n : Nat) : Op Nat := opSpanRead opDevPart (spanRows n) va n

/-- A row decoded from its mask and its non-zero bytes (R182). -/
def expandRow : Nat → Nat → Nat → Nat
  | 0, _, _ => 0
  | n + 1, mask, src =>
    if mask % 2 = 1 then src % 256 + 256 * expandRow n (mask / 2) (src / 256) else 256 * expandRow n (mask / 2) src

/-- The rows of a BYTEMASK source from an address on. -/
def opExpand : Nat → Nat → Op (List Nat)
  | 0, _ => opPure []
  | n + 1, va =>
    opBind (opDevRead va 16) fun mask =>
      let k := ((List.range 128).filter fun b => mask.testBit b).length
      opBind (opDevRead (va + 16) k) fun src =>
        opBind (opExpand n (va + 16 + k)) fun rest => opPure (expandRow 128 mask src :: rest)

/-- The rows that `mwstr` writes. -/
def MCmd.opStream (c : MCmd) : Op (List Nat) :=
  if c.wb.getLsbD 32 then opExpand c.count c.wa.toNat
  else opMap (fun r => opDevRead (c.wa.toNat + 128 * (c.v + r)) 128) (List.range c.count)

/-- TILE row `r` of a transpose: element e of it is B[k][i] = S[i][k], with 256 elements to each k (R182). -/
def MCmd.opTransposed (c : MCmd) (r : Nat) : Op Nat :=
  let per := 1024 / c.w
  let i (e : Nat) : Nat := (r * per + e) % 256
  let bit (e : Nat) : Nat := 1024 * c.pitch * i e + (r * per + e) / 256 * c.w
  let used := (List.range per).filter fun e => decide (i e < c.cols)
  let len (e : Nat) : Nat := ceilDiv (bit e % 8 + c.w) 8
  opBind (c.opSpans (used.map fun e => (bit e / 8, len e))) fun f =>
    opPure (joinElems c.w ((List.range per).map fun e =>
      if i e < c.cols then f (bit e / 8) (len e) / 2 ^ (bit e % 8) % 2 ^ c.w else 0))

/-! ### Commands (R186) -/

/-- `n` FP32 values of the register file, from the command's register on, at a byte offset. -/
def MCmd.opFloats (c : MCmd) (off n : Nat) : Op (List (BitVec 32)) :=
  let a := c.v * 2048 + off
  opBind (opRowsOf c.opFileRow [(a, 4 * n)]) fun f => opPure ((List.range n).map fun i => BitVec.ofNat 32 (f (a + 4 * i) 4))

/-- A change of the engine's state. -/
def opMatrix (f : Matrix → Matrix) : Op FlagSet := fun s => .ok (s.setMatrix s.curCore (f s.cur.matrix)) 0

/-- The bias values of a command (R184). -/
def MCmd.opBias (c : MCmd) : Op FlagSet :=
  if c.ty = 0 then opMatrix fun m => { m with bias := none, biasGrp := none }
  else if c.mod then
    opBind
      (opMap
        (fun g =>
          if c.counts.getD g 0 = 0 then opPure (List.replicate 256 0) else c.opFloats (1024 * g) 256)
        (List.range 8))
      fun l => opMatrix fun m => { m with bias := some l.flatten, biasGrp := some c.wa }
  else opBind (c.opFloats 0 256) fun l => opMatrix fun m => { m with bias := some l, biasGrp := none }

/-- The image of a register of the engine's own core: v0 to v319, then the accumulators. -/
def MCmd.opImage (c : MCmd) (k : Nat) : Op Nat := fun s =>
  opBind (opMap (fun j => c.opRow (opRegCheck k) s.curCore (regBank k) (regRow k + j)) (List.range 16))
    (fun rows => opPure (imageOf rows)) s

/-- The rows that it goes to. -/
def opImagePuts (k img : Nat) : Op (List RowPut) := fun s =>
  match s.cur.regTrap s.curCore k with
  | some t => .trap s t
  | none =>
    .ok s ((List.range 16).map fun j =>
      { core := s.curCore, bank := regBank k, row := regRow k + j, reg := some k, v := elem 1024 img j, mask := 2 ^ 128 - 1 })

/-- `macc`. -/
def MCmd.opMacc (c : MCmd) : Op (List RowPut × FlagSet) :=
  opBind (c.opImage (320 + c.acc)) fun a => opBind (c.opImage c.v) fun b =>
    let r := (List.range 512).map fun i => add32 (elem 32 a i) (elem 32 b i)
    opBind (opImagePuts (320 + c.acc) (joinElems 32 (r.map Prod.fst))) fun ps =>
      opPure (ps, (r.map Prod.snd).foldl (· ||| ·) 0)

/-- `mqst`: `%mstat` as it stands, after which its flags clear. -/
def MCmd.opMqst (c : MCmd) : Op (List RowPut × FlagSet) := fun s =>
  opBind (opFilePuts (c.v * 2048) 8 s.cur.matrix.mstat.toNat)
    (fun ps => opBind (opMatrix fun m => { m with flags := 0 }) fun fl => opPure (ps, fl)) s

/-- Units of progress of a command (R190). -/
def MCmd.units (c : MCmd) : Nat :=
  if c.isProduct then if c.rows = 0 then 0 else ceilDiv c.kk c.groupSize
  else if c.op = 0x84 then c.rows
  else if c.op = 0x88 ∨ c.op = 0x91 then c.count
  else 1

/-- Adds the result of a unit to the command. -/
def MCmd.step (c : MCmd) (fl : FlagSet) : MCmd := { c with progress := c.progress + 1, flags := c.flags ||| fl }

/-- One unit of a command; the rows that it computes are still to be written. -/
def MCmd.opUnit (c : MCmd) : Op MCmd :=
  let u := c.progress
  let plain (m : Op FlagSet) : Op MCmd := opBind m fun fl => opPure (c.step fl)
  let puts (m : Op (List RowPut × FlagSet)) : Op MCmd := opBind m fun r => opPure { c.step r.2 with outs := r.1 }
  if c.isProduct then puts (c.opProduct u)
  else
    match c.op with
    | 0x84 => fun s =>
      let amax := s.cur.matrix.fmt.getLsbD 3 && isNarrowFloat c.ety
      opBind (c.opDrainRow u)
        (fun (r : List RowPut × FlagSet × List Nat) =>
          let d := { c.step r.2.1 with outs := r.1 }
          opPure (if amax then { d with amax := r.2.2.foldl (fun a t => amaxUpdate a (f32Fmt.value t)) d.amax } else d)) s
    | 0x85 =>
      if c.ty = 0 then
        plain (opMatrix fun m => if c.mod then { m with colScale := none } else { m with rowScale := none })
      else
        plain (opBind (c.opFloats 0 (if c.mod then 256 else 128)) fun l =>
          opMatrix fun m => if c.mod then { m with colScale := some l } else { m with rowScale := some l })
    | 0x86 => plain c.opBias
    | 0x87 => plain (opMatrix fun m => { m with act := c.wa })
    | 0x88 => plain (opBind (c.opRead (128 * u) 128) fun v => opBind (opTileRow c.t (c.firstRow + u) v) fun _ => opPure 0)
    | 0x89 =>
      plain (opBind c.opStream fun rows =>
        opBind (opEach (fun e => opTileRow c.t (c.firstRow + e.2) e.1) rows.zipIdx) fun _ => opPure 0)
    | 0x8B => plain (opMatrix fun m => { m with metaRow := c.wa.setWidth 13 })
    | 0x8C => plain (opMatrix fun m => { m with fmt := c.wa.setWidth 4 })
    | 0x8E => puts c.opMqst
    | 0x91 => plain (opBind (c.opTransposed u) fun v => opBind (opTileRow c.t (c.firstRow + u) v) fun _ => opPure 0)
    | 0x92 => puts c.opMacc
    | 0x93 =>
      let from' := if c.mod then c.v else 320 + c.acc
      let to' := if c.mod then 320 + c.acc else c.v
      puts (opBind (c.opImage from') fun v => opBind (opImagePuts to' v) fun ps => opPure (ps, 0))
    | _ => opPure (c.step 0)

/-! ### The engine -/

/-- The engine of a core works: it has a slice, its clock runs, it has raised no trap, and its context runs, or halts within the
skid (R190, R329). -/
def State.engineRuns (s : State) (core : Nat) : Bool :=
  match s.sliceOf core with
  | none => false
  | some v =>
    let c := s.ctx v.ctx
    (s.core core).matrix.trap.isNone && s.clockRuns core &&
      (if v.handler then c.mode == .stopped
       else (c.mode == .run) && (c.halt.isNone || !s.skidOver core))

/-- The engine raises a trap of a command; POOL_ROLE carries the sequence number (R191, R335). -/
def State.engineTrap (s : State) (core : Nat) (c : MCmd) (t : Trap) : State :=
  let t := if t.code = .poolRole then { t with faddr := t.faddr + w64 (c.seq * 2 ^ 32) } else t
  let s := s.leaveMatrixSems core
  let s := s.setMatrix core { (s.core core).matrix with trap := some t, trapNum := c.num }
  let x := s.ctxOf core
  match s.sliceOf core with
  | some v => if v.handler then s.handlerFault x core 1 t else s.raiseHalt x (.matrix core) t
  | none => s

/-- One unit as the engine of a core works on it: its accesses are of the core and wait for no reshape (R122), and the poison
of what it reads is the command's (R339). -/
def MCmd.engineUnit (c : MCmd) (core : Nat) : Op MCmd := fun s =>
  let was := s.core core
  let st := was.stream .X
  let t := { s with curCore := core, curK := .X }
  let t := t.setCur { (was.setStream .X { st with poisonDue := false }) with reshape := none }
  let back (t : State) : State :=
    let k := t.core core
    { t.setCore core { (k.setStream .X { k.stream .X with poisonDue := st.poisonDue }) with reshape := was.reshape } with
      curCore := s.curCore, curK := s.curK }
  match c.opUnit t with
  | .ok t d => .ok (back t) { d with poison := d.poison || (t.stream core .X).poisonDue }
  | .trap t e => .trap (back t) e
  | _ => .pause s

/-- A unit of a command, with its rows still to be written; a trap leaves the state as it was before the unit. -/
def State.runUnit (s : State) (core : Nat) (c : MCmd) : State × MCmd × Option Trap :=
  match c.engineUnit core s with
  | .ok s' c' => (s', c', none)
  | .trap s' t => (s.setMatrix core { (s.core core).matrix with group := (s'.core core).matrix.group }, c, some t)
  | _ => (s, c, none)

/-- Units of a command, with all their rows, until it has `n` of them: the state and the command as far as it came, and the trap of
a unit. -/
def State.runUnits (s : State) (core n : Nat) : Nat → MCmd → State × MCmd × Option Trap
  | 0, c => (s, c, none)
  | fuel + 1, c =>
    if n ≤ c.progress then (s, c, none)
    else
      match s.runUnit core c with
      | (s', c', none) =>
        match s'.putRows core c' fun _ => true with
        | (s', c', none) => s'.runUnits core n fuel c'
        | (_, _, some t) => (s, c, some t)
      | r => r

/-- A command in its place in the engine, replaced. -/
def Matrix.put (m : Matrix) (c : MCmd) : Matrix :=
  let f (d : MCmd) : MCmd := if d.num = c.num then c else d
  { m with running := m.running.map f, weights := m.weights.map f }
def Matrix.remove (m : Matrix) (num : Nat) : Matrix :=
  { m with running := m.running.filter fun d => d.num != num, weights := m.weights.filter fun d => d.num != num }

/-- The executing command or a running weight load, by its number among all. -/
def Matrix.executing (m : Matrix) (num : Nat) : Option MCmd := (m.running.toList ++ m.weights).find? fun c => c.num == num

/-- The signal of a command, if it has one (R168). -/
def State.signalCommand (s : State) (core : Nat) (c : MCmd) : State :=
  if !c.ssen then s
  else
    match ((s.core core).sem c.sems).signal 1 with
    | none => s.engineTrap core c (semOverflow c.sems ((s.core core).sem c.sems) 1)
    | some v => s.setCore core ((s.core core).setSem c.sems v)

/-- A command leaves the engine and counts as done (R169, R224). -/
def State.countCommand (s : State) (core : Nat) (c : MCmd) : State :=
  let m := (s.core core).matrix
  (s.setMatrix core { m.remove c.num with done := m.done + 1 }).traceRec (s.ctxOf core) (traceKey 1 core 0) 3 0x21 c.seq

/-- What a command has gathered reaches the registers at its completion: its flags, its part of `%amax`, and the poison bit of
X (R88, R170, R185, R339). -/
def Core.gather (k : Core) (c : MCmd) : Core :=
  let amax := k.amax ||| (c.amax &&& 0x100000000)
  { k with
    matrix := { k.matrix with flags := k.matrix.flags ||| (c.flags.setWidth 5 &&& 0x17) }
    amax := if bits amax 0 31 < bits c.amax 0 31 then w64 (setBits amax.toNat 0 32 (bits c.amax 0 32)) else amax
    xs := if c.poison then { k.xs with flags := k.xs.flags ||| 0x20 } else k.xs }

/-- A command completes, and then signals (R168 to R170). DESIGN CHOICE (log entry 47): one whose signal would overflow traps and has
not completed: it counts neither as done nor in the flags until its signal succeeds, and its record gives all its units as
progress. -/
def State.finishCommand (s : State) (core : Nat) (c : MCmd) : State :=
  let s := (s.landReg core 0x080).landReg core 0x030
  let t := s.signalCommand core c
  if ((t.core core).matrix.trap).isSome then t
  else (t.setCore core ((t.core core).gather c)).countCommand core c

/-- `tret.skip` discards a command: it counts as done, with no flag and no part in `%amax`, and then signals (R190, R224). DESIGN
CHOICE (log entry 47): where that signal would overflow, the command has left the engine, the engine traps SEM_OVERFLOW, and a
resumption does not try the signal again. -/
def State.discardCommand (s : State) (core : Nat) (c : MCmd) : State := (s.countCommand core c).signalCommand core c

/-- What the engine has done on a command stands in its place: a trap stops it. -/
def State.keepCommand (core : Nat) (r : State × MCmd × Option Trap) (go : State → MCmd → State) : State :=
  let t := r.1.setMatrix core ((r.1.core core).matrix.put r.2.1)
  match r.2.2 with
  | some e => t.engineTrap core r.2.1 e
  | none => go t r.2.1

/-- The engine writes the rows that a command has still to write, works on it up to a progress count, and completes it when it
reaches its end. -/
def State.workCommand (s : State) (core : Nat) (c : MCmd) (upTo : Nat) : State :=
  let n := min upTo c.units
  State.keepCommand core (s.putRows core c fun _ => true) fun s c =>
    State.keepCommand core (s.runUnits core n (n - c.progress) c) fun s c =>
      if c.units ≤ c.progress then s.finishCommand core c else s

/-- The engine writes, of the rows that a command has still to write, those of the given places; where none is left of its last unit,
of its next (R163, R189). -/
def State.writeSome (s : State) (core : Nat) (c : MCmd) (places : List Nat) : State :=
  let some' (s : State) (c : MCmd) : State := State.keepCommand core (s.putRows core c places.contains) fun s _ => s
  if c.outs ≠ [] then some' s c
  else if c.units ≤ c.progress then s
  else State.keepCommand core (s.runUnit core c) some' 

/-- Rows of its sources that the engine reads for a command before the units that use them, by their keys: those of the banks that its
operand's path reaches, SCR for a scratchpad operand and REG for a register (R112, R163, R189). -/
def State.readAhead (s : State) (core : Nat) (c : MCmd) (keys : List Nat) : MCmd :=
  let role := if c.isScr then 5 else 1
  let row (k : Nat) : Option (Nat × Nat) :=
    let o := s.core (core / 4 * 4 + k / 32768 % 4)
    let q := k % 32768
    if tblGet 0 o.roles (q / 512) = role ∧ !o.poolUe.contains q ∧ (tblFind c.seen k).isNone then
      some (k, o.poolRow (q / 512) (q % 512))
    else none
  { c with seen := (keys.filterMap row).foldl (fun t e => tblSet t e.1 e.2) c.seen }

/-- The head of the queue may start (R167, R183). DESIGN CHOICE (log entry 45): a `mwwait` or `mqst` that waits for the weight loads
has not started: it stays at the head of the queue, where `mabort` discards it. -/
def Matrix.mayStart (m : Matrix) (c : MCmd) : Bool :=
  !(rangesMeet c.tileSpan (m.weights.flatMap MCmd.tileSpan)) &&
    (if c.isLoad then !rangesMeet c.tileSpan (m.running.toList.flatMap MCmd.tileSpan)
     else m.running.isNone && !((c.op == 0x8A || c.op == 0x8E) && m.weights != []))

/-- Moves the head of the queue into execution. -/
def State.startCommand (s : State) (core : Nat) (c : MCmd) : State :=
  let m := (s.core core).matrix
  let m := { m with queue := m.queue.drop 1 }
  let s := s.setMatrix core (if c.isLoad then { m with weights := m.weights ++ [c] } else { m with running := some c })
  s.traceRec (s.ctxOf core) (traceKey 1 core 0) 3 0x20 (c.seq + c.op * 2 ^ 32)

/-- MATRIX_COMMAND_START: the head of a core's queue starts, once it has taken its semaphore (R167, R168). DESIGN CHOICE (log entry
45): its semaphore wait, and the limit of that wait, begin once nothing else keeps it from starting. -/
def execMatrixCommandStart (s : State) : Host.Outcome State Fault Refusal :=
  let core := s.ev.core
  let m := (s.core core).matrix
  match m.queue with
  | [] => .next s
  | c :: rest =>
    if !s.engineRuns core || !m.mayStart c then .next s
    else if c.swen && !c.semTaken then
      let now := s.cyclesOf core
      let (v, ok) := ((s.core core).sem c.semw).take (.matrix core) 1 now
      let c := if ok then { c with semTaken := true } else { c with waitSince := some (c.waitSince.getD (now, m.mlim.toNat)) }
      let s := s.setCore core { (s.core core).setSem c.semw v with matrix := { m with queue := c :: rest } }
      .next (if ok then s.startCommand core c else s)
    else .next (s.startCommand core c)

/-- MATRIX_COMMAND_COMPLETE: the executing command, or a running weight load, of a number completes (R168 to R170, R183). With
`flag` it is under way: the engine reads some rows of its sources, and works up to a progress count; or, with `flag2`, it computes a
unit and writes some of its rows (R189). -/
def execMatrixCommandComplete (s : State) : Host.Outcome State Fault Refusal :=
  let core := s.ev.core
  match (s.core core).matrix.executing s.ev.n with
  | some c =>
    if !s.engineRuns core then .next s
    else if s.ev.flag && s.ev.flag2 then .next (s.writeSome core c s.ev.nums)
    else if s.ev.flag then
      let c := s.readAhead core c s.ev.nums
      let s := s.setMatrix core ((s.core core).matrix.put c)
      .next (if s.ev.off < c.units then s.workCommand core c s.ev.off else s)
    else .next (s.workCommand core c c.units)
  | none => .next s

/-- MATRIX_SEM_EXPIRED: the semaphore wait of the head of the queue has passed its limit (R168). -/
def execMatrixSemExpired (s : State) : Host.Outcome State Fault Refusal :=
  let core := s.ev.core
  match (s.core core).matrix.queue with
  | [] => .next s
  | c :: _ =>
    match c.waitSince with
    | some (since, lim) =>
      if s.engineRuns core ∧ lim ≠ 0 ∧ lim < s.cyclesOf core - since then
        .next (s.engineTrap core c { code := .matrixSemExpired, faddr := w64 c.semw })
      else .next s
    | none => .next s

end Sys2Proof.Machine
end

