-- ==== Sys2Proof/Machine/Rings.lean ====
section
/-! DEFINITION. Rings and their spill, write-with-enqueue, `mark`, and the engines' FIFOs as the K stream reaches them
(R205 to R221). -/

namespace Sys2Proof.Machine

/-! ### Records in a ring (R205, R208, R209) -/

/-- The pool address of the record at a position. -/
def Ring.addr (r : Ring) (p : Nat) : Nat := r.base + p % r.cap * r.rsz

/-- Writes a record, and reads one. -/
def Core.putRecord (c : Core) (r : Ring) (p v : Nat) : Core :=
  let a := r.addr p
  c.setPoolRow (a / 2 ^ 16) (a / 128 % 512) (v % 2 ^ (8 * r.rsz) * 2 ^ (8 * (a % 128))) (spanMask (a % 128) r.rsz)

/-- Bytes of the record at a position, read by the executing stream. -/
def opRecord (r : Ring) (p : Nat) : Op Nat := fun s =>
  let a := r.addr p
  opBind (opPoolRow s.curCore (a / 2 ^ 16) (a / 128 % 512))
    (fun v => opPure (v / 2 ^ (8 * (a % 128)) % 2 ^ (8 * r.rsz))) s

/-- Records written from the tail on. -/
def Core.appendRecords (c : Core) (n : Nat) (recs : List Nat) : Core :=
  let r := c.ring n
  let c := (recs.zipIdx).foldl (fun c e => c.putRecord r (r.tail.toNat + e.2) e.1) c
  c.setRing n { r with tail := r.tail + BitVec.ofNat 32 recs.length }

/-- What an append comes to (R208). -/
inductive Append where
  | done (s : State)
  | full

/-- The physical address of a byte of a spill area, by its pinned pages (R207). -/
def areaPa : List (Nat × Nat) → Nat → Option Nat
  | [], _ => none
  | (pa, len) :: rest, off => if off < len then some (pa + off) else areaPa rest (off - len)

/-- The device writes a record to the spill area of ring `n` of a core: where it lies there, and what stands there, is not architectural;
records of another ring whose area shares its bytes become undefined (R209). -/
def State.spillWrite (s : State) (part core n : Nat) (r : Ring) : State :=
  match areaPa r.spillPages ((Config.freeWord s.free).toNat % 2 ^ r.ks * r.rsz) with
  | none => s
  | some pa =>
    let v := ofBytes (freeBytes (s.free + 1) r.rsz)
    let mask := spanMask (pa % 128) r.rsz
    (({ s with free := s.free + 1 + r.rsz } : State).homePut (some part) (pa / 128) (v * 2 ^ (8 * (pa % 128))) mask).spoilSpills
      (some (core, n)) (pa / 128) mask

/-- An append of records to a ring of a core: in the ring, or in its spill area within the context's quota (R208). -/
def State.appendRing (s : State) (core n : Nat) (recs : List Nat) : Append :=
  let r := (s.core core).ring n
  let x := s.ctxOf core
  let c := s.ctx x
  let k := recs.length
  if k ≤ r.free then .done (s.setCore core ((s.core core).appendRecords n recs))
  else if r.sp ∧ r.spill.length + k ≤ 2 ^ r.ks ∧ k * r.rsz ≤ c.spillq.toNat then
    let s := s.setCore core ((s.core core).setRing n { r with spill := r.spill ++ recs.map fun v => bytesOf v r.rsz })
    let s := recs.foldl (fun s _ => s.spillWrite c.part core n r) s
    .done (s.setCtx x { s.ctx x with spillq := c.spillq - BitVec.ofNat 32 (k * r.rsz) })
  else .full

/-- A row of a ring's spill area reads as uncorrectable data (R339, R365). -/
def State.spillBad (s : State) (part : Nat) (r : Ring) : Bool :=
  r.spillPages.any fun e => (List.range (ceilDiv (e.1 % 128 + e.2) 128)).any fun i => s.homeBad (some part) (e.1 / 128 + i)

/-- SPILL_MOVE: the oldest spilled record of a ring moves to the tail, and its quota returns (R209). The spill engine is no reader
of R339's table. DESIGN CHOICE (log entry 45): of an area of which a row is uncorrectable it moves a record of free bytes, since the
record may lie there. -/
def execSpillMove (s : State) : Host.Outcome State Fault Refusal :=
  let core := s.ev.core
  let n := s.ev.n
  let r := (s.core core).ring n
  match r.spill with
  | [] => .next s
  | b :: rest =>
    if r.cap ≤ r.used ∨ (s.core core).slice = none then .next s
    else
      let x := s.ctxOf core
      let lost := s.spillBad (s.ctx x).part r
      let b := if lost then freeBytes s.free b.length else b
      let s := if lost then { s with free := s.free + b.length } else s
      let c := (s.core core).setRing n { r with spill := rest }
      let s := s.setCore core (c.appendRecords n [ofBytes b])
      .next (s.setCtx x { s.ctx x with spillq := (s.ctx x).spillq + BitVec.ofNat 32 r.rsz })

/-! ### Ring set-up (R207) -/

/-- The ring of a config word. -/
def ringOfConfig (w spill : W64) : Ring :=
  { enabled := true, sp := w.getLsbD 32, z := bits w 24 3, k := bits w 28 4, ks := bits w 36 4, base := bits w 0 22
    spillVa := spill.toNat }

/-- A field of the config word is out of range, or a zero field is not zero. -/
def badConfig (w : W64) : Bool :=
  bits w 40 24 != 0 || bits w 33 3 != 0 || bits w 27 1 != 0 || bits w 22 2 != 0 || decide (4 < bits w 24 3) ||
    bits w 0 7 != 0

/-- The parts of a spill area, page by page, by physical address and length; `none` where a page is not DEV or not writable
(R207). `fuel` bounds the pages. -/
def State.spillParts (s : State) : Nat → Nat → Nat → Option (List (Nat × Nat))
  | 0, _, _ => some []
  | fuel + 1, va, n =>
    if n = 0 then some []
    else
      match s.translate s.curCore s.curCtx va with
      | some e =>
        let m := min n (e.size - (va - e.va))
        if e.cls = 0 ∧ e.w then (s.spillParts fuel ((va + m) % 2 ^ 56) (n - m)).map ((e.phys va, m) :: ·) else none
      | none => none

/-- The pinned parts of a ring's spill area (R207). DESIGN CHOICE (log entry 45): an address of 2^56 or more names no area. -/
def State.spillArea (s : State) (r : Ring) : Option (List (Nat × Nat)) :=
  if r.spillVa % 128 ≠ 0 ∨ 2 ^ 56 ≤ r.spillVa then none
  else s.spillParts (2 ^ r.ks * r.rsz / 4096 + 2) r.spillVa (2 ^ r.ks * r.rsz)

/-- Two rings' storages share a byte. -/
def Ring.overlaps (a b : Ring) : Bool := decide (a.base < b.base + b.cap * b.rsz) && decide (b.base < a.base + a.cap * a.rsz)

/-- The ring holds a record, claimed or spilled. -/
def Ring.busy (r : Ring) : Bool := r.enabled && (r.used != 0 || r.spill != [])

/-- The status of `rset` (R207). -/
def State.rsetStatus (s : State) (n : Nat) (w spill : W64) : Nat :=
  let c := s.cur
  let r := ringOfConfig w spill
  let last := r.base + r.cap * r.rsz
  if badConfig w then 1
  else if (c.ring n).busy then 2
  else if 2 ^ 22 < last ∨ (r.rows.any fun q => roleOf c.roles (q / 512) != 4) then 3
  else if (List.range 16).any fun m => m != n && (c.ring m).enabled && r.overlaps (c.ring m) then 4
  else if r.sp && (s.spillArea r).isNone then 5
  else 0

def execRset (h : Head) (rd ra rb : Reg) (ring : BitVec 4) (s : State) :=
  runHead h
    (effect fun s =>
      let st := s.rsetStatus ring.toNat (s.rx ra) (s.rx rb)
      let r := ringOfConfig (s.rx ra) (s.rx rb)
      let r := if r.sp then { r with spillPages := (s.spillArea r).getD [] } else r
      let s := if st = 0 then s.setCur (s.cur.setRing ring.toNat r) else s
      s.wx rd (w64 st)) s
def execRsetClr (h : Head) (rd : Reg) (ring : BitVec 4) (s : State) :=
  runHead h
    (effect fun s =>
      if (s.cur.ring ring.toNat).busy then s.wx rd 2 else (s.setCur (s.cur.setRing ring.toNat {})).wx rd 0) s

/-! ### Ring instructions (R208, R210) -/

/-- The ring of an instruction, which must be enabled (R210). -/
def opRing (n : Nat) : Op Ring := fun s =>
  let r := s.cur.ring n
  if r.enabled then .ok s r else .trap s (memParam 2 n)

/-- The banks of a ring's storage. -/
def Ring.banks (r : Ring) : List Nat :=
  (List.range ((r.base + r.cap * r.rsz - 1) / 2 ^ 16 + 1 - r.base / 2 ^ 16)).map fun i => r.base / 2 ^ 16 + i

/-- An access to the storage of a ring of the executing core, which waits for a reshape of its banks that issued before it (R122,
R358). -/
def opRingOpen (r : Ring) : Op Unit := fun s =>
  if r.banks.any fun b => s.bankHeld b then .wait s .busy 0 else .ok s ()

/-- The ring of an instruction that reads or writes its records. -/
def opRingRecords (n : Nat) : Op Ring := opBind (opRing n) fun r => opBind (opRingOpen r) fun _ => opPure r

def effRput (rd ra rb : Reg) (n limit : Nat) : Op Flow :=
  opBind (opRingRecords n) fun _ => fun s =>
    match s.appendRing s.curCore n [(s.rx ra).toNat + (s.rx rb).toNat * 2 ^ 64] with
    | .done s => .ok (s.wx rd 0) .next
    | .full => if limit = 0 then .ok (s.wx rd 1) .next else .wait s (.ring s.curCore n) (limit * 64)

def execRput (h : Head) (rd ra rb : Reg) (ring : BitVec 4) (limit : BitVec 24) (s : State) :=
  runAccess h (effRput rd ra rb ring.toNat limit.toNat) s

def effRget (rd : Reg) (n limit : Nat) : Op Flow :=
  opBind (opRingRecords n) fun r => fun s =>
    if r.held ≠ 0 then .trap s (memParam 4 r.held)
    else if r.avail = 0 then .wait s (.ring s.curCore n) (limit * 64)
    else
      opBind (opRecord r r.claimed.toNat)
        (fun v s =>
          let s := s.setCur (s.cur.setRing n { s.cur.ring n with head := r.head + 1, claimed := r.claimed + 1 })
          .ok (s.wx rd (w64 v)) .next) s

def execRget (h : Head) (rd : Reg) (ring : BitVec 4) (limit : BitVec 24) (s : State) :=
  runAccess h (effRget rd ring.toNat limit.toNat) s

/-- Records of one size, one after another. -/
def ofRecords (rsz : Nat) : List Nat → Nat
  | [] => 0
  | v :: rest => v % 2 ^ (8 * rsz) + ofRecords rsz rest * 2 ^ (8 * rsz)

/-- A claim copies its records whole or not at all: every row of the target is checked, and every record read, before the
first byte is written (R211, R330). -/
def effRclaim (rd rb : Reg) (n k : Nat) : Op Flow :=
  opBind (opRingRecords n) fun r => fun s =>
    let b := s.rx rb
    let m := min k r.avail
    if bits b 22 42 ≠ 0 ∨ 2 ^ 22 < b.toNat + m * r.rsz then .trap s (memParam 1 b.toNat)
    else
      let check (core a _len : Nat) : Op Nat := opBind (opScrBank core 0 a) fun _ => opPure 0
      opBind (opSpanRead (check s.curCore) (spanRows (m * r.rsz)) b.toNat (m * r.rsz))
        (fun _ => opBind (opMap (fun i => opRecord r (r.claimed.toNat + i)) (List.range m)) fun vs s =>
          opBind (opScrWrite s.curCore 0 b.toNat (m * r.rsz) (ofRecords r.rsz vs))
            (fun _ s =>
              let s := s.setCur (s.cur.setRing n { s.cur.ring n with claimed := r.claimed + BitVec.ofNat 32 m })
              .ok (s.wx rd (w64 m)) .next) s) s

def execRclaim (h : Head) (rd rb : Reg) (ring : BitVec 4) (n : BitVec 8) (s : State) :=
  runAccess h (effRclaim rd rb ring.toNat n.toNat) s
def execRclaimRel (h : Head) (rd : Reg) (ring : BitVec 4) (n : BitVec 8) (s : State) :=
  runHead h
    (opBind (opRing ring.toNat) fun r => fun s =>
      if r.held < n.toNat then .trap s (memParam 3 n.toNat)
      else .ok ((s.setCur (s.cur.setRing ring.toNat { r with head := r.head + BitVec.ofNat 32 n.toNat })).wx rd (w64 n.toNat)) .next) s

/-- A wait on a count of a ring. -/
def effRwait (f : Ring → Nat) (rd rb : Reg) (n limit : Nat) : Op Flow :=
  opBind (opRing n) fun r => fun s =>
    let k := (s.rx rb).toNat
    if r.cap < k then .trap s (memParam 3 k)
    else if k ≤ f r then .ok (s.wx rd (w64 (f r))) .next
    else .wait s (.ring s.curCore n) (limit * 64)

def execRwaitf (h : Head) (rd rb : Reg) (ring : BitVec 4) (limit : BitVec 24) (s : State) :=
  runHead h (effRwait Ring.avail rd rb ring.toNat limit.toNat) s
def execRwaite (h : Head) (rd rb : Reg) (ring : BitVec 4) (limit : BitVec 24) (s : State) :=
  runHead h (effRwait Ring.free rd rb ring.toNat limit.toNat) s
def execRstatPos (h : Head) (rd : Reg) (ring : BitVec 4) (s : State) :=
  runHead h (effect fun s => s.wx rd (w64 (s.cur.ring ring.toNat).positions)) s
def execRstatSpill (h : Head) (rd : Reg) (ring : BitVec 4) (s : State) :=
  runHead h (effect fun s => s.wx rd (w64 (s.cur.ring ring.toNat).spill.length)) s

/-! ### Write-with-enqueue (R212 to R215) -/

/-- The agent of a ring append by a stream, in the replay log (R354). -/
def agentOf (core : Nat) (k : StreamId) : Nat := core * 4 + k.num

/-- In replay mode, whether the next logged append to a ring of a core is this agent's (R355). -/
def Ctx.ringTurn (c : Ctx) (core ring agent : Nat) : Bool :=
  if c.replayMode ≠ 2 then true
  else
    match c.replayRecs.find? fun r => bits r.1 0 8 == 2 && bits r.1 8 8 == core && bits r.1 18 4 == ring with
    | some r => bits r.2 0 64 == agent
    | none => true

/-- An append by an agent other than the ring's core is logged, and uses up its record in replay (R354, R355). -/
def State.logAppend (s : State) (core ring agent tail : Nat) : State :=
  let x := s.ctxOf core
  let c := s.ctx x
  let s := s.replayLog x 2 core 0 ring tail agent
  match c.replayMode.toNat, c.replayRecs.find? fun r => bits r.1 0 8 == 2 && bits r.1 8 8 == core && bits r.1 18 4 == ring with
  | 2, some r => s.replayDrop x r
  | _, _ => s

/-- MEM_FAULT at a `wenq` target (R215). -/
def wenqFault (va off : Nat) (k : Access) : Trap :=
  { code := .memFault, faddr := w64 va, detail := k.code, offset := off }

/-- The translation of a byte of a `wenq` target. -/
def State.wenqEntry (s : State) (va n off : Nat) (k : Access) : Except Trap TlbEntry :=
  match s.accessEntry va n k with
  | .ok e => .ok e
  | .error _ => .error (wenqFault va off k)

/-- The core's own copy of a row gives way to an operation at the row's home, after what the core has sent there (R253,
R263). -/
def State.ownEvict (s : State) (row : Nat) : State := (s.landRow s.curCore row).wayEvict s.curCore row

/-- Writes bytes of a `wenq` target at its home, or posts them to a link: 1 where they are posted. -/
def opWenqPut (va n off v : Nat) : Op Nat :=
  opStep fun s =>
    match s.wenqEntry va n off .write with
    | .error t => .trap s t
    | .ok e =>
      let pa := e.phys va
      if e.cls = 0 then .ok ((s.ownEvict (pa / 128)).homeStore (some s.curPart) pa n v) 0
      else .ok (s.post (e.cls == 2) (e.busOf va) n v) 1

/-- The physical address of a memory ring's descriptor. -/
def opWenqDesc (desc : Nat) : Op Nat := fun s =>
  match s.wenqEntry desc 64 0 .read with
  | .error t => .trap s t
  | .ok e => if e.cls ≠ 0 then .trap s (memParam 7 desc) else .ok s (e.phys desc)

/-- The 64 bytes of a memory ring's descriptor, read at its home. -/
def opDescImage (desc pa : Nat) : Op Nat := fun s =>
  let s := s.ownEvict (pa / 128)
  if s.homeBad (some s.curPart) (pa / 128) then uncorrectable desc (pa / 128 * 128) .read s
  else .ok s (s.homeRead (some s.curPart) pa 64)

/-- The descriptor's fields: base, z and k (R213). -/
def descFields (img : Nat) : Option (Nat × Nat × Nat) :=
  let w (i : Nat) : Nat := elem 64 img i
  let z := w 1 % 8
  let k := w 1 / 16 % 32
  if w 0 / 2 ^ 56 ≠ 0 ∨ w 0 % 128 ≠ 0 ∨ 4 < z ∨ 24 < k ∨ w 1 / 8 % 2 ≠ 0 ∨ w 1 / 512 ≠ 0 ∨ w 4 ≠ 0 ∨ w 5 ≠ 0 ∨
      w 6 ≠ 0 ∨ w 7 ≠ 0 then none
  else some (w 0, z, k)

/-- The payload, read at issue: `n` records of `rsz` bytes from own SCR (R212). -/
def opPayload (src : W64) (n rsz : Nat) : Op Nat :=
  opStep fun s =>
    if bits src 22 42 ≠ 0 ∨ 2 ^ 22 < src.toNat + n * rsz then .trap s (memParam 1 src.toNat)
    else opScrRead s.curCore 0 src.toNat (n * rsz) s

/-- The records of a payload. -/
def recordsOf (n rsz v : Nat) : List Nat := (List.range n).map fun i => elem (8 * rsz) v i

/-- The ring of a core handle, which a core of the issuing context must have enabled (R212). -/
def opCoreRing (handle : W64) : Op Ring := fun s =>
  let core := bits handle 0 8
  let r := (s.core core).ring (bits handle 8 4)
  let mine := match s.sliceOf core with
    | some v => v.ctx == s.curCtx
    | none => false
  if bits handle 12 51 ≠ 0 ∨ 192 ≤ core ∨ !mine ∨ !r.enabled then .trap s (memParam 7 handle.toNat) else .ok s r

/-- What a `wenq` captures at its issue: the descriptor of a memory ring, and the payload (R212). -/
def opWenqIssue (handle src : W64) (n : Nat) : Op (Nat × Nat) :=
  if handle.getLsbD 63 then
    let desc := bits handle 0 56
    if bits handle 56 7 ≠ 0 ∨ desc % 64 ≠ 0 then opTrap (memParam 7 handle.toNat)
    else
      opBind (opStep fun s => opBind (opWenqDesc desc) (fun pa => opDescImage desc pa) s) fun img =>
        match descFields img with
        | none => opTrap (memParam 7 desc)
        | some (_, z, k) =>
          if 2 ^ k < n then opTrap (memParam 3 n)
          else opBind (opPayload src n (8 * 2 ^ z)) fun v => opPure (img, v)
  else
    opBind (opCoreRing handle) fun r =>
      if r.cap < n ∧ !r.sp then opTrap (memParam 3 n)
      else opBind (opPayload src n r.rsz) fun v => opPure (0, v)

/-- The append to a core ring of the issuing context; one to a ring of the own core waits for a reshape that issued before it
(R122, R358). -/
def effWenqCore (rd : Reg) (handle : W64) (limit n v : Nat) : Op Flow :=
  opBind (opCoreRing handle) fun r =>
    opBind (fun s => if bits handle 0 8 = s.curCore then opRingOpen r s else .ok s ()) fun _ s =>
    let core := bits handle 0 8
    let ring := bits handle 8 4
    let agent := agentOf s.curCore s.curK
    let turn := core == s.curCore || (s.ctx s.curCtx).ringTurn core ring agent
    match turn, s.appendRing core ring (recordsOf n r.rsz v) with
    | true, .done s' => .ok ((if core = s.curCore then s' else s'.logAppend core ring agent r.tail.toNat).wx rd 0) .next
    | false, .done _ => .wait s .forced 0
    | _, .full => if limit = 0 then .ok (s.wx rd 1) .next else .wait s (.ring core ring) (limit * 64)

/-- An append to the ring of a descriptor is under way that came before the executing stream's: the home serves one at a time
(R213). -/
def State.appending (s : State) (pa : Nat) : Bool :=
  s.appendOf pa (fun a => a != (s.curCore, s.curK)) || ((s.st.capt != some (2 ^ 60 + pa)) && s.appendHeld pa)

/-- The append to a memory ring, at its home, by the descriptor as captured, with its tail and head as they stand (R213,
R215). DESIGN CHOICE (log entry 45): a fault at the descriptor records the payload offset 0, one at the tail word the length of the
payload. With scope 31, records that went to a link have reached it before the tail is written (R214, R382). -/
def effWenqMem (rd : Reg) (handle : W64) (scope limit n img v : Nat) : Op Flow :=
  let desc := bits handle 0 56
  let (base, z, k) := (descFields img).getD (0, 0, 0)
  let rsz := 8 * 2 ^ z
  let room : Op Nat := opStep fun s =>
    opBind (opWenqDesc desc)
      (fun pa s =>
        if s.appending pa then .wait s .busy 0
        else
          opBind (opDescImage desc pa)
            (fun now s =>
              if ringRoom k (elem 64 now 2) (elem 64 now 3) n then
                .ok (s.setSt { s.st with capt := some (2 ^ 60 + pa) }) (1 + elem 64 now 2)
              else if limit = 0 then .ok s 0
              else .wait s (.memRing desc) (limit * 64)) s) s
  opBind room fun r =>
    if r = 0 then fun s => .ok (s.wx rd 1) .next
    else
      let tail := r - 1
      opBind
        (opMap (fun e => opWenqPut ((base + (tail + e.2) % 2 ^ k * rsz) % 2 ^ 56) rsz (e.2 * rsz) e.1) (recordsOf n rsz v).zipIdx)
        fun posted =>
          opBind (if scope = 31 ∧ posted.any (· == 1) then flushPosted else opPure ()) fun _ =>
            opBind (opWenqPut (desc + 16) 8 (n * rsz) ((tail + n) % 2 ^ 64)) fun _ s => .ok (s.wx rd 0) .next

/-- A `wenq` after its issue: the release part, and the append (R214). -/
def effWenq (rd ra : Reg) (scope limit n : Nat) (e : ScopeEntry) (c : Nat × Nat) : Op Flow :=
  opBind (releasePart scope e) fun _ s =>
    let handle := s.rx ra
    if handle.getLsbD 63 then effWenqMem rd handle scope limit n c.1 c.2 s else effWenqCore rd handle limit n c.2 s

def execWenq (h : Head) (rd ra rb : Reg) (scope : BitVec 5) (limit : BitVec 17) (n : BitVec 7) (s : State) :=
  runCapture h
    (opBind (captureScope scope.toNat) fun e => fun s =>
      opBind (opWenqIssue (s.rx ra) (s.rx rb) n.toNat) (fun c => opPure (e, c)) s)
    (fun p => effWenq rd ra scope.toNat limit.toNat n.toNat p.1 p.2) s

/-! ### Mark (R221) -/

/-- The partner's queue of a `mark`. -/
def markPartner : StreamId → StreamId
  | .L => .S
  | k => if k = .S then .L else k

/-- The n-th `mark` of L and the n-th of S retire once both have issued; the pair orders what either stream has written before
(R36, R221). DESIGN CHOICE (log entry 47): a `mark` whose guard is false, or that `tret.skip` skips, has no number. -/
def effMark : Op Flow := fun s =>
  let n := s.st.marks + 1
  let other := s.cur.stream (markPartner s.curK)
  if n ≤ other.marksIssued then
    let s := (s.landSr s.curCore .L).landSr s.curCore .S
    .ok (s.setSt { s.st with marks := n }) .next
  else .wait s (.mark n) s.st.tlim.toNat

def execMark (h : Head) (s : State) := runTok h { kind := .mark } effMark s

/-! ### Engine FIFOs (R218 to R220) -/

/-- The bit of an engine in a scope entry's engine mask (R246). -/
def engineBit (die slot : Nat) : Nat := 8 * die + (if slot < 5 then slot else 5)

/-- The engine of a handle, or the given trap. -/
def opEngine (handle : W64) (bad : Trap) : Op (Nat × Nat) := fun s =>
  match (if 128 ≤ handle.toNat then none else engineSlot handle.toNat) with
  | some e => .ok s e
  | none => .trap s bad

/-- MEM_PARAM check 6 of an instruction that enters a command. DESIGN CHOICE (log entry 41): its faddr holds the handle in
[7:0] and the scope index that R290 lists in [12:8]; a handle of more than eight bits stands alone. -/
def engineScope (handle scope : Nat) : Trap := memParam 6 (if handle < 256 then handle + scope * 2 ^ 8 else handle)

/-- Enters a command in an engine's FIFO, after the release part, and waits for room (R219). `check` is the block's
address, which must be aligned. -/
def effCommand (rd : Reg) (scope : BitVec 5) (e : ScopeEntry) (die slot : Nat) (check : Option Nat) (src : VSource) : Op Flow :=
  fun s =>
    let handle := engineHandle die slot
    let misaligned := match check with
      | some a => a % 64 != 0
      | none => false
    if !e.engines.getLsbD (engineBit die slot) then .trap s (engineScope handle scope.toNat)
    else if misaligned then .trap s (engineScope handle scope.toNat)
    else if 8 ≤ (s.engine die slot).occupancy s.curCore then .wait s (.engineRoom handle) s.st.tlim.toNat
    else
      opBind (releasePart scope.toNat e)
        (fun _ s =>
          let g := s.engine die slot
          let seq := tblGet 0 g.seqs s.curCore
          let c : VCmd := { die := die, ctx := s.curCtx, core := s.curCore, slice := s.cur.slice.getD 0, seq := seq, src := src, scope := s.st.captScope }
          let g := { g with fifo := g.fifo ++ [c], seqs := tblSet g.seqs s.curCore ((seq + 1) % 2 ^ 32) }
          .ok ((s.setEngine die slot g).wx rd (w64 seq)) .next) s

def effEpush (rd ra rb : Reg) (scope : BitVec 5) (e : ScopeEntry) : Op Flow := fun s =>
  let a := (s.rx rb).toNat
  opBind (opEngine (s.rx ra) (engineScope (s.rx ra).toNat scope.toNat))
    (fun d => effCommand rd scope e d.1 d.2 (some a) (.block (a % 2 ^ 56))) s

def execEpush (h : Head) (rd ra rb : Reg) (scope : BitVec 5) (s : State) := runScope h scope (effEpush rd ra rb scope) s

def effEpop (rd ra : Reg) (limit : Nat) : Op Flow := fun s =>
  opBind (opEngine (s.rx ra) (memParam 6 (s.rx ra).toNat))
    (fun d s =>
      let g := s.engine d.1 d.2
      match g.elements s.curCore with
      | [] => .wait s (.engineResult (engineHandle d.1 d.2)) (limit * 64)
      | v :: rest => .ok ((s.setEngine d.1 d.2 { g with results := tblSet g.results s.curCore rest }).wx rd v) .next) s

def execEpop (h : Head) (rd ra : Reg) (limit : BitVec 24) (s : State) := runHead h (effEpop rd ra limit.toNat) s

end Sys2Proof.Machine
end

