-- ==== Sys2Proof/Machine/Scopes.lean ====
section
/-! DEFINITION. The scope table, atomics, and waiting on an address (R246 to R269, R386, and the scope command of R380). -/

namespace Sys2Proof.Machine

/-! ### Installing an entry (R249) -/

/-- The image in its eight words. -/
def imageWord (img i : Nat) : Nat := elem 64 img i

/-- The entry of an image, at a generation. -/
def imageEntry (img : Nat) (gen : BitVec 8) : ScopeEntry :=
  { cores := BitVec.ofNat 192 (img % 2 ^ 192), slices := BitVec.ofNat 64 (imageWord img 3)
    engines := BitVec.ofNat 16 (imageWord img 4), classes := BitVec.ofNat 4 (imageWord img 4 / 2 ^ 16)
    valid := (imageWord img 4).testBit 32, gen := gen }

/-- BAD_IMAGE: a zero field is not zero, or a valid image names no class. -/
def badImage (img : Nat) : Bool :=
  let w := imageWord img 4
  let e := imageEntry img 0
  imageWord img 5 != 0 || imageWord img 6 != 0 || imageWord img 7 != 0 || w / 2 ^ 48 != 0 || w / 2 ^ 33 % 2 ^ 7 != 0 ||
    w / 2 ^ 20 % 2 ^ 12 != 0 || w.testBit 7 || w.testBit 15 || (e.valid && e.classes == 0)

/-- The cores of a partition's clusters (R291). -/
def Part.coreMask (p : Part) : BitVec 192 :=
  BitVec.ofNat 192 (((List.range 48).map fun i => if p.clusters.getLsbD i then 15 * 2 ^ (4 * i) else 0).sum)

/-- The L2 slices allotted to a partition (R249). -/
def State.sliceMask (s : State) (p : Nat) : BitVec 64 :=
  let die (d : Nat) : Nat := if (s.die d).split then (s.part p).smap d else 2 ^ 32 - 1
  BitVec.ofNat 64 (die 0 + die 1 * 2 ^ 32)

/-- FOREIGN: a valid image names a core or a slice of no use to the partition. -/
def State.foreignImage (s : State) (p img : Nat) : Bool :=
  let e := imageEntry img 0
  e.valid && ((e.cores &&& ~~~ (s.part p).coreMask) != 0 || (e.slices &&& ~~~ s.sliceMask p) != 0)

/-- An instruction of a running context, or a command of it that its engine has yet to begin, still holds an entry at a
generation (R251). -/
def State.scopeHeld (s : State) (x n gen : Nat) : Bool :=
  let held (st : Stream) : Bool := st.captScope == some (n, gen) && !st.stopped && st.trap.isNone
  (s.cores.any fun c => ((s.sliceOf c.1).any fun v => v.ctx == x) && allStreams.any fun k => held (c.2.stream k)) ||
  ((s.ctx x).mode == .run && s.dies.any fun d => d.2.engines.any fun e => e.2.fifo.any fun v => v.ctx == x && v.scope == some (n, gen))

/-- The status of installing an image: 1 BAD_IMAGE, 2 FOREIGN, 0 neither. -/
def State.imageStatus (s : State) (x img : Nat) : Nat :=
  if badImage img then 1 else if s.foreignImage (s.ctx x).part img then 2 else 0

/-- The result word of an install that changes nothing. -/
def State.scopeRefused (s : State) (x n st : Nat) : Nat := st * 256 + (tblGet {} (s.ctx x).scopes n).gen.toNat

/-- Installs an image and gives the result word, or `none` while a capture is held. -/
def State.installScope (s : State) (x n img : Nat) : Option (State × Nat) :=
  let e := tblGet {} (s.ctx x).scopes n
  if s.scopeHeld x n e.gen.toNat then none
  else
    let new := imageEntry img (e.gen + 1)
    some (s.setCtx x { s.ctx x with scopes := tblSet (s.ctx x).scopes n new }, new.gen.toNat)

/-- `scset`: the image is read at its issue, and checked once (R249). -/
def effScset (rd : Reg) (n img : Nat) : Op Flow :=
  opBind (opStep fun s => .ok s (s.imageStatus s.curCtx img)) fun st s =>
    if st ≠ 0 then .ok (s.wx rd (w64 (s.scopeRefused s.curCtx n st))) .next
    else
      match s.installScope s.curCtx n img with
      | some (s, v) => .ok (s.wx rd (w64 v)) .next
      | none => .wait s .busy 0

/-- What `scset` reads at its issue; it needs HANDLER level (R33, R249). -/
def opScopeImage (ra : Reg) : Op Nat := fun s =>
  if !s.isHandler then .trap s (privViolation 0xC4 0)
  else
    let a := memVa (s.rx ra).toNat
    opStep (readUnit (a - a % 64) 64) s

def execScset (h : Head) (rd ra : Reg) (scope : BitVec 5) (s : State) :=
  runCapture h (opScopeImage ra) (effScset rd scope.toNat) s

/-- `scget` (R250). -/
def execScget (h : Head) (rd : Reg) (scope : BitVec 5) (w : BitVec 4) (s : State) :=
  runHead h (effect fun s => s.wx rd ((s.scopeEntry s.curCtx scope.toNat s.curCore).word w.toNat)) s

/-- A pending scope command of the host goes on (R380). -/
def State.scopeStep (s : State) (x : Nat) : State :=
  let c := s.ctx x
  match c.scopeBusy with
  | none => s
  | some (img, n) =>
    match s.installScope x n img with
    | none => s
    | some (s, v) => s.setCtx x { s.ctx x with scopeBusy := none, scopeResult := BitVec.ofNat 16 v }

/-- A write of the scope command: the host installs an entry from an image in DEV memory (R380). An image that is
uncorrectable is no image: BAD_IMAGE (log entry 41). -/
def State.scopeCommand (s : State) (x : Nat) (v : W64) : State :=
  let s := s.scopeStep x
  let c := s.ctx x
  let n := bits v 0 5
  let pa := bits v 6 50 * 64 % devTop
  if c.scopeBusy.isSome then s
  else if isFixedScope n then s.setCtx x { c with scopeResult := 0x300 }
  else
    let img := s.homeRead none pa 64
    let st := if s.homeBad none (pa / 128) then 1 else s.imageStatus x img
    if st ≠ 0 then s.setCtx x { c with scopeResult := BitVec.ofNat 16 (s.scopeRefused x n st) }
    else (s.setCtx x { c with scopeBusy := some (img, n) }).scopeStep x

/-- SCOPE_COMMAND (R380). -/
def execScopeCommand (s : State) : Host.Outcome State Fault Refusal := .next (s.scopeCommand s.ev.ctx s.ev.v)

/-! ### Atomics (R262 to R265, R386) -/

/-- Bytes of an atomic's type. -/
def atomicSize (ty : Nat) : Nat := if ty = 1 then 8 else if ty = 0 ∨ ty = 2 then 4 else 16

/-- An atomic on a DEV unit, at its home (R263). -/
def opDevAtomic (va pa n op v cmp : Nat) : Op Nat := fun s =>
  let s := s.ownEvict (pa / 128)
  let p := some s.curPart
  opBind (if s.homeBad p (pa / 128) then uncorrectable va (pa / 128 * 128) .atomic else opGet fun s => s.homeRead p pa n)
    (fun old s => .ok (s.homeAtomic p pa n op v cmp old) old) s

/-- An `amon` on a DEV unit whose request leaves the core: it is performed later (R263). One whose row is uncorrectable when the
request leaves is not left so: it is a reader, which traps or reads zeros (R339). -/
def opLateAtomic (va pa n op v : Nat) : Op Nat := fun s =>
  let s := s.ownEvict (pa / 128)
  .ok (s.setCur { s.cur with pending := s.cur.pending ++ [.amon s.curK va pa n op v] }) 0

/-- `%hatom` after an atomic of a link (R386). -/
def State.noteAtomic (s : State) (refused : Bool) : State :=
  s.setSt { s.st with hatom := if refused then 3 else s.st.hatom &&& 2 }

/-- An AtomicOp through a port, within the present step: one more than the old value, or 0 where the completer refused it
under the STATUS policy (R383, R386). -/
def opLinkAtomic (peer : Bool) (bus n op v cmp va pa : Nat) : Op Nat :=
  opBind
    (awaitOut
      { peer := peer, bus := bus, len := n, atomic := some (op, BitVec.ofNat 128 v, BitVec.ofNat 128 cmp), va := va })
    fun c =>
      match c with
      | .data old => opBind (opHostData n old.toNat) fun old s => .ok (s.noteAtomic false) (old + 1)
      | .poisoned => opBind (uncorrectable va pa .atomic) fun _ s => .ok (s.noteAtomic false) 1
      | .refused => fun s =>
        if (s.ctx s.curCtx).hatom then .ok (s.noteAtomic true) 0
        else .trap s { code := .hostAtomicUnsupported, faddr := w64 va, detail := 3 }

/-- MEM_PARAM check 8: the address, and the operation that R269 lists (10 is compare and swap). DESIGN CHOICE (log entry 45): the
operation stands where a `wenq` target fault has its offset, in waitid. -/
def atomicParam (va op : Nat) : Trap := { memParam 8 va with offset := op }

/-- The translation of an atomic, made once, with the operations that a link carries (R264). -/
def opAtomicEntry (va n op : Nat) : Op TlbEntry :=
  opBind (opEntry va n .atomic) fun e =>
    if e.cls ≠ 0 ∧ op ≠ 0 ∧ op ≠ 8 ∧ op ≠ 10 then opTrap (atomicParam va op)
    else opBind (opOnce id) fun _ => opPure e

/-- An atomic of a stream at a virtual address, under a captured entry: its translation, the release part, the access, the
acquire part. One more than the old value, or 0 for a refusal. -/
def opAtomic (scope : Nat) (e : ScopeEntry) (rel acq amon : Bool) (a n op v cmp : Nat) : Op Nat :=
  let va := a - a % n
  opBind (opAtomicEntry va n op) fun t =>
    opBind (if rel then releasePart scope e else opPure ()) fun _ =>
      opBind
        (opStep fun s =>
          let pa := t.phys va
          if t.cls ≠ 0 then opLinkAtomic (t.cls == 2) (t.busOf va) n op v cmp va pa s
          else if amon && s.late && !s.homeBad (some s.curPart) (pa / 128) then opLateAtomic va pa n op v s
          else opBind (opDevAtomic va pa n op v cmp) (fun old => opPure (old + 1)) s)
        fun r => opBind (if acq then acquirePart scope e else opPure ()) fun _ => opPure r

/-- Release and acquire of an order field (R262). -/
def ordRel (ord : BitVec 2) : Bool := ord.getLsbD 1
def ordAcq (ord : BitVec 2) : Bool := ord.getLsbD 0

/-- The destination of an atomic: the old value, or 3 for a refusal (R386). -/
def atomicResult (r : Nat) : W64 := if r = 0 then 3 else w64 (r - 1)

def effAmo (rd ra rb : Reg) (scope : Nat) (op : Nat) (ord : BitVec 2) (ty : Nat) (e : ScopeEntry) : Op Flow := fun s =>
  let n := atomicSize ty
  opBind (opAtomic scope e (ordRel ord) (ordAcq ord) false (memVa (s.rx ra).toNat) n op (bits (s.rx rb) 0 (8 * n)) 0)
    (fun r s => .ok (s.wx rd (atomicResult r)) .next) s

def execAmo (h : Head) (rd ra rb : Reg) (scope : BitVec 5) (op : BitVec 4) (ord ty : BitVec 2) (s : State) :=
  runScope h scope (effAmo rd ra rb scope.toNat op.toNat ord ty.toNat) s

def effAmon (ra rb : Reg) (scope : Nat) (op : Nat) (ord : BitVec 2) (ty : Nat) (e : ScopeEntry) : Op Flow := fun s =>
  let n := atomicSize ty
  opBind (opAtomic scope e (ordRel ord) false true (memVa (s.rx ra).toNat) n op (bits (s.rx rb) 0 (8 * n)) 0)
    (fun _ s => .ok s .next) s

def execAmon (h : Head) (ra rb : Reg) (scope : BitVec 5) (op : BitVec 4) (ord ty : BitVec 2) (s : State) :=
  runScope h scope (effAmon ra rb scope.toNat op.toNat ord ty.toNat) s

def effAcas (rd ra rb : Reg) (scope : Nat) (ord : BitVec 2) (ty : Nat) (e : ScopeEntry) : Op Flow := fun s =>
  let n := atomicSize ty
  opBind
    (opAtomic scope e (ordRel ord) (ordAcq ord) false (memVa (s.rx ra).toNat) n 10 (bits (s.rx rb) 0 (8 * n))
      (bits (s.rx rd) 0 (8 * n)))
    (fun r s => .ok (s.wx rd (atomicResult r)) .next) s

def execAcas (h : Head) (rd ra rb : Reg) (scope : BitVec 5) (ord ty : BitVec 2) (s : State) :=
  runScope h scope (effAcas rd ra rb scope.toNat ord ty.toNat) s

/-! ### Monitors (R267, R268) -/

/-- The monitor that a stream holds. -/
def State.monitorOf (s : State) (core : Nat) (k : StreamId) : Option Monitor :=
  (s.cluster (clusterOf core)).monitors.find? fun m => m.core == core && m.k == k

/-- Frees the monitor of a stream. -/
def State.freeMonitor (s : State) (core : Nat) (k : StreamId) : State :=
  let c := s.cluster (clusterOf core)
  s.setCluster (clusterOf core) { c with monitors := c.monitors.filter fun m => !(m.core == core && m.k == k) }

/-- `marm` (R267). -/
def effMarm (rd ra : Reg) : Op Flow := fun s =>
  let va := memVa (s.rx ra).toNat
  match s.accessEntry va 1 .read with
  | .error t => .trap s t
  | .ok e =>
    let row := e.phys va / 128
    let s := s.freeMonitor s.curCore s.curK
    if e.cls ≠ 0 then .ok (s.wx rd 2) .next
    else
      let s := s.ownEvict row
      let i := clusterOf s.curCore
      let c := s.cluster i
      if 16 ≤ c.monitors.length then .ok (s.wx rd 1) .next
      else
        let m : Monitor := { core := s.curCore, k := s.curK, row := row, event := none }
        .ok ((s.setCluster i { c with monitors := c.monitors ++ [m] }).wx rd 0) .next

def execMarm (h : Head) (rd ra : Reg) (s : State) := runHead h (effMarm rd ra) s

/-- `mwait` returns with a code: the monitor is freed and the core's copy of its row dropped (R268). -/
def State.endMwait (s : State) (rd : Reg) (code : Nat) : State :=
  match s.monitorOf s.curCore s.curK with
  | some m => ((s.freeMonitor s.curCore s.curK).wayEvict s.curCore m.row).wx rd (w64 code)
  | none => s.wx rd (w64 code)

/-- The monitor of a stream waits from the issue of its `mwait`: from then on evictions and spurious events count (R268). -/
def State.monitorWaits (s : State) : State :=
  let i := clusterOf s.curCore
  let c := s.cluster i
  let f (m : Monitor) : Monitor := if m.core = s.curCore ∧ m.k = s.curK then { m with waiting := true } else m
  s.setCluster i { c with monitors := c.monitors.map f }

/-- `mwait` (R268). -/
def effMwait (rd : Reg) (limit : Nat) : Op Flow := fun s =>
  match s.monitorOf s.curCore s.curK with
  | none => .ok (s.endMwait rd 3) .next
  | some m =>
    match m.event with
    | some code => .ok (s.endMwait rd code) .next
    | none =>
      let since := match s.st.wait with
        | some w => if w.kind = .mon m.row then w.since else s.cyc
        | none => s.cyc
      if limit * 64 < s.cyc - since then .ok (s.endMwait rd 4) .next else .wait s (.mon m.row) 0

def execMwait (h : Head) (rd : Reg) (limit : BitVec 24) (s : State) :=
  runForm h {} noHold (opOnce State.monitorWaits) (fun _ => effMwait rd limit.toNat) s

/-- MONITOR_EVICTION: a row leaves its home slice, of which the monitors take the event; in SPLIT mode the slice that serves partition
`part`, which writes its line of the row back (R268, R327). -/
def execMonitorEviction (s : State) : Host.Outcome State Fault Refusal :=
  let row := s.ev.row
  .next ((s.l2EvictAll (homeDie (row * 128)) (· == l2Key s.ev.part row)).monitorEvent (some s.ev.part) row 1)

/-- SPURIOUS_EVENT: a spurious event arrives at the monitor of a stream. -/
def execSpuriousEvent (s : State) : Host.Outcome State Fault Refusal :=
  let i := clusterOf s.ev.core
  let c := s.cluster i
  let f (m : Monitor) : Monitor := if m.core = s.ev.core ∧ m.k = s.ev.k then m.hit m.row 2 else m
  .next (s.setCluster i { c with monitors := c.monitors.map f })

/-- MWAIT_EXPIRED: the limit of a waiting `mwait` has passed, and it returns EXPIRED; or, where an event has arrived before it, the
code of that event (R268). -/
def execMwaitExpired (s : State) : Host.Outcome State Fault Refusal :=
  let core := s.ev.core
  let k := s.ev.k
  let o := { s with curCore := core, curK := k }
  match (s.stream core k).wait, o.headInstr with
  | some w, some (.mwait _ rd limit) =>
    if w.kind.state = 5 ∧ limit.toNat * 64 < s.cyclesOf core - w.since ∧ s.canRun core k then
      let code := ((s.monitorOf core k).bind fun m => m.event).getD 4
      .next (s.completeHead core k fun s => s.endMwait rd code)
    else .next s
  | _, _ => .next s

end Sys2Proof.Machine
end

