-- ==== Sys2Proof/Machine/Sched.lean ====
section
/-! DEFINITION. Stream queues, dependence counters, selection, placement, admission, binding, budgets and slice ends
(R291 to R317). -/

namespace Sys2Proof.Machine

/-! ### Headers and queues (R294 to R297) -/

/-- A pool word is valid (R115). -/
def poolWordOk (w : Nat) : Bool :=
  let f := poolField w
  decide (w < 2 ^ 28) && decide (1 ≤ f 0 4) && decide (f 0 4 ≤ 10) && decide (f 4 5 ≤ 16) && decide (f 9 5 ≤ 16) &&
    decide (f 14 7 ≤ 52) && decide (f 21 7 ≤ 52) && decide (f 0 4 + 2 + f 4 5 + f 9 5 + f 14 7 + f 21 7 ≤ 64)

/-- The home die of a queue (R294). -/
def queueDie (q : Nat) : Nat := q / 512 % 2

/-- The dies on which a queue's gangs may be placed, the home die first (R303). -/
def queueDies (q : Nat) (dies : BitVec 2) : List Nat :=
  let home := queueDie q
  if dies = 0 then [home]
  else [home, 1 - home].filter fun d => dies.getLsbD d

/-- Cores of a gang (R295). -/
def gangSize (code : Nat) : Nat := 2 ^ code

/-- The placements of a gang in a partition, in the order in which they are tried (R303). -/
def State.gangPlacements (s : State) (p code : Nat) (dies : List Nat) : List (List Nat) :=
  let n := gangSize code
  let part := s.part p
  dies.flatMap fun d =>
    ((List.range (96 / n)).map fun m => (List.range n).map fun i => 96 * d + n * m + i).filter fun l =>
      l.all fun c => part.clusters.getLsbD (clusterOf c) && part.hcore.toNat != c

/-- The header passes the checks that do not depend on the queue (R296). -/
def headerOk (h : Header) (dn : Nat) : Bool :=
  h.word 2 / 2 ^ 19 % 2 ^ 5 == 0 && decide (h.word 3 < 2 ^ 56) && h.word 3 % 4096 == 0 && decide (h.word 6 < 2 ^ 56) &&
    h.budget != 0 && decide (h.gang ≤ 5) &&
    (allStreams.all fun k => h.entry k / 8 % 8 == 0 && h.entry k % 8 != 7) && poolWordOk h.poolWord &&
    (h.succ == 0xFFFF || decide (h.succ < dn))

/-- The words of a header, as a die's scheduler reads them at their homes; `none` where its address fails (R296, R297). -/
def State.readHeader (s : State) (d x addr : Nat) : Option Header :=
  if addr % 64 ≠ 0 then none
  else
    match (List.range 8).mapM fun i => s.devWord (some (d, x)) (some (s.ctx x).part) (addr + 8 * i) with
    | some ws => some { addr := addr, words := ws }
    | none => none

/-- A queue without its head: a head that a restarted slice had displaced is the head again, as it was captured (R297). -/
def Queue.behead (v : Queue) : Queue :=
  match v.displaced with
  | (h, n) :: rest => { v with entries := v.entries.drop 1, head := h, turn := n, displaced := rest }
  | [] => { v with entries := v.entries.drop 1, head := none }

/-- Captures the header of a queue's head; heads that fail R296 are removed with a bad record. `fuel` bounds them. -/
def State.captureQueue (s : State) (q : Nat) : Nat → State
  | 0 => s
  | fuel + 1 =>
    let v := s.queue q
    match v.head, v.entries with
    | none, (addr, restarts) :: _ =>
      let x := v.ctx.toNat
      let good := match s.readHeader (queueDie q) x addr with
        | some h =>
          if headerOk h (s.ctx x).dn && !(s.gangPlacements (s.ctx x).part h.gang (queueDies q v.dies)).isEmpty then some h
          else none
        | none => none
      match good with
      | some h => s.setQueue q { v with head := some h, turn := v.turn + 1 }
      | none =>
        let s := s.setQueue q v.behead
        (s.completionRecord x addr q 0 0 restarts s.time false false false false true false).captureQueue q fuel
    | _, _ => s

/-- Slices in a queue at most (R294), the head of a restart apart. -/
def queueFuel : Nat := 66

/-- The head of a queue leaves it. -/
def State.popQueue (s : State) (q : Nat) : State :=
  (s.setQueue q (s.queue q).behead).captureQueue q queueFuel

/-- Held enqueues wait for a queue (R315). -/
def State.heldFor (s : State) (q : Nat) : Bool := (s.die (queueDie q)).holds.any fun h => h.1 == q

/-- Appends a header to a queue. -/
def State.appendQueue (s : State) (q addr : Nat) : State :=
  let v := s.queue q
  (s.setQueue q { v with entries := v.entries ++ [(addr, 0)] }).captureQueue q queueFuel

/-- Room in a queue for an `enq` (R313). -/
def State.queueFull (s : State) (q : Nat) : Bool := decide (64 ≤ (s.queue q).entries.length) || s.heldFor q

/-- A queue that a context may use (R313). -/
def State.queueOk (s : State) (x q : Nat) : Bool := decide (q < 1024) && (s.queue q).ctx.toNat == x

/-! ### `enq` (R313) -/

def effEnq (rd ra : Reg) (q : State → Nat) : Op Flow := fun s =>
  let a := (s.rx ra).toNat
  if a % 64 ≠ 0 ∨ 2 ^ 56 ≤ a then .trap s (memParam 1 a)
  else if !s.queueOk s.curCtx (q s) then .ok (s.wx rd 2) .next
  else
    opBind (releaseFixed 30)
      (fun _ s' =>
        let n := q s
        if s'.queueFull n then .ok (s'.wx rd 1) .next else .ok ((s'.appendQueue n a).wx rd 0) .next) s

def execEnq (h : Head) (rd ra : Reg) (q : BitVec 10) (s : State) := runHead h (effEnq rd ra fun _ => q.toNat) s
def execEnqR (h : Head) (rd ra rb : Reg) (s : State) := runHead h (effEnq rd ra fun s => (s.rx rb).toNat) s

/-! ### Dependence counters (R266, R314, R315) -/

/-- An enqueue by a decrement: into its queue, or held; `none` where the hold list is full (R315). -/
def State.depEnqueue (s : State) (q addr : Nat) : Option State :=
  if !s.queueFull q then some (s.appendQueue q addr)
  else
    let d := queueDie q
    let v := s.die d
    if 2048 ≤ v.holds.length then none else some (s.setDie d { v with holds := v.holds ++ [(q, addr)] })

/-- What a decrement of the entry comes to (R266, R314). -/
inductive DepResult where
  | done (s : State) (old : Nat)
  | underflow
  | badQueue
  | waits

/-- A decrement of a counter at a physical address, with its successor and queue words, for a context. -/
def State.decrement (s : State) (x pa old hdr q : Nat) : DepResult :=
  let p := some (s.ctx x).part
  if old = 0 then .underflow
  else if old = 1 ∧ !s.queueOk x q then .badQueue
  else if old = 1 then
    match (s.homeStore p pa 8 0).depEnqueue q hdr with
    | some s => .done s old
    | none => .waits
  else .done (s.homeStore p pa 8 (old - 1)) old

/-- The counter's address, for a trap record. -/
def State.depAddr (s : State) (i : Nat) : Nat := ((s.ctx s.curCtx).dtab + 32 * i) % 2 ^ 56

/-- The physical address of a dependence entry of the executing stream's context, translated once. -/
def opDepAddr (i : Nat) : Op Nat := fun s =>
  let va := s.depAddr i
  opBind (opEntry va 32 .atomic)
    (fun e => if e.cls ≠ 0 then opTrap (memParam 1 va) else opBind (opOnce id) fun _ => opPure (e.phys va)) s

/-- The words of a dependence entry at its home; the core's copy of the row is written back and dropped first, as for any
atomic (R263, R266). -/
def opDepWords (i pa : Nat) : Op (List Nat) := fun s =>
  let s := s.ownEvict (pa / 128)
  let p := some s.curPart
  if s.homeBad p (pa / 128) then
    opBind (uncorrectable (s.depAddr i) (pa / 128 * 128) .atomic) (fun _ => opPure [0, 0, 0, 0]) s
  else .ok s ((List.range 4).map fun j => s.homeRead p (pa + 8 * j) 8)

/-- What `dep` does at its issue: the check of its index, and the capture of its entry (R251, R314). -/
def opDepIssue (scope i : Nat) : Op ScopeEntry := fun s =>
  if (s.ctx s.curCtx).dn ≤ i then .trap s (memParam 1 i) else captureScope scope s

/-- `dep` on entry `i` of the table: the release part, and the act at the counter's home. -/
def effDep (scope i : Nat) (act : Nat → List Nat → Op Flow) (e : ScopeEntry) : Op Flow :=
  opBind (releasePart scope e) fun _ => opBind (opDepAddr i) fun pa => opBind (opDepWords i pa) fun ws => act pa ws

/-- `dep.dec` and `dep.decr` on a counter. -/
def effDecrement (rd : Reg) (i pa : Nat) (ws : List Nat) : Op Flow := fun s =>
  let old := ws.getD 0 0
  match s.decrement s.curCtx pa old (ws.getD 1 0 % 2 ^ 56) (ws.getD 2 0 % 2 ^ 10) with
  | .done s old => .ok (s.wx rd (w64 old)) .next
  | .underflow => .trap s { code := .depUnderflow, faddr := w64 (s.depAddr i) }
  | .badQueue => .trap s (memParam 1 (ws.getD 2 0 % 2 ^ 10))
  | .waits => .wait s .holdList s.st.tlim.toNat

def execDepDec (h : Head) (rd : Reg) (scope : BitVec 5) (idx : BitVec 16) (s : State) :=
  runCapture h (opDepIssue scope.toNat idx.toNat) (effDep scope.toNat idx.toNat (effDecrement rd idx.toNat)) s

def execDepDecr (h : Head) (rd ra : Reg) (scope : BitVec 5) (s : State) :=
  runCapture h (fun s => opDepIssue scope.toNat (s.rx ra).toNat s)
    (fun e s => effDep scope.toNat (s.rx ra).toNat (effDecrement rd (s.rx ra).toNat) e s) s

/-- `dep.arm` writes the counter and never enqueues. -/
def effArm (rd ra : Reg) (pa : Nat) (ws : List Nat) : Op Flow := fun s =>
  .ok ((s.homeStore (some s.curPart) pa 8 (s.rx ra).toNat).wx rd (w64 (ws.getD 0 0))) .next

def execDepArm (h : Head) (rd ra : Reg) (scope : BitVec 5) (idx : BitVec 16) (s : State) :=
  runCapture h (opDepIssue scope.toNat idx.toNat) (effDep scope.toNat idx.toNat (effArm rd ra)) s

/-- HELD_ENQUEUE_ENTRY: the first held enqueue whose queue has room enters it (R315). -/
def execHeldEnqueueEntry (s : State) : Host.Outcome State Fault Refusal :=
  let d := s.ev.die
  match (s.die d).holds.find? fun h => decide ((s.queue h.1).entries.length < 64) with
  | none => .next s
  | some h => .next ((s.setDie d { s.die d with holds := (s.die d).holds.erase h }).appendQueue h.1 h.2)

/-! ### Selection (R300, R301) -/

/-- One draw of the lottery generator: the value and the next state (R300). -/
def nextDraw (x : W64) : W64 × W64 :=
  let x := x ^^^ (x >>> 12)
  let x := x ^^^ (x <<< 25)
  let x := x ^^^ (x >>> 27)
  (x * 0x2545F4914F6CDD1D#64, x)

/-- A candidate head: its queue, header, priority and tickets. -/
structure Candidate where
  queue : Nat
  hdr : Header
  pri : Nat
  tickets : Nat
  deriving DecidableEq, Repr

/-- The heads of a die's enabled queues that may be selected (R301). -/
def State.selectable (s : State) (d : Nat) : List Candidate :=
  s.queues.filterMap fun e =>
    let v := e.2
    match v.head with
    | some h =>
      if v.en && (queueDie e.1 == d) && ((s.ctx v.ctx.toNat).mode == .run) && (s.ctx v.ctx.toNat).live &&
          !((s.die d).deferred.any fun f => f.queue == e.1 && f.turn == v.turn) && !((s.die d).placements.any fun p => p.2.queue == e.1) then
        some { queue := e.1, hdr := h, pri := v.pri.toNat, tickets := if v.tko = 0 then h.tickets else v.tko.toNat }
      else none
    | none => none

/-- The member whose cumulative ticket range holds a value. -/
def ticketHolder : List Candidate → Nat → Option Candidate
  | [], _ => none
  | c :: rest, v => if v < c.tickets then some c else ticketHolder rest (v - c.tickets)

/-- The lottery (R301). -/
def lottery (cs : List Candidate) (d : W64) : Option Candidate :=
  let t := (cs.map fun c => c.tickets).sum
  if t = 0 then cs.head? else ticketHolder cs (bits d 32 32 * t / 2 ^ 32)

/-- Those of the highest priority. -/
def topPri (cs : List Candidate) : List Candidate :=
  let m := (cs.map fun c => c.pri).foldl max 0
  cs.filter fun c => c.pri == m

/-- Those of the least deadline. -/
def leastDeadline (cs : List Candidate) : List Candidate :=
  match cs with
  | [] => []
  | c :: rest =>
    let m := (rest.map fun c => c.hdr.deadline).foldl min c.hdr.deadline
    cs.filter fun c => c.hdr.deadline == m

/-- The pick of a round (R301). -/
def pickHead (now : Nat) (h : List Candidate) (d : W64) : Option Candidate :=
  let dl := h.filter fun c => decide (c.hdr.deadline ≠ 0) && decide (c.hdr.deadline ≤ now + 50000000)
  let holders := h.filter fun c => decide (0 < c.tickets)
  if bits d 0 4 = 0 then (if holders = [] then none else lottery holders d)
  else if dl ≠ [] then
    match topPri (leastDeadline dl) with
    | [c] => some c
    | cs => lottery cs d
  else if holders = [] then none
  else lottery (topPri holders) d

/-! ### Placement and admission (R303 to R306) -/

/-- A core is free (R303). -/
def State.coreFree (s : State) (c : Nat) : Bool := (s.core c).slice.isNone && (s.core c).grant.isNone

/-- A placement is free; while a die switches its L2 mode nothing is bound on it (R327). -/
def State.placeFree (s : State) (cores : List Nat) : Bool :=
  cores.all fun c => s.coreFree c && !(s.core c).failed && !(s.die (dieOf c)).modeBusy

/-- The regulators of the package (R368). -/
def regulators : List Nat := [0, 1, 2, 3]

/-- A placement is admitted; each regulator, whether it feeds a cluster of the placement or not, must stay within its limit (R305,
R306). -/
def State.admits (s : State) (h : Header) (cores : List Nat) : Bool :=
  (placementClusters cores).all (fun i =>
    let c := s.cluster i
    (decide ((h.energyShare cores : Int) ≤ c.bal) || decide (c.bal = c.budget.toNat)) && c.switchTo.isNone) &&
  regulators.all fun g => decide ((s.regulator g).used + tblGet 0 (s.placementCurrent h cores) g ≤ (s.regulator g).ilim.toNat)

/-- A scheduler's trace record (R350). -/
def State.schedTrace (s : State) (x d ty pay : Nat) : State := s.traceRec x (traceKey 3 d 0) 2 ty pay

/-- A head is deferred: until the next control interval, or until a core of its partition is free (R301). -/
def State.defer (s : State) (d q : Nat) (interval : Bool) : State :=
  let s := s.setDie d { s.die d with deferred := (s.die d).deferred ++ [{ queue := q, turn := (s.queue q).turn, interval := interval }] }
  s.schedTrace (s.queue q).ctx.toNat d 0x12 (q + (!interval).toNat * 2 ^ 10)

/-- The placements of a list from its first free and admitted one on. -/
def State.fromAdmitted (s : State) (h : Header) (l : List (List Nat)) : List (List Nat) :=
  l.dropWhile fun p => !(s.placeFree p && s.admits h p)

/-- A slot of the four placements that is idle. -/
def Die.idleSlot (v : Die) : Option Nat := (List.range 4).find? fun i => (tblFind v.placements i).isNone

/-- The context of a candidate. -/
def State.candCtx (s : State) (c : Candidate) : Nat := (s.queue c.queue).ctx.toNat

/-- The placements of a candidate, in the order in which they are tried. -/
def State.candPlacements (s : State) (c : Candidate) : List (List Nat) :=
  s.gangPlacements (s.ctx (s.candCtx c)).part c.hdr.gang (queueDies c.queue (s.queue c.queue).dies)

/-- In replay mode, the record of the draw that a context's log has next for a die, and the record of its selection in that
round (R355). -/
def Ctx.nextRound (c : Ctx) (d : Nat) : Option (W64 × W64) := c.replayNext 3 d 0
def Ctx.selectOf (c : Ctx) (d : Nat) (r : W64 × W64) : Option (W64 × W64) :=
  c.replayRecs.find? fun e => bits e.1 0 8 == 4 && bits e.1 8 8 == d && bits e.1 24 40 == bits r.1 24 40

/-- The selections of a replayed log for a die whose draws have been used and which have not been bound: such a one is made again,
and no other takes its head (R355). -/
def Ctx.openSelects (c : Ctx) (d : Nat) : List (W64 × W64) :=
  if c.replayMode ≠ 2 then []
  else
    c.replayRecs.filter fun e => bits e.1 0 8 == 4 && bits e.1 8 8 == d && !c.replayRecs.any fun r =>
      bits r.1 0 8 == 3 && bits r.1 8 8 == d && bits r.1 24 40 == bits e.1 24 40

/-- The candidate that a logged selection names, and its placement, once that is free and admitted (R355). -/
def State.forcedPick (s : State) (x : Nat) (h : List Candidate) (sel : W64 × W64) : Option (Candidate × List Nat) :=
  match h.find? fun c => c.queue == bits sel.2 0 10 && s.candCtx c == x with
  | none => none
  | some c =>
    match (s.candPlacements c).find? fun p => p.headD 0 == bits sel.2 10 8 with
    | some p => if s.placeFree p && s.admits c.hdr p then some (c, p) else none
    | none => none

/-- The context whose log forces a round: the first that has a head among the candidates and a draw logged next, and, where its
log has a selection of that round, whose placement is free (R355). -/
def State.roundLeader (s : State) (d : Nat) (h : List Candidate) : Option (Nat × (W64 × W64)) :=
  s.ctxs.findSome? fun e =>
    match e.2.nextRound d with
    | none => none
    | some r =>
      if !(h.any fun c => s.candCtx c == e.1) then none
      else
        match e.2.selectOf d r with
        | none => some (e.1, r)
        | some sel => if (s.forcedPick e.1 h sel).isSome then some (e.1, r) else none

/-- A selection that a log forces, whose draw has been used, and which was withdrawn before it was bound. -/
def State.reselect (s : State) (d : Nat) (h : List Candidate) : Option (Candidate × List Nat) :=
  s.ctxs.findSome? fun e => (e.2.openSelects d).findSome? fun sel => s.forcedPick e.1 h sel

/-- What a selection round of a die looks at. DESIGN CHOICE (log entry 45): a change is one since the last round began (R301). -/
def State.roundView (s : State) (d : Nat) : RoundView :=
  { heads := (s.selectable d).map fun c => (c.queue, (s.queue c.queue).turn)
    free := (List.range 192).filter s.coreFree
    interval := s.intervals }

/-- The selected head goes to placement and admission (R301, R303, R305). -/
def State.placeHead (s : State) (d slot round : Nat) (c : Candidate) (forced : Option (List Nat)) : State :=
  let p : Placement :=
    { queue := c.queue, hdr := c.hdr, pri := c.pri, tko := (s.queue c.queue).tko.toNat, round := round, candidates := [] }
  let put (p : Placement) : State := s.setDie d { s.die d with placements := tblSet (s.die d).placements slot p }
  match forced with
  | some l => put { p with candidates := [l], forced := true }
  | none =>
    let all := s.candPlacements c
    if all.all fun p => !s.placeFree p then s.defer d c.queue false
    else
      match s.fromAdmitted c.hdr all with
      | [] => s.defer d c.queue true
      | l => put { p with candidates := l }

/-- A round with its candidates: one draw, which the generator makes or a log gives, and its pick (R300, R301). Each recording
context with a head among the candidates logs the draw (R354, log entry 42). -/
def State.runRound (s : State) (d slot : Nat) (h : List Candidate) (leader : Option (Nat × (W64 × W64))) : State :=
  let v := s.die d
  let (own, seed) := nextDraw v.seed
  let draw := match leader with
    | some (_, r) => r.2
    | none => own
  let s := s.setDie d { v with seed := seed, rounds := v.rounds + 1 }
  let s := ((h.map s.candCtx).dedup).foldl (fun s x => s.replayLog x 3 d 0 0 v.rounds draw.toNat) s
  match leader with
  | none =>
    match pickHead s.time h draw with
    | some c => s.placeHead d slot v.rounds c none
    | none => s
  | some (x, r) =>
    let sel := (s.ctx x).selectOf d r
    let pick := match sel with
      | some sel => (s.forcedPick x h sel).map fun e => (e.1, some e.2)
      | none => ((pickHead s.time h draw).filter fun c => s.candCtx c != x).map fun c => (c, none)
    let s := s.replayDrop x r
    match pick with
    | some (c, forced) => s.placeHead d slot v.rounds c forced
    | none => s

/-- SELECTION_ROUND (R301): begins when a placement is idle and the candidate heads, the free cores or the control interval
have changed since the last round, or a log has a round to force. Of the contexts in replay, the heads of the one whose log
forces the round take part (R355). DESIGN CHOICE (log entry 47): a forced selection that was withdrawn is made again without a draw,
which its log has no more. -/
def execSelectionRound (s : State) : Host.Outcome State Fault Refusal :=
  let d := s.ev.die % 2
  match (s.die d).idleSlot with
  | none => .next s
  | some slot =>
    let all := s.selectable d
    let leader := s.roundLeader d all
    let view := s.roundView d
    match s.reselect d all with
    | some (c, l) => .next (s.placeHead d slot (s.die d).rounds c (some l))
    | none =>
    if leader.isNone && (s.die d).lastRound == some view then .next s
    else
      let s := s.setDie d { s.die d with lastRound := some view }
      let h := all.filter fun c =>
        (((s.ctx (s.candCtx c)).nextRound d).isNone || (leader.map fun e => e.1) == some (s.candCtx c)) &&
          !((s.ctx (s.candCtx c)).openSelects d).any fun sel => bits sel.2 0 10 == c.queue
      .next (if h = [] then s else s.runRound d slot h leader)

/-- CONTROL_INTERVAL_START (R305): the balances are refilled by the budgets, written ones taking effect, and the heads
deferred to this interval return. -/
def execControlIntervalStart (s : State) : Host.Outcome State Fault Refusal :=
  let k := s.time / 10000 + 1 - s.intervals
  if k = 0 then .next s
  else
    let fill (c : Cluster) : Cluster :=
      { c with budget := c.budgetNew, bal := min (c.bal + k * c.budgetNew.toNat) c.budgetNew.toNat }
    .next { s with
      intervals := s.intervals + k
      clusters := tblMap s.clusters fill
      dies := tblMap s.dies fun d => { d with deferred := d.deferred.filter fun f => !f.interval } }

/-- The back-off after the a-th conflict, in ns: cycles of 900 MHz (R4, R304). -/
def backOff (a die : Nat) : Nat :=
  let cycles := min (64 * 2 ^ (a - 1)) 2048 + (if die = 1 then 32 else 0)
  ceilDiv (cycles * 10) 9

/-- The state of a selection may change before binding: its queue is disabled or its context does not run (R302). -/
def State.selectionGone (s : State) (p : Placement) : Bool :=
  !(s.queue p.queue).en || (s.ctx (s.queue p.queue).ctx.toNat).mode != .run

/-- A selection has a placement that its partition and the state of its cores still allow: a core that has failed, or a die
that switches its L2 mode, takes none (R303, R327, R372). -/
def State.placeAllowed (s : State) (p : Placement) (cores : List Nat) : Bool :=
  let q := s.queue p.queue
  (s.gangPlacements (s.ctx q.ctx.toNat).part p.hdr.gang [0, 1]).contains cores &&
    cores.all fun c => !(s.core c).failed && !(s.die (dieOf c)).modeBusy

/-- A selection in its slot. -/
def State.setPlacement (s : State) (d slot : Nat) (p : Placement) : State :=
  s.setDie d { s.die d with placements := tblSet (s.die d).placements slot p }

/-- A selection moves on to its next candidate that is allowed, free and admitted; without one, its head is deferred. -/
def State.nextCandidate (s : State) (d slot : Nat) (p : Placement) : State :=
  let rest := (p.candidates.drop 1).filter (s.placeAllowed p)
  match s.fromAdmitted p.hdr rest with
  | [] =>
    (s.setDie d { s.die d with placements := tblDel (s.die d).placements slot }).defer d p.queue
      (rest.any s.placeFree || s.placeFree (p.candidates.headD []))
  | l => s.setPlacement d slot { p with candidates := l, conflicts := 0 }

/-- A reservation is tried again after its back-off (R304). -/
def State.retry (s : State) (d slot a : Nat) (p : Placement) : State :=
  s.setPlacement d slot { p with conflicts := a, retryAt := s.time + backOff a d }

/-- The first phase of a reservation (R304). A placement that replay forces is tried until it can be made (R355). -/
def State.reserve (s : State) (d slot : Nat) (p : Placement) : State :=
  if s.selectionGone p then s.withdraw d slot
  else
    let cores := p.candidates.headD []
    let a := p.conflicts + 1
    if s.placeAllowed p cores && cores.all s.coreFree && s.admits p.hdr cores then
      let s := s.takeBalance p.hdr cores
      let grant (s : State) (c : Nat) : State := s.setCore c { s.core c with grant := some (d, slot, s.cyclesOf c) }
      (cores.foldl grant s).setPlacement d slot { p with reserved := true }
    else if p.forced then s.retry d slot (min a 5) p
    else if s.placeAllowed p cores && !cores.all s.coreFree && decide (a < 6) then s.retry d slot a p
    else s.nextCandidate d slot p

def execReserve (s : State) : Host.Outcome State Fault Refusal :=
  let d := s.ev.die % 2
  match tblFind (s.die d).placements s.ev.n with
  | some p => .next (if p.reserved || decide (p.conflicts ≠ 0) then s else s.reserve d s.ev.n p)
  | none => .next s

def execReservationRetry (s : State) : Host.Outcome State Fault Refusal :=
  let d := s.ev.die % 2
  match tblFind (s.die d).placements s.ev.n with
  | some p => .next (if p.reserved || p.conflicts == 0 || decide (s.time < p.retryAt) then s else s.reserve d s.ev.n p)
  | none => .next s

/-- A reservation that is lost: its grants are released and what it took is given back, and its selection reserves again. -/
def State.unreserve (s : State) (d slot : Nat) (p : Placement) : State :=
  let cores := p.candidates.headD []
  let s := (s.giveBalance p.hdr cores).releaseGrants d slot cores
  s.setPlacement d slot { p with reserved := false }

/-- A core's grant has waited more than 256 cycles (R304). -/
def State.grantLapsed (s : State) (core : Nat) : Bool :=
  match (s.core core).grant with
  | some (_, _, t) => decide (256 < s.cyclesOf core - t)
  | none => false

/-- GRANT_LAPSE: a grant that has waited more than 256 cycles lapses, and with it the reservation it belongs to (R304). -/
def execGrantLapse (s : State) : Host.Outcome State Fault Refusal :=
  let c := s.ev.core
  match (s.core c).grant with
  | some (d, slot, _) =>
    if !s.grantLapsed c then .next s
    else
      match tblFind (s.die d).placements slot with
      | some p => .next (if p.reserved then s.unreserve d slot p else s.setCore c { s.core c with grant := none })
      | none => .next (s.setCore c { s.core c with grant := none })
  | none => .next s

/-- The policy words of a context record, which the host may change while no slice of the context is bound: word 6 with the
uncorrectable-data policy, the page-table root and the stop area, word 7 with the policy of refused atomics (R328, R386). -/
def Ctx.withPolicy (c : Ctx) (w6 w7 : Nat) : Ctx :=
  { c with ue := w6.testBit 63, root := w6 / 2 ^ 32 % 2 ^ 28, stops := w6 % 2 ^ 32, hatom := w7.testBit 63 }

/-- The policy words of the contexts, read again where no slice of the context is bound; a record that is uncorrectable leaves them
(log entry 41). -/
def State.policies (s : State) : State :=
  { s with
    ctxs := s.ctxs.map fun (e : Nat × Ctx) =>
      if s.slicesOf e.1 false = [] ∧ s.slicesOf e.1 true = [] ∧ e.2.live ∧ !s.homeBad none (e.2.record / 128) then
        (e.1, e.2.withPolicy (s.homeRead none (e.2.record + 48) 8) (s.homeRead none (e.2.record + 56) 8))
      else e }

/-- A selection that a log forces has been bound, and its record is used up (R355). -/
def State.replayBound (s : State) (x d : Nat) (p : Placement) : State :=
  match (s.ctx x).replayMode.toNat, (s.ctx x).replayRecs.find? fun e => bits e.1 0 8 == 4 && bits e.1 8 8 == d &&
      bits e.2 0 18 == p.queue + (p.candidates.headD []).headD 0 * 2 ^ 10 with
  | 2, some r => if p.forced then s.replayDrop x r else s
  | _, _ => s

/-- The second phase of a reservation: the gang is bound, and the selection is logged with its placement (R354); a selection
whose queue or context has changed is withdrawn, and one whose grants have lapsed, or whose placement is allowed no longer, is
reserved again (R302 to R304, R307, R327). -/
def execBind (s : State) : Host.Outcome State Fault Refusal :=
  let d := s.ev.die % 2
  let slot := s.ev.n
  match tblFind (s.die d).placements slot with
  | none => .next s
  | some p =>
    if !p.reserved then .next s
    else if s.selectionGone p then .next (s.withdraw d slot)
    else
      let cores := p.candidates.headD []
      let granted := cores.all fun c => !s.grantLapsed c && (match (s.core c).grant with
        | some (d', n, _) => d' == d && n == slot
        | none => false)
      if !granted || !s.placeAllowed p cores then .next (s.unreserve d slot p)
      else
        let q := s.queue p.queue
        let x := q.ctx.toNat
        let restarts := ((q.entries.headD (0, 0)).2)
        let current := s.placementCurrent p.hdr cores
        let s := s.replayLog x 4 d 0 0 p.round (p.queue + (cores.headD 0) * 2 ^ 10)
        let s := s.dropGrants d slot cores
        let s := s.setDie d { s.die d with placements := tblDel (s.die d).placements slot }
        let s := s.replayBound x d p
        let s := s.bindSlice
          { ctx := x, handler := false, queue := p.queue, hdr := p.hdr, cores := cores
            budget := BitVec.ofNat 32 p.hdr.budget, restarts := restarts, current := current }
        let s := s.popQueue p.queue
        .next (s.schedTrace x d 0x10 (p.queue + (cores.headD 0) * 2 ^ 10 + p.hdr.gang * 2 ^ 18))

/-! ### Budget and ends (R306, R308, R309) -/

/-- The stream on which BUDGET_EXHAUSTED is raised (R308). -/
def State.budgetStream (s : State) (v : Slice) : Option (Nat × StreamId) :=
  let open' (c : Nat) (k : StreamId) : Bool := (s.stream c k).mode != .yielded
  match v.cores.find? fun c => open' c .K with
  | some c => some (c, .K)
  | none => v.cores.findSome? fun c => ([StreamId.L, .X, .S].find? (open' c)).map fun k => (c, k)

/-- BUDGET_EXHAUSTED stands to be raised on a stream of a slice: its budget is 0, it runs, or halts within the skid, and no trap
has come to it yet (R308, R329). -/
def State.budgetDue (s : State) (v : Slice) : Option (Nat × StreamId) :=
  match s.budgetStream v with
  | none => none
  | some (c, k) =>
    let x := s.ctx v.ctx
    let live := if v.handler then x.mode == .stopped else x.mode == .run && (x.halt.isNone || !s.skidOver c)
    if v.budget = 0 ∧ live ∧ (s.stream c k).trap.isNone ∧ (s.stream c k).lateTrap.isNone then some (c, k) else none

/-- BUDGET_EXHAUSTED of slice `n` (R308). A head that has sent an AtomicOp retires, or takes the trap of its answer, first (R330,
R386). -/
def State.raiseBudget (s : State) (n : Nat) : State :=
  match s.slice n with
  | none => s
  | some v =>
    match s.budgetDue v with
    | some (c, k) =>
      if (s.stream c k).atomicOut && !v.handler then s.raiseLate c k { code := .budgetExhausted }
      else s.raiseTrap c k { code := .budgetExhausted }
    | none => s

def execBudgetExhausted (s : State) : Host.Outcome State Fault Refusal := .next (s.raiseBudget s.ev.n)

/-- The decrement of a slice's successor at its end, as `dep.dec` makes it: whether it failed; `none` where it must wait (R309,
R315). An entry that is uncorrectable fails (log entry 41). -/
def State.successor (s : State) (d x i : Nat) : Option (State × Bool) :=
  let c := s.ctx x
  let p := some c.part
  let va := (c.dtab + 32 * i) % 2 ^ 56
  match (List.range 4).mapM fun j => s.devPhys (some (d, x)) (va + 8 * j) .write with
  | some [a0, a1, a2, a3] =>
    if [a0, a1, a2, a3].any fun a => s.homeBad p (a / 128) then some (s, true)
    else
      match s.decrement x a0 (s.homeRead p a0 8) (s.homeRead p a1 8 % 2 ^ 56) (s.homeRead p a2 8 % 2 ^ 10) with
      | .done s _ => some (s, false)
      | .underflow | .badQueue => some (s, true)
      | .waits => none
  | _ => some (s, true)

/-- The successor of a slice at its end, if it names one (R309). -/
def State.endSuccessor (s : State) (v : Slice) : Option (State × Bool) :=
  if v.hdr.succ = 0xFFFF then some (s, false) else s.successor (dieOf (v.cores.headD 0)) v.ctx v.hdr.succ

/-- SLICE_END of slice `n`: write-back, the successor, the completion record, and the cores are free (R309, R310, R345). -/
def execSliceEnd (s : State) : Host.Outcome State Fault Refusal :=
  let n := s.ev.n
  match s.slice n with
  | none => .next s
  | some v =>
    let x := v.ctx
    let done := v.cores.all fun c => allStreams.all fun k => (s.stream c k).mode == .yielded
    if v.handler || !done || (s.ctx x).mode != .run then .next s
    else
      let s1 := v.cores.foldl (fun s c => s.wayCleanAll c) s
      match s1.endSuccessor v with
      | none => .next s
      | some (s, dfail) =>
        let low := v.cores.headD 0
        let late := s.isLate v
        let s := s.schedTrace x (dieOf low) 0x11 (v.queue + low * 2 ^ 10 + v.hdr.gang * 2 ^ 18 + late.toNat * 2 ^ 21)
        let s := s.completionRecord x v.hdr.addr v.queue low v.cycles v.restarts (s.endOf v)
          (v.cores.any fun c => (s.core c).tokqWord != 0) late v.ext false false dfail
        .next ((s.endStopAt x v).freeSlice n .idle)

/-- Current whose time has come: the admissions of that instant come before its return (R306). -/
def State.currentDue (s : State) (e : Nat × Nat × Nat) : Bool := decide (e.1 < s.time)

/-- CURRENT_RETURN: current whose time has come returns to its regulator (R306). -/
def execCurrentReturn (s : State) : Host.Outcome State Fault Refusal :=
  let (due, rest) := s.pack.returns.partition s.currentDue
  let s := { s with pack := { s.pack with returns := rest } }
  .next (due.foldl
    (fun s e => let r := s.regulator e.2.1; s.setRegulator e.2.1 { r with used := r.used - e.2.2 }) s)

/-- SEED_WRITE, BGRANT_WRITE and STOPAT_WRITE by the host or a handler (R299, R300, R344). -/
def execSeedWrite (s : State) : Host.Outcome State Fault Refusal := .next (s.writeSeed (s.ev.die % 2) s.ev.v)
def execBgrantWrite (s : State) : Host.Outcome State Fault Refusal := .next (s.grantBudget s.ev.ctx s.ev.v)
def execStopatWrite (s : State) : Host.Outcome State Fault Refusal := .next (s.writeStopat s.ev.ctx s.ev.v)

/-- HOST_STOP_AT: the stream that `%stopat` names has reached its count (R345). -/
def execHostStopAt (s : State) : Host.Outcome State Fault Refusal :=
  let c := s.ctx s.ev.ctx
  let core := c.stopatCore.toNat
  let k := StreamId.ofNum c.stopatK.toNat
  let bound := match s.sliceOf core with
    | some v => v.ctx == s.ev.ctx && !v.handler
    | none => false
  if bound && s.stopAtHolds core k && !(s.stream core k).issued && s.canRun core k then .next (s.hostStopAt core k)
  else .next s

end Sys2Proof.Machine
end

