-- ==== Sys2Proof/Machine/Video.lean ====
section
/-! DEFINITION. The video path: the instructions that enter commands, the codec engines, the change-mask unit and the
gather-scatter engines (R218 to R220, R270 to R290). -/

namespace Sys2Proof.Machine

/-! ### Entering commands (R270) -/

/-- `vdec`, `mask` and `gsx`: `epush` with a handle of one kind. -/
def effVideo (kind : Nat) (rd ra rb : Reg) (scope : BitVec 5) (e : ScopeEntry) : Op Flow := fun s =>
  let a := (s.rx rb).toNat
  let bad := engineScope (s.rx ra).toNat scope.toNat
  opBind (opEngine (s.rx ra) bad)
    (fun d s =>
      if (s.rx ra).toNat % 16 ≠ kind then .trap s bad
      else effCommand rd scope e d.1 d.2 (some a) (.block (a % 2 ^ 56)) s) s

def execVdec (h : Head) (rd ra rb : Reg) (scope : BitVec 5) (s : State) := runScope h scope (effVideo 0 rd ra rb scope) s
def execMask (h : Head) (rd ra rb : Reg) (scope : BitVec 5) (s : State) := runScope h scope (effVideo 1 rd ra rb scope) s
def execGsx (h : Head) (rd ra rb : Reg) (scope : BitVec 5) (s : State) := runScope h scope (effVideo 2 rd ra rb scope) s

/-- `rfsh` and `mthr`: a command for the change-mask unit of a die that carries register values. -/
def effLayer (rd : Reg) (scope : BitVec 5) (die : BitVec 1) (src : State → VSource) (e : ScopeEntry) : Op Flow := fun s =>
  effCommand rd scope e die.toNat 4 none (src s) s

def execRfshLayer (h : Head) (rd ra : Reg) (scope : BitVec 5) (die : BitVec 1) (s : State) :=
  runScope h scope (effLayer rd scope die fun s => .rfshLayer (s.rx ra).toNat) s
def execRfshTile (h : Head) (rd ra rb : Reg) (scope : BitVec 5) (die : BitVec 1) (s : State) :=
  runScope h scope (effLayer rd scope die fun s => .rfshTile (s.rx ra).toNat (s.rx rb)) s
def execMthrThr (h : Head) (rd ra rb : Reg) (scope : BitVec 5) (die : BitVec 1) (s : State) :=
  runScope h scope (effLayer rd scope die fun s => .mthr 0 (s.rx ra).toNat (s.rx rb)) s
def execMthrLim (h : Head) (rd ra rb : Reg) (scope : BitVec 5) (die : BitVec 1) (s : State) :=
  runScope h scope (effLayer rd scope die fun s => .mthr 1 (s.rx ra).toNat (s.rx rb)) s
def execMthrNref (h : Head) (rd ra rb : Reg) (scope : BitVec 5) (die : BitVec 1) (s : State) :=
  runScope h scope (effLayer rd scope die fun s => .mthr 2 (s.rx ra).toNat (s.rx rb)) s

/-! ### Preparation (R272, R273) -/

/-- What a step of a preparation comes to: a value; a trap of the engine; or the status of a command that writes nothing
(R271). The state carries the records written, and the flag that an input was zero-filled. -/
inductive PrepRes (α : Type) where
  | ok (s : State) (poison : Bool) (a : α)
  | fault (s : State) (t : Trap)
  | bad (s : State) (poison : Bool) (status : Nat)

/-- A step of a preparation. -/
abbrev Prep (α : Type) := State → Bool → PrepRes α

def prepPure {α : Type} (a : α) : Prep α := fun s p => .ok s p a

def prepBind {α β : Type} (m : Prep α) (f : α → Prep β) : Prep β := fun s p =>
  match m s p with
  | .ok s p a => f a s p
  | .fault s t => .fault s t
  | .bad s p n => .bad s p n

/-- The values of a step for each element of a list, in order. -/
def prepMap {α β : Type} (f : α → Prep β) : List α → Prep (List β)
  | [] => prepPure []
  | a :: rest => prepBind (f a) fun b => prepBind (prepMap f rest) fun bs => prepPure (b :: bs)

/-- BAD_BLOCK and GEOMETRY (R271). -/
def badBlock {α : Type} : Prep α := fun s p => .bad s p 5
def badGeometry {α : Type} : Prep α := fun s p => .bad s p 6

/-- A check whose failure is BAD_BLOCK. -/
def prepCheck (c : Bool) : Prep Unit := if c then prepPure () else badBlock

/-- ENGINE_FAULT (R273, R335). -/
def engineFault (va : Nat) (k : Access) : Trap := { code := .engineFault, faddr := w64 va, detail := k.code }

/-- A span of `n` bytes cut at row boundaries: address, length and offset of each part. -/
def rowPieces : Nat → Nat → Nat → Nat → List (Nat × Nat × Nat)
  | 0, _, _, _ => []
  | fuel + 1, a, n, off =>
    if n = 0 then []
    else
      let m := min n (128 - a % 128)
      (a, m, off) :: rowPieces fuel (a + m) (n - m) (off + m)

/-- The translation of an engine's access: a DEV page with the right (R272, R273). -/
def State.engineEntry (s : State) (d x va : Nat) (k : Access) : Option Nat :=
  match s.translateOn d x (va % 2 ^ 56) with
  | some e => if e.cls = 0 ∧ e.allows k then some (e.phys (va % 2 ^ 56)) else none
  | none => none

/-- Uncorrectable input of an engine (R339): ENGINE_FAULT, or zeros with poison and a record. -/
def prepBadRow (c : VCmd) (va pa : Nat) : Prep Nat := fun s _ =>
  if (s.ctx c.ctx).ue then .ok (s.poisonRecord c.ctx c.core 3 va pa) true 0 else .fault s (engineFault va .read)

/-- `n` bytes at a virtual address of a command's context, read at their homes (R272). -/
def prepRead (c : VCmd) (va n : Nat) : Prep Nat :=
  prepBind
    (prepMap
      (fun e => fun s p =>
        match s.engineEntry c.die c.ctx e.1 .read with
        | none => .fault s (engineFault (e.1 % 2 ^ 56) .read)
        | some pa =>
          if s.homeBad (some (s.ctx c.ctx).part) (pa / 128) then prepBadRow c (e.1 % 2 ^ 56) (pa / 128 * 128) s p
          else .ok s p (s.homeRead (some (s.ctx c.ctx).part) pa e.2.1))
      (rowPieces (n / 128 + 2) va n 0))
    fun vs => prepPure (((rowPieces (n / 128 + 2) va n 0).zip vs).map fun e => e.2 * 2 ^ (8 * e.1.2.2)).sum

/-- The words of a span. -/
def prepWords (c : VCmd) (va n : Nat) : Prep (List Nat) :=
  prepBind (prepRead c va (8 * n)) fun v => prepPure ((List.range n).map fun i => elem 64 v i)

/-- The writes of `n` bytes at a virtual address, with their pages translated and pinned (R273). -/
def prepWrite (c : VCmd) (va n v : Nat) : Prep (List VWrite) :=
  prepMap
    (fun e => fun s p =>
      match s.engineEntry c.die c.ctx e.1 .write with
      | none => .fault s (engineFault (e.1 % 2 ^ 56) .write)
      | some pa => .ok s p { core := none, addr := pa, len := e.2.1, v := v / 2 ^ (8 * e.2.2) % 2 ^ (8 * e.2.1) })
    (rowPieces (n / 128 + 2) va n 0)

/-- Writes of a list of spans. -/
def prepWrites (c : VCmd) (l : List (Nat × Nat × Nat)) : Prep (List VWrite) :=
  prepBind (prepMap (fun e => prepWrite c e.1 e.2.1 e.2.2) l) fun ws => prepPure ws.flatten

/-- The little-endian number of a list of fields of `w` bytes. -/
def packFields (w : Nat) (l : List Nat) : Nat := l.foldr (fun v acc => v % 2 ^ (8 * w) + acc * 2 ^ (8 * w)) 0

/-- The commit of a command that has nothing but a status. -/
def VCommit.plain (c : VCmd) (code status : Nat) : VCommit := { cmd := c, code := code, status := status }

/-! ### The codec engines (R274 to R278) -/

/-- The profiles of a standard that the engines decode, the highest level, times ten, and what they do not support (R274). -/
def codecProfiles (std : Nat) : List Profile :=
  match std with
  | 0 => [.high, .constrainedHigh]
  | 1 => [.main, .main10]
  | _ => [.main]
def codecLevel (std : Nat) : Nat := if std = 0 then 52 else 51
def codecLacks (std : Nat) : List CodecTool :=
  match std with
  | 0 => [.fieldPictures, .mbaff, .svc, .mvc]
  | 1 => [.rangeExtension, .screenContent, .multilayer]
  | _ => [.largeScaleTile]

/-- The unit of a stream is outside what the engines decode: by its profile, its level or tier, the tools that it uses, its bit
depth, its chroma form, its picture size, or the reference store that it needs (R274, R275). -/
def VStream.outside (v : VStream) (d : Decoded) : Bool :=
  d.unsupported || !(codecProfiles v.std).contains d.profile || decide (codecLevel v.std < d.level) || (d.highTier && v.std == 1) ||
    (d.tools.any fun t => (codecLacks v.std).contains t) || decide (v.size < d.need) ||
    !(d.depth == 8 || (d.depth == 10 && v.std != 0)) || !(d.form == .c420 || (d.form == .mono && v.std == 2)) ||
    decide (d.w.toNat < 64) || decide (4096 < d.w.toNat) || decide (d.ht.toNat < 64) || decide (2304 < d.ht.toNat)

/-- The previous output frame, as a frame of the stream sees it: none at a scene start (R276). -/
def VStream.before (v : VStream) (d : Decoded) : Option Picture := if d.key then none else v.prev

/-- The mid value of a bit depth (R274). -/
def midValue (depth : Nat) : Nat := 2 ^ (depth - 1)

/-- A sample of a picture's luma plane, and of its interleaved chroma planes; one that it does not have is the mid value. -/
def Picture.lumaAt (p : Picture) (x y : Nat) : Nat :=
  if x < p.w ∧ y < p.ht then elem 16 p.luma (y * p.w + x) else midValue p.depth
def Picture.chromaAt (p : Picture) (x y : Nat) : Nat :=
  let n := 2 * ceilDiv p.w 2
  if x < n ∧ y < ceilDiv p.ht 2 then elem 16 p.chroma (y * n + x) else midValue p.depth

/-- The block of a luma sample. -/
def frameBlock (d : Decoded) (x y : Nat) : BlockInfo := d.blocks.getD (y / 16 * ceilDiv d.w.toNat 16 + x / 16) {}

/-- Some blocks are concealed. -/
def anyConcealed (d : Decoded) : Bool := d.blocks.any fun b => b.concealed

/-- A list of samples, 16 bits each. -/
def packSamples (depth : Nat) (l : List Nat) : Nat := l.foldr (fun v acc => v % 2 ^ depth + acc * 2 ^ 16) 0

/-- The frame that the engine writes: a concealed block is the co-located block of the previous output frame, or the mid
value if there is none; the chroma planes of a monochrome stream hold the mid value (R274). -/
def framePicture (d : Decoded) (prev : Option Picture) : Picture :=
  let w := d.w.toNat
  let ht := d.ht.toNat
  let n := 2 * ceilDiv w 2
  let mid := midValue d.depth
  let old (f : Picture → Nat) : Nat := match prev with
    | some p => f p
    | none => mid
  let luma (i : Nat) : Nat :=
    if (frameBlock d (i % w) (i / w)).concealed then old fun p => p.lumaAt (i % w) (i / w) else elem 16 d.luma i
  let chroma (i : Nat) : Nat :=
    if (frameBlock d (i % n / 2 * 2) (i / n * 2)).concealed then old fun p => p.chromaAt (i % n) (i / n)
    else if d.form = .mono then mid
    else elem 16 d.chroma i
  { w := w, ht := ht, depth := d.depth, ord := d.ord
    luma := packSamples d.depth ((List.range (w * ht)).map luma)
    chroma := packSamples d.depth ((List.range (n * ceilDiv ht 2)).map chroma) }

/-- Nearest integer to a quotient, ties away from zero (R277). -/
def roundAway (n : Int) (d : Nat) : Int :=
  let q : Int := ((2 * n.natAbs + d) / (2 * d) : Nat)
  if n < 0 then -q else q

/-- A component of a motion entry: the vector scaled to the previous output frame (R277). -/
def motionScale (v dc dr : Int) : Nat :=
  ((max (-8191) (min 8191 (roundAway (v * dc * dr.sign) dr.natAbs))) % 2 ^ 14).toNat

/-- The vector of the block at column `bx` and row `by'`: that of the prediction block which holds its sample (8, 8), clamped into
the picture; of list 0, or of list 1 where list 0 is unused (R277). -/
def frameVector (d : Decoded) (bx by' : Nat) : Option MotionVec :=
  let x := min (16 * bx + 8) (d.w.toNat - 1)
  let y := min (16 * by' + 8) (d.ht.toNat - 1)
  match d.preds.find? fun p => decide (p.x ≤ x) && decide (x < p.x + p.w) && decide (p.y ≤ y) && decide (y < p.y + p.ht) with
  | some p => p.list0.or p.list1
  | none => none

/-- The entry of a block in the motion tensor, from its vector, in units of 1/`unit` quarter-pel: 2 for AV1, else 1 (R277). The
manual scales no vector of an inter block where no previous output frame exists, or whose reference lies at no distance, and names
none for one without a vector: its components are free. DESIGN CHOICE (log entry 46): an odd eighth-pel is halved exactly, and
rounded with the quotient. -/
def motionEntry (unit : Nat) (b : BlockInfo) (m : Option MotionVec) (prev : Option Picture) (ord : Int) (free : Nat) : Nat :=
  if b.concealed then 2 ^ 29
  else if b.intra then 2 ^ 28
  else
    match m, prev with
    | some m, some p =>
      let dc := ord - p.ord
      let dr := if m.longTerm then dc else ord - m.ref
      if dr = 0 then (Config.freeWord free).toNat % 2 ^ 28
      else motionScale m.dx dc (dr * unit) + motionScale m.dy dc (dr * unit) * 2 ^ 14
    | _, _ => (Config.freeWord free).toNat % 2 ^ 28

/-- A luma residual sample of a frame; no sample of its bit depth lies beyond ± its greatest value (R278). -/
def frameResidual (d : Decoded) (x y : Nat) : Int :=
  max (-(2 ^ d.depth - 1)) (min (2 ^ d.depth - 1) (signedBytes 2 (elem 16 d.residual (y * d.w.toNat + x))))

/-- The sum of a number over the samples of a block that lie inside a picture of the given size. -/
def blockSum (w ht bx by' : Nat) (f : Nat → Nat → Nat) : Nat :=
  ((List.range 16).flatMap fun j => (List.range 16).map fun i =>
    if 16 * bx + i < w ∧ 16 * by' + j < ht then f (16 * bx + i) (16 * by' + j) else 0).sum

/-- The entry of a block in the energy tensor: the block at column `bx` and row `by'` of the written frame (R278). -/
def energyEntry (d : Decoded) (b : BlockInfo) (pic : Picture) (prev : Option Picture) (bx by' : Nat) : Nat :=
  let q := 4 ^ (pic.depth - 8)
  if b.concealed then 2 ^ 32 - 1
  else if !b.intra then blockSum pic.w pic.ht bx by' (fun x y => (frameResidual d x y).natAbs ^ 2) / q
  else
    match prev with
    | none => 2 ^ 32 - 1
    | some p => blockSum pic.w pic.ht bx by' (fun x y => ((pic.lumaAt x y : Int) - p.lumaAt x y).natAbs ^ 2) / q

/-- The bytes of a sample (R276). -/
def frameBytes (pic : Picture) : Nat := if pic.depth = 8 then 1 else 2

/-- The bytes of a row of samples: 8-bit samples as bytes, 10-bit samples in the high bits of 16 (R276). -/
def rowBytes (pic : Picture) (samples : Nat) (from' n : Nat) : Nat :=
  packFields (frameBytes pic) ((List.range n).map fun i =>
    let v := elem 16 samples (from' + i)
    if pic.depth = 8 then v else v * 2 ^ 6)

/-- The frame header (R276). -/
def frameHeader (d : Decoded) (scene : Bool) (idx mvt ent bp lp : Nat) : Nat :=
  packFields 8
    [d.w.toNat + d.ht.toNat * 2 ^ 16 + d.depth % 16 * 2 ^ 32 + scene.toNat * 2 ^ 36 + (anyConcealed d).toNat * 2 ^ 37 +
        d.filmGrain.toNat * 2 ^ 38, idx, mvt, ent, bp + lp * 2 ^ 16, 0, 0, 0, 0, 0, 0, 0, 0, 0, 0, 0]

/-- The spans that a written frame takes: its header, the rows of its planes, and the rows of its two tensors; bytes of a row
beyond its samples, and entries beyond its blocks, are not written (R276 to R278). -/
def frameSpans (d : Decoded) (v : VStream) (frame mvt ent free : Nat) : List (Nat × Nat × Nat) :=
  let prev := v.before d
  let pic := framePicture d prev
  let w := pic.w
  let ht := pic.ht
  let b := frameBytes pic
  let nbx := ceilDiv w 16
  let nby := ceilDiv ht 16
  let bp := roundUp nbx 32
  let lp := roundUp (w * b) 128
  let n := 2 * ceilDiv w 2
  let block (bx by' : Nat) : BlockInfo := d.blocks.getD (by' * nbx + bx) {}
  let luma := (List.range ht).map fun y => (frame + 0x1000 + lp * y, w * b, rowBytes pic pic.luma (y * w) w)
  let chroma := (List.range (ceilDiv ht 2)).map fun y =>
    (frame + 0x1000 + lp * 16 * nby + lp * y, n * b, rowBytes pic pic.chroma (y * n) n)
  let motion := (List.range nby).map fun y =>
    (mvt + 4 * bp * y, 4 * nbx,
      packFields 4 ((List.range nbx).map fun x =>
        motionEntry (if v.std = 2 then 2 else 1) (block x y) (frameVector d x y) prev d.ord (free + y * nbx + x)))
  let energy := (List.range nby).map fun y =>
    (ent + 4 * bp * y, 4 * nbx, packFields 4 ((List.range nbx).map fun x => energyEntry d (block x y) pic prev x y))
  (frame, 128, frameHeader d prev.isNone v.outputs mvt ent bp lp) :: (luma ++ chroma ++ motion ++ energy)

/-- The status of a DECODE of a supported unit: a written frame is OK, or STREAM_ERROR after a bitstream error; with nothing
written, EMPTY at the end of the stream, else NO_OUTPUT (R275). -/
def decodeStatus (d : Decoded) (fin : Bool) : Nat :=
  if d.written then (if d.errors || anyConcealed d then 3 else 0) else if fin then 2 else 1

/-- Free contents of a span of words: what an engine keeps in a stream record or a reference store is not architectural
(R275). -/
def freeWords (from' n : Nat) : Nat := packFields 8 ((List.range n).map fun i => (Config.freeWord (from' + i)).toNat)

/-- The writes of an engine to a stream's record and reference store, with the bytes that they leave there. -/
def prepPrivate (c : VCmd) (record store size : Nat) : Prep (List VWrite × Nat) := fun s p =>
  let n := 512 + size / 8
  let v := freeWords s.free n
  prepBind (prepWrites c [(record, 4096, v % 2 ^ 32768), (store, size / 8 * 8, v / 2 ^ 32768)]) (fun ws => prepPure (ws, v))
    { s with free := s.free + n } p

/-- The stream of a record in a context. -/
def Engine.stream (e : Engine) (x addr : Nat) : Option VStream := e.streams.find? fun v => v.ctx == x && v.addr == addr

/-- The streams of an engine without one. -/
def Engine.dropStream (e : Engine) (x addr : Nat) : List VStream := e.streams.filter fun v => !(v.ctx == x && v.addr == addr)

/-- A 56-bit address of an alignment. -/
def addrOk (a align : Nat) : Bool := decide (a < 2 ^ 56) && (a % align == 0)

/-- OPEN (R275). -/
def prepOpen (c : VCmd) (die slot : Nat) (ws : List Nat) : Prep VCommit :=
  let w (i : Nat) : Nat := ws.getD i 0
  prepBind
    (prepCheck (decide (w 0 / 2 ^ 10 = 0) && decide (w 0 / 2 ^ 8 % 4 ≠ 3) && addrOk (w 1) 4096 && addrOk (w 2) 4096 &&
      decide (w 3 < 2 ^ 32) && w 4 == 0 && w 5 == 0 && w 6 == 0 && w 7 == 0))
    fun _ => prepBind (prepPrivate c (w 1) (w 2) (w 3)) fun own => fun s p =>
      let e := s.engine die slot
      let v : VStream := { ctx := c.ctx, addr := w 1, store := w 2, size := w 3, std := w 0 / 2 ^ 8 % 4, image := own.2 }
      .ok (s.setEngine die slot { e with streams := e.dropStream c.ctx (w 1) ++ [v] }) p
        { cmd := c, code := 0x10, first := own.1 }

/-- The open stream of a record, with what stands in its record and, above it in the number, in its store: the engine reads both,
whatever comes of the command (R272, R273). A stream that is not open is BAD_BLOCK. -/
def prepStream (c : VCmd) (die slot record : Nat) : Prep (VStream × Nat) :=
  prepBind (prepRead c record 4096) fun own => fun s p =>
    match (s.engine die slot).stream c.ctx record with
    | none => .bad s p 5
    | some v => prepBind (prepRead c v.store (v.size / 8 * 8)) (fun store => prepPure (v, own + store * 2 ^ 32768)) s p

/-- CLOSE (R275). -/
def prepClose (c : VCmd) (die slot : Nat) (ws : List Nat) : Prep VCommit :=
  let w (i : Nat) : Nat := ws.getD i 0
  prepBind (prepCheck (decide (w 0 = 0x12) && addrOk (w 1) 1 && (ws.drop 2).all (· == 0))) fun _ =>
    prepBind (prepStream c die slot (w 1)) fun _ => fun s p =>
      let e := s.engine die slot
      .ok (s.setEngine die slot { e with streams := e.dropStream c.ctx (w 1) }) p { cmd := c, code := 0x12 }

/-- Spans with free contents, each of `n` bytes as many free words as bytes. -/
def freeSpans (from' : Nat) : List (Nat × Nat × Nat) → List (Nat × Nat × Nat)
  | [] => []
  | (a, n, _) :: rest => (a, n, freeWords from' n) :: freeSpans (from' + n) rest

/-- Bytes of a list of spans. -/
def spanBytes (l : List (Nat × Nat × Nat)) : Nat := (l.map fun e => e.2.1).sum

/-- A DECODE of an open stream, with what its standard's decoding of the unit yields: it depends on what stands in the stream's record
and store, and where another agent has stored there, what is written is free, and so is the scene bit (R275). -/
def prepUnit (c : VCmd) (die slot : Nat) (d : Decoded) (ws : List Nat) (v : VStream) : Prep VCommit :=
  let w (i : Nat) : Nat := ws.getD i 0
  let fin := (w 0).testBit 10
  let tag := w 7 * 2 ^ 16
  let put (v : VStream) (s : State) : State :=
    let e := s.engine die slot
    s.setEngine die slot { e with streams := e.dropStream c.ctx (w 1) ++ [v] }
  if v.unsupported then fun s p => .ok (put v s) p { cmd := c, code := 0x11, status := 4, info := tag }
  else if v.outside d then fun s p => .ok (put { v with unsupported := true } s) p { cmd := c, code := 0x11, status := 4, info := tag }
  else fun s p =>
    let spans := if d.written then frameSpans d v (w 4) (w 5) (w 6) s.free else []
    let s := { s with free := s.free + (if d.written then d.blocks.length else 0) }
    let scene := if v.spoiled then (Config.freeWord s.free).getLsbD 0 else (v.before d).isNone
    let spans := if v.spoiled then freeSpans (s.free + 1) spans else spans
    let s := if v.spoiled then { s with free := s.free + 1 + spanBytes spans } else s
    prepBind (prepWrites c spans)
      (fun writes => prepBind (prepPrivate c v.addr v.store v.size) fun own => fun s p =>
        let v := { v with image := own.2 }
        let v' := if d.written then { v with outputs := v.outputs + 1, prev := some (framePicture d (v.before d)) } else v
        let info := if d.written then 1 + scene.toNat * 2 + (anyConcealed d).toNat * 4 + d.filmGrain.toNat * 8 else 0
        .ok (put v' s) p { cmd := c, code := 0x11, first := own.1 ++ writes, status := decodeStatus d fin, info := tag + info })
      s p

/-- A command that ends with nothing written keeps its tag in its element (R275). -/
def prepTagged (c : VCmd) (tag : Nat) (m : Prep VCommit) : Prep VCommit := fun s p =>
  match m s p with
  | .bad s p status => .ok s p { VCommit.plain c 0x11 status with info := tag * 2 ^ 16 }
  | r => r

/-- DECODE (R275). -/
def prepDecode (c : VCmd) (die slot : Nat) (d : Decoded) (ws : List Nat) : Prep VCommit :=
  let w (i : Nat) : Nat := ws.getD i 0
  let fin := (w 0).testBit 10
  prepTagged c (w 7 % 2 ^ 32)
    (prepBind
      (prepCheck ((w 0 == 0x11 || w 0 == 0x411) && addrOk (w 1) 1 && addrOk (w 2) 1 && decide (w 3 < 2 ^ 32) &&
        (w 3 != 0 || fin) && addrOk (w 4) 4096 && addrOk (w 5) 128 && addrOk (w 6) 128 && decide (w 7 < 2 ^ 32)))
      fun _ => prepBind (prepStream c die slot (w 1)) fun o => prepBind (prepRead c (w 2) (w 3)) fun _ =>
        prepUnit c die slot d ws { o.1 with spoiled := o.1.spoiled || o.2 != o.1.image })

/-! ### The change-mask unit (R279 to R286) -/

/-- The layer record's fields (R279). -/
structure Layer where
  gain : Nat
  thr : Nat
  th : Nat
  tw : Nat
  halo : Nat
  ls : Nat
  rlim : Nat
  lim : Nat
  n : Nat
  pend : Bool
  ty : Nat
  tx : Nat
  tst : Nat
  last : Nat
  e0 : Nat
  eru : Nat
  erc : Nat
  deriving DecidableEq, Repr

/-- The record in its eight words; `none` where a field is out of range (R279). -/
def parseLayer (ws : List Nat) : Option Layer :=
  let w (i : Nat) : Nat := ws.getD i 0
  let f (i lo n : Nat) : Nat := w i / 2 ^ lo % 2 ^ n
  if f 1 48 16 ≠ 0 ∨ f 1 31 1 ≠ 0 ∨ f 1 27 1 ≠ 0 ∨ f 2 25 23 ≠ 0 ∨ f 3 56 8 ≠ 0 ∨ f 3 0 3 ≠ 0 ∨ f 5 32 32 ≠ 0 ∨ w 7 ≠ 0 ∨
      f 1 40 8 = 0 ∨ f 1 32 8 = 0 ∨ 6 < f 1 24 3 ∨ f 1 16 8 = 0 ∨ f 2 12 12 = 0 ∨ f 2 0 12 = 0 then none
  else
    some { gain := f 0 48 16, thr := f 0 0 48, th := f 1 40 8, tw := f 1 32 8, halo := f 1 28 3, ls := f 1 24 3
           rlim := f 1 16 8, lim := f 1 0 16, n := f 2 48 16, pend := f 2 24 1 == 1, ty := f 2 12 12, tx := f 2 0 12
           tst := w 3, last := w 4, e0 := w 5, eru := f 6 32 32, erc := f 6 0 32 }

/-- A signed 14-bit component of a motion entry. -/
def motionOf (m lo : Nat) : Int :=
  let v : Nat := m / 2 ^ lo % 2 ^ 14
  if 2 ^ 13 ≤ v then (v : Int) - 2 ^ 14 else v

/-- The blocks of a tile along one axis (R280): its index, its size in blocks, the halo, the blocks of the frame. -/
def tileBlocks (t size halo blocks : Nat) : List Nat :=
  (List.range blocks).filter fun b => decide (t * size ≤ b + halo) && decide (b < (t + 1) * size + halo)

/-- Greatest difference within a list. -/
def spread (l : List Int) : Int :=
  match l with
  | [] => 0
  | a :: rest => rest.foldl max a - rest.foldl min a

/-- A decision of the unit: REUSE or not, the tile's offset, and its new state word (R281). -/
structure TileDecision where
  tx : Nat
  ty : Nat
  reuse : Bool
  ox : Int
  oy : Int
  word : Nat
  deriving DecidableEq, Repr

/-- Decides one tile (R281): the layer, the frame's block counts and pitch, its tensors, and the tile's state word. -/
def decideTile (l : Layer) (nbx nby bp : Nat) (motion energy : Nat) (refresh : Bool) (tx ty state : Nat) : TileDecision :=
  let s := 2 ^ l.ls
  let bw := l.tw * s / 16
  let bh := l.th * s / 16
  let blocks := (tileBlocks ty bh l.halo nby).flatMap fun by' => (tileBlocks tx bw l.halo nbx).map fun bx => by' * bp + bx
  let sum := (blocks.map fun i => elem 32 energy i).sum
  let e := min (state % 2 ^ 48 + l.gain * sum / 256) (2 ^ 48 - 1)
  let dx := blocks.map fun i => motionOf (elem 32 motion i) 0
  let dy := blocks.map fun i => motionOf (elem 32 motion i) 14
  let sp := max (spread dx) (spread dy)
  let rc := state / 2 ^ 48 % 2 ^ 8
  if !refresh && !state.testBit 56 && decide (e ≤ l.thr) && decide (sp ≤ l.lim) && decide (rc < l.rlim) then
    let m := elem 32 motion (ty * bh * bp + tx * bw)
    { tx := tx, ty := ty, reuse := true, ox := roundAway (motionOf m 0) (4 * s), oy := roundAway (motionOf m 14) (4 * s)
      word := e + (rc + 1) * 2 ^ 48 + 2 ^ 57 }
  else { tx := tx, ty := ty, reuse := false, ox := 0, oy := 0, word := 0 }

/-- The low 16 bits of an offset. -/
def offset16 (z : Int) : Nat := (z % 2 ^ 16).toNat

/-- A tile's record (R283). -/
def TileDecision.record (d : TileDecision) : W64 :=
  w64 (d.tx + d.ty * 2 ^ 12 + d.reuse.toNat * 2 ^ 24 + offset16 d.ox * 2 ^ 32 + offset16 d.oy * 2 ^ 48)

/-- The end record of a ring (R283). -/
def endRecord (idx count : Nat) (reuse : Bool) : W64 :=
  w64 (count % 2 ^ 24 + reuse.toNat * 2 ^ 24 + 2 ^ 25 + idx % 2 ^ 32 * 2 ^ 32)

/-- The appends of a command in order: the tiles in raster order, each to its core's ring, then an end record to each ring
(R283). -/
def maskAppends (c0 nc rr ru idx : Nat) (ds : List TileDecision) : List (Nat × Nat × W64) :=
  let side (reuse : Bool) : List (TileDecision × Nat) := (ds.filter fun d => d.reuse == reuse).zipIdx
  let place (d : TileDecision) : Nat := (((side d.reuse).find? fun e => e.1 == d).map Prod.snd).getD 0
  let tiles := ds.map fun d => (c0 + place d % nc, if d.reuse then ru else rr, d.record)
  let count (core ring : Nat) : Nat := (tiles.filter fun t => t.1 == core && t.2.1 == ring).length
  let ends := (List.range nc).flatMap fun k =>
    (c0 + k, rr, endRecord idx (count (c0 + k) rr) false) ::
      (if ru = rr then [] else [(c0 + k, ru, endRecord idx (count (c0 + k) ru) true)])
  tiles ++ ends

/-- The ring of a core can take the unit's records: the core is bound to a slice of the context, and the ring is enabled
with 8-byte records (R281). -/
def State.maskTarget (s : State) (x core ring : Nat) : Bool :=
  (match s.sliceOf core with
   | some v => v.ctx == x
   | none => false) && ((s.core core).ring ring).enabled && ((s.core core).ring ring).z == 0

/-- MASK (R281). -/
def prepMask (c : VCmd) (ws : List Nat) : Prep VCommit :=
  let w (i : Nat) : Nat := ws.getD i 0
  let f (lo n : Nat) : Nat := w 4 / 2 ^ lo % 2 ^ n
  let c0 := f 0 8
  let nc := f 8 5 + 1
  let rr := f 16 4
  let ru := f 20 4
  let limit := f 24 24
  prepBind
    (prepCheck (w 0 == 0x20 && addrOk (w 1) 64 && addrOk (w 2) 1 && addrOk (w 3) 1 && f 13 3 == 0 && f 48 16 == 0 &&
      limit != 0 && (ws.drop 5).all (· == 0)))
    fun _ => prepBind (prepWords c (w 1) 8) fun lw => prepBind (prepWords c (w 2) 16) fun fw =>
      match parseLayer lw with
      | none => badBlock
      | some l => fun s p =>
        if (List.range nc).any fun k => decide (192 ≤ c0 + k) || !s.maskTarget c.ctx (c0 + k) rr ||
            !s.maskTarget c.ctx (c0 + k) ru then .bad s p 5
        else
          let h (i : Nat) : Nat := fw.getD i 0
          let fwid := h 0 % 2 ^ 16
          let fht := h 0 / 2 ^ 16 % 2 ^ 16
          let idx := h 1
          let st := 2 ^ l.ls
          if l.tw * st % 16 ≠ 0 ∨ l.th * st % 16 ≠ 0 ∨ l.tx ≠ ceilDiv fwid (l.tw * st) ∨ l.ty ≠ ceilDiv fht (l.th * st) then
            .bad s p 6
          else
            let nbx := ceilDiv fwid 16
            let nby := ceilDiv fht 16
            let bp := h 4 % 2 ^ 16
            let n := l.tx * l.ty
            let refresh := (h 0).testBit 36 || l.pend || l.last == 2 ^ 64 - 1 || idx != (l.last + 1) % 2 ^ 64 ||
              (l.n != 0 && idx % l.n == 0)
            prepBind (prepRead c (h 2 % 2 ^ 56) (4 * bp * nby))
              (fun motion => prepBind (prepRead c (h 3 % 2 ^ 56) (4 * bp * nby)) fun energy =>
                prepBind (prepRead c l.tst (8 * n)) fun states =>
                  let ds := (List.range n).map fun i =>
                    decideTile l nbx nby bp motion energy refresh (i % l.tx) (i / l.tx) (elem 64 states i)
                  let nru := (ds.filter fun d => d.reuse).length
                  let nrc := n - nru
                  let est := l.e0 + ceilDiv (l.erc * nrc + l.eru * nru) 65536
                  let tiles := [(l.tst, 8 * n, packFields 8 (ds.map fun d => d.word))]
                  let head :=
                    if w 3 = 0 then []
                    else [(w 3 + 12, 4, min est (2 ^ 32 - 1)), (w 3 + 20, 2, min n (2 ^ 16 - 1))]
                  prepBind (prepWrites c (tiles ++ head)) fun first =>
                    prepBind
                      (prepWrites c [(w 1 + 32, 8, idx), (w 1 + 16, 8, setBits (lw.getD 2 0) 24 1 0)])
                      fun last => prepPure
                        { cmd := c, code := 0x20, first := first, appends := maskAppends c0 nc rr ru idx ds, last := last
                          info := min nrc (2 ^ 24 - 1) + min nru (2 ^ 24 - 1) * 2 ^ 24, limit := limit * 64 }) s p

/-- `rfsh.layer` and `rfsh.tile` (R286). -/
def prepRfsh (c : VCmd) (layer : Nat) (tile : Option W64) : Prep VCommit :=
  prepBind (prepCheck (addrOk layer 64)) fun _ => prepBind (prepWords c layer 8) fun lw =>
    prepBind (prepCheck (parseLayer lw).isSome) fun _ =>
    let w2 := lw.getD 2 0
    match tile with
    | none =>
      prepBind (prepWrites c [(layer + 16, 8, setBits w2 24 1 1)]) fun first => prepPure { cmd := c, code := 0xE8, first := first }
    | some t =>
      if w2 % 2 ^ 12 * (w2 / 2 ^ 12 % 2 ^ 12) ≤ t.toNat then badBlock
      else
        let a := (lw.getD 3 0 + 8 * t.toNat) % 2 ^ 56
        prepBind (prepRead c a 8) fun v => prepBind (prepWrites c [(a, 8, setBits v 56 1 1)]) fun first =>
          prepPure { cmd := c, code := 0xE8, first := first }

/-- `mthr` (R285). -/
def prepMthr (c : VCmd) (form layer v : Nat) : Prep VCommit :=
  prepBind (prepCheck (addrOk layer 64)) fun _ => prepBind (prepWords c layer 8) fun lw =>
    prepBind (prepCheck (parseLayer lw).isSome) fun _ =>
    let old := lw.getD form 0
    let done (field new : Nat) : Prep VCommit :=
      prepBind (prepWrites c [(layer + 8 * form, 8, new)]) fun first =>
        prepPure { cmd := c, code := 0xE9, first := first, info := field % 2 ^ 48 }
    match form with
    | 0 => done old v
    | 1 => if 2 ^ 24 ≤ v ∨ v / 2 ^ 16 % 2 ^ 8 = 0 then badBlock else done (old % 2 ^ 24) (setBits old 0 24 v)
    | _ => if 2 ^ 16 ≤ v then badBlock else done (old / 2 ^ 48) (setBits old 48 16 v)

/-! ### The gather-scatter engines (R287, R288) -/

/-- Bytes of one scratchpad row of the issuing core, read by the engine. -/
def prepScrPart (c : VCmd) (q n : Nat) : Prep Nat := fun s p =>
  let row := q / 128
  let role := tblGet 0 (s.core c.core).roles (row / 512)
  if role ≠ 5 then
    .fault s { poolRole q role (c.core % 4) with faddr := (poolRole q role (c.core % 4)).faddr + w64 (c.seq % 2 ^ 16 * 2 ^ 32) }
  else if (s.core c.core).poolUe.contains row then prepBadRow c (row * 128) (row * 128) s p
  else .ok s p ((s.core c.core).poolRow (row / 512) (row % 512) / 2 ^ (8 * (q % 128)) % 2 ^ (8 * n))

/-- The list of records: from memory, or from the scratchpad of the issuing core, where a record may cross two rows. -/
def prepList (c : VCmd) (pool : Bool) (a n : Nat) : Prep (List Nat) :=
  if !pool then prepWords c a n
  else
    prepMap
      (fun i =>
        let parts := rowPieces 2 (a + 8 * i) 8 0
        prepBind (prepMap (fun e => prepScrPart c e.1 e.2.1) parts) fun vs =>
          prepPure ((parts.zip vs).map fun e => e.2 * 2 ^ (8 * e.1.2.2)).sum)
      (List.range n)

/-- A coordinate of a source window, clamped (R288). -/
def clampTo (z : Int) (hi : Nat) : Nat := (max 0 (min z hi)).toNat

/-- Reads the image of one reused tile: its `tw × th` positions of `pb` bytes (R288). -/
def prepTile (c : VCmd) (src tx ty tw th pb tb : Nat) (r : Nat) : Prep Nat :=
  let sx := clampTo ((r % 2 ^ 12 * tw : Nat) + signedBytes 2 (r / 2 ^ 32 % 2 ^ 16)) ((tx - 1) * tw)
  let sy := clampTo ((r / 2 ^ 12 % 2 ^ 12 * th : Nat) + signedBytes 2 (r / 2 ^ 48 % 2 ^ 16)) ((ty - 1) * th)
  let from' (i : Nat) : Nat :=
    let x := sx + i % tw
    let y := sy + i / tw
    src + (y / th * tx + x / tw) * tb + (y % th * tw + x % tw) * pb
  prepBind (prepMap (fun i => prepRead c (from' i) pb) (List.range (tw * th))) fun vs => prepPure (packFields pb vs)

/-- GSX (R288). -/
def prepGsx (c : VCmd) (ws : List Nat) : Prep VCommit :=
  let w (i : Nat) : Nat := ws.getD i 0
  let f (lo n : Nat) : Nat := w 5 / 2 ^ lo % 2 ^ n
  let lsrc := (w 0).testBit 8
  let dkind := (w 0).testBit 9
  let n := w 2
  let tx := f 0 12
  let ty := f 12 12
  let tw := f 24 8
  let th := f 32 8
  let pb := f 40 12
  let tb := roundUp (tw * th * pb) 128
  let size := tx * ty * tb
  let core := w 4 / 2 ^ 22
  let dst := w 4 % 2 ^ 22
  prepBind
    (prepCheck (w 0 / 2 ^ 10 == 0 && w 0 % 256 == 0x30 && (if lsrc then decide (w 1 < 2 ^ 22) else addrOk (w 1) 8) &&
      decide (n < 2 ^ 24) && n != 0 && addrOk (w 3) 128 && addrOk (w 4) 128 && (!dkind || decide (w 4 < 2 ^ 30)) &&
      w 5 / 2 ^ 52 == 0 && w 6 == 0 && w 7 == 0 && tx != 0 && ty != 0 && tw != 0 && th != 0 && pb != 0 &&
      (dkind || decide (w 4 + size ≤ w 3) || decide (w 3 + size ≤ w 4)) && (!lsrc || decide (w 1 + 8 * n ≤ 2 ^ 22))))
    fun _ => fun s p =>
      let bound := match s.sliceOf core with
        | some v => v.ctx == c.ctx && decide (core < 192)
        | none => false
      if dkind && !bound then .bad s p 5
      else
        prepBind (prepList c lsrc (w 1) n)
          (fun l =>
            let recs := l.filter fun r => !r.testBit 25 && r.testBit 24
            if l.any fun r => r / 2 ^ 26 % 2 ^ 6 != 0 then badBlock
            else if recs.any fun r => decide (tx ≤ r % 2 ^ 12) || decide (ty ≤ r / 2 ^ 12 % 2 ^ 12) then badGeometry
            else if dkind ∧ 2 ^ 22 < dst + recs.length * tb then badBlock
            else
              prepBind (prepMap (prepTile c (w 3) tx ty tw th pb tb) recs) fun imgs =>
                let len := tw * th * pb
                let parts := (recs.zip imgs).zipIdx
                if dkind then
                  let writes := parts.flatMap fun e =>
                    (rowPieces (len / 128 + 2) (dst + e.2 * tb) len 0).map fun q =>
                      ({ core := some core, addr := q.1, len := q.2.1, v := e.1.2 / 2 ^ (8 * q.2.2) % 2 ^ (8 * q.2.1) } : VWrite)
                  prepPure { cmd := c, code := 0x30, first := writes, info := recs.length }
                else
                  prepBind
                    (prepWrites c
                      (parts.map fun e => (w 4 + (e.1.1 / 2 ^ 12 % 2 ^ 12 * tx + e.1.1 % 2 ^ 12) * tb, len, e.1.2)))
                    fun writes => prepPure { cmd := c, code := 0x30, first := writes, info := recs.length })
          s p

/-! ### Running a command (R271, R273) -/

/-- The engines may work for a command: its context runs and does not halt, or it is a command of the handler slice
(R316, R329). -/
def State.engineServes (s : State) (c : VCmd) : Bool :=
  let x := s.ctx c.ctx
  match s.slice c.slice with
  | some v => if v.handler then x.mode == .stopped else x.mode == .run && x.halt.isNone
  | none => x.mode == .run && x.halt.isNone

/-- An engine raises a trap for a command (R290, R336). -/
def State.videoTrap (s : State) (die slot : Nat) (c : VCmd) (code : Nat) (t : Trap) : State :=
  let s := s.setEngine die slot { s.engine die slot with trap := some (c, code, t) }
  let handler := match s.slice c.slice with
    | some v => v.handler
    | none => false
  if handler then s.handlerFault c.ctx c.core 3 t else s.raiseHalt c.ctx (.engine (engineHandle die slot)) t

/-- The preparation of a command: `d` is what a decoder produced for a DECODE. -/
def prepare (die slot : Nat) (d : Decoded) (c : VCmd) : Prep VCommit :=
  match c.src with
  | .rfshLayer a => prepRfsh c a none
  | .rfshTile a t => prepRfsh c a (some t)
  | .mthr form a v => prepMthr c form a v.toNat
  | .block a =>
    prepBind (prepWords c a 8) fun ws =>
      let code := ws.headD 0 % 256
      if slot < 4 then
        if code = 0x10 then prepOpen c die slot ws
        else if code = 0x11 then prepDecode c die slot d ws
        else if code = 0x12 then prepClose c die slot ws
        else badBlock
      else if slot = 4 then (if code = 0x20 then prepMask c ws else badBlock)
      else if code = 0x30 then prepGsx c ws
      else badBlock

/-- The code of a command, for traces and records: its block's, or the opcode of `rfsh` and `mthr`. -/
def State.commandCode (s : State) (c : VCmd) : Nat :=
  match c.src with
  | .rfshLayer _ | .rfshTile _ _ => 0xE8
  | .mthr _ _ _ => 0xE9
  | .block a =>
    match s.engineEntry c.die c.ctx a .read with
    | some pa => s.homeRead (some (s.ctx c.ctx).part) pa 1
    | none => 0

/-- The layer record that a command names, by its address in memory (R284). -/
def State.commandLayer (s : State) (c : VCmd) : Option Nat :=
  let place (a : Nat) : Option Nat := s.engineEntry c.die c.ctx a .read
  match c.src with
  | .rfshLayer a | .rfshTile a _ | .mthr _ a _ => place a
  | .block a =>
    if s.commandCode c ≠ 0x20 then none
    else (place (a + 8)).bind fun pa => place (s.homeRead (some (s.ctx c.ctx).part) pa 8)

/-- The trace source of an engine (R349). -/
def engineKey (die slot : Nat) : Nat := traceKey 2 (engineHandle die slot) 0

/-- A command begins: it leaves its FIFO and is prepared, and its commit stands or its trap is raised (R273). -/
def State.beginCommand (s : State) (die slot : Nat) (d : Decoded) (c : VCmd) : State :=
  let e := s.engine die slot
  let s := s.setEngine die slot { e with fifo := e.fifo.erase c }
  let code := s.commandCode c
  let s := s.traceRec c.ctx (engineKey die slot) 3 0x20 (c.seq % 2 ^ 32 + code * 2 ^ 32)
  let c := { c with scope := none }
  match prepare die slot d c s false with
  | .ok s p k => s.setEngine die slot { s.engine die slot with commit := some { k with poison := p, layer := s.commandLayer c } }
  | .bad s p st => s.setEngine die slot { s.engine die slot with commit := some { VCommit.plain c code st with poison := p } }
  | .fault s t => s.videoTrap die slot c code t

/-- One write of a commit; a write to a pool is checked against the bank's role (R113, R288). -/
def State.commitWrite (s : State) (c : VCmd) (w : VWrite) : Except Trap State :=
  match w.core with
  | none => .ok (s.homeStore (some (s.ctx c.ctx).part) w.addr w.len w.v)
  | some core =>
    let role := tblGet 0 (s.core core).roles (w.addr / 2 ^ 16)
    if role ≠ 5 then
      .error { code := .poolRole
               faddr := w64 (w.addr + role * 2 ^ 24 + core % 4 * 2 ^ 28 + c.seq % 2 ^ 16 * 2 ^ 32) }
    else
      .ok (s.setCore core
        ((s.core core).setPoolRow (w.addr / 2 ^ 16) (w.addr / 2 ^ 7 % 512) (w.v * 2 ^ (8 * (w.addr % 128)))
          (spanMask (w.addr % 128) w.len)))

/-- The writes of a commit, in order. -/
def State.commitWrites (s : State) (c : VCmd) : List VWrite → State × Option Trap
  | [] => (s, none)
  | w :: rest =>
    match s.commitWrite c w with
    | .ok s => s.commitWrites c rest
    | .error t => (s, some t)

/-- A record as it is appended: an end record counts the tile records that have been appended to its ring (R283). -/
def VCommit.record (k : VCommit) (core ring : Nat) (v : W64) : W64 :=
  if v.getLsbD 25 then
    let lost := (k.lost.filter fun e => e == (core, ring)).length % 2 ^ 24
    w64 (setBits v.toNat 0 24 ((v.toNat % 2 ^ 24 + 2 ^ 24 - lost) % 2 ^ 24))
  else v

/-- The ring appends that find room (R283). `fuel` bounds them. DESIGN CHOICE (log entry 47): of the orders that R283 allows between
rings, the model appends in raster order over all of them, so that a full ring holds up the appends to the others. -/
def State.commitAppends (s : State) (die slot : Nat) : Nat → VCommit → State × VCommit
  | 0, k => (s, k)
  | fuel + 1, k =>
    match k.appends[k.progress]? with
    | none => (s, k)
    | some (core, ring, v) =>
      let mine := match s.sliceOf core with
        | some b => b.ctx == k.cmd.ctx
        | none => false
      let r := (s.core core).ring ring
      let next := { k with progress := k.progress + 1, waitSince := none, heldSince := none }
      if !mine || !r.enabled then s.commitAppends die slot fuel { next with status := 8, lost := k.lost ++ [(core, ring)] }
      else
        let agent := 0x1000 + engineHandle die slot
        if !(s.ctx k.cmd.ctx).ringTurn core ring agent then (s, { k with heldSince := some (k.heldSince.getD s.time) })
        else
          match s.appendRing core ring [(k.record core ring v).toNat] with
          | .done s => (s.logAppend core ring agent r.tail.toNat).commitAppends die slot fuel next
          | .full => (s, { k with waitSince := some (k.waitSince.getD s.time) })

/-- A commit goes on: its first writes, and the appends that find room. -/
def State.advanceCommit (s : State) (die slot : Nat) : State :=
  let e := s.engine die slot
  match e.commit, e.trap with
  | some k, none =>
    if !s.engineServes k.cmd then s
    else
      let (s, bad) := if k.begun then (s, none) else s.commitWrites k.cmd k.first
      match bad with
      | some t => s.videoTrap die slot k.cmd k.code t
      | none =>
        let (s, k) := s.commitAppends die slot k.appends.length { k with begun := true }
        s.setEngine die slot { s.engine die slot with commit := some k }
  | _, _ => s

/-- In replay mode a completion waits for its turn (R355). -/
def Ctx.completionTurn (c : Ctx) (handle : Nat) (v : VCmd) : Bool :=
  match c.replayNext 5 handle 0 with
  | some r => bits r.2 0 8 == v.core && bits r.2 8 32 == v.seq
  | none => true

/-- A work that is a commit with all its appends made, whose turn to complete has not come (R355). -/
def State.awaitsTurn (s : State) (die slot : Nat) (w : EngineWork) : Bool :=
  match w with
  | (some k, none) =>
    k.begun && decide (k.appends.length ≤ k.progress) && k.heldSince.isSome &&
      !(s.ctx k.cmd.ctx).completionTurn (engineHandle die slot) k.cmd
  | _ => false

/-- Produces a command's element, which a slice that has ended does not take (R220, R271, R354). -/
def State.produce (s : State) (die slot : Nat) (c : VCmd) (element : W64) : State :=
  let h := engineHandle die slot
  let e := s.engine die slot
  let s := if (s.ctx c.ctx).replayMode = 2 then s.replayUse c.ctx 5 h 0
    else s.replayLog c.ctx 5 h 0 0 e.completions (c.core + c.seq * 2 ^ 8)
  let results :=
    if (s.core c.core).slice = some c.slice then tblSet e.results c.core (e.elements c.core ++ [element]) else e.results
  s.setEngine die slot { e with commit := none, completions := e.completions + 1, results := results }

/-- A commit whose appends are made ends: its last writes, and its element, where the result FIFO has room (R271, R272). -/
def State.endCommit (s : State) (die slot : Nat) : State :=
  let e := s.engine die slot
  match e.commit with
  | none => s
  | some k =>
    let full := decide (16 ≤ (e.elements k.cmd.core).length) && (s.core k.cmd.core).slice == some k.cmd.slice
    if !k.begun || decide (k.progress < k.appends.length) || full || !s.engineServes k.cmd || e.trap.isSome then s
    else if !(s.ctx k.cmd.ctx).completionTurn (engineHandle die slot) k.cmd then
      s.setEngine die slot { e with commit := some { k with heldSince := some (k.heldSince.getD s.time) } }
    else
      let (s, _) := s.commitWrites k.cmd k.last
      let s := s.traceRec k.cmd.ctx (engineKey die slot) 3 0x21 (k.cmd.seq % 2 ^ 32 + k.status * 2 ^ 32)
      s.produce die slot k.cmd (w64 (k.status + k.poison.toNat * 2 ^ 8 + k.info % 2 ^ 48 * 2 ^ 16))

/-- A change-mask unit has a command of the same layer record in commit: the next one begins after it (R284). -/
def State.layerBusy (s : State) (c : VCmd) : Bool :=
  match s.commandLayer c with
  | none => false
  | some l => [0, 1].any fun d => (s.engine d 4).works.any fun w => match w.1 with
    | some k => k.layer == some l
    | none => false

/-- The context of an engine's present work. -/
def Engine.workCmd (w : EngineWork) : Option VCmd :=
  match w with
  | (some k, _) => some k.cmd
  | (none, some (v, _, _)) => some v
  | (none, none) => none

/-- An engine sets aside the work of a context that halts, and that which, finished, waits for its turn in replay, and takes up
again that which can go on (R329, R355; that a finished one is set aside is log entry 46, DESIGN CHOICE). -/
def State.turnEngine (s : State) (die slot : Nat) : State :=
  let e := s.engine die slot
  let idle (w : EngineWork) : Bool := match Engine.workCmd w with
    | some c => !s.engineServes c || s.awaitsTurn die slot w
    | none => false
  let e := if idle (e.commit, e.trap) then { e with commit := none, trap := none, parked := e.parked ++ [(e.commit, e.trap)] } else e
  let e :=
    if e.commit.isSome || e.trap.isSome then e
    else
      match e.parked.findIdx? fun w => !idle w with
      | some i =>
        let w := e.parked.getD i (none, none)
        { e with commit := w.1, trap := w.2, parked := e.parked.eraseIdx i }
      | none => e
  s.setEngine die slot e

/-- An engine's event: it begins the first command it may work for, if that is of the event's kind, or goes on with the
one in commit. -/
def State.engineEvent (s : State) (die slot : Nat) (kind : Nat → Bool) : State :=
  let s := s.turnEngine die slot
  let e := s.engine die slot
  match e.commit, e.trap with
  | some _, _ => s.advanceCommit die slot
  | none, some _ => s
  | none, none =>
    match e.fifo.find? s.engineServes with
    | none => s
    | some c =>
      if kind (s.commandCode c) && !s.layerBusy c then (s.beginCommand die slot s.ev.out c).advanceCommit die slot else s

def execOpenStream (s : State) : Host.Outcome State Fault Refusal :=
  .next (s.engineEvent (s.ev.die % 2) (s.ev.n % 4) fun code => code != 0x11 && code != 0x12)
def execDecodeUnit (s : State) : Host.Outcome State Fault Refusal :=
  .next (s.engineEvent (s.ev.die % 2) (s.ev.n % 4) fun code => code == 0x11)
def execCloseStream (s : State) : Host.Outcome State Fault Refusal :=
  .next (s.engineEvent (s.ev.die % 2) (s.ev.n % 4) fun code => code == 0x12)
def execMaskCommand (s : State) : Host.Outcome State Fault Refusal :=
  .next (s.engineEvent (s.ev.die % 2) 4 fun code => code != 0xE8 && code != 0xE9)
def execGsxCommand (s : State) : Host.Outcome State Fault Refusal :=
  .next (s.engineEvent (s.ev.die % 2) (8 + s.ev.n % 4) fun _ => true)
def execRfshCommand (s : State) : Host.Outcome State Fault Refusal :=
  .next (s.engineEvent (s.ev.die % 2) 4 fun code => code == 0xE8)
def execMthrCommand (s : State) : Host.Outcome State Fault Refusal :=
  .next (s.engineEvent (s.ev.die % 2) 4 fun code => code == 0xE9)

/-- VIDEO_COMMAND_COMPLETION: the command in commit ends; `n` is the engine's slot (R271). -/
def execVideoCommandCompletion (s : State) : Host.Outcome State Fault Refusal :=
  let die := s.ev.die % 2
  .next (((s.turnEngine die s.ev.n).advanceCommit die s.ev.n).endCommit die s.ev.n)

/-- RING_WAIT_EXPIRED: of a stream (R210), or of a change-mask unit, whose limit counts cycles of 900 MHz (R4, R283). -/
def execRingWaitExpired (s : State) : Host.Outcome State Fault Refusal :=
  match s.ev.who with
  | .stream core k => .next (s.expireWait core k fun w => w.state == 4)
  | .maskUnit die =>
    let e := s.engine (die % 2) 4
    match e.commit with
    | some c =>
      match c.waitSince, c.appends[c.progress]?, e.trap with
      | some t, some (core, ring, _), none =>
        if c.limit < (s.time - t) * 9 / 10 ∧ s.engineServes c.cmd then
          let pos := ((s.core core).ring ring).positions
          .next (s.videoTrap (die % 2) 4 c.cmd c.code
            { code := .ringWaitExpired, faddr := w64 (pos + core * 2 ^ 50 + ring * 2 ^ 58) })
        else .next s
      | _, _, _ => .next s
    | none => .next s

end Sys2Proof.Machine
end

