-- ==== Sys2Proof/Machine/Stops.lean ====
section
/-! DEFINITION. The stop of a context: its cut and records, its handler slice, and what `tret` does with it
(R37, R38, R108, R190, R273, R311, R316, R329 to R337). -/

namespace Sys2Proof.Machine

/-! ### Stop records (R38, R331 to R333) -/

/-- The slices, and their cores, that a stop of a context concerns: its bound slices, without the handler's. -/
def State.stopCores (s : State) (x : Nat) : List Nat :=
  (s.slicesOf x false).flatMap fun n => match s.slice n with
    | some v => v.cores
    | none => []

/-- Cores in ascending order. -/
def ascending (cores : List Nat) : List Nat := (List.range 192).filter fun c => cores.contains c

/-- The trap code of an agent that may have raised one. -/
def causeOf (t : Option Trap) : Nat :=
  match t with
  | some t => t.code.code
  | none => 0

/-- The faddr of an agent that may have raised a trap. -/
def faddrOf (t : Option Trap) : Nat :=
  match t with
  | some t => t.faddr.toNat
  | none => 0

/-- Tokens of the issued instructions of a stream that have not retired, returned to the fronts of their queues (R37). -/
def Core.returnTokens (c : Core) (k : StreamId) : Core :=
  let st := c.stream k
  let give (c : Core) (q : Option Nat) (n : Nat) : Core :=
    match q with
    | some q => c.addTokens q n
    | none => c
  let c := give (give c (popPrevQ k) st.poppedAll.1) (popNextQ k) st.poppedAll.2
  c.setStream k { st with popped := (0, 0), ahead := st.ahead.map fun a => { a with popped := (0, 0) } }

/-- The opcode of the head, where it has been decoded (R38). -/
def Stream.headOpcode (st : Stream) : Nat :=
  if st.fetchTrap || !st.hasFrame then 0
  else
    match st.iq with
    | f :: _ =>
      if isRecord f.words then fld (f.words.getD 0 0) 47 8 else f.words.getD (st.pc.toNat % 8 + 1) 0 / 2 ^ 56
    | [] => 0

/-- The queues that the head waits to pop (R38). -/
def Core.popMask (c : Core) (k : StreamId) : Nat :=
  match c.waiting k with
  | some w => match w.kind with
    | .token pop _ _ => pop
    | _ => 0
  | none => 0

/-- A queue is in a mask. -/
def inMask (mask : Nat) (q : Option Nat) : Bool :=
  match q with
  | some q => mask.testBit q
  | none => false

/-- The `waitid` of the stop record; a `wenq` target fault records its payload offset there, and MEM_PARAM check 8 the operation
(R38, R269, R335). -/
def Core.stopWaitid (c : Core) (k : StreamId) : Nat :=
  let id := match c.waiting k with
    | some w => w.kind.waitid
    | none => 0
  match (c.stream k).trap with
  | some t => if t.code = .memFault ∧ t.resumable ∨ t.code = .memParam ∧ t.detail = 8 then t.offset else id
  | none => id

/-- The cycles that the head has waited: of its present wait (R38, log entry 33). -/
def State.headCycles (s : State) (core : Nat) (k : StreamId) : Nat :=
  match (s.core core).waiting k with
  | some w => min (s.cyclesOf core - w.since) (2 ^ 32 - 1)
  | none => 0

/-- Instructions of a stream issued and not retired: the head, where it has issued, and those behind it (R38). -/
def Stream.inflight (st : Stream) : Nat := if st.issued then 1 + st.ahead.length else 0

/-- The stop record of a stream, in its words (R38); the queue counts are those after the tokens of issued heads have been given
back (R37). DESIGN CHOICE (log entry 33): the state field of its status word shows the state before the stop, as the record's
own state field does; a YIELDED stream, which has no head, gives the PC of its `yield` or `tret` and opcode 0; and the cycles are
those of the head's present wait. -/
def State.streamRecord (s : State) (tokq : Nat) (core : Nat) (k : StreamId) : List Nat :=
  let c := s.core core
  let st := c.stream k
  let x := s.ctxOf core
  let replay := (s.ctx x).replayMode == 2
  let pops := c.popMask k
  [ 1 + k.num * 2 ^ 8 + core * 2 ^ 10 + st.attached.toNat * 2 ^ 18 + replay.toNat * 2 ^ 19 + c.stateOf k * 2 ^ 20 +
      causeOf st.trap * 2 ^ 24 + x * 2 ^ 32,
    st.rc.toNat,
    st.pc.toNat + st.headOpcode * 2 ^ 56,
    tokq + st.issued.toNat * 2 ^ 32 + (inMask pops (popPrevQ k)).toNat * 2 ^ 33 + (inMask pops (popNextQ k)).toNat * 2 ^ 34,
    c.stopWaitid k,
    (s.statusWord core k (c.stateOf k)).toNat,
    st.inflight + s.headCycles core k * 2 ^ 32,
    faddrOf st.trap ]

/-- The command that a matrix engine's record names: the one that trapped, the executing one, or the head that waits on its
semaphore (R190). DESIGN CHOICE (log entry 45): the executing command comes before a running weight load, and that before a head
that waits. -/
def Matrix.recorded (m : Matrix) : Option MCmd :=
  let all := m.running.toList ++ m.weights ++ m.queue
  if m.trap.isSome then all.find? fun c => c.num == m.trapNum
  else
    match m.running.toList ++ m.weights, m.queue with
    | c :: _, _ => some c
    | [], c :: _ => if c.waitSince.isSome && !c.semTaken then some c else none
    | [], [] => none

/-- The group field of a matrix engine's record: of SPARSE_META (R332). -/
def Matrix.recordGroup (m : Matrix) : Nat := if causeOf m.trap = 0x22 then m.group else 0

/-- The progress count of a record: the units that have taken effect whole; one with rows still to be written has not (R190). -/
def MCmd.recordProgress (c : MCmd) : Nat := if c.outs = [] then c.progress else c.progress - 1

/-- The matrix engine record of a core (R332). -/
def State.matrixRecord (s : State) (core : Nat) : List Nat :=
  let m := (s.core core).matrix
  let c := m.recorded
  let get (f : MCmd → Nat) : Nat := match c with
    | some c => f c
    | none => 0
  [ 2 + core * 2 ^ 10 + causeOf m.trap * 2 ^ 24 + s.ctxOf core * 2 ^ 32,
    get (fun c => c.seq % 2 ^ 16 + c.op * 2 ^ 16) + m.qlen * 2 ^ 24 + get (fun c => c.semTaken.toNat) * 2 ^ 29 + m.recordGroup * 2 ^ 30,
    get MCmd.recordProgress, faddrOf m.trap, 0, 0, 0, 0 ]

/-- What a video engine works on, or holds, for a context. -/
def Engine.workOf (e : Engine) (x : Nat) : Option EngineWork :=
  e.works.find? fun w => (Engine.workCmd w).any fun v => v.ctx == x

/-- A video engine holds a command of a context. -/
def Engine.holds (e : Engine) (x : Nat) : Bool := (e.fifo.any fun v => v.ctx == x) || (e.workOf x).isSome

/-- The trap that a video engine raised for a context. -/
def Engine.trapOf (e : Engine) (x : Nat) : Option Trap :=
  match e.workOf x with
  | some (_, some (_, _, t)) => some t
  | _ => none

/-- The executing command of a context: its command, block code, phase and progress (R273, R333). -/
def Engine.executing (e : Engine) (x : Nat) : Option (VCmd × Nat × Nat × Nat) :=
  match e.workOf x with
  | some (some k, _) => some (k.cmd, k.code, 1, k.progress)
  | some (none, some (v, code, _)) => some (v, code, 0, 0)
  | _ => none

/-- The video engine record of a context (R333). -/
def State.videoRecord (s : State) (x die slot : Nat) : List Nat :=
  let e := s.engine die slot
  let t := e.trapOf x
  let (core, seq, code, phase, progress) := match e.executing x with
    | some (v, code, phase, progress) => (v.core, v.seq, code, phase, progress)
    | none => (0, 0, 0, 0, 0)
  [ 3 + core * 2 ^ 10 + causeOf t * 2 ^ 24 + x * 2 ^ 32 + engineHandle die slot * 2 ^ 38,
    seq % 2 ^ 32 + code * 2 ^ 32 + phase * 2 ^ 40,
    progress % 2 ^ 32, faddrOf t, ((e.fifo.filter fun v => v.ctx == x).length) % 2 ^ 16, 0, 0, 0 ]

/-- The engine slots of a die, and the engines that hold a command of a context, in the order of the stop area (R331). -/
def engineSlots : List Nat := [0, 1, 2, 3, 4, 8, 9, 10, 11]
def State.stopEngines (s : State) (x : Nat) : List (Nat × Nat) :=
  ([0, 1].flatMap fun d => engineSlots.map fun i => (d, i)).filter fun e => (s.engine e.1 e.2).holds x

/-- Offsets in the stop area (R331). -/
def streamOffset (core : Nat) (k : StreamId) : Nat := 64 * (4 * core + k.num)
def matrixOffset (core : Nat) : Nat := 0xC000 + 64 * core
def engineOffset (die slot : Nat) : Nat := 0xF000 + 64 * (16 * die + slot)

/-- Writes a record of the stop area; an address beyond DEV memory is not written (R331). -/
def State.writeRecord (s : State) (x off : Nat) (words : List Nat) : State :=
  let c := s.ctx x
  words.zipIdx.foldl
    (fun s e =>
      let a := c.stops * 2 ^ 16 + off + 8 * e.2
      if a < devTop then s.homeStore (some c.part) a 8 e.1 else s) s

/-! ### The stop (R329, R330) -/

/-- An issued head has taken a step that no stop undoes, has sent an AtomicOp, or runs to its end with tokens that a queue could
not take back: it retires before its stream stops (R330, R343). DESIGN CHOICE (log entry 39): such a head that waits, or has
trapped, does not hold up the stop, and the record then holds the count that R25 and R37 give. -/
def State.headPending (s : State) (x : Nat) : Bool :=
  (s.stopCores x).any fun c => allStreams.any fun k =>
    let st := s.stream c k
    st.atomicOut || st.firm || ((s.core c).overfull k && st.trap.isNone && (s.core c).stateOf k == 1)

/-- The engine works on a command up to a progress count, also where another command's trap has stopped it; that trap stays, and what
would trap besides is not done (R190). -/
def State.workBeside (s : State) (core : Nat) (c : MCmd) (n : Nat) : State :=
  let m := (s.core core).matrix
  if m.trap.isNone then s.workCommand core c n
  else if m.trapNum = c.num then s
  else
    let t := (s.setMatrix core { m with trap := none }).workCommand core c n
    let m' := (t.core core).matrix
    if m'.trap.isSome then s else t.setMatrix core { m' with trap := m.trap, trapNum := m.trapNum, group := m.group }

/-- What the engines of the cores have done by the stop: core, number and progress count of each command (R190). A unit whose rows are
partly written is written whole. -/
def State.cutProgress (s : State) (x : Nat) : List Nat → State
  | core :: num :: n :: rest =>
    let s :=
      if (s.stopCores x).contains core then
        match (s.core core).matrix.executing num with
        | some c => s.workBeside core c n
        | none => s
      else s
    s.cutProgress x rest
  | _ => s

/-- No unit of an executing command stands half written at the stop: its rows are written, so that it has taken effect up to its
progress count and no further (R190). -/
def State.wholeUnits (s : State) (x : Nat) : State :=
  (s.stopCores x).foldl
    (fun s core =>
      let m := (s.core core).matrix
      match m.running with
      | some c => if c.outs ≠ [] then s.workBeside core c c.progress else s
      | none => s)
    s

/-- The join at which a stream waits. -/
def Stream.joinId (st : Stream) : Option Nat :=
  match st.wait with
  | some w => match w.kind with
    | .join id => some id
    | _ => none
  | none => none

/-- A stream stands at its head: what a wait or an unretired issue holds is given back, and the steps of its head are undone
or taken again (R37, R330). -/
def State.cutStream (s : State) (core : Nat) (k : StreamId) : State :=
  let s := s.leaveSems core k
  let i := clusterOf core
  let cl := s.cluster i
  let s := s.setCluster i { cl with monitors := cl.monitors.filter fun m => !(m.core == core && m.k == k) }
  let st := s.stream core k
  let rejoin := st.joinId
  s.setStream core k
    { ({ st with ahead := [] } : Stream).clearHead st.headSince with
      stopped := true, cutCycles := s.cycleReg core, rejoin := rejoin.or st.rejoin, clsSince := st.clsSince, issuedNow := false
      skipping := st.skipping, fetchTrap := st.fetchTrap }

/-- The matrix commands of a core at a stop: the head of the queue waits no longer, and what the engine has read ahead is read
again (R190). -/
def Matrix.cut (m : Matrix) : Matrix :=
  let fresh (c : MCmd) : MCmd := { c with seen := [] }
  { m with
    queue := m.queue.map fun c => if c.semTaken then c else { c with waitSince := none }
    running := m.running.map fresh, weights := m.weights.map fresh }

/-- At the stop, a stream that has raised no trap takes the one that has come to it late; of one that has trapped, a late trap of
its budget is raised again when it resumes (R308). -/
def Stream.takeLate (st : Stream) : Stream :=
  match st.trap, st.lateTrap with
  | none, some t => { st with trap := some t, last := BitVec.ofNat 8 t.code.code, lateTrap := none }
  | some _, some t => if t.code = .budgetExhausted then { st with lateTrap := none } else st
  | _, none => st

/-- The streams of a core stop: what is pending is performed, tokens return, waits are recorded, the records are written
(R37, R38, R330). -/
def State.stopCore (s : State) (x core : Nat) : State :=
  let s := s.landAll core
  let s := allStreams.foldl (fun s k => s.setStream core k (s.stream core k).takeLate) s
  let tokq := (allStreams.foldl Core.returnTokens (s.core core)).tokqWord
  let record (s : State) (k : StreamId) : State :=
    let s := s.traceWaitOf core k
    let s := s.writeRecord x (streamOffset core k) (s.streamRecord tokq core k)
    s.traceRec x (traceKey 0 core k.num) 5 0x40 (causeOf (s.stream core k).trap)
  let s := allStreams.foldl record s
  let s := s.writeRecord x (matrixOffset core) (s.matrixRecord core)
  let s := s.traceRec x (traceKey 1 core 0) 5 0x40 (causeOf (s.core core).matrix.trap)
  let s := s.setCore core { allStreams.foldl Core.returnTokens (s.core core) with poolBusy := false, reshape := none }
  let s := allStreams.foldl (fun s k => s.cutStream core k) s
  let s := s.leaveMatrixSems core
  s.setMatrix core (s.core core).matrix.cut

/-- The traps of a stop: of streams, matrix engines and video engines. -/
def State.stopTraps (s : State) (x : Nat) : List Trap :=
  ((s.stopCores x).flatMap fun c =>
    (allStreams.filterMap fun k => (s.stream c k).trap) ++ (s.core c).matrix.trap.toList) ++
  (s.stopEngines x).filterMap fun e => (s.engine e.1 e.2).trapOf x

/-- CONTEXT_STOPPED (R329, R330): the records are written, and the context waits for its handler. -/
def execContextStopped (s : State) : Host.Outcome State Fault Refusal :=
  let x := s.ev.ctx
  let c := s.ctx x
  if !(c.live && c.mode == .run && c.halt.isSome) || s.headPending x then .next s
  else
    let s := (s.cutProgress x s.ev.nums).wholeUnits x
    let s := (ascending (s.stopCores x)).foldl (fun s core => s.stopCore x core) s
    let video (s : State) (e : Nat × Nat) : State :=
      let s := s.writeRecord x (engineOffset e.1 e.2) (s.videoRecord x e.1 e.2)
      s.traceRec x (engineKey e.1 e.2) 5 0x40 (causeOf ((s.engine e.1 e.2).trapOf x))
    let s := (s.stopEngines x).foldl video s
    let s := s.setCtx x { s.ctx x with mode := .stopped, stopTime := s.time, causes := (s.stopTraps x).length }
    let s := s.traceFlushAll x
    let s := s.withdrawAll fun q => (s.queue q).ctx.toNat == x
    let p := s.part c.part
    .next (s.setPart c.part { p with handlerQueue := p.handlerQueue ++ [x] })

/-! ### The handler (R316, R336, R337) -/

/-- HANDLER_SLICE_BIND: the handler of the context that has waited longest, on the partition's handler core (R316, R327). -/
def execHandlerSliceBind (s : State) : Host.Outcome State Fault Refusal :=
  let p := s.ev.part
  let core := (s.part p).hcore.toNat
  match (s.part p).handlerQueue with
  | [] => .next s
  | x :: rest =>
    if !s.coreFree core || (s.die (dieOf core)).modeBusy then .next s
    else
      let s := s.setPart p { s.part p with handlerQueue := rest }
      let c := s.ctx x
      let good := match s.readHeader (dieOf core) x c.hslice with
        | some h => if headerOk h c.dn && h.gang == 0 then some h else none
        | none => none
      match good with
      | none => .next ((s.notify p 0 1).killContext x)
      | some h =>
        let s := s.setCtx x
          { c with
            htgtEn := false, htgtErr := false, htgtK := 0, htgtCore := 0, causeRead := false, action := none }
        .next (s.bindSlice
          { ctx := x, handler := true, queue := 0, hdr := h, cores := [core], budget := BitVec.ofNat 32 h.budget })

/-! ### What `tret` does (R108, R190, R273, R311, R357) -/

/-- A slice carries a non-zero cause: of a stream, of its matrix engines, or of a video command of it (R311). -/
def State.sliceCause (s : State) (n : Nat) : Bool :=
  (match s.slice n with
   | some v => v.cores.any fun c =>
       (allStreams.any fun k => (s.stream c k).trap.isSome) || (s.core c).matrix.trap.isSome
   | none => false) ||
  s.dies.any fun d => d.2.engines.any fun e => e.2.works.any fun w => w.2.any fun t => t.1.slice == n

/-- A stream continues from the cut (R37, R108); `skip` skips the head that trapped, and a skip still owed stays owed. -/
def Stream.resume (st : Stream) (now : Nat) (skip : Bool) : Stream :=
  { st with
    stopped := false, held := false, trap := none, iq := [], attached := false, headSince := now, fetchTrap := false
    cls := 0, clsSince := now
    skipping := st.skipping || (skip && st.trap.isSome && !st.fetchTrap) }

/-- The trapped command of a matrix engine is discarded: it counts as done and performs its signal, and the queued commands
find the metadata row that they then have (R190, R224). -/
def State.skipMatrix (s : State) (core : Nat) : State :=
  let m := (s.core core).matrix
  match m.trap, m.recorded with
  | some _, some c =>
    let s := s.setMatrix core { m with trap := none, queue := m.queue.filter fun d => d.num != c.num }
    let s := s.discardCommand core c
    s.setMatrix core (s.core core).matrix.renumber
  | _, _ => s.setMatrix core { m with trap := none }

/-- A core of a stopped slice continues. -/
def State.resumeCore (s : State) (core : Nat) (skip : Bool) : State :=
  let now := s.cyclesOf core
  let c := s.core core
  let f (st : Stream) : Stream := st.resume now skip
  let s := s.setCore core { c with l := f c.l, xs := f c.xs, s := f c.s, k := f c.k }
  if skip then s.skipMatrix core else s.setMatrix core { (s.core core).matrix with trap := none }

/-- What an engine works on, or holds, goes on: a commit is made again from its start; a command whose trap stopped it goes on
in commit, or is skipped, or, in preparation, goes back to its FIFO (R273). -/
def resumeWork (x : Nat) (skip : Bool) (w : EngineWork) : EngineWork :=
  let again (k : VCommit) : VCommit :=
    if k.cmd.ctx = x then { k with begun := false, waitSince := none, heldSince := none } else k
  match w with
  | (k, some (v, code, t)) =>
    if v.ctx ≠ x then (k.map again, some (v, code, t))
    else if skip then (some { VCommit.plain v code 7 with begun := true }, none)
    else (k.map again, none)
  | (k, none) => (k.map again, none)

/-- The commands in preparation that a resumption gives back to their FIFO. -/
def Engine.prepared (e : Engine) (x : Nat) (skip : Bool) : List VCmd :=
  e.works.filterMap fun w => match w with
    | (none, some (v, _, _)) => if v.ctx = x ∧ !skip then some v else none
    | _ => none

/-- A video engine goes on with a context's commands (R273). -/
def Engine.resume (e : Engine) (x : Nat) (skip : Bool) : Engine :=
  { e with fifo := e.prepared x skip ++ e.fifo }.mapWorks (resumeWork x skip)

def State.resumeEngines (s : State) (x : Nat) (skip : Bool) : State :=
  { s with dies := tblMap s.dies fun d => { d with engines := tblMap d.engines fun e => e.resume x skip } }

/-- A slice is placed at the front of its queue again (R311). -/
def State.requeueSlice (s : State) (n : Nat) : State :=
  match s.slice n with
  | none => s
  | some v =>
    let s := s.dropCommands false fun c => c.slice != n
    let s := v.cores.foldl (fun s c => s.wayCleanAll c) s
    let s := s.freeSlice n .idle
    let q := s.queue v.queue
    let displaced := if q.entries = [] then q.displaced else (q.head, q.turn) :: q.displaced
    let s := s.setQueue v.queue
      { q with entries := (v.hdr.addr, v.restarts + 1) :: q.entries, head := none, displaced := displaced }
    s.captureQueue v.queue queueFuel

/-- The context runs again; after REPLAY_DIVERGED in free-run (R334, R357). -/
def State.leaveStop (s : State) (x : Nat) : State :=
  let free := (s.stopTraps x).any fun t => t.code == .replayDiverged
  let c := s.ctx x
  s.setCtx x
    { c with
      mode := .run, halt := none, cause := none, causes := 0, action := none
      replayMode := if free then 0 else c.replayMode, replayRecs := if free then [] else c.replayRecs }

/-- All causes of a stop can be resumed: the first, and that of every record (R335). -/
def State.resumable (s : State) (x : Nat) : Bool :=
  ((s.stopTraps x).all fun t => t.resumable) &&
    (match (s.ctx x).cause with
     | some (_, t) => t.resumable
     | none => true)

/-- A stopped context resumes, its trapped heads and commands skipped where `skip` says so; with `again` the slices that
carry a cause are queued again; a slice whose budget is still 0 traps again at once (R108, R308, R311). -/
def State.resumeContext (s : State) (x : Nat) (skip again : Bool) : State :=
  let ns := s.slicesOf x false
  let failed := if again then ns.filter s.sliceCause else []
  let s := s.leaveStop x
  let s := failed.foldl State.requeueSlice s
  let s := s.resumeEngines x skip
  let s := (ascending (s.stopCores x)).foldl (fun s core => s.resumeCore core skip) s
  (s.slicesOf x false).foldl State.raiseBudget s

/-- The action of a `tret` (R108). -/
def State.tretAction (s : State) (x : Nat) (a : TretAction) : State :=
  match a with
  | .kill => s.killContext x
  | .restart => s.resumeContext x false true
  | .resume => if s.resumable x then s.resumeContext x false false else s.resumeContext x false true
  | .skip => if s.resumable x then s.resumeContext x true false else s.resumeContext x false true

/-- HANDLER_SLICE_END: every stream of the handler slice has yielded; its successor is decremented, its core is free, and the action of its `tret` is
carried out (R108, R309, R316). -/
def execHandlerSliceEnd (s : State) : Host.Outcome State Fault Refusal :=
  let p := s.ev.part
  match s.slices.find? fun e => e.2.handler && (s.ctx e.2.ctx).part == p with
  | none => .next s
  | some (n, v) =>
    if v.cores.all fun c => allStreams.all fun k => (s.stream c k).mode == .yielded then
      let x := v.ctx
      let a := (s.ctx x).action.getD .kill
      match (v.cores.foldl (fun s c => s.wayCleanAll c) s).endSuccessor v with
      | none => .next s
      | some (s, _) => .next ((s.freeSlice n .idle).tretAction x a)
    else .next s

end Sys2Proof.Machine
end

