-- ==== Sys2Proof/Machine/Debug.lean ====
section
/-! DEFINITION. `tmark` and `dump`, and the events of trace, replay, translation, fetch and waiting heads
(R109, R201, R227, R320 to R325, R340 to R342, R349, R352, R357). -/

namespace Sys2Proof.Machine

/-! ### Trace and replay -/

/-- `tmark` (R352). -/
def execTmark (h : Head) (ra : Reg) (tag : BitVec 16) (s : State) :=
  runNow h
    (effect fun s =>
      s.traceRec s.curCtx (traceKey 0 s.curCore s.curK.num) 0 0x01 (tag.toNat + bits (s.rx ra) 0 24 * 2 ^ 16)) s

/-- TRACE_FRAME_TIMEOUT of source `n` (R349). -/
def execTraceFrameTimeout (s : State) : Host.Outcome State Fault Refusal :=
  let src : TraceSrc := tblGet {} (s.ctx s.ev.ctx).trace s.ev.n
  match src.recs with
  | (t0, _, _) :: _ => .next (if t0 + traceFrameNs ≤ s.time then s.traceFlush s.ev.ctx s.ev.n else s)
  | [] => .next s

/-- Cycles that a forced event may take to become possible (R357). -/
def starveLimit : Nat := 16777216

/-- The fault record of a forced event that never became possible, and its trace record; those of an engine are of the K stream that
entered its command (R350, R357; DESIGN CHOICE, log entry 46). -/
def State.starvedRecord (s : State) (x core k n : Nat) : State :=
  let c := s.ctx x
  let w0 := 4 + x * 2 ^ 8 + core * 2 ^ 14 + k * 2 ^ 22 + 0x40 * 2 ^ 24 + 2 ^ 40
  (s.mailbox c.part [w0, n, 0, s.time % 2 ^ 64]).traceRec x (traceKey 0 core k) 5 0x41 0

/-- An engine that has set aside a commit which a test selects, and works on no other that it selects, takes it up. -/
def State.raiseWork (s : State) (die slot : Nat) (f : VCommit → Bool) : State :=
  let e := s.engine die slot
  let hit (w : EngineWork) : Bool := match w with
    | (some k, none) => f k
    | _ => false
  match hit (e.commit, e.trap), e.parked.findIdx? hit with
  | false, some i =>
    let w := e.parked.getD i (none, none)
    let old := if e.commit.isSome || e.trap.isSome then [(e.commit, e.trap)] else []
    s.setEngine die slot { e with commit := w.1, trap := w.2, parked := old ++ e.parked.eraseIdx i }
  | _, _ => s

/-- REPLAY_STARVED: of a stream, or, with `flag`, of engine `n` of a die (R357). DESIGN CHOICE (log entry 38): the cycles of an
engine, which has no cluster's clock, are cycles of 900 MHz of device time. -/
def execReplayStarved (s : State) : Host.Outcome State Fault Refusal :=
  if s.ev.flag then
    let d := s.ev.die % 2
    let s := s.raiseWork d s.ev.n fun k =>
      (k.heldSince.any fun t => decide (starveLimit < (s.time - t) * 9 / 10)) && s.engineServes k.cmd && (s.ctx k.cmd.ctx).replayMode == 2
    let e := s.engine d s.ev.n
    match e.commit, e.trap with
    | some k, none =>
      match k.heldSince with
      | some t =>
        let x := k.cmd.ctx
        if (s.ctx x).replayMode = 2 ∧ starveLimit < (s.time - t) * 9 / 10 ∧ s.engineServes k.cmd then
          .next ((s.starvedRecord x k.cmd.core 3 k.cmd.seq).videoTrap d s.ev.n k.cmd k.code
            { code := .replayDiverged, faddr := w64 k.cmd.seq })
        else .next s
      | none => .next s
    | _, _ => .next s
  else
    let core := s.ev.core
    let k := s.ev.k
    let st := s.stream core k
    let x := s.ctxOf core
    match st.wait with
    | some w =>
      if w.kind = .forced ∧ (s.ctx x).replayMode = 2 ∧ starveLimit < s.cyclesOf core - w.since ∧ s.canRun core k then
        .next ((s.starvedRecord x core k.num st.rc.toNat).raiseTrap core k { code := .replayDiverged, faddr := st.rc })
      else .next s
    | none => .next s

/-! ### `dump` (R340 to R342) -/

/-- The bytes of a list of 8-byte words, as a number. -/
def packWords (ws : List Nat) : Nat := packFields 8 ws

/-- The row of a record of the stop area is uncorrectable. -/
def State.stopBad (s : State) (x off : Nat) : Bool :=
  let c := s.ctx x
  let a := c.stops * 2 ^ 16 + off
  decide (a < devTop) && s.homeBad (some c.part) (a / 128)

/-- The words of a record of the stop area, as they stand in memory; those of an uncorrectable row are zeros (R339). -/
def State.stopRecord (s : State) (x off : Nat) : Nat :=
  let c := s.ctx x
  packWords ((List.range 8).map fun i =>
    let a := c.stops * 2 ^ 16 + off + 8 * i
    if a < devTop ∧ !s.stopBad x off then s.homeRead (some c.part) a 8 else 0)

/-- A record of a dump: type, core, stream, length and bytes (R341). -/
structure DumpRecord where
  type : Nat
  core : Nat
  stream : Nat
  len : Nat
  body : Nat
  deriving DecidableEq, Repr

/-- Its bytes, head included. -/
def DumpRecord.image (r : DumpRecord) : Nat :=
  packWords [r.type + r.core * 2 ^ 8 + r.stream * 2 ^ 16 + r.len * 2 ^ 32, 0] + r.body * 2 ^ 128

/-- The records of one core of the stop (R341). -/
def State.coreRecords (s : State) (x core sel : Nat) : List DumpRecord :=
  let c := s.core core
  let opt (b : Nat) (l : List DumpRecord) : List DumpRecord := if sel.testBit b then l else []
  let vregs := c.vlive.toNat
  (allStreams.map fun k => ⟨1, core, k.num, 64, s.stopRecord x (streamOffset core k)⟩) ++
  opt 0 (allStreams.map fun k =>
    ⟨2, core, k.num, 256, packWords ((List.range 32).map fun r => ((c.stream k).reg (BitVec.ofNat 5 r)).toNat)⟩) ++
  opt 1 [⟨3, core, 0, 1792, packFields 256 ((List.range 7).map fun p => (c.pred (BitVec.ofNat 3 (p + 1))).toNat)⟩] ++
  opt 2 [⟨4, core, 0, 2048 * vregs, packFields 2048 ((List.range vregs).map fun v => c.image v)⟩] ++
  opt 3 [⟨5, core, 0, 131072, packFields 2048 ((List.range 64).map fun a => c.image (320 + a))⟩] ++
  [⟨1, core, 0, 64, s.stopRecord x (matrixOffset core)⟩]

/-- All records of a dump, in order (R341). -/
def State.dumpRecords (s : State) (x sel : Nat) : List DumpRecord :=
  ((ascending (s.stopCores x)).flatMap fun c => s.coreRecords x c sel) ++
  (s.stopEngines x).map fun e =>
    let v := s.stopRecord x (engineOffset e.1 e.2)
    ⟨1, v / 2 ^ 10 % 2 ^ 8, 0, 64, v⟩

/-- A store of the issuing K stream that does not trap: the address of the byte at which it failed. -/
def opTryStore (va len v : Nat) : Op (Option Nat) :=
  opBind
    (opAccess fun s =>
      match writeUnit va len v s with
      | .ok s' _ => .ok s' 0
      | .trap _ _ => .ok s 1
      | .wait s' k l => .wait s' k l
      | .req s' os => .req s' os
      | .pause s' => .pause s')
    fun bad => opPure (if bad = 0 then none else some va)

/-- Stores of the parts of a span, up to the first that fails. -/
def opTrySpan (v : Nat) : List (Nat × Nat × Nat) → Op (Option Nat)
  | [] => opPure none
  | (a, n, off) :: rest =>
    opBind (opTryStore (a % 2 ^ 56) n (v / 2 ^ (8 * off) % 2 ^ (8 * n))) fun bad =>
      match bad with
      | some b => opPure (some b)
      | none => opTrySpan v rest

/-- `n` bytes stored from an address. -/
def opTryBytes (va n v : Nat) : Op (Option Nat) := opTrySpan v (rowPieces (n / 128 + 2) va n 0)

/-- The records that fit, in order: the bytes and the records written, and the failing byte (R342). -/
def opDumpRecords (va room : Nat) : Nat → Nat → List DumpRecord → Op (Nat × Nat × Bool × Option Nat)
  | at', n, [] => opPure (at', n, true, none)
  | at', n, r :: rest =>
    if room < at' + 16 + r.len then opPure (at', n, false, none)
    else
      opBind (opTryBytes (va + at') (16 + r.len) r.image) fun bad =>
        match bad with
        | some b => opPure (at', n, false, some b)
        | none => opDumpRecords va room (at' + 16 + r.len) (n + 1) rest

/-- The stop that a handler's `dump` serves. -/
def State.dumpStop (s : State) : Bool :=
  (match s.sliceOf s.curCore with
   | some v => v.handler
   | none => false) && (s.ctx s.curCtx).mode == .stopped

/-- A write of the buffer failed: a DUMP_FAULT record, and status 3 (R338, R342). -/
def State.dumpFault (s : State) (va b : Nat) : State :=
  let x := s.curCtx
  s.mailbox (s.ctx x).part
    [2 + x * 2 ^ 8 + s.curCore * 2 ^ 14 + s.curK.num * 2 ^ 22, b, (b + 2 ^ 56 - va % 2 ^ 56) % 2 ^ 56, s.time % 2 ^ 64]

/-- The places in the stop area of the records that a dump copies (R331, R341). -/
def State.dumpPlaces (s : State) (x : Nat) : List Nat :=
  ((ascending (s.stopCores x)).flatMap fun c => (allStreams.map fun k => streamOffset c k) ++ [matrixOffset c]) ++
  (s.stopEngines x).map fun e => engineOffset e.1 e.2

/-- The records of the stop area are read before the buffer is written: an uncorrectable row traps, or reads as zeros with poison
(R339). DESIGN CHOICE (log entry 47): its trap gives the physical address of the row, the stop area having no other. -/
def opStopArea (x : Nat) : Op Nat :=
  opStep fun s =>
    opBind
      (opMap
        (fun off s =>
          let row := ((s.ctx x).stops * 2 ^ 16 + off) / 128
          if s.stopBad x off then uncorrectable (row * 128) (row * 128) .read s else .ok s 0)
        (s.dumpPlaces x))
      (fun _ => opPure 0) s

/-- `dump`: the header, the records, the header's words 1 to 6; then, all of it performed, word 0 (R341, R342). -/
def effDump (rd ra rb : Reg) (sel : Nat) : Op Flow := fun s =>
  let x := s.curCtx
  let c := s.ctx x
  let va := (s.rx ra).toNat
  let room := (s.rx rb).toNat
  let word0 (status : Nat) : Nat := status + x * 2 ^ 8 + sel * 2 ^ 16
  let fail (b : Nat) : Op Flow := fun s => .ok ((s.dumpFault va b).wx rd 3) .next
  let put (a n v : Nat) (f : Op Flow) : Op Flow :=
    opBind (opTryBytes a n v) fun bad => match bad with
      | some b => fail b
      | none => f
  if !s.dumpStop then .ok (s.wx rd 4) .next
  else if va % 64 ≠ 0 ∨ room < 64 then .ok (s.wx rd 5) .next
  else
    let recs := s.dumpRecords x sel
    let needed := 64 + (recs.map fun r => 16 + r.len).sum
    let header (status written n : Nat) : Nat :=
      packWords [word0 status, written, needed, n, c.stopTime % 2 ^ 64, c.causeWord.toNat, c.faddrWord.toNat, 0]
    opBind (opStopArea x)
      (fun _ => put va 64 (header 0 64 0)
      (opBind (opDumpRecords va room 64 0 recs) fun r => match r with
        | (_, _, _, some b) => fail b
        | (written, n, all, none) =>
          let status := if all then 1 else 2
          put (va + 8) 48 (header 0 written n / 2 ^ 64 % 2 ^ 384)
            (opBind (releaseFixed 31) fun _ => put va 8 (word0 status) fun s => .ok (s.wx rd (w64 status)) .next)))
      s

def execDump (h : Head) (rd ra rb : Reg) (which : BitVec 4) (s : State) := runAccess h (effDump rd ra rb which.toNat) s

/-! ### Translation (R320 to R325) -/

/-- The buffers of the levels listed that a core's miss has passed, 0 the core's, 1 its cluster's, 2 its die's, take a
translation (R321). -/
def State.fillBuffers (s : State) (core x : Nat) (e : TlbEntry) (levels : List Nat) : State :=
  let i := clusterOf core
  let d := dieOf core
  let s := if levels.contains 0 then s.setCore core { s.core core with tlb := tlbFill 64 (s.core core).tlb x e } else s
  let s := if levels.contains 1 then s.setCluster i { s.cluster i with tlb := tlbFill 1024 (s.cluster i).tlb x e } else s
  if levels.contains 2 then s.setDie d { s.die d with tlb := tlbFill 32768 (s.die d).tlb x e } else s

/-- A die's walks changed. -/
def State.setWalks (s : State) (d : Nat) (f : List Walk → List Walk) : State :=
  s.setDie d { s.die d with walks := f (s.die d).walks }

/-- A miss on a die starts a walk, or merges with one of its page; a walker reads the next entry of its walk; or a walk that has
ended leaves its walker (R321). -/
def State.startWalk (s : State) (d x va : Nat) : State :=
  if (s.die d).walks.any fun w => w.serves x va then s else s.setWalks d fun ws => ws ++ [s.newWalk x va]
def State.stepWalk (s : State) (d x va : Nat) : State :=
  s.setWalks d fun ws => ((ws.take 64).map fun w => if w.serves x va then s.walkStep w else w) ++ ws.drop 64
def State.endWalk (s : State) (d x va : Nat) : State :=
  s.setWalks d fun ws => ws.filter fun w => !(w.covers x va && w.ended)

/-- PAGE_WALK of an address for a core, or with `flag` for an agent of its die: the levels of buffers that miss are filled, from
the first that holds the translation or from a walk; of them, those that `nums` lists, or all where it lists none. A failure is
held by no buffer (R320, R321). With `flag2` it is a part of a walk: with `n` = 0 a miss starts it; with `n` = 1 its walker reads one
entry; otherwise a walk that has ended fills the buffers so with its own result, and leaves its walker. -/
def execPageWalk (s : State) : Host.Outcome State Fault Refusal :=
  let x := s.ev.ctx
  let core := s.ev.core
  let d := dieOf core
  let va := s.ev.off % 2 ^ 56
  if s.ev.flag2 && s.ev.n == 0 then .next (s.startWalk d x va)
  else if s.ev.flag2 && s.ev.n == 1 then .next (s.stepWalk d x va)
  else
  let own := (s.die d).walks.find? fun w => w.covers x va && w.ended
  if s.ev.flag2 && own.isNone then .next s
  else
  let tables := [(s.core core).tlb, (s.cluster (clusterOf core)).tlb, (s.die (dieOf core)).tlb]
  let asked := if s.ev.flag then [2] else [0, 1, 2]
  let missed := asked.takeWhile fun n => (tlbFind (tables.getD n []) x va).isNone
  let found := match asked.findSome? fun n => tlbFind (tables.getD n []) x va with
    | some e => some e
    | none => match own with
      | some w => if s.ev.flag2 then s.walkRest w else s.walkOn d x va
      | none => s.walkOn d x va
  let t := match found with
    | none => s
    | some e => s.fillBuffers core x e (missed.filter fun n => s.ev.nums = [] || s.ev.nums.contains n)
  .next (if s.ev.flag2 then t.endWalk d x va else t)

/-- TINV_WRITE and XSCAN_WRITE: the host's requests (R323, R324). -/
def execTinvWrite (s : State) : Host.Outcome State Fault Refusal := .next (s.startInval s.ev.ctx s.ev.v)
def execXscanWrite (s : State) : Host.Outcome State Fault Refusal := .next (s.startScan s.ev.ctx s.ev.v)

/-- A span meets the range of an invalidation. -/
def InvReq.meets (r : InvReq) (va len : Nat) : Bool :=
  r.all || (decide (va < r.va + r.len) && decide (r.va < va + len))

/-- The cores bound to a context. -/
def State.boundCores (s : State) (x : Nat) : List Nat :=
  (s.cores.filter fun e => e.2.slice.isSome && s.ctxOf e.1 == x).map Prod.fst

/-- An issued head still has an access to perform under a translation that it has made: a step that has its translation and
not its value, or any of an atomic or a `dep`, whose access is a later step (R325). -/
def Stream.translated (st : Stream) (f : TlbEntry → Bool) : Bool :=
  st.notes.any fun e => match e.2 with
    | .page p => f p && (st.captScope.isSome || (tblFind st.notes (e.1 / 4 * 4)).isNone)
    | _ => false

/-- Touch windows, spill areas, accesses that have been translated and not performed, and engine commits of a context keep an
invalidation from completing (R325). -/
def State.invalHeld (s : State) (x : Nat) (r : InvReq) : Bool :=
  let meets (e : TlbEntry) : Bool := r.meets e.va e.size
  (s.cores.any fun e => e.2.windows.any fun w => w.ctx == x && s.windowHeld e.1 w && w.pages.any meets) ||
  (s.boundCores x).any (fun core =>
    let c := s.core core
    (c.rings.any fun g => g.2.enabled && g.2.sp && r.meets g.2.spillVa (2 ^ g.2.ks * g.2.rsz)) ||
    (allStreams.any fun k => (c.stream k).trap.isNone && (c.stream k).translated meets)) ||
  s.dies.any fun d => d.2.engines.any fun e => e.2.works.any fun w => w.1.any fun k => k.cmd.ctx == x

/-- The translations of a context in a range leave a buffer. -/
def tlbDrop (x : Nat) (r : InvReq) (tlb : List (Nat × TlbEntry)) : List (Nat × TlbEntry) :=
  tlb.filter fun e => e.1 != x || !r.meets e.2.va e.2.size

/-- The walks of a context that have read an entry for a range are discarded (R325). -/
def walksDrop (x : Nat) (r : InvReq) (ws : List Walk) : List Walk :=
  ws.filter fun w => w.ctx != x || !r.meets w.span.1 w.span.2

/-- The buffers of every level drop a context's translations of a range, and its walks that have read an entry for it are discarded
(R325). -/
def State.dropTranslations (s : State) (x : Nat) (r : InvReq) : State :=
  { s with
    cores := tblMap s.cores fun c => { c with tlb := tlbDrop x r c.tlb }
    clusters := tblMap s.clusters fun c => { c with tlb := tlbDrop x r c.tlb }
    dies := tblMap s.dies fun d => { d with tlb := tlbDrop x r d.tlb, walks := walksDrop x r d.walks } }

/-- INVALIDATION_COMPLETE: the oldest request of a context drops the translations of its range. The stores of its cores that
their caches hold, and their pending `amon`s, have then been performed at their homes (R325). -/
def execInvalidationComplete (s : State) : Host.Outcome State Fault Refusal :=
  let x := s.ev.ctx
  match (s.ctx x).tinv with
  | [] => .next s
  | r :: rest =>
    if s.invalHeld x r then .next s
    else
      let clean (s : State) (core : Nat) : State :=
        let s := s.landAmons core
        (s.core core).ways.foldl (fun s e => if e.2.dirty = 0 then s else s.wayClean core e.1) s
      let s := ((s.boundCores x).foldl clean s).dropTranslations x r
      let c := s.ctx x
      .next (s.setCtx x { c with tinv := rest, tinvDone := c.tinvDone + 1 })

/-- SCAN_COMPLETE: the oldest request of a context handles the pages it has left and ends; one with status OK marks its frames
scanned. With `flag`, it handles its next page alone (R323). -/
def execScanComplete (s : State) : Host.Outcome State Fault Refusal :=
  let x := s.ev.ctx
  let c := s.ctx x
  match c.scans with
  | [] => .next s
  | r :: rest =>
    if s.ev.flag then .next (s.setCtx x { c with scans := s.scanPage x r :: rest })
    else
    let r := s.scanPages x r.left r
    let (status, report) := match r.changed with
      | some i => (3, i * 4096 + 7 * 2 ^ 32)
      | none => (r.status, r.report)
    let s := s.setCtx x
      { c with scans := rest, xscanStatus := BitVec.ofNat 8 status, xscanReport := BitVec.ofNat 48 report }
    if status = 0 then .next { s with scanned := r.frames.foldl (fun t f => tblSet t f.1 f.2) s.scanned } else .next s

/-! ### Fetch (R227, R229) -/

/-- The frame that the front end fetches next for a stream: that of its PC, or the one after its queue's last (R15). -/
def Stream.nextFetch (st : Stream) : Option Nat :=
  match st.iq.getLast? with
  | none => some st.pc.toNat
  | some f => if lastFrame < f.addr + 64 then none else some (f.addr + 64)

/-- FRAME_FETCH: a frame is delivered to a stream ahead of its need; a fetch that would trap delivers nothing, and is made
again when its frame is the head's. -/
def execFrameFetch (s : State) : Host.Outcome State Fault Refusal :=
  let core := s.ev.core
  let k := s.ev.k
  if !s.canRun core k then .next s
  else
    match (s.stream core k).nextFetch with
    | none => .next s
    | some pc =>
      match s.deliver core k pc with
      | .done s' => .next s'
      | .stalled s' => .next s'
      | .trap _ => .next s

/-! ### Waiting heads -/

/-- IDLE_WAKE: the condition of a waiting `idle` holds, and it retires (R109). -/
def execIdleWake (s : State) : Host.Outcome State Fault Refusal :=
  let core := s.ev.core
  let k := s.ev.k
  let st := s.stream core k
  match st.wait with
  | some w =>
    let due := match w.kind with
      | .idleCyc n => decide (st.issuedAt + n ≤ s.cyclesOf core)
      | .idleUntil t => decide (t ≤ s.deviceTime.toNat)
      | _ => false
    .next (if due && s.canRun core k then s.completeHead core k id else s)
  | none => .next s

/-- TOUCH_WINDOW_EXPIRY: the windows of a core that have expired, and that no access issued under them needs, end (R201). -/
def execTouchWindowExpiry (s : State) : Host.Outcome State Fault Refusal :=
  let core := s.ev.core
  let c := s.core core
  .next (s.setCore core { c with windows := c.windows.filter (s.windowHeld core) })

/-- TILE_BUSY: the `pool` of a core's K stream that waits for TILE banks goes on: past its limit, it is refused and retires (R119).
One of a loop-nest record does so in a turn of its stream. -/
def execTileBusy (s : State) : Host.Outcome State Fault Refusal :=
  let o := { s with
    curCore := s.ev.core, curK := .K, issueOnly := false, chosen := none, late := false, expanding := false, expanded := false }
  match (s.stream s.ev.core .K).wait.map Waiting.kind, o.headInstr with
  | some .poolTile, some (.poolReshape h rd ra role rel limit) => execPoolReshape h rd ra role rel limit o
  | some .poolTile, _ => .next { s with agenda := .turn s.ev.core .K :: s.agenda }
  | _, _ => .next s

/-- INSTRUCTION_RETIRE: a stream takes a turn, in which its head, its effect complete, retires (R26). -/
def execInstructionRetire (s : State) : Host.Outcome State Fault Refusal :=
  .next { s with agenda := .turn s.ev.core s.ev.k :: s.agenda }

end Sys2Proof.Machine
end

