-- ==== Sys2Proof/Machine/Hash.lean ====
section
/-! DEFINITION. SHA-384, as FIPS 180-4 gives it (R363, R374, R375). -/

namespace Sys2Proof.Machine

/-! ### The constants: fractions of roots of primes -/

/-- The primes below 410: the first 80. -/
def smallPrimes : List Nat :=
  (List.range 410).filter fun p => decide (2 ≤ p) && (List.range 21).all fun d => decide (d < 2) || decide (p ≤ d) || p % d != 0

/-- The greatest number of `b` bits, above those of `r`, whose `k`-th power is at most `n`: a root, one bit at a time. -/
def rootBits (k n : Nat) : Nat → Nat → Nat
  | 0, r => r
  | b + 1, r => rootBits k n b (if (r + 2 ^ b) ^ k ≤ n then r + 2 ^ b else r)

/-- The first 64 bits of the fraction of the `k`-th root of a number below 2^10. -/
def rootFraction (k p : Nat) : W64 := BitVec.ofNat 64 (rootBits k (p * 2 ^ (64 * k)) 70 0)

/-- The constants of the 80 rounds, from cube roots. -/
def shaRounds : List W64 := smallPrimes.map (rootFraction 3)

/-- The initial value of SHA-384, from the square roots of the ninth to the sixteenth prime, in its two halves. -/
def shaStart : List W64 × List W64 := (((smallPrimes.drop 8).take 8).map (rootFraction 2)).splitAt 4

/-! ### The compression of a block -/

/-- A word and its turns to the right by two numbers, with a third word: the form of all four sigma functions. -/
def shaMix (x : W64) (i j : Nat) (third : W64) : W64 := third ^^^ (x.rotateRight i ^^^ x.rotateRight j)

/-- The message schedule from a block on: `n` more words, each from four of the sixteen before it. -/
def shaSchedule (w : List W64) : Nat → List W64
  | 0 => w
  | n + 1 =>
    let all := shaSchedule w n
    match all.drop n with
    | w0 :: w1 :: rest =>
      let near := rest.getD 12 0
      all ++ [w0 + shaMix w1 1 8 (w1 >>> 7) + rest.getD 7 0 + shaMix near 19 61 (near >>> 6)]
    | _ => all

/-- A round on the two halves of the working variables: each takes one new word in front and loses its last. -/
def shaRound (v : List W64 × List W64) (kw : W64 × W64) : List W64 × List W64 :=
  match v with
  | ([a, b, c, d], [e, f, g, h]) =>
    let choice := g ^^^ (e &&& (f ^^^ g))
    let majority := (a &&& b) ||| (c &&& (a ||| b))
    let first := shaMix e 14 18 (e.rotateRight 41) + choice + (h + (kw.1 + kw.2))
    ([first + (shaMix a 28 34 (a.rotateRight 39) + majority), a, b, c], [d + first, e, f, g])
  | _ => v

/-- One block of 16 words. -/
def shaBlock (h : List W64 × List W64) (w : List W64) : List W64 × List W64 :=
  let v := (shaRounds.zip (shaSchedule w 64)).foldl shaRound h
  (h.1.zipWith (· + ·) v.1, h.2.zipWith (· + ·) v.2)

/-! ### Messages -/

/-- A big-endian word of eight bytes, and the bytes of a word. -/
def wordOfBytes (l : List Byte) : W64 := l.foldl (fun w b => (w <<< 8) ||| b.setWidth 64) 0
def bytesOfWord (w : W64) : List Byte := (bytesOf w.toNat 8).reverse

/-- The message with its padding. -/
def shaPad (m : List Byte) : List Byte :=
  let n := m.length
  m ++ [0x80] ++ List.replicate ((239 - n % 128) % 128) 0 ++ (bytesOf (8 * n) 16).reverse

/-- Pieces of `n` elements. `fuel` bounds them. -/
def piecesOf {α : Type} (n : Nat) : Nat → List α → List (List α)
  | 0, _ => []
  | fuel + 1, l => if l.isEmpty then [] else l.take n :: piecesOf n fuel (l.drop n)

/-- The digest of a message, 48 bytes. -/
def sha384 (m : List Byte) : List Byte :=
  let p := shaPad m
  let blocks := piecesOf 128 (p.length / 128 + 1) p
  let h := blocks.foldl (fun h b => shaBlock h ((piecesOf 8 17 b).map wordOfBytes)) shaStart
  (h.1 ++ h.2.take 2).flatMap bytesOfWord

end Sys2Proof.Machine
end

