-- ==== Sys2Proof/Machine/Package.lean ====
section
/-! DEFINITION. The package: event records, the Miosor link, HBM stacks and their monitors, regulators and cluster power,
temperature, error counting and retirement (R361 to R373). -/

namespace Sys2Proof.Machine

/-! ### Register words -/

/-- The regulator register (R368). -/
def Regulator.word (r : Regulator) : W64 :=
  let (mv, f) := r.change.getD (r.mv, r.fmhz)
  w64 (r.imeas.toNat + f.toNat * 2 ^ 25 + mv.toNat * 2 ^ 36 + r.ilim.toNat * 2 ^ 46 + r.err.toNat * 2 ^ 62 + r.busy.toNat * 2 ^ 63)

/-- The cluster power register and its balance (R369). -/
def Cluster.powerWord (c : Cluster) : W64 :=
  w64 (c.budgetNew.toNat + (c.switchTo.getD c.reg) % 4 * 2 ^ 32 + c.switchTo.isSome.toNat * 2 ^ 63)
def Cluster.balWord (c : Cluster) : W64 := (BitVec.ofInt 32 c.bal).setWidth 64

/-- The temperature and ageing register (R371). -/
def Cluster.tempWord (c : Cluster) : W64 := w64 (c.temp.toNat + c.tstate * 2 ^ 16 + c.eol.toNat * 2 ^ 32)

/-- The stack control register (R364). -/
def Stack.word (k : Stack) : W64 :=
  w64 (k.retrains.toNat + k.ppr.toNat * 2 ^ 32 + k.spare.toNat * 2 ^ 40 + k.busy.toNat * 2 ^ 57 + k.state.toNat * 2 ^ 60)

/-- The sentinel register (R366). -/
def Sentinel.word (m : Sentinel) : W64 :=
  w64 (m.tmarg.toNat + m.vmarg.toNat * 2 ^ 8 + m.tthr.toNat * 2 ^ 40 + m.vthr.toNat * 2 ^ 48 + m.ien.toNat * 2 ^ 62 +
    m.below.toNat * 2 ^ 63)

/-- The disturbance control register (R367), the ballast and module power register (R370), and the link status register
(R362). -/
def Pack.distWord (p : Pack) : W64 := w64 (p.distThr.toNat + p.distRadius.toNat * 2 ^ 16)
def Pack.ballastWord (p : Pack) : W64 := w64 (p.ballastEn.toNat + p.mpow.toNat * 2 ^ 16 + p.fades.toNat * 2 ^ 32)
def Pack.linkWord (p : Pack) : W64 := w64 (p.linkRetries.toNat + p.linkFault.toNat * 2 ^ 63)

/-! ### Parts of the package -/

def State.stack (s : State) (j : Nat) : Stack := tblGet {} s.pack.hbm j
def State.setStack (s : State) (j : Nat) (k : Stack) : State := { s with pack := { s.pack with hbm := tblSet s.pack.hbm j k } }
def Stack.sentinel (k : Stack) (m : Nat) : Sentinel := tblGet {} k.sentinels m

/-- An event record in the event ring, and the package interrupt; one that cannot be appended is counted (R361, R373). -/
def State.packEvent (s : State) (type core bank row w1 w2 : Nat) : State :=
  let w0 := type + core % 2 ^ 8 * 2 ^ 8 + bank % 2 ^ 6 * 2 ^ 16 + row % 2 ^ 32 * 2 ^ 32
  s.deviceAppend
    { use := .event, space := none, part := none, desc := s.pack.evDesc.toNat, z := 2
      words := [w0, w1 % 2 ^ 64, w2 % 2 ^ 32, s.time % 2 ^ 64] }

/-- Every context of the module becomes DEAD. -/
def State.killAll (s : State) : State :=
  (List.range 64).foldl (fun s x => if (s.ctx x).live then s.killContext x else s) s

/-! ### The Miosor link (R362) -/

/-- MIOSOR_FLIT_RETRY: a flit has failed its CRC for the `n`-th consecutive time: it is retried, or the link fails. -/
def execMiosorFlitRetry (s : State) : Host.Outcome State Fault Refusal :=
  if s.ev.n < 16 then .next { s with pack := { s.pack with linkRetries := satInc s.pack.linkRetries } }
  else
    let s := { s.killAll with pack := { s.killAll.pack with linkFault := true } }
    .next (s.packEvent 12 0 0 0 s.pack.linkWord.toNat 0)

/-! ### HBM stacks (R364, R365) -/

/-- An action on a stack begins: 1 retrain, 2 lane repair; with no spare lane left, lane repair acts as retrain. -/
def Stack.begin' (k : Stack) (act : Nat) : Stack :=
  if k.busy || (act ≠ 1 && act ≠ 2) then k
  else if act = 1 ∨ k.spare = 0 then { k with busy := true, act := 1, state := 3 }
  else { k with busy := true, act := 2 }

def execRetrain (s : State) : Host.Outcome State Fault Refusal := .next (s.setStack s.ev.n ((s.stack s.ev.n).begin' 1))
def execLaneRepair (s : State) : Host.Outcome State Fault Refusal := .next (s.setStack s.ev.n ((s.stack s.ev.n).begin' 2))

/-- STACK_PAUSE_END of stack `n`: `flag` says whether a retraining succeeded. -/
def execStackPauseEnd (s : State) : Host.Outcome State Fault Refusal :=
  let j := s.ev.n
  let k := s.stack j
  if !k.busy then .next s
  else
    let k := { k with busy := false, retrains := satInc k.retrains }
    let (k, type) :=
      if k.act = 2 then ({ k with spare := k.spare - 1 }, 8)
      else if s.ev.flag then ({ k with state := if k.failed then 4 else 1 }, 9)
      else ({ k with state := 4, failed := true }, 10)
    .next ((s.setStack j k).packEvent type j 0 0 k.word.toNat 0)

/-- SENTINEL_UPDATE of sentinel `n mod 4` of stack `n / 4`, with its voltage and timing margins (R366). -/
def execSentinelUpdate (s : State) : Host.Outcome State Fault Refusal :=
  let j := s.ev.n / 4
  let k := s.stack j
  let m := k.sentinel (s.ev.n % 4)
  let v : BitVec 8 := BitVec.ofNat 8 (s.ev.nums.getD 0 0)
  let t : BitVec 8 := BitVec.ofNat 8 (s.ev.nums.getD 1 0)
  let low := decide (v < m.vthr) || decide (t < m.tthr)
  let fresh := low && !m.below && m.ien
  let m := { m with vmarg := v, tmarg := t, below := m.below || low }
  let s := s.setStack j { k with sentinels := tblSet k.sentinels (s.ev.n % 4) m }
  .next (if fresh then s.packEvent 7 j 0 0 m.word.toNat 0 else s)

/-! ### Frequent rows (R367) -/

/-- The tracker of a bank after an activation of a row, and the row's count; counters at 0 are not listed. -/
def trackRow (t : List (Nat × Nat)) (a : Nat) : List (Nat × Nat) × Nat :=
  match t.find? fun e => e.1 == a with
  | some (_, n) => (t.map fun e => if e.1 = a then (a, n + 1) else e, n + 1)
  | none =>
    if t.length < 8 then (t ++ [(a, 1)], 1)
    else ((t.map fun e => (e.1, e.2 - 1)).filter fun e => e.2 != 0, 0)

/-- The radius in force. -/
def Pack.radius (p : Pack) : Nat := if p.distRadius = 2 then 2 else 1

/-- ROW_ACTIVATION of a row of bank `n`. -/
def execRowActivation (s : State) : Host.Outcome State Fault Refusal :=
  let p := s.pack
  let a := s.ev.row
  let (t, n) := trackRow (tblGet [] p.trackers s.ev.n) a
  if p.distThr.toNat ≤ n ∧ n ≠ 0 then
    let near := (if a = 0 then [] else [a - 1]) ++ [a + 1] ++
      (if p.radius = 2 then (if a < 2 then [] else [a - 2]) ++ [a + 2] else [])
    .next { s with pack := { p with
      trackers := tblSet p.trackers s.ev.n (t.filter fun e => e.1 != a)
      refreshed := (near.map fun r => (s.ev.n, r)).reverse ++ p.refreshed } }
  else .next { s with pack := { p with trackers := tblSet p.trackers s.ev.n t } }

/-- REFRESH_WINDOW_START: every counter is cleared. -/
def execRefreshWindowStart (s : State) : Host.Outcome State Fault Refusal :=
  .next { s with pack := { s.pack with trackers := [] } }

/-! ### Regulators and clusters (R368, R369) -/

/-- The clusters of a regulator stop their clock for some ns. -/
def State.stopClocks (s : State) (g ns : Nat) : State :=
  { s with clusters := tblMap s.clusters fun c =>
      if c.reg = g then { c with clockStop := max c.clockStop (s.time + ns) } else c }

/-- A set point is one that the regulator takes. -/
def setPointOk (mv f : Nat) : Bool :=
  decide (340 ≤ mv) && decide (mv ≤ 520) && decide (300 ≤ f) && decide (f ≤ 1000) && f % 25 == 0 &&
    decide (f - 600 ≤ 5 * (mv - 340))

/-- A write of the regulator register: the limit takes effect at once; a change of the set point begins, with the clock
where the frequency falls or the voltage stays, and with the voltage where the frequency rises. -/
def State.writeRegulator (s : State) (g : Nat) (v : W64) : State :=
  let r := s.regulator g
  let mv := bits v 36 10
  let f := bits v 25 11
  let err := r.err && !v.getLsbD 62
  if r.busy || !setPointOk mv f then s.setRegulator g { r with err := true }
  else
    let r := { r with err := err, ilim := BitVec.ofNat 12 (min (bits v 46 12) 2400) }
    if mv = r.mv.toNat ∧ f = r.fmhz.toNat then s.setRegulator g r
    else
      let falls := decide (f < r.fmhz.toNat)
      let span := (max mv r.mv.toNat - min mv r.mv.toNat) * 100
      let stops := falls || (decide (r.fmhz.toNat < f) && decide (span = 0))
      let r := { r with
        busy := true, change := some (BitVec.ofNat 10 mv, BitVec.ofNat 11 f)
        fmhz := if falls then BitVec.ofNat 11 f else r.fmhz
        doneAt := s.time + span + (if stops then 1000 else 0) }
      let s := s.setRegulator g r
      if stops then s.stopClocks g 1000 else s

def execRegulatorWrite (s : State) : Host.Outcome State Fault Refusal := .next (s.writeRegulator s.ev.n s.ev.v)

/-- REGULATOR_CHANGE_DONE of regulator `n`: a part of its change has ended: the voltage of a rise, after which the clocks stop
for the frequency step; or the whole change. -/
def execRegulatorChangeDone (s : State) : Host.Outcome State Fault Refusal :=
  let g := s.ev.n
  let r := s.regulator g
  match r.change with
  | some (mv, f) =>
    if s.time < r.doneAt then .next s
    else if r.fmhz < f ∧ r.mv ≠ mv then
      .next ((s.setRegulator g { r with mv := mv, doneAt := s.time + 1000 }).stopClocks g 1000)
    else .next (s.setRegulator g { r with busy := false, change := none, mv := mv, fmhz := f })
  | none => .next s

/-- A write of the cluster power register (R369). -/
def State.writeClusterPower (s : State) (i : Nat) (v : W64) : State :=
  let c := s.cluster i
  let r := bits v 32 2
  s.setCluster i { c with
    budgetNew := v.extractLsb' 0 32, switchTo := if r = c.reg then none else some r, switching := c.switching && r != c.reg }

def execClusterPowerWrite (s : State) : Host.Outcome State Fault Refusal :=
  .next (s.writeClusterPower s.ev.cluster s.ev.v)

/-- REGULATOR_SWITCH: once no slice is bound or granted on the cluster and its current has returned, its clock stops for 2 µs;
after them it is on its new regulator, and the switch is no longer pending. -/
def execRegulatorSwitch (s : State) : Host.Outcome State Fault Refusal :=
  let i := s.ev.cluster
  let c := s.cluster i
  let idle := (List.range 4).all fun j =>
    (s.core (4 * i + j)).slice.isNone && (s.core (4 * i + j)).grant.isNone
  match c.switchTo with
  | some g =>
    if c.switching then
      .next (if c.clockStop ≤ s.time then s.setCluster i { c with reg := g, switchTo := none, switching := false } else s)
    else if idle ∧ c.currentUntil ≤ s.time then
      .next (s.setCluster i { c with switching := true, clockStop := max c.clockStop (s.time + 2000) })
    else .next s
  | none => .next s

/-- A write of the ballast register (R370): with en = 0 the levels are held at 0. -/
def State.writeBallast (s : State) (v : W64) : State :=
  let en := v.getLsbD 0
  let clear (r : Regulator) : Regulator := if en then r else { r with ballast := {}, fall := {}, ballastAt := s.time }
  { s with pack := { s.pack with ballastEn := en, regs := tblMap s.pack.regs clear } }

/-- MEASUREMENT_UPDATE: the current of regulator `n`, or, for n = 4, the module power (R368, R370). -/
def execMeasurementUpdate (s : State) : Host.Outcome State Fault Refusal :=
  let v := s.ev.nums.getD 0 0
  if s.ev.n < 4 then .next (s.setRegulator s.ev.n { s.regulator s.ev.n with imeas := BitVec.ofNat 12 v })
  else .next { s with pack := { s.pack with mpow := BitVec.ofNat 16 v } }

/-! ### Temperature and ageing (R371) -/

/-- The state at a temperature in units of 0.125 °C: throttled from 105 °C until it falls below 100 °C, warm from 95 °C. -/
def thermalState (old : Nat) (t : Int) : Nat :=
  if 840 ≤ t ∨ (old = 2 ∧ 800 ≤ t) then 2 else if 760 ≤ t then 1 else 0

/-- THERMAL: the hottest sensor of a cluster reads a temperature. -/
def execThermal (s : State) : Host.Outcome State Fault Refusal :=
  let i := s.ev.cluster
  let t := s.ev.temp
  let c := s.cluster i
  let was := c.temp.toInt
  let c := { c with temp := BitVec.ofInt 16 t, tstate := thermalState c.tstate t }
  let s := s.setCluster i c
  let s := if 920 ≤ t then { s.killAll with pack := { s.killAll.pack with shutdown := true } } else s
  let reached (z : Int) : Bool := decide (was < z) && decide (z ≤ t)
  .next (if reached 760 || reached 920 then s.packEvent 11 (4 * i) 0 0 c.tempWord.toNat 0 else s)

/-- EOL_UPDATE: the predicted hours to the end of life of a cluster. -/
def execEolUpdate (s : State) : Host.Outcome State Fault Refusal :=
  .next (s.setCluster s.ev.cluster { s.cluster s.ev.cluster with eol := BitVec.ofNat 32 s.ev.n })

/-! ### Error counting and retirement (R372, R373) -/

/-- The core or stack, bank, row and address of a location; the address of an HBM row comes with the event. -/
def eccFields (l : EccLoc) (off : Nat) : Nat × Nat × Nat × Nat :=
  match l with
  | .pool core bank row => (core, bank, row, bank * 2 ^ 16 + row * 128)
  | .hbm stack _ bank row => (stack, bank, row, off)
  | .l2 die _ row => (die, 0, row, row * 128)

/-- A line of L2 is uncorrectable: the line of a partition where the die's L2 is split, else what the row's home serves (R327,
R372). -/
def State.l2Bad (s : State) (d p row : Nat) : State :=
  let v := s.die d
  if v.split then s.setDie d { v with l2ue := if v.l2ue.contains (l2Key p row) then v.l2ue else l2Key p row :: v.l2ue }
  else { s with ue := if s.ue.contains row then s.ue else row :: s.ue }

/-- The counted error of a location: its event records, and what becomes of it (R372). -/
def State.countError (s : State) (l : EccLoc) : State :=
  let old : EccRec := (s.pack.ecc.find? fun r => r.loc == l).getD { loc := l, times := [], lasting := false }
  let times := if s.ev.flag then old.times else old.times ++ [s.time]
  let n := (times.filter fun t => decide (s.time ≤ t + 60000000000)).length
  let lasting := s.ev.flag || decide (4 ≤ n)
  let r : EccRec := { loc := l, times := times, lasting := old.lasting || lasting }
  let s := { s with pack := { s.pack with ecc := (s.pack.ecc.filter fun r => r.loc != l) ++ [r] } }
  let (who, bank, row, addr) := eccFields l s.ev.off
  let event (s : State) (type w2 : Nat) : State := s.packEvent type who bank row addr w2
  let s :=
    if !s.ev.flag then s
    else
      let s := event s 2 n
      match l with
      | .pool core b q => s.setCore core { s.core core with poolUe := (b * 512 + q) :: (s.core core).poolUe.erase (b * 512 + q) }
      | _ => { s with ue := (addr / 128) :: s.ue.erase (addr / 128) }
  if !lasting || old.lasting then s
  else
    let s := if s.ev.flag then s else event s 1 n
    match l with
    | .hbm stack _ _ _ =>
      let k := s.stack stack
      if s.ev.flag2 then event s 6 n else event (s.setStack stack { k with ppr := satInc k.ppr }) 5 n
    | _ => s

/-- CE_LASTING: a corrected error, or with `flag` an uncorrectable one; `off` is an HBM row's physical address, and `flag2`
says that its stack has no row left for repair. A line of L2 is no location: an error of it that is corrected changes nothing
(R372). -/
def execCeLasting (s : State) : Host.Outcome State Fault Refusal :=
  match s.ev.loc with
  | .l2 d p row => .next (if s.ev.flag then s.l2Bad (d % 2) p row else s)
  | l => .next (s.countError l)

/-- POOL_ROW_RETIRE: a lasting row of bank `n` of a core moves to a spare row, or, with none left, its bank fails. -/
def execPoolRowRetire (s : State) : Host.Outcome State Fault Refusal :=
  let core := s.ev.core
  let bank := s.ev.n
  let row := s.ev.row
  let l : EccLoc := .pool core bank row
  if s.pack.ecc.any fun r => r.loc == l && r.lasting then
    let c := s.core core
    let n := tblGet 0 c.retired bank
    let addr := bank * 2 ^ 16 + row * 128
    let s := { s with pack := { s.pack with ecc := s.pack.ecc.filter fun r => r.loc != l } }
    if n < 8 then
      .next ((s.setCore core { c with retired := tblSet c.retired bank (n + 1) }).packEvent 3 core bank row addr (8 - (n + 1)))
    else .next ((s.setCore core { c with failed := true }).packEvent 4 core bank row addr 0)
  else .next s

end Sys2Proof.Machine
end

