-- ==== Sys2Proof/Machine/Attest.lean ====
section
/-! DEFINITION. The Vexeohan controller: boot, recovery, and the SPDM 1.3 responder (R363, R374, R375). Message layouts are
those of DMTF DSP0274 1.3, which the manual names. -/

namespace Sys2Proof.Machine

/-! ### Boot and recovery (R363, R374) -/

/-- The firmware image in flash, and the one that runs. -/
def Control.flashImage (c : Control) : List Byte := c.flash.getD Config.factoryImage
def Control.running (c : Control) : List Byte := c.image.getD c.flashImage

/-- The controller trains or restores the stacks: one is restored where its results are saved and its restore is good. -/
def State.trainStacks (s : State) (bad : List Nat) : State :=
  let saved := s.control.saved
  let one (s : State) (j : Nat) : State :=
    let st : BitVec 4 := if saved.contains j && !bad.contains j then 2 else 1
    s.setStack j { s.stack j with state := st, failed := false, ppr := 0 }
  let s := (List.range 8).foldl one s
  { s with control := { s.control with saved := List.range 8 } }

/-- The boot at a module reset: the image in flash, or recovery where its format check fails or recovery was asked for. -/
def State.boot (s : State) (recovery : Bool) (bad : List Nat) : State :=
  let c := s.control
  if recovery || !Config.imageFormatOk c.flashImage then
    { s with control := { c with booted := false, recovery := true, blocks := [], image := none } }
  else
    { s with control := { c with booted := true, recovery := false, blocks := [], image := none } }.trainStacks bad

/-- RECOVERY_BLOCK: in recovery the mailbox takes a block of 4 KiB; the image starts when it is whole. `nums` lists the stacks
whose restore then fails (R363). -/
def execRecoveryBlock (s : State) : Host.Outcome State Fault Refusal :=
  let c := s.control
  if !c.recovery || s.ev.bytes.length ≠ 4096 then .next s
  else
    let blocks := c.blocks ++ [s.ev.bytes]
    if Config.imageFormatOk blocks.flatten then
      .next ({ s with control :=
        { c with booted := true, recovery := false, blocks := blocks, image := some blocks.flatten } }.trainStacks s.ev.nums)
    else .next { s with control := { c with blocks := blocks } }

/-- RECOVERY_COMMIT: the recovered image is written to flash, where the security configuration permits it (R375). -/
def execRecoveryCommit (s : State) : Host.Outcome State Fault Refusal :=
  let c := s.control
  match c.image with
  | some i =>
    if Config.securityConfig.getLsbD 2 then .next { s with control := { c with flash := some i } } else .next s
  | none => .next s

/-! ### SPDM messages (R375) -/

/-- A number as bytes, the lowest first. -/
def leBytes (n k : Nat) : List Byte := bytesOf n k

/-- A message: the version, the code and two parameters, and what follows. -/
def spdmMessage (version code p1 p2 : Nat) (rest : List Byte) : List Byte :=
  leBytes version 1 ++ leBytes code 1 ++ leBytes p1 1 ++ leBytes p2 1 ++ rest

/-- ERROR with its code and data. -/
def spdmError (code data : Nat) : List Byte := spdmMessage 0x13 0x7F code data []

/-- The responder answers, and the transcript takes the request and the answer where `log` says so. -/
def State.spdmAnswer (s : State) (log : Bool) (m : List Byte) : State :=
  let c := s.control
  { s with control := { c with answer := m, transcript := if log then c.transcript ++ s.ev.bytes ++ m else c.transcript } }

/-- Measurement values: the type and the value of an index (R375). -/
def Control.measurement (c : Control) (raw : Bool) (i : Nat) : Nat × List Byte :=
  let config := leBytes Config.securityConfig.toNat 8
  let source := leBytes c.image.isSome.toNat 8
  match i with
  | 1 => (0x00, leBytes Config.romDigest.toNat 48)
  | 2 => (0x01, sha384 c.running)
  | 3 => if raw then (0x83, config) else (0x03, sha384 config)
  | _ => if raw then (0x89, source) else (0x09, sha384 source)

/-- A measurement block: index, specification 1, size, and the DMTF value. -/
def Control.block (c : Control) (raw : Bool) (i : Nat) : List Byte :=
  let (ty, v) := c.measurement raw i
  leBytes i 1 ++ leBytes 1 1 ++ leBytes (v.length + 3) 2 ++ leBytes ty 1 ++ leBytes v.length 2 ++ v

/-- The signature of the alias key, which derives from measurement 2. -/
def Control.sign (c : Control) (message : List Byte) : List Byte :=
  leBytes (Config.aliasSign (sha384 c.running) (sha384 message)).toNat 96

/-- A fresh nonce of the responder. -/
def State.takeNonce (s : State) : State × List Byte := ({ s with free := s.free + 1 }, leBytes (Config.nonce s.free).toNat 32)

/-- GET_VERSION: the connection begins anew. -/
def execGetVersion (s : State) : Host.Outcome State Fault Refusal :=
  let s := { s with control := { s.control with
    version := true, caps := false, algs := false, transcript := [], measureLog := [] } }
  .next (s.spdmAnswer true (spdmMessage 0x10 0x04 0 0 ([0, 1] ++ leBytes 0x1300 2)))

/-- The capability flags: certificates, challenge and signed measurements are offered (bits 1, 2 and 4), and nothing of a
session, of mutual authentication, of chunks or of certificate installation; caching, freshness and the alias certificate model
(bits 0, 5 and 18) are free (R375). -/
def spdmFlags : Nat := 0x16 + (Config.spdmCapabilities.toNat &&& 0x40021)

/-- GET_CAPABILITIES. -/
def execGetCapabilities (s : State) : Host.Outcome State Fault Refusal :=
  if !s.control.version then .next (s.spdmAnswer false (spdmError 0x04 0))
  else
    let s := { s with control := { s.control with caps := true } }
    .next (s.spdmAnswer true (spdmMessage 0x13 0x61 0 0
      ([0, 0, 0, 0] ++ leBytes spdmFlags 4 ++ leBytes Config.spdmSizes.toNat 8)))

/-- The ExtAsym entry of the curve: RegistryID 3, a 2-byte VendorID and AlgorithmID 1 (R375). -/
def curveEntry : Nat := 3 + 2 * 2 ^ 8 + 0x0001 * 2 ^ 32 + Config.vendorId.toNat * 2 ^ 16

/-- NEGOTIATE_ALGORITHMS: `nums` holds the requester's measurement specifications, its base hash algorithms and its extended
asymmetric entries; SHA-384 is bit 1 of the hash algorithms. -/
def execNegotiateAlgorithms (s : State) : Host.Outcome State Fault Refusal :=
  if !s.control.caps then .next (s.spdmAnswer false (spdmError 0x04 0))
  else
    let ext := s.ev.nums.drop 2
    let spec := if (s.ev.nums.getD 0 0).testBit 0 then 1 else 0
    let hash := if (s.ev.nums.getD 1 0).testBit 1 then 2 else 0
    let curve := ext.contains curveEntry
    let s := { s with control := { s.control with algs := decide (hash = 2) && curve } }
    let body := leBytes spec 1 ++ [0] ++ leBytes (if spec = 1 then 4 else 0) 4 ++ leBytes 0 4 ++ leBytes hash 4 ++
      List.replicate 12 0 ++ leBytes curve.toNat 1 ++ [0, 0, 0] ++ (if curve then leBytes curveEntry 6 else [])
    .next (s.spdmAnswer true (spdmMessage 0x13 0x63 0 0 (leBytes (body.length + 6) 2 ++ body)))

/-- GET_DIGESTS: the digest of the chain of slot 0. -/
def execGetDigests (s : State) : Host.Outcome State Fault Refusal :=
  if !s.control.algs then .next (s.spdmAnswer false (spdmError 0x04 0))
  else .next (s.spdmAnswer true (spdmMessage 0x13 0x01 1 1 (sha384 Config.certificateChain)))

/-- GET_CERTIFICATE: a portion of the chain of slot `n`, from `off`, of at most `len` bytes. -/
def execGetCertificate (s : State) : Host.Outcome State Fault Refusal :=
  let chain := Config.certificateChain
  if !s.control.algs then .next (s.spdmAnswer false (spdmError 0x04 0))
  else if s.ev.n ≠ 0 ∨ chain.length ≤ s.ev.off then .next (s.spdmAnswer false (spdmError 0x01 0))
  else
    let part := (chain.drop s.ev.off).take s.ev.len
    let rest := chain.length - s.ev.off - part.length
    .next (s.spdmAnswer true (spdmMessage 0x13 0x02 0 0 (leBytes part.length 2 ++ leBytes rest 2 ++ part)))

/-- The summary hash of the measurements: none, those of the trusted computing base, or all. -/
def Control.summaryHash (c : Control) (kind : Nat) : List Byte :=
  if kind = 0 then [] else sha384 ((List.range 4).flatMap fun i => c.block false (i + 1))

/-- The requester's context, the last eight bytes of its request. -/
def requesterContext (m : List Byte) : List Byte := m.drop (m.length - 8)

/-- CHALLENGE of slot `n` with the summary-hash type `off`: the answer carries a signature over the transcript. -/
def execChallenge (s : State) : Host.Outcome State Fault Refusal :=
  if !s.control.algs then .next (s.spdmAnswer false (spdmError 0x04 0))
  else if s.ev.n ≠ 0 then .next (s.spdmAnswer false (spdmError 0x01 0))
  else
    let (s, nonce) := s.takeNonce
    let c := s.control
    let body := spdmMessage 0x13 0x03 0 1
      (sha384 Config.certificateChain ++ nonce ++ c.summaryHash s.ev.off ++ leBytes 0 2 ++ requesterContext s.ev.bytes)
    let m := body ++ c.sign (c.transcript ++ s.ev.bytes ++ body)
    .next (s.spdmAnswer true m)

/-- GET_MEASUREMENTS: operation `n` is 0 for the number of indices, an index, or 255 for all; `flag` asks for a signature,
`flag2` for raw bit streams. -/
def execGetMeasurements (s : State) : Host.Outcome State Fault Refusal :=
  if !s.control.algs then .next (s.spdmAnswer false (spdmError 0x04 0))
  else if 4 < s.ev.n ∧ s.ev.n ≠ 255 then .next (s.spdmAnswer false (spdmError 0x01 0))
  else
    let (s, nonce) := s.takeNonce
    let c := s.control
    let indices := if s.ev.n = 255 then [1, 2, 3, 4] else if s.ev.n = 0 then [] else [s.ev.n]
    let rec' := indices.flatMap (c.block s.ev.flag2)
    let body := spdmMessage 0x13 0x60 (if s.ev.n = 0 then 4 else 0) 0
      (leBytes indices.length 1 ++ leBytes rec'.length 3 ++ rec' ++ nonce ++ leBytes 0 2 ++ requesterContext s.ev.bytes)
    let log := c.measureLog ++ s.ev.bytes ++ body
    let m := if s.ev.flag then body ++ c.sign (c.transcript ++ log) else body
    let s := { s with control := { c with measureLog := if s.ev.flag then [] else log } }
    .next (s.spdmAnswer false m)

/-- SPDM_UNSUPPORTED_REQUEST: any other request, with its code `n`. -/
def execSpdmUnsupported (s : State) : Host.Outcome State Fault Refusal :=
  .next (s.spdmAnswer false (spdmError 0x07 s.ev.n))

end Sys2Proof.Machine
end

