-- ==== Sys2Proof/Machine/Registers.lean ====
section
/-! DEFINITION. The control window: queues, partitions, L2 modes, contexts and the package block as the host writes and reads
them, and the resets (R291 to R294, R327, R344, R353, R361, R376, R377, R379 to R381, R387, R390, R392). -/

namespace Sys2Proof.Machine

/-! ### Queues (R294, R302, R380) -/

/-- The control word of a queue. -/
def State.queueWord (s : State) (q : Nat) : W64 :=
  let v := s.queue q
  w64 (v.entries.length % 2 ^ 7 + (s.heldFor q).toNat * 2 ^ 7 + v.tko.toNat * 2 ^ 40 + v.dies.toNat * 2 ^ 48 + v.pri.toNat * 2 ^ 50 +
    v.ctx.toNat * 2 ^ 52 + v.en.toNat * 2 ^ 63)

/-- A write of it: the owner only while the queue is empty; a queue that is disabled loses its selection. -/
def State.writeQueue (s : State) (q : Nat) (v : W64) : State :=
  let o := s.queue q
  let s := s.setQueue q { o with
    en := v.getLsbD 63, ctx := if o.entries = [] then v.extractLsb' 52 6 else o.ctx
    pri := v.extractLsb' 50 2, dies := v.extractLsb' 48 2, tko := v.extractLsb' 40 8 }
  if v.getLsbD 63 then s else s.withdrawAll (· == q)

def execQueueControlWrite (s : State) : Host.Outcome State Fault Refusal :=
  .next (if s.ev.q < 1024 then s.writeQueue s.ev.q s.ev.v else s)

/-- A host write of a header address to the enqueue port of a queue, and its status. -/
def State.hostEnqueue (s : State) (q : Nat) (v : W64) : State :=
  let x := s.ctx (s.queue q).ctx.toNat
  let done (s : State) (status : Nat) : State :=
    s.setQueue q { s.queue q with hostStatus := BitVec.ofNat 8 status }
  if v.toNat % 64 ≠ 0 ∨ 2 ^ 56 ≤ v.toNat then done s 3
  else if !x.live || x.mode == .dead then done s 2
  else if s.queueFull q then done s 1
  else done (s.appendQueue q v.toNat) 0

def execHostEnqueue (s : State) : Host.Outcome State Fault Refusal :=
  .next (if s.ev.q < 1024 then s.hostEnqueue s.ev.q s.ev.v else s)

/-! ### Partitions (R291, R327, R380) -/

/-- The definition of a partition breaks no rule of R291. -/
def State.partitionOk (s : State) (p : Nat) (valid : Bool) (clusters : BitVec 48) (hcore : Nat) : Bool :=
  let old := s.part p
  let shared := (List.range 8).any fun o => o != p && ((s.part o).clusters &&& clusters) != 0
  let bound := (List.range 192).any fun c => old.clusters.getLsbD (clusterOf c) && (s.core c).slice.isSome
  !shared && !(old.clusters != clusters && bound) && !(valid && !clusters.getLsbD (clusterOf hcore))

/-- A write into the block of a partition, at an offset; heads that wait for a core of it look again (R301). -/
def State.writePartition (s : State) (p off : Nat) (v : W64) : State :=
  let o := s.part p
  let locked (d : Nat) : Bool := (s.die d).modeBusy || (s.die d).split
  match off with
  | 0x00 =>
    if s.partitionOk p (v.getLsbD 63) (v.extractLsb' 0 48) o.hcore.toNat then
      (s.setPart p { o with valid := v.getLsbD 63, clusters := v.extractLsb' 0 48, err := o.err && !v.getLsbD 62 }).coreFreed p
    else s.setPart p { o with err := true }
  | 0x08 =>
    if s.partitionOk p o.valid o.clusters (bits v 0 8) then (s.setPart p { o with hcore := v.extractLsb' 0 8 }).coreFreed p
    else s.setPart p { o with err := true }
  | 0x10 => s.setPart p { o with mbox := v.extractLsb' 0 56 }
  | 0x20 => if locked 0 then s else s.setPart p { o with smap0 := v.extractLsb' 0 32 }
  | 0x28 => if locked 1 then s else s.setPart p { o with smap1 := v.extractLsb' 0 32 }
  | _ => s

def Part.read (p : Part) (off : Nat) : W64 :=
  match off with
  | 0x00 => w64 (p.clusters.toNat + p.err.toNat * 2 ^ 62 + p.valid.toNat * 2 ^ 63)
  | 0x08 => p.hcore.setWidth 64
  | 0x10 => p.mbox.setWidth 64
  | 0x18 => p.mlost.setWidth 64
  | 0x20 => p.smap0.setWidth 64
  | 0x28 => p.smap1.setWidth 64
  | _ => 0

def execPartitionWrite (s : State) : Host.Outcome State Fault Refusal :=
  .next (if s.ev.part < 8 then s.writePartition s.ev.part s.ev.off s.ev.v else s)

/-! ### L2 modes (R327) -/

/-- A write of a die's mode register. -/
def State.writeL2Mode (s : State) (d : Nat) (v : W64) : State :=
  let o := s.die d
  let o := { o with modeErr := o.modeErr && !v.getLsbD 2 }
  let want := v.getLsbD 0
  if o.modeBusy || want == o.split then s.setDie d o
  else if want && (List.range 8).any fun p => (s.part p).valid && (s.part p).smap d == 0 then
    s.setDie d { o with modeErr := true }
  else s.setDie d { o with modeBusy := true, modeNew := want }

def Die.modeWord (v : Die) : W64 := w64 (v.split.toNat + v.modeBusy.toNat * 2 + v.modeErr.toNat * 4)

def execL2ModeWrite (s : State) : Host.Outcome State Fault Refusal := .next (s.writeL2Mode (s.ev.die % 2) s.ev.v)

/-- L2_MODE_SWITCH: once no slice is bound on the die, its dirty lines go to HBM, the whole L2 is invalidated, and the new
mode applies; the rows that leave take their monitors' eviction events (R268). -/
def execL2ModeSwitch (s : State) : Host.Outcome State Fault Refusal :=
  let d := s.ev.die % 2
  let v := s.die d
  let bound := (List.range 96).any fun i => (s.core (96 * d + i)).slice.isSome
  if !v.modeBusy || bound then .next s
  else
    let out (m : Monitor) : Monitor := if homeDie (m.row * 128) = d then m.hit m.row 1 else m
    let s := s.l2EvictAll d fun _ => true
    let s := { s with clusters := tblMap s.clusters fun c => { c with monitors := c.monitors.map out } }
    let s := s.setDie d { s.die d with split := v.modeNew, modeBusy := false }
    .next ((List.range 8).foldl State.coreFreed s)

/-! ### Contexts (R292, R328, R380, R386) -/

/-- The translations of a context leave every level, its touch windows among them. -/
def State.forget (s : State) (x : Nat) : State :=
  let s := s.dropTranslations x { all := true, va := 0, len := 0 }
  { s with cores := tblMap s.cores fun c => { c with windows := c.windows.filter fun w => w.ctx != x } }

/-- A context is created from its record, if it is not live and the module serves. DESIGN CHOICE (log entry 41): a record that
is uncorrectable creates none. -/
def State.installContext (s : State) (x : Nat) (v : W64) : State :=
  let c := s.ctx x
  let a := bits v 6 50 * 64
  if !v.getLsbD 63 || c.live || decide (devTop < a + 64) || s.homeBad none (a / 128) || s.pack.shutdown || s.pack.linkFault then s
  else
    let w (i : Nat) : Nat := s.homeRead none (a + 8 * i) 8
    let c := { c with
      live := true, mode := .run, record := a, part := w 0 % 8, hslice := w 1 % 2 ^ 56, cring := w 2 % 2 ^ 56
      lost := BitVec.ofNat 32 (w 3), dtab := w 4 % 2 ^ 56, dn := w 5 % 2 ^ 16, spillq := BitVec.ofNat 32 (w 5 / 2 ^ 32)
      halt := none, cause := none, causes := 0, bgrant := 0, tinv := [], scans := [], scopes := [], scopeBusy := none
      action := none, trace := [] }
    (s.forget x).setCtx x (c.withPolicy (w 6) (w 7))

def execContextInstall (s : State) : Host.Outcome State Fault Refusal :=
  .next (if s.ev.ctx < 64 then s.installContext s.ev.ctx s.ev.v else s)

/-- The install register as it reads. -/
def Ctx.installWord (c : Ctx) : W64 :=
  let state := match c.mode with
    | .run => 0
    | .stopped => 1
    | .dead => 2
  w64 (c.record / 64 % 2 ^ 50 * 2 ^ 6 + state * 2 ^ 61 + c.live.toNat * 2 ^ 63)

/-- A host stop: the halt line rises with HOST_STOP, by the host (R335, R380). -/
def State.hostStop (s : State) (x : Nat) (v : W64) : State :=
  let c := s.ctx x
  if v.getLsbD 0 && c.live && c.mode == .run then s.raiseHalt x .host { code := .hostStop } else s

def execHostStop (s : State) : Host.Outcome State Fault Refusal := .next (s.hostStop s.ev.ctx s.ev.v)

/-- The replay word (R353): written only while no slice of the context is bound; a mode of 3 is ignored. In replay mode the
log's records are read; a log without any is exhausted at once (R355). -/
def Ctx.replayWord (c : Ctx) : W64 :=
  w64 (c.replayLog.toNat * 2 ^ 6 + c.replayOvf.toNat * 2 ^ 56 + c.replayCpk.toNat * 2 ^ 57 + c.replayMode.toNat * 2 ^ 62)

/-- The records of a replay log, from its head to its tail (R213, R354). -/
def State.replayRecords (s : State) (x : Nat) (desc : Nat) : List (W64 × W64) :=
  let c := s.ctx x
  let space := some (dieOf (s.part c.part).hcore.toNat, x)
  match s.ringDesc space (some c.part) desc with
  | some (base, 1, k, tail, head) =>
    (List.range (min (tail - head) (2 ^ k))).filterMap fun i =>
      let a := base + (head + i) % 2 ^ k * 16
      match s.devWord space (some c.part) a, s.devWord space (some c.part) (a + 8) with
      | some w0, some w1 => some (w64 w0, w64 w1)
      | _, _ => none
  | _ => []

/-- A write of the replay word (R353). DESIGN CHOICE (log entry 46): the end of a log that is empty is recorded by the K stream of the
handler core. -/
def State.writeReplay (s : State) (x : Nat) (v : W64) : State :=
  let c := s.ctx x
  if s.slicesOf x false ≠ [] ∨ s.slicesOf x true ≠ [] then s
  else
    let mode := if bits v 62 2 = 3 then c.replayMode else v.extractLsb' 62 2
    let c := { c with replayMode := mode, replayCpk := v.extractLsb' 57 5, replayLog := v.extractLsb' 6 50
                      replayOvf := c.replayOvf && mode != 1 }
    let s := s.setCtx x c
    let recs := if mode = 2 then s.replayRecords x (bits v 6 50 * 64) else []
    let s := s.setCtx x { c with replayRecs := recs }
    if mode = 2 ∧ recs = [] then s.replayEnd x ((s.part c.part).hcore.toNat, 3) else s

/-- A scope entry's word as the host reads it (R380). -/
def State.hostScopeWord (s : State) (x n w : Nat) : W64 :=
  let e := s.scopeEntry x n 0
  ({ e with cores := if n ≤ 1 then 0 else e.cores } : ScopeEntry).word w

/-- A write into the block of a context, at an offset. DESIGN CHOICE (log entry 37): the host reaches the H registers that R380's
map lists, and no other (R33). -/
def State.writeContext (s : State) (x off : Nat) (v : W64) : State :=
  match off with
  | 0x000 => s.installContext x v
  | 0x008 => s.writeReplay x v
  | 0x010 => s.writeTrace x v
  | 0x018 => s.writeStopat x v
  | 0x020 => s.startInval x v
  | 0x028 => s.writeTinvf x v
  | 0x030 => s.startScan x v
  | 0x038 => s.hostStop x v
  | 0x050 => s.grantBudget x v
  | 0x058 => s.writeBrken x v
  | 0x060 => s.setCtx x { s.ctx x with spillq := v.extractLsb' 0 32 }
  | 0x100 => s.scopeCommand x v
  | _ => s

def State.readContext (s : State) (x off : Nat) : W64 :=
  let c := s.ctx x
  match off with
  | 0x000 => c.installWord
  | 0x008 => c.replayWord
  | 0x010 => c.traceWord
  | 0x018 => c.stopat
  | 0x028 => w64 (c.tinvDone.toNat + c.tinvBad.toNat * 2 ^ 32)
  | 0x030 => w64 (c.xscanReport.toNat + c.xscanStatus.toNat * 2 ^ 56)
  | 0x040 => c.causeWord
  | 0x048 => c.faddrWord
  | 0x050 => c.bgrant.setWidth 64
  | 0x058 => w64 c.brken.toNat
  | 0x060 => c.spillq.setWidth 64
  | 0x100 => w64 (c.scopeResult.toNat + c.scopeBusy.isSome.toNat * 2 ^ 63)
  | _ => if 0x200 ≤ off ∧ off < 0xA00 then s.hostScopeWord x ((off - 0x200) / 64) (off % 64 / 8) else 0

/-! ### Resets (R376, R377) -/

/-- A context reset. -/
def State.resetContext (s : State) (x : Nat) : State :=
  let s := if (s.ctx x).live then s.killContext x else s
  let off (q : Queue) : Queue := if q.ctx.toNat = x then { q with en := false, entries := [], head := none, displaced := [] } else q
  let s := { s with
    queues := tblMap s.queues off
    dies := tblMap s.dies fun d => { d with
      holds := d.holds.filter fun h => (s.queue h.1).ctx.toNat != x
      engines := tblMap d.engines fun e => { e with streams := e.streams.filter fun v => v.ctx != x } } }
  (s.forget x).setCtx x { s.ctx x with
    live := false, mode := .dead, scopes := [], scopeBusy := none, tinv := [], scans := [], halt := none, haltAt := [], cause := none
    causes := 0, action := none }

def execResetContext (s : State) : Host.Outcome State Fault Refusal :=
  .next (if s.ev.ctx < 64 then s.resetContext s.ev.ctx else s)

/-- A partition reset: its cores' cache lines are discarded, its contexts reset, its cores cleared, and in SPLIT mode its L2
slices invalidated. -/
def State.resetPartition (s : State) (p : Nat) : State :=
  let mine (core : Nat) : Bool := (s.part p).clusters.getLsbD (clusterOf core)
  let s := { s with cores := s.cores.map fun (e : Nat × Core) => if mine e.1 then (e.1, { e.2 with ways := [] }) else e }
  let s := (List.range 64).foldl (fun s x => if (s.ctx x).live ∧ (s.ctx x).part = p then s.resetContext x else s) s
  { s with
    cores := s.cores.map fun (e : Nat × Core) =>
      if mine e.1 then (e.1, { e.2.unbound .idle with pool := [], roles := [], poolUe := [], grant := none }) else e
    dies := tblMap s.dies fun d => { d with
      l2 := d.l2.filter fun e => e.1 / 2 ^ 48 != p, l2ue := d.l2ue.filter fun key => key / 2 ^ 48 != p } }

def execResetPartition (s : State) : Host.Outcome State Fault Refusal :=
  .next (if s.ev.part < 8 then s.resetPartition s.ev.part else s)

/-- A module reset: every register takes its reset value, and the controller boots. What stands in flash stays; `bad` lists
the stacks whose restore fails. -/
def State.resetModule (s : State) (recovery : Bool) (bad : List Nat) : State :=
  let f := s.fabric
  let c := s.control
  let r := { State.reset with
    agenda := s.agenda, free := s.free
    fabric := { ({} : Fabric) with host := f.host, peer := f.peer }
    control := { ({} : Control) with flash := c.flash, saved := c.saved } }
  r.boot recovery bad

def execResetModule (s : State) : Host.Outcome State Fault Refusal := .next (s.resetModule s.ev.flag s.ev.nums)

/-- FUNCTION_LEVEL_RESET of function `part`: the partition's virtual function, or, from 8 up, the physical one. -/
def execFunctionLevelReset (s : State) : Host.Outcome State Fault Refusal :=
  .next (if s.ev.part < 8 then s.resetPartition s.ev.part else s.resetModule false s.ev.nums)

def execHotReset (s : State) : Host.Outcome State Fault Refusal := .next (s.resetModule false s.ev.nums)

/-- COLD_BOOT: power-up; no training results stand, so that every stack is trained in full, and the results are saved
(R363). -/
def execColdBoot (s : State) : Host.Outcome State Fault Refusal :=
  .next ({ s with control := { s.control with saved := [] } }.resetModule false [])

/-- A write of the reset control register; `nums` of the event that brings it lists the stacks whose restore fails (R363). -/
def State.writeReset (s : State) (v : W64) : State :=
  let t := bits v 0 6
  match bits v 8 2 with
  | 1 => s.resetContext t
  | 2 => if t < 8 then s.resetPartition t else s
  | 3 => s.resetModule (v.getLsbD 10) s.ev.nums
  | _ => s

/-! ### The package block (R361 to R373) -/

/-- Offsets of the package block, from its start. -/
def State.writePackage (s : State) (off : Nat) (v : W64) : State :=
  if off < 0x100 then if off % 64 = 0 then s.writeRegulator (off / 64) v else s
  else if off = 0x100 then s.writeBallast v
  else if 0x1000 ≤ off ∧ off < 0x1300 then if off % 16 = 0 then s.writeClusterPower ((off - 0x1000) / 16) v else s
  else if 0x3000 ≤ off ∧ off < 0x3200 then
    let j := (off - 0x3000) / 64
    let k := s.stack j
    if off % 64 = 0 then s.setStack j (k.begin' (bits v 58 2))
    else if off % 64 ≤ 32 then
      let m := k.sentinel (off % 64 / 8 - 1)
      let m := { m with below := m.below && !v.getLsbD 63, ien := v.getLsbD 62, vthr := v.extractLsb' 48 8, tthr := v.extractLsb' 40 8 }
      s.setStack j { k with sentinels := tblSet k.sentinels (off % 64 / 8 - 1) m }
    else s
  else if off = 0x4000 then
    { s with pack := { s.pack with
      distRadius := v.extractLsb' 16 2, distThr := if bits v 0 16 = 0 then 1 else v.extractLsb' 0 16 } }
  else if off = 0x4100 then { s with pack := { s.pack with evDesc := v.extractLsb' 0 56 } }
  else if off = 0x5000 then s.writeReset v
  else s

def State.readPackage (s : State) (off : Nat) : W64 :=
  if off < 0x100 then if off % 64 = 0 then (s.regulator (off / 64)).word else 0
  else if off = 0x100 then s.pack.ballastWord
  else if 0x1000 ≤ off ∧ off < 0x1300 then
    let c := s.cluster ((off - 0x1000) / 16)
    if off % 16 = 0 then c.powerWord else c.balWord
  else if 0x2000 ≤ off ∧ off < 0x2180 then (s.cluster ((off - 0x2000) / 8)).tempWord
  else if 0x3000 ≤ off ∧ off < 0x3200 then
    let k := s.stack ((off - 0x3000) / 64)
    if off % 64 = 0 then k.word else if off % 64 ≤ 32 then (k.sentinel (off % 64 / 8 - 1)).word else 0
  else if off = 0x4000 then s.pack.distWord
  else if off = 0x4100 then s.pack.evDesc.setWidth 64
  else if off = 0x4108 then s.pack.evLost.setWidth 64
  else if off = 0x5100 then s.pack.linkWord
  else 0

/-! ### The fabric block (R379, R381, R387, R392) -/

/-- The partition window register (R379). -/
def Part.windowWord (p : Part) : W64 := w64 (p.wbase.toNat + p.wsize.toNat * 2 ^ 32 + p.winEn.toNat * 2 ^ 63)

/-- A raw range of a partition: base and last page, port, atomics, writes (R387). -/
def Part.rawRange (p : Part) (r : Nat) : BitVec 52 × BitVec 52 × Bool × Bool × Bool :=
  tblGet (0, 0, false, false, false) p.raw r

/-- An outbound entry (R381). -/
def State.outboundEntry (s : State) (i : Nat) : Bool × Bool × BitVec 8 × BitVec 27 :=
  tblGet (false, false, 0, 0) s.fabric.outbound i

/-- The fabric control register (R392). -/
def Fabric.word (f : Fabric) : W64 :=
  w64 (f.tsync.toNat + f.w1.toNat * 2 ^ 34 + f.gen1.toNat * 2 ^ 39 + f.w0.toNat * 2 ^ 43 + f.gen0.toNat * 2 ^ 48 +
    f.ctmo.toNat * 2 ^ 58 + f.modNo.toNat * 2 ^ 60)

def State.writeFabric (s : State) (off : Nat) (v : W64) : State :=
  if off = 0 then
    { s with fabric := { s.fabric with modNo := v.extractLsb' 60 4, ctmo := v.extractLsb' 58 2 } }
  else if 0x1000 ≤ off ∧ off < 0x1040 then
    let p := (off - 0x1000) / 8
    s.setPart p { s.part p with winEn := v.getLsbD 63, wsize := v.extractLsb' 32 10, wbase := v.extractLsb' 0 9 }
  else if 0x10000 ≤ off ∧ off < 0x10200 then
    let p := (off - 0x10000) / 64
    let r := off % 64 / 16
    let (base, last, port, atm, wr) := (s.part p).rawRange r
    let new := if off % 16 = 0 then (v.extractLsb' 12 52, last, port, atm, wr)
      else (base, v.extractLsb' 12 52, v.getLsbD 2, v.getLsbD 1, v.getLsbD 0)
    s.setPart p { s.part p with raw := tblSet (s.part p).raw r new }
  else if 0x20000 ≤ off ∧ off < 0x22000 then
    let new := (v.getLsbD 63, v.getLsbD 62, v.extractLsb' 54 8, v.extractLsb' 27 27)
    { s with fabric := { s.fabric with outbound := tblSet s.fabric.outbound ((off - 0x20000) / 8) new } }
  else s

def State.readFabric (s : State) (off : Nat) : W64 :=
  if off = 0 then s.fabric.word
  else if 0x1000 ≤ off ∧ off < 0x1040 then (s.part ((off - 0x1000) / 8)).windowWord
  else if 0x10000 ≤ off ∧ off < 0x10200 then
    let (base, last, port, atm, wr) := (s.part ((off - 0x10000) / 64)).rawRange (off % 64 / 16)
    if off % 16 = 0 then w64 (base.toNat * 2 ^ 12)
    else w64 (last.toNat * 2 ^ 12 + port.toNat * 4 + atm.toNat * 2 + wr.toNat)
  else if 0x20000 ≤ off ∧ off < 0x22000 then
    let (v, peer, pmask, bus) := s.outboundEntry ((off - 0x20000) / 8)
    w64 (bus.toNat * 2 ^ 27 + pmask.toNat * 2 ^ 54 + peer.toNat * 2 ^ 62 + v.toNat * 2 ^ 63)
  else 0

/-! ### The control window (R380) -/

/-- A write of 8 bytes to the control window. -/
def State.hostWrite (s : State) (off : Nat) (v : W64) : State :=
  if off % 8 ≠ 0 then s
  else if off < 0x2000 then s.writeQueue (off / 8) v
  else if off < 0x4000 then s.hostEnqueue ((off - 0x2000) / 8) v
  else if 0x10000 ≤ off ∧ off < 0x10200 then s.writePartition ((off - 0x10000) / 64) (off % 64) v
  else if off = 0x11000 ∨ off = 0x11008 then s.writeL2Mode ((off - 0x11000) / 8) v
  else if 0x20000 ≤ off ∧ off < 0x60000 then s.writeContext ((off - 0x20000) / 4096) (off % 4096) v
  else if 0x3000000 ≤ off ∧ off < 0x3800000 then s.writePackage (off - 0x3000000) v
  else if 0x3800000 ≤ off ∧ off < 0x4000000 then s.writeFabric (off - 0x3800000) v
  else s

/-- A read of 8 bytes of the control window. -/
def State.hostRead (s : State) (off : Nat) : W64 :=
  if off % 8 ≠ 0 then 0
  else if off < 0x2000 then s.queueWord (off / 8)
  else if off < 0x4000 then (s.queue ((off - 0x2000) / 8)).hostStatus.setWidth 64
  else if 0x10000 ≤ off ∧ off < 0x10200 then (s.part ((off - 0x10000) / 64)).read (off % 64)
  else if off = 0x11000 ∨ off = 0x11008 then (s.die ((off - 0x11000) / 8)).modeWord
  else if 0x20000 ≤ off ∧ off < 0x60000 then s.readContext ((off - 0x20000) / 4096) (off % 4096)
  else if 0x100000 ≤ off ∧ off < 0x1C0000 then
    let n := (off - 0x100000) / 1024
    w64 (tblGet 0 (s.stream (n / 4) (StreamId.ofNum (n % 4))).hc (off % 1024 / 8))
  else if 0x3000000 ≤ off ∧ off < 0x3800000 then s.readPackage (off - 0x3000000)
  else if 0x3800000 ≤ off ∧ off < 0x4000000 then s.readFabric (off - 0x3800000)
  else 0

/-- An MSI-X vector of function `fn` is masked or unmasked: a partition's, or from 8 up the physical one's. One that is pending
is sent when its mask is cleared (R390). -/
def State.maskVector (s : State) (fn vec : Nat) (mask : Bool) : State :=
  let f := s.fabric
  let p := s.part fn
  let (masked, pending) := if fn < 8 then (p.masked, p.pending) else (f.pfMasked, f.pfPending)
  let send := !mask && pending.contains vec
  let masked := if mask then vec :: masked.erase vec else masked.erase vec
  let pending := if mask then pending else pending.erase vec
  let s := if fn < 8 then s.setPart fn { p with masked := masked, pending := pending }
    else { s with fabric := { f with pfMasked := masked, pfPending := pending } }
  if send then s.send false (.msix (if fn < 8 then fn + 1 else 0) vec) else s

/-- The size of a function's BAR 2 is set, in GiB (R379). -/
def State.setBar (s : State) (fn gib : Nat) : State :=
  if (List.range 10).any fun i => gib == 2 ^ i then { s with fabric := { s.fabric with bars := tblSet s.fabric.bars fn gib } } else s

/-- REGISTER_WRITE: a host write of a control-window register; with `flag`, of the mask bit of MSI-X vector `n` of function
`part`; with `flag2`, of the size of that function's BAR 2 (log entry 44). -/
def execRegisterWrite (s : State) : Host.Outcome State Fault Refusal :=
  if s.ev.flag then .next (s.maskVector s.ev.part s.ev.n (s.ev.v.getLsbD 0))
  else if s.ev.flag2 then .next (s.setBar s.ev.part s.ev.v.toNat)
  else .next (s.hostWrite s.ev.off s.ev.v)

/-- A host write of ones to event word `n` of a virtual function (R390). -/
def State.clearEvents (s : State) (p n : Nat) (v : W64) : State :=
  s.setPart p { s.part p with events := tblPut 0 (s.part p).events n (tblGet 0 (s.part p).events n &&& ~~~ v) }

def execEventWordClear (s : State) : Host.Outcome State Fault Refusal :=
  .next (if s.ev.part < 8 ∧ s.ev.n < 256 then s.clearEvents s.ev.part s.ev.n s.ev.v else s)

/-! ### Time and pending commands of the host -/

/-- Whether a source's open frame is due to be appended (R349). -/
def State.frameDue (s : State) (src : TraceSrc) : Bool :=
  match src.recs.head? with
  | some (t0, _, _) => decide (t0 + traceFrameNs ≤ s.time)
  | none => false

/-- The completion timeout in ns (R392). -/
def Fabric.timeout (f : Fabric) : Nat :=
  match f.ctmo.toNat with
  | 0 => 50000
  | 1 => 1000000
  | 2 => 10000000
  | _ => 50000000

/-- A request has passed the completion timeout (R383). -/
def State.timedOut (s : State) (o : Outbound) : Bool := decide (o.sent + s.fabric.timeout < s.time)

/-- The requests of a stream that have passed the timeout, the last first, as the events that end them. -/
def State.timeouts (s : State) (core : Nat) (k : StreamId) : List Act :=
  (((s.stream core k).outs.zipIdx.filter fun o => s.timedOut o.1).map fun o =>
    .event .completionTimeout { core := core, k := k, n := o.2 }).reverse

/-- The time of the next PTM dialogue has come: 1 ms after the last one, or after module reset (R393). -/
def State.dialogueDue (s : State) : Bool := decide (1000000 ≤ s.fabric.sinceDialogue)

/-- The events that are due at the present instant: time does not pass before they have taken place. They are the turn of an
append of the device that waits no more (R213), the start of a control interval (R305), a current return (R306), the lapse of a
grant (R304), a budget of 0 (R308), the parts of a change of set point and of a regulator's switch (R368, R369), the end of a trace
frame's time (R349), the timeout of a request (R383), and a PTM dialogue, which fails where the agenda names none with an answer
(R393). -/
def State.dueEvents (s : State) : List Act :=
  (if s.nextAppend.isSome then [.append] else []) ++
  (if s.intervals < s.time / 10000 + 1 then [.event .controlIntervalStart {}] else []) ++
  (if s.pack.returns.any s.currentDue then [.event .currentReturn {}] else []) ++
  ((s.cores.filter fun e => s.grantLapsed e.1).map fun e => .event .grantLapse { core := e.1 }) ++
  ((s.slices.filter fun e => (s.budgetDue e.2).isSome).map fun e => .event .budgetExhausted { n := e.1 }) ++
  ((s.pack.regs.filter fun e => e.2.change.isSome && decide (e.2.doneAt ≤ s.time)).map fun e =>
    .event .regulatorChangeDone { n := e.1 }) ++
  ((s.clusters.filter fun e => e.2.switching && decide (e.2.clockStop ≤ s.time)).map fun e =>
    .event .regulatorSwitch { cluster := e.1 }) ++
  (s.ctxs.flatMap fun e => (e.2.trace.filter fun t => s.frameDue t.2).map fun t => .event .traceFrameTimeout { ctx := e.1, n := t.1 }) ++
  (s.cores.flatMap fun e => allStreams.flatMap fun k => s.timeouts e.1 k) ++
  (if s.dialogueDue then [.event .ptmDialogue {}] else [])

/-- Nanoseconds until a cluster has counted `n` cycles. -/
def State.nsForCycles (s : State) (i n : Nat) : Nat :=
  let c := s.cluster i
  (c.clockStop - s.time) + ceilDiv (n * 2000 - c.frac) (s.halfMhz i)

/-- Of the times at which a budget reaches 0, a clock changes, a request times out or a PTM dialogue takes place, that come within
`ns` ns, the first; else `ns`. -/
def State.nextBreak (s : State) (ns : Nat) : Nat :=
  let budgets := s.slices.filterMap fun e =>
    if s.counts e.2 ∧ e.2.budget ≠ 0 then some (s.nsForCycles (clusterOf (e.2.cores.headD 0)) e.2.budget.toNat) else none
  let regs := s.pack.regs.filterMap fun e => if e.2.change.isSome then some (e.2.doneAt - s.time) else none
  let switches := s.clusters.filterMap fun e => if e.2.switching then some (e.2.clockStop - s.time) else none
  let outs := s.cores.flatMap fun e => allStreams.flatMap fun k =>
    (e.2.stream k).outs.map fun o => o.sent + s.fabric.timeout + 1 - s.time
  (budgets ++ regs ++ switches ++ outs ++ [1000000 - s.fabric.sinceDialogue]).foldl min ns

/-- The next act of the agenda is the turn of a stream with a `budg.chk` at its head that takes effect and finds fewer cycles than
its n, whose slice's budget has run out in this cycle: either may raise the trap, and the agenda has named the `budg.chk`
(R105). -/
def State.checksBudget (s : State) : Act → Bool
  | .turn core k =>
    ((s.sliceOf core).any fun v => (s.budgetDue v).isSome) &&
      match ({ s with curCore := core, curK := k }).ready with
      | .run t (.budgChk h _ n) => decide (n ≠ 0) && !t.st.skipping && (if t.st.issued then t.st.guardOn else t.guardBit h)
      | _ => false
  | _ => false

/-- The next act of the agenda is the answer to the PTM dialogue that is due (R393). -/
def State.answersDialogue (s : State) : Act → Bool
  | .event .ptmDialogue _ => s.dialogueDue
  | _ => false

/-- The events that are due come before the acts of an agenda, but for a `budg.chk` that names itself first (R105), and for the
dialogue that has its answer. -/
def State.withDue (s : State) (acts : List Act) : List Act :=
  match acts with
  | a :: rest => if s.checksBudget a || s.answersDialogue a then a :: (s.dueEvents ++ rest) else s.dueEvents ++ acts
  | [] => s.dueEvents

/-- Device time passes, up to what is due first; after it the host's pending scope commands go on (R380), and the events that
have become due take place before anything else. -/
def State.pass (s : State) (ns : Nat) : State :=
  match s.dueEvents with
  | [] =>
    let d := s.nextBreak ns
    let s := (List.range 64).foldl State.scopeStep (s.elapse d)
    let more := if d < ns then [.elapse (ns - d)] else []
    { s with agenda := s.withDue (more ++ s.agenda) }
  | due => { s with agenda := due ++ .elapse ns :: s.agenda }

end Sys2Proof.Machine
end

