-- ==== Sys2Proof/Machine/Fabric.lean ====
section
/-! DEFINITION. The links: raw accesses and notifications by streams, incoming requests, completions, PTM and link changes
(R379, R382 to R393). -/

namespace Sys2Proof.Machine

/-! ### Raw addresses (R387 to R389) -/

/-- The port of a raw range that allows an access: a range that holds all its bytes and has the right. -/
def Part.rawPort (p : Part) (atomics : Bool) (a n : Nat) : Option Bool :=
  (List.range 4).findSome? fun r =>
    let (base, last, port, atm, wr) := p.rawRange r
    if base.toNat * 4096 ≤ a ∧ a + n ≤ (last.toNat + 1) * 4096 ∧ (if atomics then atm else wr) = true then some port else none

/-- The check of a raw address, made once: the port, 1 for the peer port; or MEM_PARAM check 9 (R387). -/
def opRawPort (atomics : Bool) (a n : Nat) : Op Nat :=
  opStep fun s =>
    match (s.part s.curPart).rawPort atomics a n with
    | none => .trap s (memParam 9 a)
    | some port => .ok s port.toNat

/-- `pwr` (R388). -/
def effPwr (ra rb : Reg) (n : Nat) : Op Flow := fun s =>
  let a := (s.rx ra).toNat - (s.rx ra).toNat % n
  opBind (opRawPort false a n)
    (fun port => opBind (releaseFixed 31) fun _ s => .ok (s.post (port == 1) a n (bits (s.rx rb) 0 (8 * n))) .next) s

def execPwr (h : Head) (ra rb : Reg) (dw : BitVec 4) (s : State) := runHead h (effPwr ra rb (if dw = 0 then 4 else 8)) s

/-- The value of a register, or of a register pair, of `n` bytes (R389). -/
def State.pairValue (s : State) (r : Reg) (n : Nat) : Nat :=
  if n = 16 then (s.rx r).toNat + (s.rx (r + 1)).toNat * 2 ^ 64 else bits (s.rx r) 0 (8 * n)

/-- Writes it, zero-extended. -/
def State.setPair (s : State) (r : Reg) (n v : Nat) : State :=
  if n = 16 then (s.wx r (w64 (v % 2 ^ 64))).wx (r + 1) (w64 (v / 2 ^ 64)) else s.wx r (w64 v)

/-- `pamo` (R389): the operation as `amo` numbers it, 10 for CAS. -/
def effPamo (rd ra rb : Reg) (op : Nat) (ord : BitVec 2) (ty : Nat) : Op Flow := fun s =>
  let n := 4 * 2 ^ ty
  let a := (s.rx ra).toNat - (s.rx ra).toNat % n
  opBind (opRawPort true a n)
    (fun port => opBind (if ordRel ord then releaseFixed 31 else opPure ()) fun _ =>
      opBind (opStep fun s => opLinkAtomic (port == 1) a n op (s.pairValue rb n) (s.pairValue rd n) a a s) fun r =>
        opBind (if ordAcq ord then acquireFixed 31 else opPure ()) fun _ s =>
          .ok (s.setPair rd n (if r = 0 then 3 else r - 1)) .next) s

def execPamoAdd (h : Head) (rd ra rb : Reg) (ord ty : BitVec 2) (s : State) := runHead h (effPamo rd ra rb 0 ord ty.toNat) s
def execPamoSwap (h : Head) (rd ra rb : Reg) (ord ty : BitVec 2) (s : State) := runHead h (effPamo rd ra rb 8 ord ty.toNat) s
def execPamoCas (h : Head) (rd ra rb : Reg) (ord ty : BitVec 2) (s : State) := runHead h (effPamo rd ra rb 10 ord ty.toNat) s

/-- `ntfy` (R390). -/
def execNtfy (h : Head) (ra : Reg) (v : BitVec 8) (s : State) :=
  runHead h
    (opBind (releaseFixed 31) fun _ s => .ok (s.notify s.curPart v.toNat (s.rx ra).toNat) .next) s

/-! ### Incoming requests (R379, R384, R385) -/

/-- The size of a function's BAR 2 in GiB. -/
def Fabric.barGib (f : Fabric) (fn : Nat) : Nat := tblGet 512 f.bars fn

/-- Bytes of DEV memory that a function's BAR 2 maps, as an agent and a physical address; `none` where the request passes the
window, or the BAR. Functions 0 to 7 are the virtual ones, by partition; 8 is the physical function and 9 the peer port. -/
def State.barAddress (s : State) (fn off n : Nat) : Option (Option Nat × Nat) :=
  let inBar := decide (off + n ≤ s.fabric.barGib fn * 2 ^ 30)
  if fn < 8 then
    let p := s.part fn
    let base := p.wbase.toNat * 2 ^ 30
    if inBar ∧ p.winEn ∧ off + n ≤ p.wsize.toNat * 2 ^ 30 ∧ base + off + n ≤ devTop then some (some fn, base + off) else none
  else if inBar ∧ off + n ≤ devTop then some (none, off)
  else none

/-- A row of a span holds uncorrectable data. -/
def State.spanBad (s : State) (p : Option Nat) (pa n : Nat) : Bool :=
  decide (0 < n) && (List.range (n / 128 + 2)).any fun i => decide ((pa / 128 + i) * 128 < pa + n) && s.homeBad p (pa / 128 + i)

/-- Writes bytes at a physical address, row by row. -/
def State.homeBytesWrite (s : State) (p : Option Nat) (pa : Nat) (bytes : List Byte) : State :=
  let v := ofBytes bytes
  (rowPieces (bytes.length / 128 + 2) pa bytes.length 0).foldl
    (fun s e => s.homeStore p e.1 e.2.1 (v / 2 ^ (8 * e.2.2) % 2 ^ (8 * e.2.1))) s

/-- Aligned 8-byte registers that a span of BAR 0 covers: their offsets and values. -/
def barWords (off : Nat) (bytes : List Byte) : List (Nat × W64) :=
  (List.range (bytes.length / 8)).map fun i => (off + 8 * i, w64 (ofBytes ((bytes.drop (8 * i)).take 8)))

/-- A write to BAR 0: of the control window, or of the event words of a virtual function (R380, R390). -/
def State.barWrite (s : State) (fn off : Nat) (v : W64) : State :=
  if fn = 8 then s.hostWrite off v
  else if fn < 8 ∧ 0x1000 ≤ off ∧ off < 0x1800 then s.clearEvents fn ((off - 0x1000) / 8) v
  else s

/-- The size of a function's BAR 0. -/
def barSize (fn : Nat) : Nat := if fn < 8 then 2 ^ 16 else if fn = 8 then 2 ^ 26 else 0

/-- INCOMING_POSTED_WRITE to BAR 2 of function `part`, or with `flag` to its BAR 0. -/
def execIncomingPostedWrite (s : State) : Host.Outcome State Fault Refusal :=
  let fn := s.ev.part
  let b := s.ev.bytes
  if s.ev.flag then
    if s.ev.off % 8 = 0 ∧ s.ev.off + b.length ≤ barSize fn then
      .next ((barWords s.ev.off b).foldl (fun s e => s.barWrite fn e.1 e.2) s)
    else .next s
  else
    match s.barAddress fn s.ev.off b.length with
    | some (p, pa) => .next (s.homeBytesWrite p pa b)
    | none => .next s

/-- The completion of an incoming request. -/
def State.complete (s : State) (a : Reply) : State := { s with fabric := { s.fabric with answer := some a } }

/-- A read of 8 bytes of BAR 0. -/
def State.barRead (s : State) (fn off : Nat) : W64 :=
  if fn = 8 then s.hostRead off
  else if 0x1000 ≤ off ∧ off < 0x1800 then tblGet 0 (s.part fn).events ((off - 0x1000) / 8)
  else 0

/-- INCOMING_READ from BAR 2 of function `part`, or with `flag` from its BAR 0. Uncorrectable data makes the completion
poisoned (R339, log entry 41). -/
def execIncomingRead (s : State) : Host.Outcome State Fault Refusal :=
  let fn := s.ev.part
  let n := s.ev.len
  if s.ev.flag then
    if s.ev.off + n ≤ barSize fn then
      let a := s.ev.off - s.ev.off % 8
      let all := (List.range (n / 8 + 2)).flatMap fun i => bytesOf (s.barRead fn (a + 8 * i)).toNat 8
      .next (s.complete (.data ((all.drop (s.ev.off % 8)).take n)))
    else .next (s.complete .unsupported)
  else
    match s.barAddress fn s.ev.off n with
    | some (p, pa) => .next (s.complete (if s.spanBad p pa n then .poisoned else .data (s.homeBytes p pa n)))
    | none => .next (s.complete .unsupported)

/-- INCOMING_ATOMICOP to BAR 2 of function `part`: `n` is 0 FetchAdd, 1 Swap or 2 CAS, of `len` bytes, at the home of its
unit (R263, R385); any other, or one to BAR 0, completes with Unsupported Request; one on uncorrectable data completes poisoned and
writes nothing (log entry 41). -/
def execIncomingAtomicOp (s : State) : Host.Outcome State Fault Refusal :=
  let n := s.ev.len
  let size := n == 4 || n == 8 || (n == 16 && s.ev.n == 2)
  if s.ev.flag || !size || decide (2 < s.ev.n) || s.ev.off % n != 0 then .next (s.complete .unsupported)
  else
    match s.barAddress s.ev.part s.ev.off n with
    | none => .next (s.complete .unsupported)
    | some (p, pa) =>
      if s.homeBad p (pa / 128) then .next (s.complete .poisoned)
      else
      let old := s.homeRead p pa n
      let op := if s.ev.n = 0 then 0 else if s.ev.n = 1 then 8 else 10
      let s := s.homeAtomic p pa n op (s.ev.operand.toNat % 2 ^ (8 * n)) (s.ev.cmp.toNat % 2 ^ (8 * n)) old
      .next (s.complete (.data (bytesOf old n)))

/-! ### Completions (R383, R386) -/

/-- The `n`-th outstanding request of a stream's head takes its completion. -/
def State.answerOut (s : State) (core : Nat) (k : StreamId) (n : Nat) (c : Completion) : State :=
  let st := s.stream core k
  match st.outs[n]? with
  | some o => s.setStream core k { st with outs := st.outs.eraseIdx n, notes := tblSet st.notes o.key (.answer c) }
  | none => s

/-- OUTBOUND_COMPLETION of the `n`-th outstanding request of a stream's head: one that comes after the timeout is treated as
uncorrectable data, as a poisoned one is. -/
def execOutboundCompletion (s : State) : Host.Outcome State Fault Refusal :=
  match (s.stream s.ev.core s.ev.k).outs[s.ev.n]? with
  | some o => .next (s.answerOut s.ev.core s.ev.k s.ev.n (if s.timedOut o then .poisoned else s.ev.res))
  | none => .next s

/-- COMPLETION_TIMEOUT: a read or atomic that passes the timeout is treated as uncorrectable data. -/
def execCompletionTimeout (s : State) : Host.Outcome State Fault Refusal :=
  match (s.stream s.ev.core s.ev.k).outs[s.ev.n]? with
  | some o => .next (if s.timedOut o then s.answerOut s.ev.core s.ev.k s.ev.n .poisoned else s)
  | none => .next s

/-! ### Time and links (R392, R393) -/

/-- Device time is set (R393). DESIGN CHOICE (log entry 46): the control intervals that begin from here on are those from this time
on; where it has gone back, the balances stay and the intervals are counted from it again (R305). -/
def State.setTime (s : State) (t : Nat) : State :=
  let s := { s with time := t }
  if s.intervals ≤ ceilDiv t 10000 then s
  else { s with intervals := ceilDiv t 10000, dies := tblMap s.dies fun d => { d with lastRound := none } }

/-- PTM_DIALOGUE: with the master's time, or with none where the dialogue failed. There is one every 1 ms, and none between. -/
def execPtmDialogue (s : State) : Host.Outcome State Fault Refusal :=
  if !s.dialogueDue then .next s
  else
  let f := { s.fabric with sinceDialogue := 0 }
  match s.ev.ptm with
  | none =>
    let bad := f.ptmBad + 1
    .next { s with fabric := { f with ptmBad := bad, ptmGood := 0, tsync := f.tsync && decide (bad < 10) } }
  | some m =>
    let off : Int := (m - s.deviceTime).toInt
    let near := decide (off.natAbs ≤ 100)
    let good := if near then f.ptmGood + 1 else 0
    let tsync := if 1000 < off.natAbs then false else f.tsync || decide (3 ≤ good)
    let f := { f with ptmBad := 0, ptmGood := good, tsync := tsync, ptmSet := true, slew := if f.ptmSet then off else 0 }
    let t := { s with fabric := f }
    .next (if s.fabric.ptmSet then t else t.setTime m.toNat)

/-- PORT_LINK_CHANGE of port `n`, 0 host and 1 peer: its generation and width, or anything else where it is down. -/
def execPortLinkChange (s : State) : Host.Outcome State Fault Refusal :=
  let g := s.ev.nums.getD 0 0
  let w := s.ev.nums.getD 1 0
  let up := [5, 6, 7].contains g && [4, 8, 16].contains w
  let g : BitVec 4 := if up then BitVec.ofNat 4 g else 0
  let w : BitVec 5 := if up then BitVec.ofNat 5 w else 0
  let f := s.fabric
  .next { s with fabric := if s.ev.n = 0 then { f with gen0 := g, w0 := w } else { f with gen1 := g, w1 := w } }

end Sys2Proof.Machine
end

