-- ==== Sys2Proof/Machine/Vector.lean ====
section
/-! DEFINITION. The vector group (R129 to R163, R124). -/

namespace Sys2Proof.Machine

/-! ### Shared operations -/

/-- A rounding mode by number; 4 to 7 act as 0 (R35, R45). -/
def modeOf (n : Nat) : Mode :=
  match n with
  | 1 => .rz
  | 2 => .rmi
  | 3 => .rpi
  | _ => .rne

/-- The mode of a rounding field, where it cannot be RS (R45). -/
def State.mode (s : State) (rm : Rm) : Mode := modeOf (if rm = 7 then s.st.rm.toNat else rm.toNat)

/-- RS is in effect (R78). -/
def State.isRs (s : State) (src dst : ElemTy) (rm : Rm) : Bool :=
  decide (dst.width < src.width) && (rm == 4 || (rm == 7 && s.st.rm == 4))

/-- The mode of a conversion in a lane, by the key and the counter as the instruction read them at its issue (R78, R101). -/
def State.laneMode (s : State) (src dst : ElemTy) (rm : Rm) (i : Nat) : Mode :=
  if s.isRs src dst rm then .rs (bits (counterHash s.st.keys.srkey (s.st.keys.srctr + w64 i)) 32 32) else s.mode rm

/-- An integer result: saturated, or modulo 2^w (R137). -/
def intResult (t : ElemTy) (sat : Bool) (z : Int) : Nat := intPattern t (if sat then satInt t z else z)

/-- A result of an arithmetic operation on patterns: exact on numbers for floating types, exact on integers else (R137). -/
def arith (t : ElemTy) (mode : Mode) (sat : Bool) (ff : List Num → Exact × FlagSet) (fi : List Int → Int)
    (xs : List Nat) : Nat × FlagSet :=
  match fmtOf t with
  | some f => packTy t mode sat (ff (xs.map f.value))
  | none => (intResult t sat (fi (xs.map (intValue t))), 0)

/-- What a lane of an instruction sees: the shape, the images of its sources, and its number. -/
structure Lane where
  rows : Nat
  cols : Nat
  imgs : List Nat
  i : Nat

/-- Element `i` of width `w` of source `n`. -/
def Lane.src (l : Lane) (n w : Nat) : Nat := elem w (l.imgs.getD n 0) l.i
def Lane.at' (l : Lane) (n w j : Nat) : Nat := elem w (l.imgs.getD n 0) j

/-- A lane-by-lane instruction of kind D: the checks of the shape and of the registers, all sources read, then the
enabled lanes of `vd` written (R129, R132, R135, R136). `fin` is what else it does at its retirement, with the number of
lanes. DESIGN CHOICE (log entry 36): where both checks fail, that of the shape comes first, and the registers are checked even
where no lane is enabled. -/
def effLanesThen (vd : VReg) (wd : Nat) (srcs : List (VReg × Nat)) (f : State → Lane → Nat × FlagSet)
    (fin : Nat → List Nat → State → State) : Op Flow :=
  opBind (opShape (wd :: srcs.map Prod.snd)) fun sh => opBind (opRegs (vd :: srcs.map Prod.fst)) fun _ =>
    opBind (opImages (srcs.map Prod.fst)) fun imgs => fun s =>
      let lanes := (s.enabled (sh.1 * sh.2)).map fun i => ({ rows := sh.1, cols := sh.2, imgs := imgs, i := i } : Lane)
      let r := lanes.map (f s)
      opBind (opWriteElems vd wd ((lanes.map Lane.i).zip (r.map Prod.fst)))
        (fun _ s => .ok (fin (sh.1 * sh.2) imgs (s.orFlags ((r.map Prod.snd).foldl (· ||| ·) 0))) .next) s

def effLanes (vd : VReg) (wd : Nat) (srcs : List (VReg × Nat)) (f : State → Lane → Nat × FlagSet) : Op Flow :=
  effLanesThen vd wd srcs f fun _ _ s => s

/-- Instructions of one type with two, three or one vector sources. -/
def effV1 (t : ElemTy) (vd va : VReg) (f : State → Nat → Nat × FlagSet) : Op Flow :=
  effLanes vd t.width [(va, t.width)] fun s l => f s (l.src 0 t.width)
def effV2 (t : ElemTy) (vd va vb : VReg) (f : State → Nat → Nat → Nat × FlagSet) : Op Flow :=
  effLanes vd t.width [(va, t.width), (vb, t.width)] fun s l => f s (l.src 0 t.width) (l.src 1 t.width)
def effV3 (t : ElemTy) (vd va vb vc : VReg) (f : State → Nat → Nat → Nat → Nat × FlagSet) : Op Flow :=
  effLanes vd t.width [(va, t.width), (vb, t.width), (vc, t.width)] fun s l =>
    f s (l.src 0 t.width) (l.src 1 t.width) (l.src 2 t.width)

/-- A function of R140 that Num gives. -/
def effNumFn (g : Num → Exact × FlagSet) (vd va : VReg) (t : ElemTy) (rm : Rm) (sat : Bool) : Op Flow :=
  effV1 t vd va fun s a => packTy t (s.mode rm) sat (g (valueOf t a))

/-- A function of R140 that is enclosed. -/
def effFunc (g : Func) (vd va : VReg) (t : ElemTy) (rm : Rm) (sat : Bool) : Op Flow :=
  effV1 t vd va fun s a => g.apply t (s.mode rm) sat a

/-- Writes the bits of lanes in a predicate (R22, R135). -/
def opWritePred (pd : PReg) (upd : List (Nat × Bool)) : Op Unit :=
  opPredBits pd (upd.foldl (fun m e => m ||| 2 ^ e.1) 0) (upd.foldl (fun m e => m ||| (e.2.toNat * 2 ^ e.1)) 0)

/-- A predicate as an instruction reads it, once, before it writes anything (R136). -/
def opPredSrc (p : PReg) : Op (BitVec 2048) :=
  opBind (opStep fun s => .ok s (s.cur.pred p).toNat) fun n => opPure (BitVec.ofNat 2048 n)

/-- A predicate instruction lane by lane: writes the enabled bits below n, by those of its sources (R135, R136, R144). -/
def effPred (pd : PReg) (srcs : List PReg) (f : List Bool → Bool) : Op Flow :=
  opBind (opShape []) fun sh => opBind (opMap opPredSrc srcs) fun ps => fun s =>
    opBind (opWritePred pd ((s.enabled (sh.1 * sh.2)).map fun i => (i, f (ps.map fun p => p.getLsbD i)))) (fun _ => opPure .next) s

/-- A reduction of kind I: disabled lanes are the identity; `groups` lists the lanes of each element written (R146). -/
def effReduce (t : ElemTy) (vd va : VReg) (ident : Nat) (groups : Nat → Nat → List (List Nat))
    (f : State → List Nat → Nat × FlagSet) : Op Flow :=
  opBind (opShape [t.width, t.width]) fun sh => opBind (opRegs [vd, va]) fun _ =>
    opBind (opImage va) fun img => fun s =>
      let val (i : Nat) : Nat := if s.st.lanes.getLsbD i then elem t.width img i else ident
      let r := (groups sh.1 sh.2).map fun g => f s (g.map val)
      opBind (opWriteElems vd t.width (r.zipIdx.map fun e => (e.2, e.1.1)))
        (fun _ s => .ok (s.orFlags ((r.map Prod.snd).foldl (· ||| ·) 0)) .next) s

/-- The lanes of each row and of each column. -/
def rowLanes (rows cols : Nat) : List (List Nat) :=
  (List.range rows).map fun r => (List.range cols).map fun c => r * cols + c
def colLanes (rows cols : Nat) : List (List Nat) :=
  (List.range cols).map fun c => (List.range rows).map fun r => r * cols + c

/-- Identities of R146, as patterns. -/
def sumIdent (t : ElemTy) : Nat :=
  match fmtOf t with
  | some f => f.signed true 0
  | none => 0
def maxIdent (t : ElemTy) : Nat :=
  match fmtOf t with
  | some f => f.signed true f.infMag
  | none => intPattern t (intMin t)
def minIdent (t : ElemTy) : Nat :=
  match fmtOf t with
  | some f => f.infMag
  | none => intPattern t (intMax t)

/-- The maximum or minimum of a list with the semantics of R82, from the identity. -/
def foldMinMax (t : ElemTy) (max' : Bool) (l : List Nat) : Nat × FlagSet :=
  l.foldl (fun a x => let (v, fl) := minMax t max' false a.1 x; (v, fl ||| a.2)) (if max' then maxIdent t else minIdent t, 0)

/-- Random bits of a lane, by the key and the counter as the instruction read them at its issue (R153). -/
def State.laneRand (s : State) (i : Nat) : W64 := counterHash s.st.keys.vrkey (s.st.keys.vrctr + w64 i)

/-- The counters advance at retirement; the stream's own writes of them come before (R36, R78, R153). -/
def State.advanceRand (s : State) (n : Nat) : State :=
  let s := s.landSr s.curCore s.curK
  s.setCur { s.cur with vrctr := s.cur.vrctr + w64 n }
def State.advanceRound (s : State) (n : Nat) : State :=
  let s := s.landSr s.curCore s.curK
  s.setCur { s.cur with srctr := s.cur.srctr + w64 n }

/-- What keeps an accumulator instruction from issuing: a matrix command accepted before it that names its accumulator
(R161). -/
def accHold (a : Acc) (s : State) : Option (WaitKind × Nat) :=
  if s.cur.matrix.namesAcc a.toNat then some (.accum, 0) else none

/-- An instruction on an accumulator. -/
def runAcc (h : Head) (lanes : Bool) (a : Acc) (eff : Op Flow) (s : State) : Host.Outcome State Fault Refusal :=
  runForm h { lanes := lanes, kind := .access } (accHold a) (opPure ()) (fun _ => eff) s

/-! ### Shape, moves, arithmetic (R131, R137 to R141) -/

/-- `vshape` (R131). -/
def execVshape (h : Head) (rowsLo colsLo : BitVec 9) (colsHi rowsHi : BitVec 2) (s : State) :=
  runHead h
    (effect fun s => s.setSt { s.st with
      vshapeRows := BitVec.ofNat 12 (rowsHi.toNat * 512 + rowsLo.toNat + 1)
      vshapeCols := BitVec.ofNat 12 (colsHi.toNat * 512 + colsLo.toNat + 1) }) s

def execVmov (h : Head) (vd va : VReg) (ty : ElemTy) (s : State) := runLanes h (effV1 ty vd va fun _ a => (a, 0)) s
def execVsplat (h : Head) (vd : VReg) (va : Reg) (ty : ElemTy) (s : State) :=
  runLanes h (effLanes vd ty.width [] fun s _ => (bits (s.rx va) 0 ty.width, 0)) s

def execVadd (h : Head) (vd va vb : VReg) (ty : ElemTy) (rm : Rm) (sat : Bool) (s : State) :=
  runLanes h
    (effV2 ty vd va vb fun s a b =>
      arith ty (s.mode rm) sat (fun l => (l.getD 0 (.nan false)).add (l.getD 1 (.nan false))) List.sum [a, b]) s
def execVsub (h : Head) (vd va vb : VReg) (ty : ElemTy) (rm : Rm) (sat : Bool) (s : State) :=
  runLanes h
    (effV2 ty vd va vb fun s a b =>
      arith ty (s.mode rm) sat (fun l => (l.getD 0 (.nan false)).add (l.getD 1 (.nan false)).neg)
        (fun l => l.getD 0 0 - l.getD 1 0) [a, b]) s
def execVmul (h : Head) (vd va vb : VReg) (ty : ElemTy) (rm : Rm) (sat : Bool) (s : State) :=
  runLanes h
    (effV2 ty vd va vb fun s a b =>
      arith ty (s.mode rm) sat (fun l => (l.getD 0 (.nan false)).mul (l.getD 1 (.nan false))) List.prod [a, b]) s
def execVfma (h : Head) (vd va vb vc : VReg) (ty : ElemTy) (rm : Rm) (sat : Bool) (s : State) :=
  runLanes h
    (effV3 ty vd va vb vc fun s a b c =>
      arith ty (s.mode rm) sat (fun l => (l.getD 0 (.nan false)).fma (l.getD 1 (.nan false)) (l.getD 2 (.nan false)))
        (fun l => l.getD 0 0 * l.getD 1 0 + l.getD 2 0) [a, b, c]) s
def execVfms (h : Head) (vd va vb vc : VReg) (ty : ElemTy) (rm : Rm) (sat : Bool) (s : State) :=
  runLanes h
    (effV3 ty vd va vb vc fun s a b c =>
      arith ty (s.mode rm) sat (fun l => (l.getD 0 (.nan false)).fma (l.getD 1 (.nan false)) (l.getD 2 (.nan false)).neg)
        (fun l => l.getD 0 0 * l.getD 1 0 - l.getD 2 0) [a, b, c]) s
def execVdiv (h : Head) (vd va vb : VReg) (ty : ElemTy) (rm : Rm) (sat : Bool) (s : State) :=
  runLanes h (effV2 ty vd va vb fun s a b => packTy ty (s.mode rm) sat ((valueOf ty a).div (valueOf ty b))) s

/-- `vmuls`: one scalar factor for every lane (R137). -/
def execVmuls (h : Head) (vd va : VReg) (vb : Reg) (ty : ElemTy) (rm : Rm) (sat : Bool) (s : State) :=
  runLanes h
    (effV1 ty vd va fun s a =>
      arith ty (s.mode rm) sat (fun l => (l.getD 0 (.nan false)).mul (l.getD 1 (.nan false))) List.prod
        [a, bits (s.rx vb) 0 ty.width]) s

/-- `vscale`: one factor for each row or column (R137). -/
def execVscale (h : Head) (vd va vb : VReg) (ty : ElemTy) (rm : Rm) (col sat : Bool) (s : State) :=
  runLanes h
    (effLanes vd ty.width [(va, ty.width), (vb, ty.width)] fun s l =>
      let j := if col then l.i % l.cols else l.i / l.cols
      packTy ty (s.mode rm) sat ((valueOf ty (l.src 0 ty.width)).mul (valueOf ty (l.at' 1 ty.width j)))) s

def execVsqrt (h : Head) (vd va : VReg) (ty : ElemTy) (rm : Rm) (sat : Bool) (s : State) :=
  runLanes h (effNumFn Num.sqrt vd va ty rm sat) s
def execVrsqrt (h : Head) (vd va : VReg) (ty : ElemTy) (rm : Rm) (sat : Bool) (s : State) :=
  runLanes h (effNumFn Num.rsqrt vd va ty rm sat) s
def execVrcp (h : Head) (vd va : VReg) (ty : ElemTy) (rm : Rm) (sat : Bool) (s : State) :=
  runLanes h (effNumFn Num.rcp vd va ty rm sat) s
def execVexp (h : Head) (vd va : VReg) (ty : ElemTy) (rm : Rm) (sat : Bool) (s : State) :=
  runLanes h (effFunc .exp vd va ty rm sat) s
def execVexp2 (h : Head) (vd va : VReg) (ty : ElemTy) (rm : Rm) (sat : Bool) (s : State) :=
  runLanes h (effFunc .exp2 vd va ty rm sat) s
def execVlog2 (h : Head) (vd va : VReg) (ty : ElemTy) (rm : Rm) (sat : Bool) (s : State) :=
  runLanes h (effFunc .log2 vd va ty rm sat) s
def execVtanh (h : Head) (vd va : VReg) (ty : ElemTy) (rm : Rm) (sat : Bool) (s : State) :=
  runLanes h (effFunc .tanh vd va ty rm sat) s
def execVsigm (h : Head) (vd va : VReg) (ty : ElemTy) (rm : Rm) (sat : Bool) (s : State) :=
  runLanes h (effFunc .sigm vd va ty rm sat) s
def execVgelu (h : Head) (vd va : VReg) (ty : ElemTy) (rm : Rm) (sat : Bool) (s : State) :=
  runLanes h (effFunc .gelu vd va ty rm sat) s

def execVmin (h : Head) (vd va vb : VReg) (ty : ElemTy) (s : State) :=
  runLanes h (effV2 ty vd va vb fun _ a b => minMax ty false false a b) s
def execVmax (h : Head) (vd va vb : VReg) (ty : ElemTy) (s : State) :=
  runLanes h (effV2 ty vd va vb fun _ a b => minMax ty true false a b) s
def execVminn (h : Head) (vd va vb : VReg) (ty : ElemTy) (s : State) :=
  runLanes h (effV2 ty vd va vb fun _ a b => minMax ty false true a b) s
def execVmaxn (h : Head) (vd va vb : VReg) (ty : ElemTy) (s : State) :=
  runLanes h (effV2 ty vd va vb fun _ a b => minMax ty true true a b) s

/-- `vclamp` (R138). -/
def clamp (t : ElemTy) (a lo hi : Nat) : Nat × FlagSet :=
  let (m, f1) := minMax t true false a lo
  let (r, f2) := minMax t false false m hi
  (r, f1 ||| f2)
def execVclamp (h : Head) (vd va vb vc : VReg) (ty : ElemTy) (s : State) :=
  runLanes h (effV3 ty vd va vb vc fun _ a b c => clamp ty a b c) s

/-- `vabs` and `vneg` (R139). -/
def absElem (t : ElemTy) (sat : Bool) (a : Nat) : Nat :=
  match fmtOf t with
  | some f => a % 2 ^ (f.ebits + f.mbits)
  | none => intResult t sat (intValue t a).natAbs
def negElem (t : ElemTy) (sat : Bool) (a : Nat) : Nat :=
  match fmtOf t with
  | some f => a ^^^ 2 ^ (f.ebits + f.mbits)
  | none => intResult t sat (-intValue t a)
def execVabs (h : Head) (vd va : VReg) (ty : ElemTy) (sat : Bool) (s : State) :=
  runLanes h (effV1 ty vd va fun _ a => (absElem ty sat a, 0)) s
def execVneg (h : Head) (vd va : VReg) (ty : ElemTy) (sat : Bool) (s : State) :=
  runLanes h (effV1 ty vd va fun _ a => (negElem ty sat a, 0)) s

def execVand (h : Head) (vd va vb : VReg) (ty : ElemTy) (s : State) :=
  runLanes h (effV2 ty vd va vb fun _ a b => (a &&& b, 0)) s
def execVor (h : Head) (vd va vb : VReg) (ty : ElemTy) (s : State) :=
  runLanes h (effV2 ty vd va vb fun _ a b => (a ||| b, 0)) s
def execVxor (h : Head) (vd va vb : VReg) (ty : ElemTy) (s : State) :=
  runLanes h (effV2 ty vd va vb fun _ a b => (a ^^^ b, 0)) s

/-- Shifts by an unsigned count (R139). -/
def shlElem (t : ElemTy) (a k : Nat) : Nat := if t.width ≤ k then 0 else a * 2 ^ k % 2 ^ t.width
def shrElem (t : ElemTy) (a k : Nat) : Nat := intPattern t (intValue t a / 2 ^ min k t.width)
def execVshl (h : Head) (vd va vb : VReg) (ty : ElemTy) (s : State) :=
  runLanes h (effV2 ty vd va vb fun _ a b => (shlElem ty a b, 0)) s
def execVshr (h : Head) (vd va vb : VReg) (ty : ElemTy) (s : State) :=
  runLanes h (effV2 ty vd va vb fun _ a b => (shrElem ty a b, 0)) s

/-- `vround` (R141). -/
def execVround (h : Head) (vd va : VReg) (ty : ElemTy) (rm : Rm) (s : State) :=
  runLanes h (effV1 ty vd va fun s a => roundIntegral ((fmtOf ty).getD f32Fmt) (s.mode rm) a) s

/-! ### Comparison, selection and predicates (R142 to R144) -/

/-- The conditions of `vcmp` (R142). -/
def compare' (cond : BitVec 3) (a b : Num) : Bool :=
  match cond.toNat with
  | 0 => a.eq b
  | 1 => !a.eq b
  | 2 => a.lt b
  | 3 => a.lt b || a.eq b
  | 4 => b.lt a
  | 5 => b.lt a || a.eq b
  | _ => a.isNan || b.isNan

def execVcmp (h : Head) (vd : PReg) (va vb : VReg) (ty : ElemTy) (cond : BitVec 3) (s : State) :=
  runLanes h
    (opBind (opShape [ty.width, ty.width]) fun sh => opBind (opRegs [va, vb]) fun _ =>
      opBind (opImages [va, vb]) fun imgs => fun s =>
        let a := imgs.getD 0 0
        let b := imgs.getD 1 0
        let l := (s.enabled (sh.1 * sh.2)).map fun i => (i, valueOf ty (elem ty.width a i), valueOf ty (elem ty.width b i))
        let fl := l.foldl (fun m e => m ||| sigFlag [e.2.1, e.2.2]) 0
        opBind (opWritePred vd (l.map fun e => (e.1, compare' cond e.2.1 e.2.2))) (fun _ s => .ok (s.orFlags fl) .next) s) s

/-- `vsel` (R143). -/
def execVsel (h : Head) (vd va vb : VReg) (vc : PReg) (ty : ElemTy) (s : State) :=
  runLanes h
    (opBind (opPredSrc vc) fun p => effLanes vd ty.width [(va, ty.width), (vb, ty.width)] fun _ l =>
      (if p.getLsbD l.i then l.src 0 ty.width else l.src 1 ty.width, 0)) s

def execVpand (h : Head) (vd va vb : PReg) (s : State) :=
  runLanes h (effPred vd [va, vb] fun l => l.all id) s
def execVpor (h : Head) (vd va vb : PReg) (s : State) :=
  runLanes h (effPred vd [va, vb] fun l => l.any id) s
def execVpnot (h : Head) (vd va : PReg) (s : State) := runLanes h (effPred vd [va] fun l => !l.any id) s

def execVpcnt (h : Head) (vd : Reg) (va : PReg) (s : State) :=
  runLanes h
    (opBind (opShape []) fun sh => fun s =>
      .ok (s.wx vd (w64 ((s.enabled (sh.1 * sh.2)).filter fun i => (s.cur.pred va).getLsbD i).length)) .next) s
def execVpfirst (h : Head) (vd : Reg) (va : PReg) (s : State) :=
  runLanes h
    (opBind (opShape []) fun sh => fun s =>
      .ok (s.wx vd (w64 (((s.enabled (sh.1 * sh.2)).find? fun i => (s.cur.pred va).getLsbD i).getD (sh.1 * sh.2)))) .next) s

/-! ### Conversions (R145) -/

/-- The update of `%amax` by the enabled lanes of a source (R88). -/
def State.updateAmax (s : State) (t : ElemTy) (l : List Nat) : State :=
  let s := s.landSr s.curCore s.curK
  s.setCur { s.cur with amax := l.foldl (fun a v => amaxUpdate a (valueOf t v)) s.cur.amax }

/-- A conversion of a register, with the uses of RS and of amax. -/
def effConvert (vd va : VReg) (src dst : ElemTy) (rm : Rm) (amax sat : Bool) : Op Flow :=
  effLanesThen vd dst.width [(va, src.width)]
    (fun s l => convert src dst (s.laneMode src dst rm l.i) sat (l.src 0 src.width))
    fun n imgs s =>
      let s := if amax then s.updateAmax src ((s.enabled n).map fun i => elem src.width (imgs.getD 0 0) i) else s
      if s.isRs src dst rm then s.advanceRound n else s

def execVcvt (h : Head) (vd va : VReg) (src ty : ElemTy) (rm : Rm) (amax sat : Bool) (s : State) :=
  runLanes h (effConvert vd va src ty rm amax sat) s

/-! ### Reductions, scans and sorts (R146 to R148) -/

def execVrsum (h : Head) (vd va : VReg) (ty : ElemTy) (rm : Rm) (s : State) :=
  runLanes h (effReduce ty vd va (sumIdent ty) rowLanes fun s l => treeSum ty (s.mode rm) l) s
def execVrmax (h : Head) (vd va : VReg) (ty : ElemTy) (s : State) :=
  runLanes h (effReduce ty vd va (maxIdent ty) rowLanes fun _ l => foldMinMax ty true l) s
def execVrmin (h : Head) (vd va : VReg) (ty : ElemTy) (s : State) :=
  runLanes h (effReduce ty vd va (minIdent ty) rowLanes fun _ l => foldMinMax ty false l) s
def execVcsum (h : Head) (vd va : VReg) (ty : ElemTy) (rm : Rm) (s : State) :=
  runLanes h (effReduce ty vd va (sumIdent ty) colLanes fun s l => treeSum ty (s.mode rm) l) s

/-- The prefix sums of a row, as they are written (R86, R147). DESIGN CHOICE (log entry 45): with `.excl`, the flags of every sum of
the row count, its last one among them, and of the conversions those of the values written. -/
def scanRow (t : ElemTy) (mode : Mode) (excl : Bool) (l : List Nat) : List (Nat × FlagSet) × FlagSet :=
  let shift {α : Type} (zero : α) (r : List α) : List α := if excl then zero :: r.dropLast else r
  match fmtOf t with
  | none =>
    let sums := (List.range l.length).map fun c => ((l.take (c + 1)).map (intValue t)).sum
    (shift (0, 0) (sums.map fun z => (intResult t true z, 0)), 0)
  | some _ =>
    let ws := l.map (widen32 t)
    let (sums, fl) := scanAll add32 12 1 (ws.map Prod.fst)
    (shift (0, 0) (sums.map fun v => convert .f32 t mode false v), (ws.map Prod.snd).foldl (· ||| ·) fl)

/-- `vscan` (R147). DESIGN CHOICE (log entry 47): a disabled lane of the source contributes the identity that R146 gives the sums, −0 or 0. -/
def execVscan (h : Head) (vd va : VReg) (ty : ElemTy) (rm : Rm) (excl : Bool) (s : State) :=
  runLanes h
    (opBind (opShape [ty.width, ty.width]) fun sh => opBind (opRegs [vd, va]) fun _ =>
      opBind (opImage va) fun img => fun s =>
        let val (i : Nat) : Nat := if s.st.lanes.getLsbD i then elem ty.width img i else sumIdent ty
        let r := (rowLanes sh.1 sh.2).map fun g => scanRow ty (s.mode rm) excl (g.map val)
        let l := r.flatMap Prod.fst
        let fl := l.foldl (fun m e => m ||| e.2) ((r.map Prod.snd).foldl (· ||| ·) 0)
        opBind (opWriteElems vd ty.width (l.zipIdx.map fun e => (e.2, e.1.1))) (fun _ s => .ok (s.orFlags fl) .next) s) s

/-- The rank of a key in the order of R148. -/
def sortRank (t : ElemTy) (v : Nat) : Int :=
  match fmtOf t with
  | none => intValue t v
  | some f =>
    let mag : Int := (v % 2 ^ (f.ebits + f.mbits) : Nat)
    if (f.value v).isNan then -(2 ^ 64)
    else if v / 2 ^ (f.ebits + f.mbits) % 2 = 1 then -mag - 1
    else mag

/-- Inserts a key after the keys that rank at least as high. -/
def insertKey (t : ElemTy) (x : Nat × Nat) : List (Nat × Nat) → List (Nat × Nat)
  | [] => [x]
  | y :: rest => if sortRank t y.1 < sortRank t x.1 then x :: y :: rest else y :: insertKey t x rest

/-- Keys with their columns in descending order, equal ones in ascending column order (R148). -/
def sortKeys (t : ElemTy) (l : List (Nat × Nat)) : List (Nat × Nat) := l.foldl (fun a x => insertKey t x a) []

/-- `vsortk` (R148). DESIGN CHOICE (log entry 47): with vb = vd, the keys are written and then the columns, and a row of the register
may be observed between its two writes. -/
def execVsortk (h : Head) (vd va vb : VReg) (km1 : BitVec 9) (ty : ElemTy) (s : State) :=
  runAccess h
    (opBind (opShape [ty.width, ty.width, 16]) fun sh => opBind (opRegs [vd, va, vb]) fun _ =>
      opBind (opImage va) fun img => fun s =>
        let k := min (km1.toNat + 1) sh.2
        let rows := (rowLanes sh.1 sh.2).map fun g => (sortKeys ty (g.zipIdx.map fun e => (elem ty.width img e.1, e.2))).take k
        let upd (f : Nat × Nat → Nat) : List (Nat × Nat) :=
          rows.zipIdx.flatMap fun r => r.1.zipIdx.map fun e => (r.2 * sh.2 + e.2, f e.1)
        let fl := ((List.range (sh.1 * sh.2)).map fun i => sigFlag [valueOf ty (elem ty.width img i)]).foldl (· ||| ·) 0
        opBind (opWriteElems vd ty.width (upd Prod.fst))
          (fun _ => opBind (opWriteElems vb 16 (upd Prod.snd)) fun _ s => .ok (s.orFlags fl) .next) s) s

/-! ### Transposes and permutes (R149 to R151) -/

def execVtrans (h : Head) (vd va : VReg) (ty : ElemTy) (s : State) :=
  runAccess h
    (opBind (opShape [ty.width, ty.width]) fun sh => opBind (opRegs [vd, va]) fun _ =>
      opBind (opImage va) fun img =>
        let upd := (List.range (sh.1 * sh.2)).map fun i => (i % sh.2 * sh.1 + i / sh.2, elem ty.width img i)
        opBind (opWriteElems vd ty.width upd) fun _ => opPure .next) s

/-- `vperm`: an index out of range gives 0 (R150). -/
def execVperm (h : Head) (vd va vb : VReg) (ty : ElemTy) (row : Bool) (s : State) :=
  runLanes h
    (effLanes vd ty.width [(va, ty.width), (vb, 16)] fun _ l =>
      let j := l.src 1 16
      let v :=
        if row then if j < l.cols then l.at' 0 ty.width (l.i / l.cols * l.cols + j) else 0
        else if j < l.rows * l.cols then l.at' 0 ty.width j else 0
      (v, 0)) s
def execVlut (h : Head) (vd va vb : VReg) (ty : ElemTy) (s : State) :=
  runLanes h
    (effLanes vd ty.width [(va, ty.width), (vb, 16)] fun _ l =>
      let j := l.src 1 16
      (if j < capacity ty.width then l.at' 0 ty.width j else 0, 0)) s

/-- `vrmrg` (R151). -/
def mergeRows (a b sh : Nat) : Nat :=
  ((List.range 16).map fun r =>
    let x := elem 1024 a r
    let y := elem 1024 b r
    (x / 2 ^ (8 * sh) + y * 2 ^ (8 * (128 - sh))) % 2 ^ 1024 * 2 ^ (1024 * r)).sum
def execVrmrg (h : Head) (vd va vb : VReg) (sh : BitVec 9) (_ty : ElemTy) (s : State) :=
  runAccess h
    (opBind (opRegs [vd, va, vb]) fun _ => opBind (opImages [va, vb]) fun imgs =>
      opBind (opWriteImage vd (mergeRows (imgs.getD 0 0) (imgs.getD 1 0) sh.toNat)) fun _ => opPure .next) s

/-! ### Random values (R153 to R155) -/

/-- The value of `vrand` from a lane's bits (R153). -/
def randElem (t : ElemTy) (h : W64) : Nat :=
  match fmtOf t with
  | none => bits h 0 t.width
  | some f =>
    let n := f.mbits + 1
    (f.pack .rne false (.fin false (bits h (64 - n) n) (-(n : Int)) false)).1

def execVrand (h : Head) (vd : VReg) (ty : ElemTy) (s : State) :=
  runLanes h (effLanesThen vd ty.width [] (fun s l => (randElem ty (s.laneRand l.i), 0)) fun n _ s => s.advanceRand n) s

def execVdrop (h : Head) (vd : PReg) (va : Reg) (s : State) :=
  runLanes h
    (opBind (opShape []) fun sh => fun s =>
      let n := sh.1 * sh.2
      let q := bits (s.rx va) 0 32
      opBind (opWritePred vd ((s.enabled n).map fun i => (i, decide (q ≤ bits (s.laneRand i) 32 32))))
        (fun _ s => .ok (s.advanceRand n) .next) s) s

/-- `vidx` (R155). -/
def indexElem (t : ElemTy) (mode : Mode) (v : Nat) : Nat × FlagSet :=
  match fmtOf t with
  | some _ => packTy t mode false (.fin false v 0 false, 0)
  | none => (intResult t true v, 0)
def execVidx (h : Head) (vd : VReg) (ty : ElemTy) (rm : Rm) (form : BitVec 2) (s : State) :=
  runLanes h
    (effLanes vd ty.width [] fun s l =>
      let v := if form = 1 then l.i / l.cols else if form = 2 then l.i % l.cols else l.i
      indexElem ty (s.mode rm) v) s

/-! ### Conditional streams (R156 to R158) -/

/-- A position field of `%vsp` and its crossing bit after `n` elements of a capacity of `c` (R157). -/
def advanceVsp (vsp : W64) (lo cross n c : Nat) : W64 :=
  let (p, w) := if c ≤ n then (n - c, 1) else (n, 0)
  w64 (setBits (setBits vsp.toNat lo 12 p) cross 1 w)

/-- `vpush` (R157). DESIGN CHOICE (log entry 47): with vb = vd, a row of the register that both writes reach may be observed between
them. -/
def execVpush (h : Head) (vd va vb : VReg) (ty : ElemTy) (s : State) :=
  runLanes h
    (opBind (opShape [ty.width, ty.width, ty.width]) fun sh => opBind (opRegs [vd, va, vb]) fun _ =>
      opBind (opImage va) fun img => fun s =>
        let c := capacity ty.width
        let f := bits s.st.vsp 0 12 % c
        let l := (s.enabled (sh.1 * sh.2)).zipIdx.map fun e => (f + e.2, elem ty.width img e.1)
        opBind (opWriteElems vd ty.width (l.filter fun e => decide (e.1 < c)))
          (fun _ => opBind (opWriteElems vb ty.width ((l.filter fun e => decide (c ≤ e.1)).map fun e => (e.1 - c, e.2))) fun _ s =>
            .ok (s.setSt { s.st with vsp := advanceVsp s.st.vsp 0 32 (f + l.length) c }) .next) s) s

def execVpop (h : Head) (vd va vb : VReg) (ty : ElemTy) (s : State) :=
  runLanes h
    (opBind (opShape [ty.width, ty.width, ty.width]) fun sh => opBind (opRegs [vd, va, vb]) fun _ =>
      opBind (opImages [va, vb]) fun imgs => fun s =>
        let a := imgs.getD 0 0
        let b := imgs.getD 1 0
        let c := capacity ty.width
        let q := bits s.st.vsp 16 12 % c
        let lanes := s.enabled (sh.1 * sh.2)
        let upd := lanes.zipIdx.map fun e =>
          (e.1, if q + e.2 < c then elem ty.width a (q + e.2) else elem ty.width b (q + e.2 - c))
        opBind (opWriteElems vd ty.width upd)
          (fun _ s => .ok (s.setSt { s.st with vsp := advanceVsp s.st.vsp 16 33 (q + lanes.length) c }) .next) s) s

/-! ### Single elements (R159) -/

def execVextr (h : Head) (vd : Reg) (va : VReg) (vb : Reg) (ty : ElemTy) (s : State) :=
  runAccess h
    (opBind (opRegs [va]) fun _ => opBind (opImage va) fun img => fun s =>
      let j := (s.rx vb).toNat
      let v : W64 := if j < capacity ty.width then BitVec.ofInt 64 (intOrBits ty (elem ty.width img j)) else 0
      .ok (s.wx vd v) .next) s
where
  intOrBits (t : ElemTy) (v : Nat) : Int :=
    if t = .i4 then v
    else
      match fmtOf t with
      | some _ => v
      | none => intValue t v

def execVins (h : Head) (vd : VReg) (va vb : Reg) (ty : ElemTy) (s : State) :=
  runAccess h
    (opBind (opRegs [vd]) fun _ => fun s =>
      let j := (s.rx vb).toNat
      opBind (opWriteElems vd ty.width (if j < capacity ty.width then [(j, bits (s.rx va) 0 ty.width)] else []))
        (fun _ => opPure .next) s) s

/-! ### Accumulators (R160, R161) -/

def execVaddacc (h : Head) (vd : Acc) (va : VReg) (ty : ElemTy) (rm : Rm) (s : State) :=
  runAcc h true vd
    (effLanes (accReg vd) 32 [(accReg vd, 32), (va, ty.width)] fun s l =>
      packTy .f32 (s.mode rm) false ((f32Fmt.value (l.src 0 32)).add (valueOf ty (l.src 1 ty.width)))) s
def execVrdacc (h : Head) (vd : VReg) (va : Acc) (ty : ElemTy) (rm : Rm) (amax sat : Bool) (s : State) :=
  runAcc h true va
    (effLanesThen vd ty.width [(accReg va, 32)] (fun s l => convert .f32 ty (s.mode rm) sat (l.src 0 32))
      fun n imgs s =>
        if amax then s.updateAmax .f32 ((s.enabled n).map fun i => elem 32 (imgs.getD 0 0) i) else s) s
def execVzacc (h : Head) (vd : Acc) (s : State) :=
  runAcc h false vd (opBind (opWriteImage (accReg vd) 0) fun _ => opPure .next) s

/-! ### Live registers (R124) -/

def execVlive (h : Head) (vd : VReg) (s : State) :=
  runAccess h
    (opBind (opRegs [vd]) fun _ s => .ok (s.lateWrite 0x031 (w64 (vd.toNat + 1))) .next) s
def execVliveNone (h : Head) (s : State) := runHead h (effect fun s => s.lateWrite 0x031 0) s

end Sys2Proof.Machine
end

