-- ==== Sys2Proof/Machine/LoopNest.lean ====
section
/-! DEFINITION. The loop-nest record: its expanded issues, one after another (R53 to R57). -/

namespace Sys2Proof.Machine

/-- The meaning of an instruction that a loop-nest record may issue (R58, column LN). -/
def loopExec (i : Instr) (s : State) : Host.Outcome State Fault Refusal :=
  match i with
  | .vmov h vd va ty => execVmov h vd va ty s
  | .vsplat h vd va ty => execVsplat h vd va ty s
  | .vadd h vd va vb ty rm sat => execVadd h vd va vb ty rm sat s
  | .vsub h vd va vb ty rm sat => execVsub h vd va vb ty rm sat s
  | .vmul h vd va vb ty rm sat => execVmul h vd va vb ty rm sat s
  | .vfma h vd va vb vc ty rm sat => execVfma h vd va vb vc ty rm sat s
  | .vfms h vd va vb vc ty rm sat => execVfms h vd va vb vc ty rm sat s
  | .vdiv h vd va vb ty rm sat => execVdiv h vd va vb ty rm sat s
  | .vsqrt h vd va ty rm sat => execVsqrt h vd va ty rm sat s
  | .vrsqrt h vd va ty rm sat => execVrsqrt h vd va ty rm sat s
  | .vrcp h vd va ty rm sat => execVrcp h vd va ty rm sat s
  | .vexp h vd va ty rm sat => execVexp h vd va ty rm sat s
  | .vexp2 h vd va ty rm sat => execVexp2 h vd va ty rm sat s
  | .vlog2 h vd va ty rm sat => execVlog2 h vd va ty rm sat s
  | .vtanh h vd va ty rm sat => execVtanh h vd va ty rm sat s
  | .vsigm h vd va ty rm sat => execVsigm h vd va ty rm sat s
  | .vgelu h vd va ty rm sat => execVgelu h vd va ty rm sat s
  | .vmin h vd va vb ty => execVmin h vd va vb ty s
  | .vmax h vd va vb ty => execVmax h vd va vb ty s
  | .vminn h vd va vb ty => execVminn h vd va vb ty s
  | .vmaxn h vd va vb ty => execVmaxn h vd va vb ty s
  | .vabs h vd va ty sat => execVabs h vd va ty sat s
  | .vneg h vd va ty sat => execVneg h vd va ty sat s
  | .vand h vd va vb ty => execVand h vd va vb ty s
  | .vor h vd va vb ty => execVor h vd va vb ty s
  | .vxor h vd va vb ty => execVxor h vd va vb ty s
  | .vshl h vd va vb ty => execVshl h vd va vb ty s
  | .vshr h vd va vb ty => execVshr h vd va vb ty s
  | .vcmp h vd va vb ty cond => execVcmp h vd va vb ty cond s
  | .vsel h vd va vb vc ty => execVsel h vd va vb vc ty s
  | .vcvt h vd va src ty rm amax sat => execVcvt h vd va src ty rm amax sat s
  | .vscale h vd va vb ty rm col sat => execVscale h vd va vb ty rm col sat s
  | .vrsum h vd va ty rm => execVrsum h vd va ty rm s
  | .vrmax h vd va ty => execVrmax h vd va ty s
  | .vrmin h vd va ty => execVrmin h vd va ty s
  | .vcsum h vd va ty rm => execVcsum h vd va ty rm s
  | .vscan h vd va ty rm excl => execVscan h vd va ty rm excl s
  | .vsortk h vd va vb km1 ty => execVsortk h vd va vb km1 ty s
  | .vtrans h vd va ty => execVtrans h vd va ty s
  | .vperm h vd va vb ty row => execVperm h vd va vb ty row s
  | .vrmrg h vd va vb sh ty => execVrmrg h vd va vb sh ty s
  | .vrand h vd ty => execVrand h vd ty s
  | .vdrop h vd va => execVdrop h vd va s
  | .vpush h vd va vb ty => execVpush h vd va vb ty s
  | .vpop h vd va vb ty => execVpop h vd va vb ty s
  | .vidx h vd ty rm form => execVidx h vd ty rm form s
  | .vlut h vd va vb ty => execVlut h vd va vb ty s
  | .vpand h vd va vb => execVpand h vd va vb s
  | .vpor h vd va vb => execVpor h vd va vb s
  | .vpnot h vd va => execVpnot h vd va s
  | .vclamp h vd va vb vc ty => execVclamp h vd va vb vc ty s
  | .vround h vd va ty rm => execVround h vd va ty rm s
  | .vmuls h vd va vb ty rm sat => execVmuls h vd va vb ty rm sat s
  | .vaddacc h vd va ty rm => execVaddacc h vd va ty rm s
  | .vrdacc h vd va ty rm amax sat => execVrdacc h vd va ty rm amax sat s
  | .vzacc h vd => execVzacc h vd s
  | .mmul h ra rb acc v swen semw ssen sems ty rot sp => execMmul h ra rb acc v swen semw ssen sems ty rot sp s
  | .mmuls h ra rb acc v swen semw ssen sems ty rot sp => execMmuls h ra rb acc v swen semw ssen sems ty rot sp s
  | .mmulg h ra rb acc v swen semw ssen sems ty => execMmulg h ra rb acc v swen semw ssen sems ty s
  | .mmulz h ra rb acc v swen semw ssen sems ty rot sp => execMmulz h ra rb acc v swen semw ssen sems ty rot sp s
  | .mdrain h ra rb acc v swen semw ssen sems ty rot sp => execMdrain h ra rb acc v swen semw ssen sems ty rot sp s
  | .mwld h ra rb v swen semw ssen sems rot => execMwld h ra rb v swen semw ssen sems rot s
  | .mwstr h ra rb v swen semw ssen sems => execMwstr h ra rb v swen semw ssen sems s
  | .mconv h ra rb acc v swen semw ssen sems ty rot => execMconv h ra rb acc v swen semw ssen sems ty rot s
  | .mdwc h ra rb acc v swen semw ssen sems ty rot => execMdwc h ra rb acc v swen semw ssen sems ty rot s
  | .mtr h ra rb v swen semw ssen sems ty rot => execMtr h ra rb v swen semw ssen sems ty rot s
  | .macc h acc v swen semw ssen sems => execMacc h acc v swen semw ssen sems s
  | .mcpyOut h acc v swen semw ssen sems => execMcpyOut h acc v swen semw ssen sems s
  | .mcpyIn h acc v swen semw ssen sems => execMcpyIn h acc v swen semw ssen sems s
  | .vld h reg ra rot space off => execVld h reg ra rot space off s
  | .vst h reg ra rot space off => execVst h reg ra rot space off s
  | .vlds h reg ra rot space off => execVlds h reg ra rot space off s
  | .vsts h reg ra rot space off => execVsts h reg ra rot space off s
  | .vldx h reg ra rot space off => execVldx h reg ra rot space off s
  | .vstx h reg ra rot space off => execVstx h reg ra rot space off s
  | .cpy h reg ra rot space off => execCpy h reg ra rot space off s
  | .cpyw h reg ra rot space off => execCpyw h reg ra rot space off s
  | _ => .next s

/-- The index of level `l` that `%lnpos` holds (R57). -/
def lnIndex (p : W64) (l : Nat) : Nat := bits p (16 * l) 16

/-- `%lnpos` with the given indices. -/
def lnPack (i0 i1 i2 i3 : Nat) : W64 := w64 (i0 % 2 ^ 16 + 2 ^ 16 * (i1 % 2 ^ 16) + 2 ^ 32 * (i2 % 2 ^ 16) + 2 ^ 48 * (i3 % 2 ^ 16))

/-- The expansion is finished: a trip count is zero, or an index stands at or beyond its trip count (R55). -/
def lnFinished (r : LnRec) (p : W64) : Bool :=
  (r.count == 0) || [0, 1, 2, 3].any fun (l : Nat) => decide (r.trip l ≤ lnIndex p l)

/-- `%lnpos` after the expanded issue that it names; after the last one the innermost index stands at its trip count
(R55). -/
def lnAdvance (r : LnRec) (p : W64) : W64 :=
  let n :=
    lnIndex p 0 + r.trip 0 * (lnIndex p 1 + r.trip 1 * (lnIndex p 2 + r.trip 2 * lnIndex p 3)) + 1
  if r.count ≤ n then lnPack (r.trip 0) (lnIndex p 1) (lnIndex p 2) (lnIndex p 3)
  else
    lnPack (n % r.trip 0) (n / r.trip 0 % r.trip 1) (n / (r.trip 0 * r.trip 1) % r.trip 2)
      (n / (r.trip 0 * r.trip 1 * r.trip 2))

/-- What the record does at a turn of its stream: the expanded issue that `%lnpos` names, or, when the expansion is
finished, its own end (R55). A record that has no next PC takes no effect (R15). -/
def expandRecord (h : Head) (r : LnRec) : Op Flow := fun s =>
  let p := s.st.lnpos
  if s.nextPc.isNone then .trap s noNextPc
  else if lnFinished r p then .ok (s.setSt { s.st with lnpos := 0 }) .next
  else
    match decodeWord (lnIssueWord r h.guard (lnIndex p 0) (lnIndex p 1) (lnIndex p 2) (lnIndex p 3)) with
    | .error _ => .ok s .stay
    | .ok i =>
      match loopExec i { s with expanding := true, expanded := false } with
      | .next t =>
        let t := { t with expanding := false }
        if t.expanded then .ok ({ t.setSt { t.st with lnpos := lnAdvance r p } with expanded := false }) .stay
        else .ok t .stay
      | _ => .ok s .stay

/-- A turn that only issues the record issues its next expanded issue too. -/
def issueExpansion (h : Head) (r : LnRec) : Op Unit := fun s =>
  if s.issueOnly ∧ !lnFinished r s.st.lnpos then opBind (expandRecord h r) (fun _ => opPure ()) s else .ok s ()

/-- `LOOP_NEST_RECORD` (R55, R57): its pops once, one expanded issue a turn, and with the last one its pushes and its
retirement; the guard is that of the expanded issues, each of which evaluates it, so that the record's own form reads none. A record that `tret.skip` skips leaves `%lnpos` at 0. -/
def execLoopNestRecord (h : Head) (rec : LnRec) (s : State) : Host.Outcome State Fault Refusal :=
  let run (s : State) := runForm { h with guard := 0 } { lanes := true } noHold (issueExpansion h rec) (fun _ => expandRecord h rec) s
  match run s with
  | .next t =>
    if s.st.skipping && !t.st.skipping then .next (t.setSt { t.st with lnpos := 0 })
    else if t.st.issued && t.st.trap.isNone && lnFinished rec t.st.lnpos && !s.issueOnly then run t
    else .next t
  | r => r

end Sys2Proof.Machine
end

