-- ==== Sys2Proof/Machine/Dispatch.lean ====
section
/-! DEFINITION. One arm for each constructor of Instr: a direct call of its meaning. -/

namespace Sys2Proof.Machine

def exec (i : Instr) (s : State) : Host.Outcome State Fault Refusal :=
  match i with
  | .nop h => Sys2Proof.Machine.execNop h s
  | .add h rd ra rb => Sys2Proof.Machine.execAdd h rd ra rb s
  | .addi h rd ra imm => Sys2Proof.Machine.execAddi h rd ra imm s
  | .sub h rd ra rb => Sys2Proof.Machine.execSub h rd ra rb s
  | .mul h rd ra rb => Sys2Proof.Machine.execMul h rd ra rb s
  | .mulh h rd ra rb => Sys2Proof.Machine.execMulh h rd ra rb s
  | .mulhn h rd ra rb => Sys2Proof.Machine.execMulhn h rd ra rb s
  | .div h rd ra rb => Sys2Proof.Machine.execDiv h rd ra rb s
  | .divn h rd ra rb => Sys2Proof.Machine.execDivn h rd ra rb s
  | .rem h rd ra rb => Sys2Proof.Machine.execRem h rd ra rb s
  | .remn h rd ra rb => Sys2Proof.Machine.execRemn h rd ra rb s
  | .land h rd ra rb => Sys2Proof.Machine.execLand h rd ra rb s
  | .andi h rd ra imm => Sys2Proof.Machine.execAndi h rd ra imm s
  | .lor h rd ra rb => Sys2Proof.Machine.execLor h rd ra rb s
  | .ori h rd ra imm => Sys2Proof.Machine.execOri h rd ra imm s
  | .lxor h rd ra rb => Sys2Proof.Machine.execLxor h rd ra rb s
  | .xori h rd ra imm => Sys2Proof.Machine.execXori h rd ra imm s
  | .shl h rd ra rb => Sys2Proof.Machine.execShl h rd ra rb s
  | .shr h rd ra rb => Sys2Proof.Machine.execShr h rd ra rb s
  | .sha h rd ra rb => Sys2Proof.Machine.execSha h rd ra rb s
  | .shiL h rd ra n => Sys2Proof.Machine.execShiL h rd ra n s
  | .shiR h rd ra n => Sys2Proof.Machine.execShiR h rd ra n s
  | .shiA h rd ra n => Sys2Proof.Machine.execShiA h rd ra n s
  | .min h rd ra rb => Sys2Proof.Machine.execMin h rd ra rb s
  | .max h rd ra rb => Sys2Proof.Machine.execMax h rd ra rb s
  | .minn h rd ra rb => Sys2Proof.Machine.execMinn h rd ra rb s
  | .maxn h rd ra rb => Sys2Proof.Machine.execMaxn h rd ra rb s
  | .seq h rd ra rb => Sys2Proof.Machine.execSeq h rd ra rb s
  | .slt h rd ra rb => Sys2Proof.Machine.execSlt h rd ra rb s
  | .sltn h rd ra rb => Sys2Proof.Machine.execSltn h rd ra rb s
  | .li h rd imm => Sys2Proof.Machine.execLi h rd imm s
  | .lih h rd ra imm => Sys2Proof.Machine.execLih h rd ra imm s
  | .madd h rd ra rb rc => Sys2Proof.Machine.execMadd h rd ra rb rc s
  | .bfx h rd ra w pos => Sys2Proof.Machine.execBfx h rd ra w pos s
  | .bfxS h rd ra w pos => Sys2Proof.Machine.execBfxS h rd ra w pos s
  | .bfi h rd ra w pos => Sys2Proof.Machine.execBfi h rd ra w pos s
  | .clz h rd ra => Sys2Proof.Machine.execClz h rd ra s
  | .popc h rd ra => Sys2Proof.Machine.execPopc h rd ra s
  | .sel h rd ra rb rc => Sys2Proof.Machine.execSel h rd ra rb rc s
  | .b h disp slot => Sys2Proof.Machine.execB h disp slot s
  | .bc h ra rb cond disp slot => Sys2Proof.Machine.execBc h ra rb cond disp slot s
  | .call h rl disp slot => Sys2Proof.Machine.execCall h rl disp slot s
  | .jr h rd ra => Sys2Proof.Machine.execJr h rd ra s
  | .loop h rl disp slot => Sys2Proof.Machine.execLoop h rl disp slot s
  | .tok h n => Sys2Proof.Machine.execTok h n s
  | .mfs h rd sr => Sys2Proof.Machine.execMfs h rd sr s
  | .mts h ra sr => Sys2Proof.Machine.execMts h ra sr s
  | .yieldI h => Sys2Proof.Machine.execYieldI h s
  | .budgGet h rd => Sys2Proof.Machine.execBudgGet h rd s
  | .budgChk h rd imm => Sys2Proof.Machine.execBudgChk h rd imm s
  | .trapI h imm => Sys2Proof.Machine.execTrapI h imm s
  | .tretResume h => Sys2Proof.Machine.execTretResume h s
  | .tretSkip h => Sys2Proof.Machine.execTretSkip h s
  | .tretRestart h => Sys2Proof.Machine.execTretRestart h s
  | .tretKill h => Sys2Proof.Machine.execTretKill h s
  | .hash h rd ra rb => Sys2Proof.Machine.execHash h rd ra rb s
  | .idleCyc h imm => Sys2Proof.Machine.execIdleCyc h imm s
  | .idleUntil h ra imm => Sys2Proof.Machine.execIdleUntil h ra imm s
  | .haltI h ra => Sys2Proof.Machine.execHaltI h ra s
  | .brk h imm => Sys2Proof.Machine.execBrk h imm s
  | .loopNestRecord h rec => Sys2Proof.Machine.execLoopNestRecord h rec s
  | .vshape h rowsLo colsLo colsHi rowsHi => Sys2Proof.Machine.execVshape h rowsLo colsLo colsHi rowsHi s
  | .vmov h vd va ty => Sys2Proof.Machine.execVmov h vd va ty s
  | .vsplat h vd va ty => Sys2Proof.Machine.execVsplat h vd va ty s
  | .vadd h vd va vb ty rm sat => Sys2Proof.Machine.execVadd h vd va vb ty rm sat s
  | .vsub h vd va vb ty rm sat => Sys2Proof.Machine.execVsub h vd va vb ty rm sat s
  | .vmul h vd va vb ty rm sat => Sys2Proof.Machine.execVmul h vd va vb ty rm sat s
  | .vfma h vd va vb vc ty rm sat => Sys2Proof.Machine.execVfma h vd va vb vc ty rm sat s
  | .vfms h vd va vb vc ty rm sat => Sys2Proof.Machine.execVfms h vd va vb vc ty rm sat s
  | .vdiv h vd va vb ty rm sat => Sys2Proof.Machine.execVdiv h vd va vb ty rm sat s
  | .vsqrt h vd va ty rm sat => Sys2Proof.Machine.execVsqrt h vd va ty rm sat s
  | .vrsqrt h vd va ty rm sat => Sys2Proof.Machine.execVrsqrt h vd va ty rm sat s
  | .vrcp h vd va ty rm sat => Sys2Proof.Machine.execVrcp h vd va ty rm sat s
  | .vexp h vd va ty rm sat => Sys2Proof.Machine.execVexp h vd va ty rm sat s
  | .vexp2 h vd va ty rm sat => Sys2Proof.Machine.execVexp2 h vd va ty rm sat s
  | .vlog2 h vd va ty rm sat => Sys2Proof.Machine.execVlog2 h vd va ty rm sat s
  | .vtanh h vd va ty rm sat => Sys2Proof.Machine.execVtanh h vd va ty rm sat s
  | .vsigm h vd va ty rm sat => Sys2Proof.Machine.execVsigm h vd va ty rm sat s
  | .vgelu h vd va ty rm sat => Sys2Proof.Machine.execVgelu h vd va ty rm sat s
  | .vmin h vd va vb ty => Sys2Proof.Machine.execVmin h vd va vb ty s
  | .vmax h vd va vb ty => Sys2Proof.Machine.execVmax h vd va vb ty s
  | .vminn h vd va vb ty => Sys2Proof.Machine.execVminn h vd va vb ty s
  | .vmaxn h vd va vb ty => Sys2Proof.Machine.execVmaxn h vd va vb ty s
  | .vabs h vd va ty sat => Sys2Proof.Machine.execVabs h vd va ty sat s
  | .vneg h vd va ty sat => Sys2Proof.Machine.execVneg h vd va ty sat s
  | .vand h vd va vb ty => Sys2Proof.Machine.execVand h vd va vb ty s
  | .vor h vd va vb ty => Sys2Proof.Machine.execVor h vd va vb ty s
  | .vxor h vd va vb ty => Sys2Proof.Machine.execVxor h vd va vb ty s
  | .vshl h vd va vb ty => Sys2Proof.Machine.execVshl h vd va vb ty s
  | .vshr h vd va vb ty => Sys2Proof.Machine.execVshr h vd va vb ty s
  | .vcmp h vd va vb ty cond => Sys2Proof.Machine.execVcmp h vd va vb ty cond s
  | .vsel h vd va vb vc ty => Sys2Proof.Machine.execVsel h vd va vb vc ty s
  | .vcvt h vd va src ty rm amax sat => Sys2Proof.Machine.execVcvt h vd va src ty rm amax sat s
  | .vscale h vd va vb ty rm col sat => Sys2Proof.Machine.execVscale h vd va vb ty rm col sat s
  | .vrsum h vd va ty rm => Sys2Proof.Machine.execVrsum h vd va ty rm s
  | .vrmax h vd va ty => Sys2Proof.Machine.execVrmax h vd va ty s
  | .vrmin h vd va ty => Sys2Proof.Machine.execVrmin h vd va ty s
  | .vcsum h vd va ty rm => Sys2Proof.Machine.execVcsum h vd va ty rm s
  | .vscan h vd va ty rm excl => Sys2Proof.Machine.execVscan h vd va ty rm excl s
  | .vsortk h vd va vb km1 ty => Sys2Proof.Machine.execVsortk h vd va vb km1 ty s
  | .vtrans h vd va ty => Sys2Proof.Machine.execVtrans h vd va ty s
  | .vperm h vd va vb ty row => Sys2Proof.Machine.execVperm h vd va vb ty row s
  | .vrmrg h vd va vb sh ty => Sys2Proof.Machine.execVrmrg h vd va vb sh ty s
  | .vrand h vd ty => Sys2Proof.Machine.execVrand h vd ty s
  | .vdrop h vd va => Sys2Proof.Machine.execVdrop h vd va s
  | .vpush h vd va vb ty => Sys2Proof.Machine.execVpush h vd va vb ty s
  | .vpop h vd va vb ty => Sys2Proof.Machine.execVpop h vd va vb ty s
  | .vidx h vd ty rm form => Sys2Proof.Machine.execVidx h vd ty rm form s
  | .vlut h vd va vb ty => Sys2Proof.Machine.execVlut h vd va vb ty s
  | .vpand h vd va vb => Sys2Proof.Machine.execVpand h vd va vb s
  | .vpor h vd va vb => Sys2Proof.Machine.execVpor h vd va vb s
  | .vpnot h vd va => Sys2Proof.Machine.execVpnot h vd va s
  | .vpcnt h vd va => Sys2Proof.Machine.execVpcnt h vd va s
  | .vpfirst h vd va => Sys2Proof.Machine.execVpfirst h vd va s
  | .vextr h vd va vb ty => Sys2Proof.Machine.execVextr h vd va vb ty s
  | .vins h vd va vb ty => Sys2Proof.Machine.execVins h vd va vb ty s
  | .vclamp h vd va vb vc ty => Sys2Proof.Machine.execVclamp h vd va vb vc ty s
  | .vround h vd va ty rm => Sys2Proof.Machine.execVround h vd va ty rm s
  | .vmuls h vd va vb ty rm sat => Sys2Proof.Machine.execVmuls h vd va vb ty rm sat s
  | .vaddacc h vd va ty rm => Sys2Proof.Machine.execVaddacc h vd va ty rm s
  | .vrdacc h vd va ty rm amax sat => Sys2Proof.Machine.execVrdacc h vd va ty rm amax sat s
  | .vzacc h vd => Sys2Proof.Machine.execVzacc h vd s
  | .vlive h vd => Sys2Proof.Machine.execVlive h vd s
  | .vliveNone h => Sys2Proof.Machine.execVliveNone h s
  | .mmul h ra rb acc v swen semw ssen sems ty rot sp => Sys2Proof.Machine.execMmul h ra rb acc v swen semw ssen sems ty rot sp s
  | .mmuls h ra rb acc v swen semw ssen sems ty rot sp => Sys2Proof.Machine.execMmuls h ra rb acc v swen semw ssen sems ty rot sp s
  | .mmulg h ra rb acc v swen semw ssen sems ty => Sys2Proof.Machine.execMmulg h ra rb acc v swen semw ssen sems ty s
  | .mmulz h ra rb acc v swen semw ssen sems ty rot sp => Sys2Proof.Machine.execMmulz h ra rb acc v swen semw ssen sems ty rot sp s
  | .mdrain h ra rb acc v swen semw ssen sems ty rot sp => Sys2Proof.Machine.execMdrain h ra rb acc v swen semw ssen sems ty rot sp s
  | .mscl h v swen semw ssen sems col => Sys2Proof.Machine.execMscl h v swen semw ssen sems col s
  | .msclOff h swen semw ssen sems col => Sys2Proof.Machine.execMsclOff h swen semw ssen sems col s
  | .mbias h ra v swen semw ssen sems grp => Sys2Proof.Machine.execMbias h ra v swen semw ssen sems grp s
  | .mbiasOff h swen semw ssen sems => Sys2Proof.Machine.execMbiasOff h swen semw ssen sems s
  | .mact h ra swen semw ssen sems => Sys2Proof.Machine.execMact h ra swen semw ssen sems s
  | .mwld h ra rb v swen semw ssen sems rot => Sys2Proof.Machine.execMwld h ra rb v swen semw ssen sems rot s
  | .mwstr h ra rb v swen semw ssen sems => Sys2Proof.Machine.execMwstr h ra rb v swen semw ssen sems s
  | .mwwait h swen semw ssen sems => Sys2Proof.Machine.execMwwait h swen semw ssen sems s
  | .mmeta h ra swen semw ssen sems => Sys2Proof.Machine.execMmeta h ra swen semw ssen sems s
  | .mfmt h ra swen semw ssen sems => Sys2Proof.Machine.execMfmt h ra swen semw ssen sems s
  | .msync h => Sys2Proof.Machine.execMsync h s
  | .mqst h v swen semw ssen sems => Sys2Proof.Machine.execMqst h v swen semw ssen sems s
  | .mconv h ra rb acc v swen semw ssen sems ty rot => Sys2Proof.Machine.execMconv h ra rb acc v swen semw ssen sems ty rot s
  | .mdwc h ra rb acc v swen semw ssen sems ty rot => Sys2Proof.Machine.execMdwc h ra rb acc v swen semw ssen sems ty rot s
  | .mtr h ra rb v swen semw ssen sems ty rot => Sys2Proof.Machine.execMtr h ra rb v swen semw ssen sems ty rot s
  | .macc h acc v swen semw ssen sems => Sys2Proof.Machine.execMacc h acc v swen semw ssen sems s
  | .mcpyOut h acc v swen semw ssen sems => Sys2Proof.Machine.execMcpyOut h acc v swen semw ssen sems s
  | .mcpyIn h acc v swen semw ssen sems => Sys2Proof.Machine.execMcpyIn h acc v swen semw ssen sems s
  | .msem h swen semw ssen sems => Sys2Proof.Machine.execMsem h swen semw ssen sems s
  | .mabort h => Sys2Proof.Machine.execMabort h s
  | .ld h reg ra rot ty space off => Sys2Proof.Machine.execLd h reg ra rot ty space off s
  | .st h reg ra rot ty space off => Sys2Proof.Machine.execSt h reg ra rot ty space off s
  | .vld h reg ra rot space off => Sys2Proof.Machine.execVld h reg ra rot space off s
  | .vst h reg ra rot space off => Sys2Proof.Machine.execVst h reg ra rot space off s
  | .vlds h reg ra rot space off => Sys2Proof.Machine.execVlds h reg ra rot space off s
  | .vsts h reg ra rot space off => Sys2Proof.Machine.execVsts h reg ra rot space off s
  | .vldx h reg ra rot space off => Sys2Proof.Machine.execVldx h reg ra rot space off s
  | .vstx h reg ra rot space off => Sys2Proof.Machine.execVstx h reg ra rot space off s
  | .touchR h rd ra rb => Sys2Proof.Machine.execTouchR h rd ra rb s
  | .touchW h rd ra rb => Sys2Proof.Machine.execTouchW h rd ra rb s
  | .cpy h reg ra rot space off => Sys2Proof.Machine.execCpy h reg ra rot space off s
  | .cpyw h reg ra rot space off => Sys2Proof.Machine.execCpyw h reg ra rot space off s
  | .pfet h rowsM1 ra off => Sys2Proof.Machine.execPfet h rowsM1 ra off s
  | .poolReshape h rd ra role rel limit => Sys2Proof.Machine.execPoolReshape h rd ra role rel limit s
  | .poolPin h rd ra => Sys2Proof.Machine.execPoolPin h rd ra s
  | .poolUnpin h rd ra => Sys2Proof.Machine.execPoolUnpin h rd ra s
  | .pstat h rd which => Sys2Proof.Machine.execPstat h rd which s
  | .wbinvAll h rd keep => Sys2Proof.Machine.execWbinvAll h rd keep s
  | .wbinvRng h rd ra rb keep => Sys2Proof.Machine.execWbinvRng h rd ra rb keep s
  | .rset h rd ra rb ring => Sys2Proof.Machine.execRset h rd ra rb ring s
  | .rsetClr h rd ring => Sys2Proof.Machine.execRsetClr h rd ring s
  | .rput h rd ra rb ring limit => Sys2Proof.Machine.execRput h rd ra rb ring limit s
  | .rget h rd ring limit => Sys2Proof.Machine.execRget h rd ring limit s
  | .rclaim h rd rb ring n => Sys2Proof.Machine.execRclaim h rd rb ring n s
  | .rclaimRel h rd ring n => Sys2Proof.Machine.execRclaimRel h rd ring n s
  | .rwaitf h rd rb ring limit => Sys2Proof.Machine.execRwaitf h rd rb ring limit s
  | .rwaite h rd rb ring limit => Sys2Proof.Machine.execRwaite h rd rb ring limit s
  | .rstatPos h rd ring => Sys2Proof.Machine.execRstatPos h rd ring s
  | .rstatSpill h rd ring => Sys2Proof.Machine.execRstatSpill h rd ring s
  | .wenq h rd ra rb scope limit n => Sys2Proof.Machine.execWenq h rd ra rb scope limit n s
  | .semi h rd ra sem => Sys2Proof.Machine.execSemi h rd ra sem s
  | .semw h rd limit k sem => Sys2Proof.Machine.execSemw h rd limit k sem s
  | .semwTry h rd k sem => Sys2Proof.Machine.execSemwTry h rd k sem s
  | .sems h rd k sem => Sys2Proof.Machine.execSems h rd k sem s
  | .mark h => Sys2Proof.Machine.execMark h s
  | .fenceRel h scope => Sys2Proof.Machine.execFenceRel h scope s
  | .fenceAcq h scope => Sys2Proof.Machine.execFenceAcq h scope s
  | .fenceFull h scope => Sys2Proof.Machine.execFenceFull h scope s
  | .epush h rd ra rb scope => Sys2Proof.Machine.execEpush h rd ra rb scope s
  | .epop h rd ra limit => Sys2Proof.Machine.execEpop h rd ra limit s
  | .detach h => Sys2Proof.Machine.execDetach h s
  | .joinOpen h rd id => Sys2Proof.Machine.execJoinOpen h rd id s
  | .join h limit id => Sys2Proof.Machine.execJoin h limit id s
  | .dsync h scope level limit smask => Sys2Proof.Machine.execDsync h scope level limit smask s
  | .dphaseComp h => Sys2Proof.Machine.execDphaseComp h s
  | .dphaseComm h => Sys2Proof.Machine.execDphaseComm h s
  | .cbcast h rd ra limit src => Sys2Proof.Machine.execCbcast h rd ra limit src s
  | .dinfo h rd level which => Sys2Proof.Machine.execDinfo h rd level which s
  | .xsemI h rd ra sem => Sys2Proof.Machine.execXsemI h rd ra sem s
  | .xsemW h rd limit k sem => Sys2Proof.Machine.execXsemW h rd limit k sem s
  | .xsemTry h rd k sem => Sys2Proof.Machine.execXsemTry h rd k sem s
  | .xsemS h rd k sem => Sys2Proof.Machine.execXsemS h rd k sem s
  | .scset h rd ra scope => Sys2Proof.Machine.execScset h rd ra scope s
  | .scget h rd scope w => Sys2Proof.Machine.execScget h rd scope w s
  | .amo h rd ra rb scope op ord ty => Sys2Proof.Machine.execAmo h rd ra rb scope op ord ty s
  | .amon h ra rb scope op ord ty => Sys2Proof.Machine.execAmon h ra rb scope op ord ty s
  | .acas h rd ra rb scope ord ty => Sys2Proof.Machine.execAcas h rd ra rb scope ord ty s
  | .marm h rd ra => Sys2Proof.Machine.execMarm h rd ra s
  | .mwait h rd limit => Sys2Proof.Machine.execMwait h rd limit s
  | .vdec h rd ra rb scope => Sys2Proof.Machine.execVdec h rd ra rb scope s
  | .mask h rd ra rb scope => Sys2Proof.Machine.execMask h rd ra rb scope s
  | .gsx h rd ra rb scope => Sys2Proof.Machine.execGsx h rd ra rb scope s
  | .rfshLayer h rd ra scope die => Sys2Proof.Machine.execRfshLayer h rd ra scope die s
  | .rfshTile h rd ra rb scope die => Sys2Proof.Machine.execRfshTile h rd ra rb scope die s
  | .mthrThr h rd ra rb scope die => Sys2Proof.Machine.execMthrThr h rd ra rb scope die s
  | .mthrLim h rd ra rb scope die => Sys2Proof.Machine.execMthrLim h rd ra rb scope die s
  | .mthrNref h rd ra rb scope die => Sys2Proof.Machine.execMthrNref h rd ra rb scope die s
  | .enq h rd ra q => Sys2Proof.Machine.execEnq h rd ra q s
  | .enqR h rd ra rb => Sys2Proof.Machine.execEnqR h rd ra rb s
  | .depDec h rd scope idx => Sys2Proof.Machine.execDepDec h rd scope idx s
  | .depDecr h rd ra scope => Sys2Proof.Machine.execDepDecr h rd ra scope s
  | .depArm h rd ra scope idx => Sys2Proof.Machine.execDepArm h rd ra scope idx s
  | .pwr h ra rb dw => Sys2Proof.Machine.execPwr h ra rb dw s
  | .pamoAdd h rd ra rb ord ty => Sys2Proof.Machine.execPamoAdd h rd ra rb ord ty s
  | .pamoSwap h rd ra rb ord ty => Sys2Proof.Machine.execPamoSwap h rd ra rb ord ty s
  | .pamoCas h rd ra rb ord ty => Sys2Proof.Machine.execPamoCas h rd ra rb ord ty s
  | .tmark h ra tag => Sys2Proof.Machine.execTmark h ra tag s
  | .dump h rd ra rb which => Sys2Proof.Machine.execDump h rd ra rb which s
  | .ntfy h ra v => Sys2Proof.Machine.execNtfy h ra v s
  | .idleWake => Sys2Proof.Machine.execIdleWake s
  | .matrixCommandStart => Sys2Proof.Machine.execMatrixCommandStart s
  | .matrixCommandComplete => Sys2Proof.Machine.execMatrixCommandComplete s
  | .matrixSemExpired => Sys2Proof.Machine.execMatrixSemExpired s
  | .touchWindowExpiry => Sys2Proof.Machine.execTouchWindowExpiry s
  | .tileBusy => Sys2Proof.Machine.execTileBusy s
  | .ringWaitExpired => Sys2Proof.Machine.execRingWaitExpired s
  | .spillMove => Sys2Proof.Machine.execSpillMove s
  | .semWaitExpired => Sys2Proof.Machine.execSemWaitExpired s
  | .markWaitExpired => Sys2Proof.Machine.execMarkWaitExpired s
  | .engineWaitExpired => Sys2Proof.Machine.execEngineWaitExpired s
  | .joinExpired => Sys2Proof.Machine.execJoinExpired s
  | .domExpired => Sys2Proof.Machine.execDomExpired s
  | .monitorEviction => Sys2Proof.Machine.execMonitorEviction s
  | .spuriousEvent => Sys2Proof.Machine.execSpuriousEvent s
  | .mwaitExpired => Sys2Proof.Machine.execMwaitExpired s
  | .openStream => Sys2Proof.Machine.execOpenStream s
  | .decodeUnit => Sys2Proof.Machine.execDecodeUnit s
  | .closeStream => Sys2Proof.Machine.execCloseStream s
  | .maskCommand => Sys2Proof.Machine.execMaskCommand s
  | .gsxCommand => Sys2Proof.Machine.execGsxCommand s
  | .rfshCommand => Sys2Proof.Machine.execRfshCommand s
  | .mthrCommand => Sys2Proof.Machine.execMthrCommand s
  | .heldEnqueueEntry => Sys2Proof.Machine.execHeldEnqueueEntry s
  | .tokenWaitExpired => Sys2Proof.Machine.execTokenWaitExpired s
  | .frameFetch => Sys2Proof.Machine.execFrameFetch s
  | .driftRelease => Sys2Proof.Machine.execDriftRelease s
  | .pageWalk => Sys2Proof.Machine.execPageWalk s
  | .tinvWrite => Sys2Proof.Machine.execTinvWrite s
  | .invalidationComplete => Sys2Proof.Machine.execInvalidationComplete s
  | .xscanWrite => Sys2Proof.Machine.execXscanWrite s
  | .scanComplete => Sys2Proof.Machine.execScanComplete s
  | .seedWrite => Sys2Proof.Machine.execSeedWrite s
  | .bgrantWrite => Sys2Proof.Machine.execBgrantWrite s
  | .stopatWrite => Sys2Proof.Machine.execStopatWrite s
  | .hostStopAt => Sys2Proof.Machine.execHostStopAt s
  | .selectionRound => Sys2Proof.Machine.execSelectionRound s
  | .controlIntervalStart => Sys2Proof.Machine.execControlIntervalStart s
  | .reserve => Sys2Proof.Machine.execReserve s
  | .reservationRetry => Sys2Proof.Machine.execReservationRetry s
  | .grantLapse => Sys2Proof.Machine.execGrantLapse s
  | .bind => Sys2Proof.Machine.execBind s
  | .budgetExhausted => Sys2Proof.Machine.execBudgetExhausted s
  | .sliceEnd => Sys2Proof.Machine.execSliceEnd s
  | .currentReturn => Sys2Proof.Machine.execCurrentReturn s
  | .contextStopped => Sys2Proof.Machine.execContextStopped s
  | .handlerSliceBind => Sys2Proof.Machine.execHandlerSliceBind s
  | .handlerSliceEnd => Sys2Proof.Machine.execHandlerSliceEnd s
  | .traceFrameTimeout => Sys2Proof.Machine.execTraceFrameTimeout s
  | .replayStarved => Sys2Proof.Machine.execReplayStarved s
  | .registerWrite => Sys2Proof.Machine.execRegisterWrite s
  | .queueControlWrite => Sys2Proof.Machine.execQueueControlWrite s
  | .hostEnqueue => Sys2Proof.Machine.execHostEnqueue s
  | .partitionWrite => Sys2Proof.Machine.execPartitionWrite s
  | .l2ModeWrite => Sys2Proof.Machine.execL2ModeWrite s
  | .l2ModeSwitch => Sys2Proof.Machine.execL2ModeSwitch s
  | .contextInstall => Sys2Proof.Machine.execContextInstall s
  | .hostStop => Sys2Proof.Machine.execHostStop s
  | .scopeCommand => Sys2Proof.Machine.execScopeCommand s
  | .eventWordClear => Sys2Proof.Machine.execEventWordClear s
  | .resetContext => Sys2Proof.Machine.execResetContext s
  | .resetPartition => Sys2Proof.Machine.execResetPartition s
  | .resetModule => Sys2Proof.Machine.execResetModule s
  | .functionLevelReset => Sys2Proof.Machine.execFunctionLevelReset s
  | .hotReset => Sys2Proof.Machine.execHotReset s
  | .coldBoot => Sys2Proof.Machine.execColdBoot s
  | .recoveryBlock => Sys2Proof.Machine.execRecoveryBlock s
  | .recoveryCommit => Sys2Proof.Machine.execRecoveryCommit s
  | .getVersion => Sys2Proof.Machine.execGetVersion s
  | .getCapabilities => Sys2Proof.Machine.execGetCapabilities s
  | .negotiateAlgorithms => Sys2Proof.Machine.execNegotiateAlgorithms s
  | .getDigests => Sys2Proof.Machine.execGetDigests s
  | .getCertificate => Sys2Proof.Machine.execGetCertificate s
  | .challenge => Sys2Proof.Machine.execChallenge s
  | .getMeasurements => Sys2Proof.Machine.execGetMeasurements s
  | .spdmUnsupported => Sys2Proof.Machine.execSpdmUnsupported s
  | .incomingPostedWrite => Sys2Proof.Machine.execIncomingPostedWrite s
  | .incomingRead => Sys2Proof.Machine.execIncomingRead s
  | .incomingAtomicOp => Sys2Proof.Machine.execIncomingAtomicOp s
  | .outboundCompletion => Sys2Proof.Machine.execOutboundCompletion s
  | .completionTimeout => Sys2Proof.Machine.execCompletionTimeout s
  | .ptmDialogue => Sys2Proof.Machine.execPtmDialogue s
  | .miosorFlitRetry => Sys2Proof.Machine.execMiosorFlitRetry s
  | .retrain => Sys2Proof.Machine.execRetrain s
  | .laneRepair => Sys2Proof.Machine.execLaneRepair s
  | .stackPauseEnd => Sys2Proof.Machine.execStackPauseEnd s
  | .sentinelUpdate => Sys2Proof.Machine.execSentinelUpdate s
  | .rowActivation => Sys2Proof.Machine.execRowActivation s
  | .refreshWindowStart => Sys2Proof.Machine.execRefreshWindowStart s
  | .regulatorWrite => Sys2Proof.Machine.execRegulatorWrite s
  | .regulatorChangeDone => Sys2Proof.Machine.execRegulatorChangeDone s
  | .clusterPowerWrite => Sys2Proof.Machine.execClusterPowerWrite s
  | .regulatorSwitch => Sys2Proof.Machine.execRegulatorSwitch s
  | .thermal => Sys2Proof.Machine.execThermal s
  | .eolUpdate => Sys2Proof.Machine.execEolUpdate s
  | .measurementUpdate => Sys2Proof.Machine.execMeasurementUpdate s
  | .ceLasting => Sys2Proof.Machine.execCeLasting s
  | .poolRowRetire => Sys2Proof.Machine.execPoolRowRetire s
  | .instructionRetire => Sys2Proof.Machine.execInstructionRetire s
  | .videoCommandCompletion => Sys2Proof.Machine.execVideoCommandCompletion s
  | .portLinkChange => Sys2Proof.Machine.execPortLinkChange s

end Sys2Proof.Machine
end

