-- ==== Sys2Proof/Machine/Place.lean ====
section
/-! DEFINITION. Setting a stream up so that its next turn fetches a given instruction: a slice bound to its core, its page
translated and scanned, and the frame in memory. -/

namespace Sys2Proof.Machine

/-- The page that holds the placed frame: virtual and physical. -/
def placePage : Nat := 0x100000

/-- A base pool word for the placed slice: ten vector banks, 16 TILE, 4 WAY, 2 RING and 20 SCR banks (R116). -/
def placePool : Nat := 0x280890A

/-- The header of the placed slice (R295). -/
def placeHeader : Header :=
  { addr := 0, words := [0, 0xFFFFFFFF, 0xFFFF000000000000, placePage, 0, 0, 0, placePool] }

/-- The state with a frame placed at the next fetch of a stream of the current core. -/
def State.place (s : State) (k : StreamId) (frame : List Nat) : State :=
  let core := s.curCore
  let s := { s with agenda := [], curK := k, issueOnly := false, chosen := none, late := false }
  let s := s.bindSlice
    { ctx := 0, handler := false, queue := 0, hdr := placeHeader, cores := [core], budget := 0xFFFFFFFF }
  let x := s.ctx 0
  let leaf : TlbEntry :=
    { va := placePage, size := 4096, pa := placePage, cls := 0, r := true, w := true, x := true, xs := k.num }
  let s := s.setCtx 0 { x with live := true, mode := .run, halt := none }
  let s := s.setCore core { s.core core with tlb := tlbFill 64 (s.core core).tlb 0 leaf }
  let mem := (frame.zipIdx).foldl (fun m e => memWriteN m (placePage + 8 * e.2) 8 e.1) s.mem
  { s with mem := mem, scanned := tblSet s.scanned (placePage / 4096) k.num }

/-- The frame of an instruction's words: a packet of one, or the record itself (R40, R53). -/
def frameOf (k : StreamId) (ws : List Nat) : List Nat :=
  match ws with
  | [w] => [encodeHeader k 1, w, 0, 0, 0, 0, 0, 0]
  | ws => ws

end Sys2Proof.Machine
end

