-- ==== Sys2Proof/Machine/Step.lean ====
section
/-! DEFINITION. One step of the module: the next act of the agenda, or a turn of the current stream. -/

namespace Sys2Proof.Machine

/-- A turn of a stream: it fetches, issues and, if it can, retires its head; with `only` it only issues, with `steps` it takes
no step but those listed, and with `late` what others see later stays pending. -/
def State.turn (s : State) (core : Nat) (k : StreamId) (only : Bool) (steps : Option (List Nat)) (late : Bool) :
    Host.Outcome State Fault Refusal :=
  if 192 ≤ core then .fault .noSuchAgent
  else
    match ({ s with
        curCore := core, curK := k, issueOnly := only, chosen := steps, late := late, expanding := false
        expanded := false }).ready with
    | .rest s => .next s
    | .bad r => .refused (.undecodable r.code)
    | .run s i => exec i s

/-- The opcodes of instructions that write neither a predicate nor a random counter and lead to the next PC, and that issue with no
capture: scalar arithmetic, `tok`, most vector instructions, loads and stores. -/
def runsAhead (op : Nat) : Bool :=
  decide (op < 0x24) || (op == 0x29) || (decide (0x41 ≤ op) && decide (op < 0x5D)) || (op == 0x5E) ||
    (decide (0x60 ≤ op) && decide (op < 0x6A)) || (decide (0x6C ≤ op) && decide (op < 0x70)) ||
    (decide (0x77 ≤ op) && decide (op < 0x7B)) || (op == 0x7C) || (decide (0xA0 ≤ op) && decide (op < 0xA8)) ||
    (op == 0xA9) || (op == 0xAA)

/-- The opcode of the instruction at the head of a stream whose frame is there; none of a loop-nest record. -/
def Stream.issueOpcode (st : Stream) : Option Nat :=
  match st.iq with
  | f :: _ => if st.hasFrame && !isRecord f.words && !slotMissing f st.pc.toNat then some (f.words.getD (st.pc.toNat % 8 + 1) 0 / 2 ^ 56)
    else none
  | [] => none

/-- The executing stream past its next `n` instructions, where others may issue behind them. -/
def State.passHeads : Nat → State → Option State
  | 0, s => some s
  | n + 1, s =>
    match s.st.issueOpcode, s.nextPc with
    | some op, some pc => if runsAhead op then (s.setSt (s.st.goto pc false)).passHeads n else none
    | _, _ => none

/-- A stream issues one more instruction behind those that have issued (R25, R30): it takes its pops, reserves its pushes and reads its
guard; its effect comes when it is the head. DESIGN CHOICE (log entry 2): the model issues so the instructions of `runsAhead`, behind
instructions of that list. The field that counts them has six bits (R38). -/
def State.issueAhead (s : State) (core : Nat) (k : StreamId) : Host.Outcome State Fault Refusal :=
  let s := { s with
    curCore := core, curK := k, issueOnly := true, chosen := none, late := false, expanding := false, expanded := false }
  let st := s.st
  if 192 ≤ core then .fault .noSuchAgent
  else if !st.issued || st.trap.isSome || st.skipping || decide (62 ≤ st.ahead.length) then .next s
  else
    match s.passHeads (1 + st.ahead.length) with
    | none => .next s
    | some p =>
      let front := { ({ p.st with ahead := [] } : Stream).clearHead s.cyc with
        rc := st.rc + 1 + w64 st.ahead.length, pushes := st.pushes ++ st.ahead.flatMap Ahead.pushes }
      match (s.setSt front).ready with
      | .run t i =>
        if !((t.st.issueOpcode.map runsAhead).getD false) then .next s
        else
          match exec i t with
          | .next t =>
            let u := t.st
            if u.issued && u.trap.isNone && u.wait.isNone && u.rc == front.rc && (u.kind == .plain || u.kind == .access) then
              .next (t.setSt { st with
                iq := st.iq.take (st.iq.length - front.iq.length) ++ u.iq, issuedNow := true
                ahead := st.ahead ++
                  [{ popped := u.popped, pushes := u.pushes, guardOn := u.guardOn, lanes := u.lanes, issuedAt := u.issuedAt
                     kind := u.kind, keys := u.keys, consumed := u.consumed + u.lastOfFrame.toNat }] })
            else .next s
          | _ => .next s
      | _ => .next s

/-- An act of the agenda. What the host has written into the policy words of a context that has no slice bound governs every event
that comes after (R328). -/
def State.act (s : State) (a : Act) : Host.Outcome State Fault Refusal :=
  match a with
  | .turn core k => s.turn core k false none false
  | .issue core k => s.turn core k true none false
  | .part core k steps => s.turn core k false (some steps) false
  | .ahead core k => s.issueAhead core k
  | .late core k => s.turn core k false none true
  | .land core n => .next (s.land core n)
  | .append => .next s.policies.serveAppend
  | .event i args => if (encode i).isEmpty then exec i { s.policies with ev := args } else .fault .noSuchAgent
  | .elapse ns => .next (s.pass ns)

/-- One step. -/
def step (s : State) : Host.Outcome State Fault Refusal :=
  match s.agenda with
  | [] => s.turn s.curCore s.curK false none false
  | a :: rest => ({ s with agenda := rest }).act a

/-- The state whose next step runs the instruction of the given bits. -/
def State.withFetchWord (s : State) (nbits w : Nat) : State :=
  if nbits ≤ 64 then
    let k := streamFor (fld w 56 8)
    s.place k (frameOf k [w % 2 ^ 64])
  else s.place (StreamId.ofNum (fld w 55 2)) (wordsOf w 8)

end Sys2Proof.Machine
end

