-- ==== Sys2Proof/Safety.lean ====
section
/-! DEFINITION. What a safe run is, and the terms in which claims speak of one instruction: when its head can issue and
retire at once, what retirement leaves, and what else stays as it was. -/

namespace Sys2Proof

open Machine

/-- The state after `n` steps, if none of them stops. -/
def Safety.after (n : Nat) (s : State) : Option State :=
  match n with
  | 0 => some s
  | n + 1 =>
    match Machine.step s with
    | .next t => Safety.after n t
    | _ => none

/-- No step of the first `n` stops. -/
def Safety.safe (n : Nat) (s : State) : Prop := (Safety.after n s).isSome = true

/-- The executing stream stands at a head that has not issued: the stream runs (R31), nothing holds it before its issue
(R345, R356), its head waits for nothing, has taken no step and has sent nothing, nothing of its core is still to be performed or seen,
no trap has come to it late (R263), no reshape of its pool is under way, and the turn is a whole one; `pc` is the next PC (R15). -/
structure Safety.AtHead (pc : PcWord) (s : State) : Prop where
  runs : s.canRun s.curCore s.curK = true
  whole : s.issueOnly = false ∧ s.chosen = none ∧ s.late = false
  single : s.expanding = false
  waiting : s.st.issued = false ∧ s.st.popped = (0, 0) ∧ s.st.pushes = [] ∧ s.st.ahead = []
  free : s.st.wait = none ∧ s.st.cls = 0
  unskipped : s.st.skipping = false
  untaken : s.st.notes = [] ∧ s.st.outs = [] ∧ s.st.capt = none ∧ s.st.captScope = none ∧ s.st.poisonDue = false
  settled : s.cur.pending = [] ∧ s.cur.reshape = none ∧ s.st.lateTrap = none
  unheld : s.stopAtHolds s.curCore s.curK = false
  unlogged : s.atCheckpoint = false
  nextPc : s.nextPc = some pc

/-- The head can issue: its token queues hold `n` tokens to pop and room for `n` (R25). -/
structure Safety.CanIssue (h : Head) (n : Nat) (pc : PcWord) (s : State) : Prop extends Safety.AtHead pc s where
  pops : s.cur.lacking (popQueues s.curK h) n = []
  pushes : s.cur.crowded s.st.pushes (pushQueues s.curK h) n = []

/-- The head has retired: the PC, the retire count (R29), the token queues (R23, R26), and the next head has not issued. -/
structure Safety.Retired (h : Head) (n : Nat) (pc : PcWord) (s t : State) : Prop where
  core : t.curCore = s.curCore
  stream : t.curK = s.curK
  pc : t.st.pc = pc
  rc : t.st.rc = s.st.rc + 1
  issued : t.st.issued = false
  wait : t.st.wait = none
  tokens : ∀ q, t.cur.tokens q + n * (popQueues s.curK h).count q = s.cur.tokens q + n * (pushQueues s.curK h).count q

/-- A core without its token queues and without one stream. -/
def Safety.coreRest (k : StreamId) (c : Core) : Core := ({ c with tokq := [] } : Core).setStream k {}

/-- A stream without what every head changes: the PC, the retire count, the frames and the head's own record; and without
its scalar registers. -/
def Safety.streamRest (st : Stream) : Stream :=
  ({ st with x := [], pc := 0, rc := 0, iq := [], consumed := 0, issuedNow := false, ahead := [] } : Stream).clearHead 0

/-- What changes nothing but one stream's head, its scalar registers, the token queues of its core, and what the three
functions take away: of the device, of the stream's core, of the stream. -/
structure Safety.KeptAt (m : Nat) (k : StreamId) (dev : State → State) (core : Core → Core) (stream : Stream → Stream)
    (s t : State) : Prop where
  device : dev { t with cores := [] } = dev { s with cores := [] }
  others : ∀ c, c ≠ m → t.core c = s.core c
  core : core (Safety.coreRest k (t.core m)) = core (Safety.coreRest k (s.core m))
  stream : stream (Safety.streamRest (t.stream m k)) = stream (Safety.streamRest (s.stream m k))

/-- The same, of the executing stream. -/
abbrev Safety.Kept (dev : State → State) (core : Core → Core) (stream : Stream → Stream) (s t : State) : Prop :=
  Safety.KeptAt s.curCore s.curK dev core stream s t

/-- The scalar registers but one are as they were. -/
def Safety.RegsBut (rd : Reg) (s t : State) : Prop := ∀ r, r ≠ rd → t.rx r = s.rx r

/-- Every byte of DEV memory reads as it did. -/
def Safety.MemSame (s t : State) : Prop := ∀ a, memRead t.mem a = memRead s.mem a

/-- The instruction completes at once: its step answers a next state in which it has retired and which satisfies `P`. -/
def Safety.Completes (i : Instr) (h : Head) (n : Nat) (pc : PcWord) (s : State) (P : State → Prop) : Prop :=
  ∃ t, Machine.exec i s = .next t ∧ Safety.Retired h n pc s t ∧ P t

/-- The instruction completes at once with a value in its destination register, and changes nothing else; x0 keeps
reading zero (R17). -/
def Safety.Sets (i : Instr) (h : Head) (n : Nat) (pc : PcWord) (rd : Reg) (v : W64) (s : State) : Prop :=
  Safety.Completes i h n pc s fun t =>
    t.rx rd = (if rd = 0 then 0 else v) ∧ Safety.Kept id id id s t ∧ Safety.RegsBut rd s t ∧ Safety.MemSame s t

/-- A control transfer completes at its target or at the next PC, with a link or a count in one register; while its stream
fetches privately it changes nothing else (R98, R231). -/
def Safety.Jumps (i : Instr) (h : Head) (pc : PcWord) (rl : Reg) (v : W64) (s : State) : Prop :=
  Safety.Completes i h 1 pc s fun t =>
    t.rx rl = (if rl = 0 then 0 else v) ∧ Safety.RegsBut rl s t ∧
      (s.st.attached = false → Safety.Kept id id id s t ∧ Safety.MemSame s t)

/-- The core holds an ordinary slice, no handler slice, whose context has not halted. -/
def Safety.Ordinary (s : State) : Prop :=
  ∃ v, s.sliceOf s.curCore = some v ∧ v.handler = false ∧ (s.ctx v.ctx).halt = none

/-- A semaphore without a waiter. -/
def Safety.noWaiter (who : SemWaiter) (v : Sem) : Sem := { v with waiters := v.waiters.filter fun e => e.1 != who }

/-- The device without a context's halt line, and without a waiter on cluster semaphores. -/
def Safety.offHalt (x : Nat) (who : SemWaiter) (s : State) : State :=
  { s.setCtx x { s.ctx x with halt := none, haltAt := [], cause := none } with
    clusters := tblMap s.clusters fun c => { c with xsems := tblMap c.xsems (Safety.noWaiter who) } }

/-- A core without a waiter on its semaphores. -/
def Safety.offWaits (who : SemWaiter) (c : Core) : Core := { c with sems := tblMap c.sems (Safety.noWaiter who) }

/-- A stream without the trap that it raised. -/
def Safety.offTrap (st : Stream) : Stream := { st with trap := none, last := 0 }

/-- The tokens that the head of the executing stream has taken from a queue (R25, R37). -/
def Safety.taken (s : State) (q : Nat) : Nat :=
  (if popPrevQ s.curK = some q then s.st.popped.1 else 0) + (if popNextQ s.curK = some q then s.st.popped.2 else 0)

/-- Of the tokens of each queue, the head holds those that it has taken: a queue and its head's record have what they had. -/
def Safety.TokensHeld (s t : State) : Prop :=
  ∀ q, t.cur.tokens q + Safety.taken t q = s.cur.tokens q + Safety.taken s q

/-- The executing stream takes a trap: the head does not retire, the last-trap field takes the code, the halt line of the
context rises with the trap as its first cause, the head's tokens stand in its record, and everything else stays, but for what
the functions take away (R35, R38, R329, R334). -/
def Safety.TrapsBut (dev : State → State) (core : Core → Core) (i : Instr) (tr : Trap) (s : State) : Prop :=
  ∃ t, Machine.exec i s = .next t ∧ t.curCore = s.curCore ∧ t.curK = s.curK ∧ t.st.trap = some tr ∧
    t.st.last = BitVec.ofNat 8 tr.code.code ∧ t.st.pc = s.st.pc ∧ t.st.rc = s.st.rc ∧ (∀ r, t.rx r = s.rx r) ∧
    Safety.MemSame s t ∧ Safety.TokensHeld s t ∧ (t.ctx s.curCtx).halt = some s.time ∧
    (t.ctx s.curCtx).cause = some (.stream s.curCore s.curK, tr) ∧
    Safety.Kept (fun u => dev (Safety.offHalt s.curCtx (.stream s.curCore s.curK) u))
      (fun c => core (Safety.offWaits (.stream s.curCore s.curK) c)) Safety.offTrap s t

/-- The executing stream takes a trap, and nothing else changes. -/
def Safety.Traps (i : Instr) (tr : Trap) (s : State) : Prop := Safety.TrapsBut id id i tr s

/-- The head waits: it has not retired, its wait began in this cycle, its tokens stand in its record if it has issued, and
everything else stays, but for what the functions take away (R26, R27). -/
def Safety.WaitsBut (dev : State → State) (core : Core → Core) (i : Instr) (k : WaitKind) (limit : Nat) (s : State) : Prop :=
  ∃ t, Machine.exec i s = .next t ∧ t.curCore = s.curCore ∧ t.curK = s.curK ∧
    t.st.wait = some { kind := k, since := s.cyc, limit := limit } ∧
    t.st.pc = s.st.pc ∧ t.st.rc = s.st.rc ∧ (∀ r, t.rx r = s.rx r) ∧ Safety.MemSame s t ∧ Safety.TokensHeld s t ∧
    Safety.Kept dev core id s t

/-- The head waits, and nothing else changes. -/
def Safety.Waits (i : Instr) (k : WaitKind) (limit : Nat) (s : State) : Prop := Safety.WaitsBut id id i k limit s

/-- A context writes no trace records of a class (R350). -/
def Safety.Untraced (x cls : Nat) (s : State) : Prop := (s.ctx x).traceEn = false ∨ (s.ctx x).traceCls.getLsbD cls = false

/-- The head has issued and holds its tokens, its guard let it run, and nothing keeps it from completing but what it waits
for; its waits are not traced (R25, R26, R350). -/
structure Safety.CanFinish (pc : PcWord) (s : State) : Prop where
  runs : s.canRun s.curCore s.curK = true
  whole : s.issueOnly = false ∧ s.chosen = none ∧ s.late = false
  single : s.expanding = false
  issued : s.st.issued = true
  guard : s.st.guardOn = true
  unskipped : s.st.skipping = false
  untraced : Safety.Untraced s.curCtx 1 s
  sound : s.st.poisonDue = false ∧ s.st.kind ≠ .pool ∧ ∀ key, s.st.kind ≠ .pair key
  settled : s.cur.pending = []
  nextPc : s.nextPc = some pc

/-- No access of a special register by the executing stream is redirected (R337). -/
def Safety.Undirected (s : State) : Prop := s.isHandler = true → (s.ctx s.curCtx).htgtEn = false

/-- Lanes of the stream's tile: rows × columns (R129). -/
def Safety.lanes (s : State) : Nat := s.st.vshapeRows.toNat * s.st.vshapeCols.toNat

/-- The tile has a legal shape that fits elements of the given widths (R132). -/
structure Safety.ShapeReady (widths : List Nat) (s : State) : Prop where
  nonempty : 0 < Safety.lanes s
  bounded : Safety.lanes s ≤ 2048
  fits : ∀ w ∈ widths, Safety.lanes s * w ≤ 16384

/-- The registers named stand in REG banks (R113), and no row of a source holds uncorrectable data (R339). -/
structure Safety.RegsReady (dsts srcs : List VReg) (s : State) : Prop where
  present : ∀ k ∈ dsts ++ srcs, k.toNat < 384 ∧ (k.toNat < 320 → k.toNat < 32 * s.cur.vb)
  sound : ∀ k ∈ srcs, ∀ j, j < 16 → s.cur.poolUe.contains (regBank k.toNat * 512 + (regRow k.toNat + j)) = false

/-- Element `i` of width `w` of a register. -/
def Safety.el (s : State) (k : VReg) (w i : Nat) : Nat := elem w (s.cur.image k.toNat) i

/-- The enabled lanes, ascending (R21, R135). -/
def Safety.enabled (h : Head) (s : State) : List Nat :=
  (List.range (Safety.lanes s)).filter fun i => (s.laneMask h).getLsbD i

/-- A register's element `i` is `f i` where `p i`, and as it was elsewhere; every other register, and every row of the pool
outside the registers, is as it was. -/
def Safety.Elements (vd : VReg) (w : Nat) (p : Nat → Prop) (f : Nat → Nat) (s t : State) : Prop :=
  (∀ i, i < 16384 / w → (p i → Safety.el t vd w i = f i % 2 ^ w) ∧ (¬ p i → Safety.el t vd w i = Safety.el s vd w i)) ∧
    (∀ k, k < 384 → k ≠ vd.toNat → t.cur.image k = s.cur.image k) ∧
    ∀ b row, 12 ≤ b → row < 512 → t.cur.poolRow b row = s.cur.poolRow b row

/-- An instruction that leaves everything but pool rows, their check bits, `%vlive` and the sticky flags. -/
def Safety.VecFrame (s t : State) : Prop :=
  Safety.Kept id (fun c => { c with pool := [], poolUe := [], vlive := 0 }) (fun st => { st with flags := 0 }) s t ∧
    Safety.RegsBut 0 s t ∧ Safety.MemSame s t

/-- A lane-by-lane instruction completes: each enabled lane of `vd` takes its result, and the flags of those results are
raised (R80, R135). -/
def Safety.Lanewise (i : Instr) (h : Head) (pc : PcWord) (vd : VReg) (w : Nat) (r : Nat → Nat × FlagSet) (s : State) : Prop :=
  Safety.Completes i h 1 pc s fun t =>
    Safety.Elements vd w (fun i => i ∈ Safety.enabled h s) (fun i => (r i).1) s t ∧
      t.st.flags = s.st.flags ||| ((Safety.enabled h s).map fun i => (r i).2).foldl (· ||| ·) 0 ∧ Safety.VecFrame s t

/-- The enabled bits below the lane count of a predicate take new values; p0 keeps reading all ones (R19, R135). -/
def Safety.PredLanes (h : Head) (pd : PReg) (f : Nat → Bool) (s t : State) : Prop :=
  (∀ i, i < 2048 → (t.cur.pred pd).getLsbD i =
    if pd = 0 then true else if i ∈ Safety.enabled h s then f i else (s.cur.pred pd).getLsbD i) ∧
    ∀ q, q ≠ pd → t.cur.pred q = s.cur.pred q

/-- The values of the lanes listed, with the identity of a reduction for those that the guard disables (R146). -/
def Safety.laneValues (h : Head) (va : VReg) (w ident : Nat) (ls : List Nat) (s : State) : List Nat :=
  ls.map fun i => if (s.laneMask h).getLsbD i then Safety.el s va w i else ident

/-- A row of DEV memory as the executing core's accesses read it: its own line, else the home's (R254). -/
def Safety.seen (s : State) (row : Nat) : Nat :=
  match tblFind s.cur.ways row with
  | some l => l.data.toNat
  | none => s.homeRow (some s.curPart) row

/-- What the executing core reads of a row is sound: its own line is, or the row at its home (R339, R372). -/
def Safety.Sound (s : State) (row : Nat) : Prop :=
  match tblFind s.cur.ways row with
  | some l => s.cur.wayBad row l = false
  | none => s.homeBad (some s.curPart) row = false

/-- No line of the executing core is stale: its clean bytes are those of its home (R254). -/
def Safety.Fresh (s : State) : Prop :=
  ∀ r l, tblFind s.cur.ways r = some l →
    mergeBytes 128 (s.homeRow (some s.curPart) r) l.data.toNat l.dirty.toNat = l.data.toNat

/-- The executing core holds no bytes of a row that its home lacks. -/
def Safety.Clean (s : State) (row : Nat) : Prop := ∀ l, tblFind s.cur.ways row = some l → l.dirty = 0

/-- No partition's L2 but one holds bytes of a row. -/
def Safety.PrivateTo (part : Nat) (s : State) (row : Nat) : Prop :=
  ∀ e ∈ (s.die (homeDie (row * 128))).l2, e.1 % 2 ^ 48 = row → e.1 / 2 ^ 48 = part
def Safety.Private (s : State) (row : Nat) : Prop := Safety.PrivateTo s.curPart s row

/-- No L2 holds bytes of a row that memory lacks. -/
def Safety.OffL2 (s : State) (row : Nat) : Prop := ∀ e ∈ (s.die (homeDie (row * 128))).l2, e.1 % 2 ^ 48 ≠ row

/-- Neither the executing core nor any L2 holds bytes of a row that memory lacks. -/
def Safety.Settled (s : State) (row : Nat) : Prop := Safety.Clean s row ∧ Safety.OffL2 s row

/-- No ring has spilled records, which a write to its spill area would spoil (R209). -/
def Safety.Unspilled (s : State) : Prop := ∀ c ∈ s.cores, ∀ r ∈ c.2.rings, r.2.spill = []

/-- A translation that no write of the executing instruction can change: an open window's, or a buffer's (R202, R321). -/
def Safety.Steady (s : State) (va n : Nat) (k : Access) (e : TlbEntry) : Prop :=
  s.covered s.curCore s.issueCycle va n k = some e ∨
    s.covered s.curCore s.issueCycle va n k = none ∧ e.allows k = true ∧ s.buffered s.curCore s.curCtx va = some e

/-- A cluster without the frames that a write at a home invalidates and the events that it raises. -/
def Safety.quiet (c : Cluster) : Cluster :=
  { c with groups := c.groups.map fun g => { g with frames := [] }, monitors := c.monitors.map fun m => { m with event := none } }

/-- A die without its L2. -/
def Safety.offL2 (d : Die) : Die := { d with l2 := [], l2ue := [] }

/-- The device without what a write at a home may change: memory, rows held in L2, marks of uncorrectable data, the scanned
frames, pending scans, frames under fetch, monitor events and the count of free values. -/
def Safety.offHome (s : State) : State :=
  { s with
    mem := [], dies := [], ue := [], scanned := [], free := 0
    ctxs := tblMap s.ctxs fun c => { c with scans := [] }
    clusters := tblMap s.clusters Safety.quiet }

/-- The executing core without its cache and the marks of uncorrectable pool rows, which a filled line clears. -/
def Safety.offWays (c : Core) : Core := { c with ways := [], wayClock := 0, poolUe := [] }

/-- A core without the contents of its rings' spilled records, and the state without those of every core. -/
def Safety.offSpill (c : Core) : Core := { c with rings := tblMap c.rings fun r => { r with spill := [] } }
def Safety.offSpills (s : State) : State := { s with cores := tblMap s.cores Safety.offSpill }

/-- Writes at homes apart, nothing changes but what the functions take away; where records stand spilled, such a write may
change their contents too (R209). -/
structure Safety.KeptHomeBut (die : Die → Die) (dev : State → State) (core : Core → Core) (stream : Stream → Stream) (s t : State) :
    Prop where
  sound : ∀ n ∈ t.cur.poolUe, n ∈ s.cur.poolUe
  dies : ∀ d, die (Safety.offL2 (t.die d)) = die (Safety.offL2 (s.die d))
  spilled : Safety.Kept (fun u => dev (Safety.offHome u)) (fun c => core (Safety.offWays c)) stream (Safety.offSpills s) (Safety.offSpills t)
  unspilled : Safety.Unspilled s → Safety.Kept (fun u => dev (Safety.offHome u)) (fun c => core (Safety.offWays c)) stream s t

/-- The same, of every die whole. -/
abbrev Safety.KeptHome (dev : State → State) (core : Core → Core) (stream : Stream → Stream) (s t : State) : Prop :=
  Safety.KeptHomeBut id dev core stream s t

/-- What the executing core reads of every row stays, but for the addresses `own`, and memory stays where neither the core nor
an L2 held anything dirty. -/
def Safety.UndisturbedBut (own : Nat → Prop) (s t : State) : Prop :=
  (Safety.Fresh s → ∀ r, Safety.Private s r → (∀ a, a / 128 = r → ¬ own a) → Safety.seen t r = Safety.seen s r) ∧
    ∀ a, ¬ own a → Safety.Settled s (a / 128) → memRead t.mem a = memRead s.mem a
def Safety.Undisturbed (s t : State) : Prop := Safety.UndisturbedBut (fun _ => False) s t

/-- An instruction that reaches memory through the core's cache and stores to the addresses `own` at most: what the core
reads of other rows stays; of other addresses, only lines that were dirty reach memory; and nothing else changes but what
`core` takes away of the executing core. Without dirty lines, an instruction that stores nothing changes no state of the
device. -/
structure Safety.Cached (core : Core → Core) (own : Nat → Prop) (s t : State) : Prop where
  undisturbed : Safety.UndisturbedBut own s t
  rest : Safety.KeptHome id core id s t
  quiet : (∀ e ∈ s.cur.ways, e.2.dirty = 0) → (∀ a, ¬ own a) → { t with cores := [] } = ({ s with cores := [] } : State)

/-- Rows of pools may have changed, and nothing else has. -/
structure Safety.PoolFrame (s t : State) : Prop where
  device : { t with cores := [] } = ({ s with cores := [] } : State)
  others : ∀ c, c ≠ s.curCore → ({ t.core c with pool := [], poolUe := [] } : Core) = { s.core c with pool := [], poolUe := [] }
  core : ({ Safety.coreRest s.curK t.cur with pool := [], poolUe := [] } : Core) =
    { Safety.coreRest s.curK s.cur with pool := [], poolUe := [] }
  stream : Safety.streamRest t.st = Safety.streamRest s.st

/-- The core that a POOL (1) or CLUSTER (2) operand reaches, which must hold the slice of the executing core (R51, R238). -/
def Safety.Reaches (s : State) (space : BitVec 2) (off : BitVec 24) (core : Nat) : Prop :=
  space = 1 ∧ core = s.curCore ∨
    space = 2 ∧ core = s.curCore / 4 * 4 + off.toNat / 2 ^ 22 % 4 ∧ s.cur.slice.isSome = true ∧
      (s.core core).slice = s.cur.slice

/-- The physical bank of a scratchpad address under a rotation code (R125), and its row. -/
def Safety.scrBank (rot : BitVec 4) (a : Nat) : Nat := rotBank rot.toNat (a / 2 ^ 16 % 64) (a / 2 ^ 7 % 512)
def Safety.scrRow (a : Nat) : Nat := a / 2 ^ 7 % 512

/-- The rows that the guard enables, ascending (R198). -/
def Safety.rowsOn (h : Head) (s : State) : List Nat := (List.range 16).filter fun j => (s.laneMask h).getLsbD j

/-- A `pool` has ended with a status, in rd and in `%pool` (R118). -/
def Safety.PoolStatusIs (rd : Reg) (n : Nat) (t : State) : Prop :=
  t.rx rd = (if rd = 0 then 0 else BitVec.ofNat 64 n) ∧ t.cur.poolStatus = BitVec.ofNat 3 n ∧ t.cur.poolBusy = false

/-- The core without the status of its last `pool`. -/
def Safety.offStatus (c : Core) : Core := { c with poolStatus := 0, poolBusy := false }

/-- The instruction completes, writes rd, and changes one part of its core or cluster at most, which the functions take
away. -/
def Safety.Gives (i : Instr) (h : Head) (pc : PcWord) (rd : Reg) (v : W64) (dev : State → State) (core : Core → Core)
    (s : State) (P : State → Prop) : Prop :=
  Safety.Completes i h 1 pc s fun t =>
    t.rx rd = (if rd = 0 then 0 else v) ∧ P t ∧ Safety.Kept dev core id s t ∧ Safety.RegsBut rd s t ∧ Safety.MemSame s t

/-- Clusters change in one part at most, which `f` takes away, and only the executing core's. -/
def Safety.ClusterBut (f : Cluster → Cluster) (s t : State) : Prop :=
  (∀ w, w ≠ s.curCore / 4 → t.cluster w = s.cluster w) ∧ f (t.cluster (s.curCore / 4)) = f (s.cluster (s.curCore / 4))

/-- A waiting head of another stream has completed: it stands at its next PC and its retire count has risen. -/
def Safety.Completed (m : Nat) (k : StreamId) (s t : State) : Prop :=
  s.nextPcOf m k = some (t.stream m k).pc ∧ (t.stream m k).rc = (s.stream m k).rc + 1 ∧ (t.stream m k).wait = none ∧
    (t.stream m k).issued = false

/-- The row of an atomic at its home once the executing core's copy is written back (R263). -/
def Safety.mergedRow (s : State) (row : Nat) : Nat :=
  match tblFind s.cur.ways row with
  | some l => mergeBytes 128 (s.homeRow (some s.curPart) row) l.data.toNat l.dirty.toNat
  | none => s.homeRow (some s.curPart) row

/-- The scope entry is valid, and its release has no posted write to flush. -/
def Safety.ScopeReady (s : State) (scope : BitVec 5) : Prop :=
  (s.scopeEntry s.curCtx scope.toNat s.curCore).valid = true ∧
    (scope = 31 → s.cur.postedHost = false ∧ s.cur.postedPeer = false)

/-- The payload of a `wenq` lies in sound SCR banks (R212). -/
def Safety.PayloadReady (s : State) (src : W64) (n : Nat) : Prop :=
  src.toNat < 2 ^ 22 ∧ src.toNat + n ≤ 2 ^ 22 ∧
    ∀ i, i < n → roleOf s.cur.roles ((src.toNat + i) / 2 ^ 16) = 5 ∧
      s.cur.poolUe.contains ((src.toNat + i) / 2 ^ 16 * 512 + (src.toNat + i) / 128 % 512) = false

/-- The byte of a core's pool at an address. -/
def Safety.poolByte (c : Core) (a : Nat) : Nat := c.poolRow (a / 2 ^ 16) (a / 128 % 512) / 2 ^ (8 * (a % 128)) % 256

/-- A head that has issued completes: it retires, its pushes are made, and the state satisfies `P`. -/
def Safety.Finishes (i : Instr) (h : Head) (pc : PcWord) (s : State) (P : State → Prop) : Prop :=
  ∃ t, Machine.exec i s = .next t ∧ t.st.pc = pc ∧ t.st.rc = s.st.rc + 1 ∧ t.st.issued = false ∧ t.st.wait = none ∧
    (∀ q, t.cur.tokens q = s.cur.tokens q + (pushQueues s.curK h).count q) ∧ P t

/-- The executing core holds no dirty line. -/
def Safety.AllClean (s : State) : Prop := ∀ e ∈ s.cur.ways, e.2.dirty = 0

/-- The stream's part of the slice ends: the head retires, the stream is YIELDED, it has no frames and is out of its fetch
group, its registers stay, its tokens move, and nothing else changes but what it releases to memory, the end and the current of a
gang that has ended, and the action that is recorded; memory stays where the core caches no line (R102, R227, R306). -/
def Safety.EndsPart (i : Instr) (h : Head) (s t : State) : Prop :=
  Machine.exec i s = .next t ∧ t.st.mode = .yielded ∧ t.st.pc = s.st.pc ∧ t.st.rc = s.st.rc + 1 ∧ t.st.iq = [] ∧ t.st.attached = false ∧
    (∀ r, t.rx r = s.rx r) ∧ (s.cur.ways = [] → Safety.MemSame s t) ∧ Safety.Undisturbed s t ∧
    (∀ q, t.cur.tokens q + (popQueues s.curK h).count q = s.cur.tokens q + (pushQueues s.curK h).count q) ∧
    (∀ i, ({ t.cluster i with currentUntil := 0, monitors := [], groups := [] } : Cluster) =
      { s.cluster i with currentUntil := 0, monitors := [], groups := [] }) ∧
    Safety.KeptHome
      (fun u => { u.setCtx s.curCtx { u.ctx s.curCtx with action := none } with
        clusters := [], slices := tblMap u.slices fun v => { v with current := [], ended := none }
        pack := { u.pack with returns := [], rises := [] } })
      id (fun st => { st with mode := .idle, attached := false }) s t

/-- A queue whose head's header is captured takes one more entry at its end; the other queues stay (R294, R297). -/
def Safety.Enqueued (q addr : Nat) (s t : State) : Prop :=
  t.queue q = { s.queue q with entries := (s.queue q).entries ++ [(addr, 0)] } ∧ ∀ p, p ≠ q → t.queue p = s.queue p

/-- A queue takes no further `enq`: it holds 64 slices, or held enqueues wait for it (R313, R315). -/
def Safety.Full (s : State) (q : Nat) : Prop :=
  64 ≤ (s.queue q).entries.length ∨ ∃ a, (q, a) ∈ (s.die (q / 512 % 2)).holds

/-- The device without its queues. -/
def Safety.offQueues (s : State) : State := { s with queues := [] }

/-- A raw range holds the bytes of an access and has its right (R387). -/
def Safety.Allowed (s : State) (atomics : Bool) (a n r : Nat) : Prop :=
  let e := tblGet (0, 0, false, false, false) (s.part s.curPart).raw r
  e.1.toNat * 4096 ≤ a ∧ a + n ≤ (e.2.1.toNat + 1) * 4096 ∧ (if atomics then e.2.2.2.1 else e.2.2.2.2) = true

/-- The port of a raw range: true for the peer port. -/
def Safety.portOf (s : State) (r : Nat) : Bool := (tblGet (0, 0, false, false, false) (s.part s.curPart).raw r).2.2.1

/-- One transaction more stands on a port, and the rest of the fabric is as it was (R382). -/
def Safety.Sent (peer : Bool) (o : PortOp) (s t : State) : Prop :=
  t.fabric = if peer then { s.fabric with peer := s.fabric.peer ++ [o] } else { s.fabric with host := s.fabric.host ++ [o] }

/-- The head sends one read of a unit on a port, has issued, and waits for the answer; nothing else changes (R382, R383). -/
def Safety.ReadsOut (i : Instr) (e : TlbEntry) (va n : Nat) (s : State) : Prop :=
  ∃ t o, Machine.exec i s = .next t ∧ t.curCore = s.curCore ∧ t.curK = s.curK ∧ t.st.outs = [o] ∧ o.peer = (e.cls == 2) ∧
    o.bus = e.busOf va ∧ o.len = n ∧ o.atomic = none ∧ o.va = va ∧ o.sent = s.time ∧
    t.st.wait = some { kind := .outbound, since := s.cyc, limit := 0 } ∧ t.st.issued = true ∧ t.st.pc = s.st.pc ∧ t.st.rc = s.st.rc ∧
    (∀ r, t.rx r = s.rx r) ∧ Safety.MemSame s t ∧ Safety.TokensHeld s t ∧ Safety.Sent (e.cls == 2) (.read (e.busOf va) n) s t ∧
    Safety.Kept (fun u => { u with fabric := {} }) id id s t

/-- Of the step at place `p` of a head's work, the answer of the link stands in the head's record, and all that is left to do is to
take it (R382). -/
def Safety.Answered (p : Nat) (e : TlbEntry) (c : Completion) (s : State) : Prop :=
  tblFind s.st.notes (4 * p) = none ∧ tblFind s.st.notes (4 * p + 1) = some (.page e) ∧ e.cls ≠ 0 ∧
    tblFind s.st.notes (4 * p + 2) = some (.answer c)

/-- A core without its pool, and the state without those of every core. -/
def Safety.offRows (c : Core) : Core := { c with pool := [], poolUe := [] }
def Safety.offPools (s : State) : State := { s with cores := tblMap s.cores Safety.offRows }

/-- An instruction that reaches memory through the core's cache and stores to the addresses `own` at most, and may write rows of
the pools of several cores; nothing else changes. -/
structure Safety.CachedPools (own : Nat → Prop) (s t : State) : Prop where
  undisturbed : Safety.UndisturbedBut own s t
  rest : Safety.KeptHome id id id (Safety.offPools s) (Safety.offPools t)
  quiet : (∀ e ∈ s.cur.ways, e.2.dirty = 0) → (∀ a, ¬ own a) → { t with cores := [] } = ({ s with cores := [] } : State)

/-- A record of `n` words that the device appends to a ring in the memory of a context, written through translations that a die
holds: it stands at the tail, and the tail is one more; a ring without room, and a descriptor that is invalid or of another
record size, takes nothing; and while the ring serves another append, this one waits there (R213). -/
def Safety.Appends (use : DevUse) (part d x desc z n : Nat) (word : Nat → Nat) (s t : State) : Prop :=
  let a (words : List Nat) : DevAppend := { use := use, space := some (d, x), part := some part, desc := desc, z := z, words := words }
  if s.ringServes (a []) then
    Safety.MemSame s t ∧ t.fabric = s.fabric ∧ ∃ words, t.heldAppends = s.heldAppends ++ [a words] ∧ words.length = n ∧
      ∀ j, j < n → words.getD j 0 % 2 ^ 64 = word j % 2 ^ 64
  else t.heldAppends = s.heldAppends ∧
    match s.ringDesc (some (d, x)) (some part) desc with
    | none => Safety.MemSame s t
    | some (base, z', k, tail, head) =>
      if z' = z ∧ (1 : Int) ≤ 2 ^ k - ((tail : Int) - head) then
        let stands (va pa : Nat) : Prop := pa % 8 = 0 ∧ Safety.PrivateTo part s (pa / 128) ∧
          ∃ e, tlbFind (s.die d).tlb x (va % 2 ^ 56) = some e ∧ e.w = true ∧ e.cls = 0 ∧ e.phys (va % 2 ^ 56) = pa
        ∀ p pt : Nat, (∀ j, j < n → stands (base + tail % 2 ^ k * (8 * 2 ^ z) + 8 * j) (p + 8 * j)) → stands (desc + 16) pt →
          (p + 8 * n ≤ pt ∨ pt + 8 ≤ p) →
            (∀ j, j < n → t.homeRead (some part) (p + 8 * j) 8 = word j % 2 ^ 64) ∧
              t.homeRead (some part) pt 8 = (tail + 1) % 2 ^ 64 ∧ t.fabric = s.fabric ∧
              ∀ a, ¬ (p ≤ a ∧ a < p + 8 * n) → ¬ (pt ≤ a ∧ a < pt + 8) → Safety.OffL2 s (a / 128) → memRead t.mem a = memRead s.mem a
      else Safety.MemSame s t

/-- A record of the fault mailbox of a partition (R338): it stands at the tail of the ring, with the tail one more and the event bit
set, or waits there for the appends before it; where the partition has no mailbox, its descriptor is invalid or the ring is full, the
record is dropped and counted. -/
def Safety.Mailed (part : Nat) (word : Nat → Nat) (s t : State) : Prop :=
  let q := s.part part
  let desc := q.mbox.toNat
  let a (words : List Nat) : DevAppend :=
    { use := .mailbox part, space := none, part := some part, desc := desc, z := 2, words := words }
  let dropped := (t.part part).mlost = (if q.mlost = BitVec.allOnes 32 then q.mlost else q.mlost + 1) ∧
    t.heldAppends = s.heldAppends ∧ Safety.MemSame s t
  if q.mbox = 0 then dropped
  else if s.ringServes (a []) then
    Safety.MemSame s t ∧ ∃ words, t.heldAppends = s.heldAppends ++ [a words] ∧ words.length = 4 ∧
      ∀ j, j < 4 → words.getD j 0 % 2 ^ 64 = word j % 2 ^ 64
  else
    match s.ringDesc none (some part) desc with
    | none => dropped
    | some (base, z, k, tail, head) =>
      if z = 2 ∧ (1 : Int) ≤ 2 ^ k - ((tail : Int) - head) then
        let p := base + tail % 2 ^ k * 32
        p + 32 ≤ devTop → (p + 32 ≤ desc + 16 ∨ desc + 24 ≤ p) → Safety.PrivateTo part s (p / 128) →
          Safety.PrivateTo part s ((desc + 16) / 128) →
            t.heldAppends = s.heldAppends ∧ (∀ j, j < 4 → t.homeRead (some part) (p + 8 * j) 8 = word j % 2 ^ 64) ∧
              t.homeRead (some part) (desc + 16) 8 = (tail + 1) % 2 ^ 64 ∧ (tblGet 0 (t.part part).events 0).getLsbD 1 = true ∧
              ∀ a, ¬ (p ≤ a ∧ a < p + 32) → ¬ (desc + 16 ≤ a ∧ a < desc + 24) → Safety.OffL2 s (a / 128) →
                memRead t.mem a = memRead s.mem a
      else dropped

/-- In record mode, an event appends its record to the log of its context, unless the log has overflowed; a log that is full, or
whose descriptor is invalid, overflows (R354). `d` is the die whose translations reach the log. -/
def Safety.Logged (x d type who stream piece pos data : Nat) (s t : State) : Prop :=
  let c := s.ctx x
  let desc := c.replayLog.toNat * 64
  let a : DevAppend := { use := .log x, space := some (d, x), part := some c.part, desc := desc, z := 1, words := [] }
  let fits := ∃ base k, ∃ tail head : Nat, s.ringDesc (some (d, x)) (some c.part) desc = some (base, 1, k, tail, head) ∧
    (1 : Int) ≤ 2 ^ k - ((tail : Int) - head)
  c.replayMode = 1 → c.replayOvf = false →
    Safety.Appends (.log x) c.part d x desc 1 2
      (fun j => if j = 0 then type + who % 2 ^ 8 * 2 ^ 8 + stream % 4 * 2 ^ 16 + piece % 16 * 2 ^ 18 + pos % 2 ^ 40 * 2 ^ 24 else data) s t ∧
    (s.ringServes a = false → ¬ fits → (t.ctx x).replayOvf = true)

/-- Word `j` of a stream's trace frame: its head, its time, and its records (R349). -/
def Safety.frameWord (s : State) (core k x fseq : Nat) (recs : List (Nat × Nat × Nat)) (j : Nat) : Nat :=
  let r (i : Nat) : Nat × Nat × Nat := recs.getD i (0, 0, 0)
  if j = 0 then
    recs.length + s.fabric.modNo.toNat * 2 ^ 8 + core / 96 * 2 ^ 12 + core * 2 ^ 16 + k * 2 ^ 24 + x * 2 ^ 26 + fseq % 2 ^ 32 * 2 ^ 32
  else if j = 1 then (r 0).1
  else if j - 2 < recs.length then
    ((r (j - 2)).1 - (r (j - 3)).1) % 2 ^ 16 * 2 ^ 48 + (r (j - 2)).2.1 % 2 ^ 8 * 2 ^ 40 + (r (j - 2)).2.2 % 2 ^ 40
  else 0

/-- The buffers of cores, clusters and dies drop a context's translations that satisfy a test, and change in nothing else that
the functions leave (R321, R325). -/
structure Safety.Drops (x : Nat) (f : TlbEntry → Prop) (core : Core → Core) (die : Die → Die) (s t : State) : Prop where
  cores : ∀ m o, o ∈ (t.core m).tlb ↔ o ∈ (s.core m).tlb ∧ ¬ (o.1 = x ∧ f o.2)
  clusters : ∀ i o, o ∈ (t.cluster i).tlb ↔ o ∈ (s.cluster i).tlb ∧ ¬ (o.1 = x ∧ f o.2)
  dies : ∀ d o, o ∈ (t.die d).tlb ↔ o ∈ (s.die d).tlb ∧ ¬ (o.1 = x ∧ f o.2)
  core : ∀ m, core { t.core m with tlb := [] } = core { s.core m with tlb := [] }
  cluster : ∀ i, Safety.quiet { t.cluster i with tlb := [] } = Safety.quiet { s.cluster i with tlb := [] }
  die : ∀ d, die { t.die d with tlb := [], walks := [] } = die { s.die d with tlb := [], walks := [] }

/-- The device without its cores, clusters, dies and contexts. -/
def Safety.offAgents (s : State) : State := { s with cores := [], clusters := [], dies := [], ctxs := [] }

/-- A stream's open trace frame goes out to the trace ring of its context (R348, R349). -/
def Safety.FrameOut (core k x : Nat) (fseq : Nat) (recs : List (Nat × Nat × Nat)) (s t : State) : Prop :=
  Safety.Appends .trace (s.ctx x).part (core / 96) x ((s.ctx x).traceDesc.toNat * 64) 3 8 (Safety.frameWord s core k x fseq recs) s t

/-- Of the contexts, one changes its trace sources, and only one source of them; a write at a home may mark pending scans. -/
def Safety.SourceIs (x key : Nat) (src : TraceSrc) (s t : State) : Prop :=
  tblGet {} (t.ctx x).trace key = src ∧ (∀ k, k ≠ key → tblGet {} (t.ctx x).trace k = tblGet {} (s.ctx x).trace k) ∧
    ({ t.ctx x with trace := [], scans := [] } : Ctx) = { s.ctx x with trace := [], scans := [] } ∧
    ∀ y, y ≠ x → ({ t.ctx y with scans := [] } : Ctx) = { s.ctx y with scans := [] }

/-- A context's source writes a trace record of a class, where the context traces that class and the source's open frame can take it
(not its sixth, and less than 10,000 ns and 65,536 ns after its first and its last); else its open frames stay (R348 to R350). -/
def Safety.Recorded (x key cls type pay : Nat) (s t : State) : Prop :=
  let src : TraceSrc := tblGet {} (s.ctx x).trace key
  (Safety.Untraced x cls s → (t.ctx x).trace = (s.ctx x).trace) ∧
    ((s.ctx x).traceEn = true → (s.ctx x).traceCls.getLsbD cls = true → src.recs.length < 5 →
      (∀ r ∈ src.recs.head?, s.time < r.1 + 10000) → (∀ r ∈ src.recs.getLast?, s.time ≤ r.1 + 65535) →
        Safety.SourceIs x key { src with recs := src.recs ++ [(s.time, type, pay)] } s t)

/-- A stream of a core that holds an ordinary slice of a context that has not halted has taken a trap: the head does not
retire, the context's halt line rises with it, and nothing else changes but what the function takes away of the device (R35, R38,
R329, R334). -/
def Safety.TrapsAt (m : Nat) (k : StreamId) (code : TrapCode) (faddr : Option Nat) (detail : Nat) (dev : State → State)
    (s t : State) : Prop :=
  ∃ tr : Trap, (t.stream m k).trap = some tr ∧ tr.code = code ∧ (∀ n, faddr = some n → tr.faddr = BitVec.ofNat 64 n) ∧
    tr.detail = detail ∧ (t.stream m k).pc = (s.stream m k).pc ∧ (t.stream m k).rc = (s.stream m k).rc ∧
    (∀ r, (t.stream m k).reg r = (s.stream m k).reg r) ∧ Safety.MemSame s t ∧ (∀ q, (t.core m).tokens q = (s.core m).tokens q) ∧
    (t.ctx (s.ctxOf m)).halt = some s.time ∧ (t.ctx (s.ctxOf m)).cause = some (.stream m k, tr) ∧
    Safety.KeptAt m k (fun u => dev (Safety.offHalt (s.ctxOf m) (.stream m k) u)) (Safety.offWaits (.stream m k)) Safety.offTrap s t

/-- A core holds an ordinary slice, no handler slice, whose context has not halted. -/
def Safety.OrdinaryAt (m : Nat) (s : State) : Prop :=
  ∃ v, s.sliceOf m = some v ∧ v.handler = false ∧ (s.ctx v.ctx).halt = none

/-- One package event (R373): its record is appended to the event ring and the package interrupt is raised, or it is
counted as lost; while the ring serves another append, it waits there (R213). -/
def Safety.Event (type core bank row w1 w2 : Nat) (s t : State) : Prop :=
  let words := [type + core % 2 ^ 8 * 2 ^ 8 + bank % 2 ^ 6 * 2 ^ 16 + row % 2 ^ 32 * 2 ^ 32, w1 % 2 ^ 64, w2 % 2 ^ 32, s.time % 2 ^ 64]
  let a : DevAppend := { use := .event, space := none, part := none, desc := s.pack.evDesc.toNat, z := 2, words := words }
  if s.ringServes a then t = { s with heldAppends := s.heldAppends ++ [a] }
  else
    match s.devAppend none none s.pack.evDesc.toNat 2 words with
    | some u => t = u.notifyHost 2047
    | none => t = { s with pack := { s.pack with evLost := satInc s.pack.evLost } }

/-- The device but for its package and its clusters is as it was. -/
def Safety.PackOnly (s t : State) : Prop :=
  ({ t with pack := {}, clusters := [] } : State) = { s with pack := {}, clusters := [] }

/-- The clusters of a regulator have their clock stopped for some ns; the others are as they were. -/
def Safety.Stopped (g ns : Nat) (s t : State) : Prop :=
  ∀ i c, tblFind s.clusters i = some c →
    tblFind t.clusters i = some (if c.reg = g then { c with clockStop := max c.clockStop (s.time + ns) } else c)

/-- Every context that was live is DEAD and holds no slice (R293). -/
def Safety.AllDead (s t : State) : Prop :=
  (∀ x, x < 64 → (s.ctx x).live = true → (t.ctx x).mode = .dead) ∧
    ∀ n v, t.slice n = some v → v.ctx < 64 → (s.ctx v.ctx).live = false

/-- The package without what the end of slices changes: the current that returns, and the ballast that rises (R306, R370). -/
def Safety.offCurrent (p : Pack) : Pack := { p with regs := [], returns := [], rises := [] }

/-- A cluster without what the end of slices changes. -/
def Safety.offSlices (c : Cluster) : Cluster :=
  { c with joins := [], groups := [], monitors := [], xsems := [], tlb := [], bal := 0, currentUntil := 0 }

/-- Every live context has been killed: its queues are empty and its slices are unbound; the queues of the others stay, and so do
the package and the clusters as named, but for what the end of slices changes (R293). -/
structure Safety.Killed (pack : Pack) (cluster : Nat → Cluster) (s u : State) : Prop where
  dead : Safety.AllDead s u
  emptied : ∀ q, (s.queue q).ctx.toNat < 64 → (s.ctx (s.queue q).ctx.toNat).live = true →
    (u.queue q).entries = [] ∧ (u.queue q).head = none
  others : ∀ q, (s.ctx (s.queue q).ctx.toNat).live = false → u.queue q = s.queue q
  pack : Safety.offCurrent u.pack = Safety.offCurrent pack
  clusters : ∀ i, Safety.offSlices (u.cluster i) = Safety.offSlices (cluster i)
  control : u.control = s.control ∧ u.time = s.time

/-- For an agent of a die, a span of a context's virtual addresses stands on DEV pages at consecutive physical addresses, with a right. -/
def Safety.At (s : State) (d x : Nat) (k : Access) (a n pa : Nat) : Prop :=
  pa % 128 = a % 128 ∧ ∀ j, j < n → s.engineEntry d x (a + j) k = some (pa + j)

/-- An engine can read the span, and its bytes are those of the number `v` (R2, R272). -/
def Safety.Holds (s : State) (d x a n v : Nat) : Prop :=
  v < 2 ^ (8 * n) ∧ ∃ pa, Safety.At s d x .read a n pa ∧ ∀ j, j < n → s.homeBad (some (s.ctx x).part) ((pa + j) / 128) = false ∧
    s.homeRead (some (s.ctx x).part) (pa + j) 1 = v / 2 ^ (8 * j) % 256

/-- The span's bytes are those of the number `v` after the engine's writes (R273). -/
def Safety.Takes (d x a n v : Nat) (s t : State) : Prop :=
  ∃ pa, Safety.At s d x .write a n pa ∧ ∀ j, j < n → t.homeRead (some (s.ctx x).part) (pa + j) 1 = v / 2 ^ (8 * j) % 256

/-- Bytes of memory that stand under none of the spans, given by address and length, stay. -/
def Safety.MemBut (d x : Nat) (spans : List (Nat × Nat)) (s t : State) : Prop :=
  ∀ b, Safety.OffL2 s (b / 128) → (∀ e ∈ spans, ∀ j, j < e.2 → s.engineEntry d x (e.1 + j) .write ≠ some b) → memRead t.mem b = memRead s.mem b

/-- An idle engine, stopped by no trap, whose first command that it may serve is `c`; the command's context is not traced, no
work that the engine has set aside can go on, and no unit has a command of the same layer record in commit (R219, R273, R284,
R329, R350). -/
structure Safety.NextCommand (s : State) (die slot : Nat) (c : VCmd) : Prop where
  home : c.die = die
  apart : s.layerBusy c = false
  aside : ∀ w ∈ (s.engine die slot).parked, ∃ v, Engine.workCmd w = some v ∧ s.engineServes v = false
  idle : (s.engine die slot).commit = none
  sound : (s.engine die slot).trap = none
  next : (s.engine die slot).fifo.find? s.engineServes = some c
  untraced : Safety.Untraced c.ctx 3 s

/-- The engine has prepared its next command and begun its commit with a status and an info value, and nothing but the
engine, memory, and what a write to memory may change is changed (R271, R273). -/
def Safety.Prepared (i : Instr) (die slot : Nat) (c : VCmd) (status info : Nat) (s : State) (P : State → VCommit → Prop) : Prop :=
  ∃ t k, Machine.exec i s = .next t ∧ (t.engine die slot).commit = some k ∧ k.cmd = { c with scope := none } ∧ k.begun = true ∧
    k.status = status ∧ k.info = info ∧ k.poison = false ∧ (t.engine die slot).fifo = (s.engine die slot).fifo.erase c ∧
    (∀ d e, (d, e) ≠ (die, slot) → t.engine d e = s.engine d e) ∧ P t k

/-- The spans of a frame that a codec engine writes hold its header, the samples of the rows of its two planes, and the entries of
its blocks in the two tensors: those of concealed and intra blocks, and those of inter blocks, from their vectors and their
residual samples (R274, R276 to R278). -/
def Safety.Shown (d : Decoded) (v : VStream) (frame mvt ent : Nat) (spans : List (Nat × Nat × Nat)) : Prop :=
  let w := d.w.toNat
  let ht := d.ht.toNat
  let nbx := (w + 15) / 16
  let bytes := if d.depth = 8 then 1 else 2
  let bp := (nbx + 31) / 32 * 32
  let lp := (w * bytes + 127) / 128 * 128
  let b2n (b : Bool) : Nat := if b then 1 else 0
  let block (bx by' : Nat) : BlockInfo := d.blocks.getD (by' * nbx + bx) {}
  let sample (x y : Nat) : Nat :=
    (if (block (x / 16) (y / 16)).concealed then
      match v.before d with
      | some p => p.lumaAt x y
      | none => 2 ^ (d.depth - 1)
    else d.luma / 2 ^ (16 * (y * w + x))) % 2 ^ d.depth
  let cn := 2 * ((w + 1) / 2)
  let chroma (x y : Nat) : Nat :=
    (if (block (x / 2 * 2 / 16) (y * 2 / 16)).concealed then
      match v.before d with
      | some p => p.chromaAt x y
      | none => 2 ^ (d.depth - 1)
    else if d.form = .mono then 2 ^ (d.depth - 1)
    else d.chroma / 2 ^ (16 * (y * cn + x))) % 2 ^ d.depth
  (frame, 128, w + ht * 2 ^ 16 + d.depth * 2 ^ 32 + b2n (v.before d).isNone * 2 ^ 36 + b2n (d.blocks.any fun b => b.concealed) * 2 ^ 37 +
      b2n d.filmGrain * 2 ^ 38 + v.outputs % 2 ^ 64 * 2 ^ 64 + mvt * 2 ^ 128 + ent * 2 ^ 192 + (bp + lp * 2 ^ 16) * 2 ^ 256) ∈ spans ∧
    (∀ y, y < ht → ∃ z, (frame + 0x1000 + lp * y, w * bytes, z) ∈ spans ∧
      ∀ x, x < w → z / 2 ^ (8 * bytes * x) % 2 ^ (8 * bytes) = if d.depth = 8 then sample x y else sample x y * 64) ∧
    (∀ y, y < (ht + 1) / 2 → ∃ z, (frame + 0x1000 + lp * 16 * ((ht + 15) / 16) + lp * y, cn * bytes, z) ∈ spans ∧
      ∀ x, x < cn → z / 2 ^ (8 * bytes * x) % 2 ^ (8 * bytes) = if d.depth = 8 then chroma x y else chroma x y * 64) ∧
    ∀ y, y < (ht + 15) / 16 → ∃ m e, (mvt + 4 * bp * y, 4 * nbx, m) ∈ spans ∧ (ent + 4 * bp * y, 4 * nbx, e) ∈ spans ∧
      ∀ x, x < nbx →
        let b := block x y
        let motion := m / 2 ^ (32 * x) % 2 ^ 32
        let energy := e / 2 ^ (32 * x) % 2 ^ 32
        motion < 2 ^ 30 ∧ (b.concealed = true → motion = 2 ^ 29 ∧ energy = 2 ^ 32 - 1) ∧
          (b.concealed = false → b.intra = true → motion = 2 ^ 28 ∧ (v.before d = none → energy = 2 ^ 32 - 1) ∧
            ∀ p, v.before d = some p → energy = ((List.range 16).map fun j => ((List.range 16).map fun i =>
              if 16 * x + i < w ∧ 16 * y + j < ht then
                ((sample (16 * x + i) (16 * y + j) : Int) - p.lumaAt (16 * x + i) (16 * y + j)).natAbs ^ 2
              else 0).sum).sum / 4 ^ (d.depth - 8) % 2 ^ 32) ∧
          (b.concealed = false → b.intra = false →
            (let r (i j : Nat) : Int := signedBytes 2 (d.residual / 2 ^ (16 * ((16 * y + j) * w + (16 * x + i))) % 2 ^ 16)
              let there (i j : Nat) : Prop := 16 * x + i < w ∧ 16 * y + j < ht
              (∀ i j, i < 16 → j < 16 → there i j → (r i j).natAbs < 2 ^ d.depth) →
                energy = ((List.range 16).map fun j => ((List.range 16).map fun i =>
                  if 16 * x + i < w ∧ 16 * y + j < ht then (r i j).natAbs ^ 2 else 0).sum).sum / 4 ^ (d.depth - 8) % 2 ^ 32) ∧
            ∀ p m q, v.before d = some p → d.preds.find? (fun q =>
                decide (q.x ≤ min (16 * x + 8) (w - 1)) && decide (min (16 * x + 8) (w - 1) < q.x + q.w) &&
                decide (q.y ≤ min (16 * y + 8) (ht - 1)) && decide (min (16 * y + 8) (ht - 1) < q.y + q.ht)) = some q →
              (q.list0 = some m ∨ q.list0 = none ∧ q.list1 = some m) →
              let dc := d.ord - p.ord
              let dr := (if m.longTerm then dc else d.ord - m.ref) * (if v.std = 2 then 2 else 1)
              let entry (z : Int) : Nat := ((max (-8191) (min 8191 (roundAway (z * dc * dr.sign) dr.natAbs))) % 2 ^ 14).toNat
              dr ≠ 0 → motion = entry m.dx + entry m.dy * 2 ^ 14)

/-- The quotient of two numbers rounded to the nearest integer, ties away from zero (R277, R281). -/
def Safety.Rounds (z n : Int) (k : Nat) : Prop :=
  2 * (z * k - n).natAbs ≤ k ∧ (2 * (z * k - n).natAbs = k → n.natAbs < (z * k).natAbs)

/-- What the change-mask unit finds at a tile (R280, R281): the blocks that it covers along one axis; its accumulated error, from the
tile-state word `S`; and whether the vectors of its blocks lie within the spread limit of one another. The tensors stand in the numbers
`m` and `e`, `bp` entries a row. -/
def Safety.Covers (t size halo blocks b : Nat) : Prop := b < blocks ∧ t * size ≤ b + halo ∧ b < (t + 1) * size + halo
def Safety.vectorAt (m bp bx by' lo : Nat) : Int := (BitVec.ofNat 14 (m / 2 ^ (32 * (by' * bp + bx)) / 2 ^ lo)).toInt
def Safety.tileError (l : Layer) (nbx nby bp e tx ty S : Nat) : Nat :=
  let bw := l.tw * 2 ^ l.ls / 16
  let bh := l.th * 2 ^ l.ls / 16
  let sum := ((List.range nby).map fun y => ((List.range nbx).map fun x =>
    if tx * bw ≤ x + l.halo ∧ x < (tx + 1) * bw + l.halo ∧ ty * bh ≤ y + l.halo ∧ y < (ty + 1) * bh + l.halo then
      e / 2 ^ (32 * (y * bp + x)) % 2 ^ 32
    else 0).sum).sum
  min (S % 2 ^ 48 + l.gain * sum / 256) (2 ^ 48 - 1)
def Safety.TileSpread (l : Layer) (nbx nby bp m tx ty : Nat) : Prop :=
  let bw := l.tw * 2 ^ l.ls / 16
  let bh := l.th * 2 ^ l.ls / 16
  ∀ x y x' y', Safety.Covers tx bw l.halo nbx x → Safety.Covers ty bh l.halo nby y → Safety.Covers tx bw l.halo nbx x' →
    Safety.Covers ty bh l.halo nby y' →
    (Safety.vectorAt m bp x y 0 - Safety.vectorAt m bp x' y' 0).natAbs ≤ l.lim ∧
      (Safety.vectorAt m bp x y 14 - Safety.vectorAt m bp x' y' 14).natAbs ≤ l.lim

/-- A decision of the unit for a tile (R281): REUSE with the offset of its own block's vector, or RECOMPUTE; `fresh` where the
frame refreshes the layer. -/
def Safety.Decided (l : Layer) (nbx nby bp m e : Nat) (fresh : Prop) (tx ty S : Nat) (d : TileDecision) : Prop :=
  let s := 2 ^ l.ls
  let error := Safety.tileError l nbx nby bp e tx ty S
  let reuse : Prop := ¬ fresh ∧ S.testBit 56 = false ∧ error ≤ l.thr ∧ Safety.TileSpread l nbx nby bp m tx ty ∧ S / 2 ^ 48 % 2 ^ 8 < l.rlim
  let own (lo : Nat) : Int := Safety.vectorAt m bp (tx * (l.tw * s / 16)) (ty * (l.th * s / 16)) lo
  d.tx = tx ∧ d.ty = ty ∧ (d.reuse = true ↔ reuse) ∧
    (reuse → Safety.Rounds d.ox (own 0) (4 * s) ∧ Safety.Rounds d.oy (own 14) (4 * s) ∧
      d.word = error + (S / 2 ^ 48 % 2 ^ 8 + 1) * 2 ^ 48 + 2 ^ 57) ∧
    (¬ reuse → d.ox = 0 ∧ d.oy = 0 ∧ d.word = 0)

/-- The appends of a MASK (R283): each tile's record, in raster order, to the ring of its kind of the core that the count of the
earlier tiles of its kind gives; then an end record to each ring, with the count of its tiles. -/
def Safety.MaskRecords (core nc rr ru idx : Nat) (ds : List TileDecision) (l : List (Nat × Nat × W64)) : Prop :=
  let ring (reuse : Bool) : Nat := if reuse then ru else rr
  let count (c r : Nat) : Nat := ((l.take ds.length).filter fun e => e.1 == c && e.2.1 == r).length
  let fin (c : Nat) (reuse : Bool) : Nat × Nat × W64 :=
    (c, ring reuse, BitVec.ofNat 64 (count c (ring reuse) % 2 ^ 24 + reuse.toNat * 2 ^ 24 + 2 ^ 25 + idx % 2 ^ 32 * 2 ^ 32))
  l.length = ds.length + (if ru = rr then nc else 2 * nc) ∧
    (∀ i d, ds[i]? = some d → l[i]? = some (core + ((ds.take i).filter fun f => f.reuse == d.reuse).length % nc, ring d.reuse,
      BitVec.ofNat 64 (d.tx + d.ty * 2 ^ 12 + d.reuse.toNat * 2 ^ 24 + (d.ox % 2 ^ 16).toNat * 2 ^ 32 + (d.oy % 2 ^ 16).toNat * 2 ^ 48))) ∧
    ∀ k, k < nc →
      (ru = rr → l[ds.length + k]? = some (fin (core + k) false)) ∧
      (ru ≠ rr → l[ds.length + 2 * k]? = some (fin (core + k) false) ∧ l[ds.length + 2 * k + 1]? = some (fin (core + k) true))

/-- The class of R346's table in which a cycle of a stream counts that issues nothing: the first of its rows that applies. The class
of a wait for the matrix engine while the head of its queue waits on a semaphore is the model's reading (log entry 45). -/
def Safety.headClass (c : Core) (core : Nat) (k : StreamId) : Nat :=
  let st := c.stream k
  let first (mask : Nat) : Nat := if mask.testBit 0 then 0 else if mask.testBit 2 then 2 else if mask.testBit 1 then 1 else 3
  let matrix : Nat :=
    match c.matrix.queue with
    | d :: _ => if d.swen = true ∧ d.waitSince.isSome = true ∧ d.semTaken = false then 0x10 + d.semw else 0x70
    | [] => 0x70
  if st.mode = .yielded then 0x7E
  else
    match (c.waiting k).map Waiting.kind with
    | some (.token pop room _) => if pop ≠ 0 then 0x04 + first pop else 0x08 + first room
    | some (.sem n _) => 0x10 + n
    | some (.xsem n _) => 0x50 + n
    | some (.ring d n) => if d = core then 0x60 + n else 0x02
    | some (.mon _) => 0x72
    | some (.join _) => 0x73
    | some (.dsync _) => 0x73
    | some .cbcast => 0x73
    | some .matrixQueue => matrix
    | some .matrixDone => matrix
    | some .poolTile => 0x70
    | some .accum => 0x70
    | some (.engineRoom _) => 0x71
    | some (.engineResult _) => 0x71
    | some .holdList => 0x71
    | some .regWait => 0x71
    | some (.idleCyc _) => 0x74
    | some (.idleUntil _) => 0x74
    | some (.mark _) => 0x75
    | some (.memRing _) => 0x02
    | some .forced => 0x02
    | some .outbound => 0x01
    | some .busy => 0x01
    | none => if st.hasFrame = false then 0x03 else if st.issued = true then 0x01 else 0x02

/-! ### Stop records (R38, R331 to R333) -/

/-- The code and the faddr of a trap, 0 where there is none. -/
def Safety.trapCode (t : Option Trap) : Nat := ((t.map fun t => t.code.code).getD 0)
def Safety.trapAddr (t : Option Trap) : Nat := ((t.map fun t => t.faddr.toNat).getD 0)

/-- Word `j` of the stop record of a stream that waits for no late trap (R38): its counts of tokens are those after every issued head
of the core has given its tokens back (R37). That the status word shows the state before the stop is the model's choice (log entry 33), and
so is the waitid of the waits for which R38 names none (log entry 32). -/
def Safety.streamStop (s : State) (m : Nat) (k : StreamId) (j : Nat) : Nat :=
  let c := s.core m
  let st := c.stream k
  let x := s.ctxOf m
  let waits := c.waiting k
  let back (q : Nat) : Nat := (allStreams.map fun i => (if popPrevQ i = some q then ((c.stream i).poppedAll).1 else 0) +
    (if popNextQ i = some q then ((c.stream i).poppedAll).2 else 0)).sum
  let replayed := if (s.ctx x).replayMode = 2 then 1 else 0
  let pops (q : Option Nat) : Nat :=
    match waits.map Waiting.kind, q with
    | some (.token pop _ _), some q => if pop.testBit q then 1 else 0
    | _, _ => 0
  let opcode : Nat :=
    match st.iq with
    | f :: _ =>
      if st.fetchTrap = true ∨ st.hasFrame = false then 0
      else if isRecord f.words then fld (f.words.getD 0 0) 47 8 else f.words.getD (st.pc.toNat % 8 + 1) 0 / 2 ^ 56
    | [] => 0
  let waitid : Nat :=
    match waits.map Waiting.kind with
    | some (.sem n _) => n
    | some (.xsem n _) => 64 + n
    | some (.ring _ n) => n
    | some (.memRing a) => a
    | some (.mon row) => row * 128
    | some (.join id) => id
    | some (.dsync level) => 0x100 + level
    | some .cbcast => 0x200
    | some (.mark n) => n
    | some .matrixQueue => 0x7F
    | some .matrixDone => 0x7F
    | some (.engineRoom h) => h
    | some (.engineResult h) => h
    | some .holdList => 0x7E
    | _ => 0
  ([1 + k.num * 2 ^ 8 + m * 2 ^ 10 + st.attached.toNat * 2 ^ 18 + replayed * 2 ^ 19 + c.stateOf k * 2 ^ 20 +
      Safety.trapCode st.trap * 2 ^ 24 + x * 2 ^ 32,
    st.rc.toNat, st.pc.toNat + opcode * 2 ^ 56,
    ((List.range 4).map fun q => (c.tokens q + back q) * 2 ^ (8 * q)).sum + st.issued.toNat * 2 ^ 32 + pops (popPrevQ k) * 2 ^ 33 +
      pops (popNextQ k) * 2 ^ 34,
    match st.trap with
    | some t => if t.code = .memFault ∧ t.resumable = true ∨ t.code = .memParam ∧ t.detail = 8 then t.offset else waitid
    | none => waitid,
    st.flags.toNat + st.rm.toNat * 2 ^ 7 + replayed * 2 ^ 10 + st.attached.toNat * 2 ^ 11 + c.stateOf k * 2 ^ 12 + st.last.toNat * 2 ^ 16,
    (if st.issued then 1 + st.ahead.length else 0) +
      (match waits with
       | some w => min (s.cyclesOf m - w.since) (2 ^ 32 - 1)
       | none => 0) * 2 ^ 32,
    Safety.trapAddr st.trap] : List Nat).getD j 0

/-- Word `j` of the record of a core's matrix engine that stands between units (R190, R332). Which command the record names where several
run is the model's choice (log entry 45). -/
def Safety.matrixStop (s : State) (m j : Nat) : Nat :=
  let e := (s.core m).matrix
  let all := e.running.toList ++ e.weights ++ e.queue
  let named : Option MCmd :=
    match e.trap, e.running.toList ++ e.weights, e.queue with
    | some _, _, _ => all.find? fun c => c.num == e.trapNum
    | none, c :: _, _ => some c
    | none, [], c :: _ => if c.waitSince.isSome = true ∧ c.semTaken = false then some c else none
    | none, [], [] => none
  ([2 + m * 2 ^ 10 + Safety.trapCode e.trap * 2 ^ 24 + s.ctxOf m * 2 ^ 32,
    (match named with
     | some c => c.seq % 2 ^ 16 + c.op * 2 ^ 16 + c.semTaken.toNat * 2 ^ 29
     | none => 0) + e.qlen * 2 ^ 24 + (if Safety.trapCode e.trap = 0x22 then e.group * 2 ^ 30 else 0),
    (named.map MCmd.progress).getD 0, Safety.trapAddr e.trap] : List Nat).getD j 0

/-- Word `j` of the record of a video engine for a context of which it works on a command that has its block, or holds no such work (R333). -/
def Safety.videoStop (s : State) (x d slot j : Nat) : Nat :=
  let e := s.engine d slot
  let remain := (e.fifo.filter fun v => v.ctx == x).length % 2 ^ 16
  let handle := d * 64 + (if slot < 4 then slot * 16 else if slot = 4 then 1 else (slot - 8) * 16 + 2)
  let words (core seq code phase progress : Nat) (t : Option Trap) : List Nat :=
    [3 + core * 2 ^ 10 + Safety.trapCode t * 2 ^ 24 + x * 2 ^ 32 + handle * 2 ^ 38, seq % 2 ^ 32 + code * 2 ^ 32 + phase * 2 ^ 40,
      progress % 2 ^ 32, Safety.trapAddr t, remain]
  (match e.workOf x with
   | some (some k, none) => words k.cmd.core k.cmd.seq k.code 1 k.progress none
   | some (some k, some (_, _, t)) => words k.cmd.core k.cmd.seq k.code 1 k.progress (some t)
   | some (none, some (v, code, t)) => words v.core v.seq code 0 0 (some t)
   | _ => words 0 0 0 0 0 none).getD j 0

/-! ### Matrix commands -/

/-- A core's engine executes a command that it has accepted, which has done nothing yet, may be signalled, and whose context is
not traced; no write of the core's live count is still to be seen (R124, R167, R168, R350). -/
structure Safety.Executes (s : State) (k : Nat) (c : MCmd) : Prop where
  executing : (s.core k).matrix.executing s.ev.n = some c
  whole : s.ev.flag = false
  runs : s.engineRuns k = true
  accepted : c.refusal = none
  begun : c.progress = 0 ∧ c.seen = [] ∧ c.outs = [] ∧ c.flags = 0 ∧ c.amax = 0 ∧ c.poison = false
  settled : ∀ j v, Pending.sr j 0x031 v ∉ (s.core k).pending
  signals : c.ssen = true → ((s.core k).sem c.sems).value.toNat < 0xFFFF
  untraced : Safety.Untraced (s.ctxOf k) 3 s

/-- The engine without its queues, counts and sticky flags: what the epilogue and the metadata registers hold (R184). -/
def Safety.epilogue (m : Matrix) : Matrix :=
  { m with queue := [], running := none, weights := [], accepted := 0, done := 0, aborted := 0, flags := 0, group := 0 }

/-- A core without the contents of its pool. -/
def Safety.offPool (c : Core) : Core := { c with pool := [], poolUe := [] }

/-- The executing command of a core completes: it leaves the engine, counts as done, signals its semaphore, leaves the sticky
flags and the epilogue state as named, and changes nothing but the contents of pools, the live count of its core, and what
`core` takes away of it (R168 to R170, R186). -/
def Safety.CommandEnds (k : Nat) (c : MCmd) (flags : BitVec 5) (state : Matrix → Matrix) (core : Core → Core) (s : State)
    (P : State → Prop) : Prop :=
  let e := (s.core k).matrix
  let v := (s.core k).sem c.sems
  ∃ t, Machine.exec .matrixCommandComplete s = .next t ∧
    (t.core k).matrix.queue = e.queue ∧ (t.core k).matrix.running = e.running.filter (fun d => d.num != c.num) ∧
    (t.core k).matrix.weights = e.weights.filter (fun d => d.num != c.num) ∧ (t.core k).matrix.done = e.done + 1 ∧
    (t.core k).matrix.accepted = e.accepted ∧ (t.core k).matrix.flags = flags ∧
    Safety.epilogue (t.core k).matrix = state (Safety.epilogue e) ∧
    (t.core k).sem c.sems = (if c.ssen then { v with value := v.value + 1 } else v) ∧
    (∀ n, n ≠ c.sems → (t.core k).sem n = (s.core k).sem n) ∧
    { t with cores := [] } = { s with cores := [] } ∧
    (∀ m, m ≠ k → Safety.offPool (t.core m) = Safety.offPool (s.core m)) ∧
    core { Safety.offPool (t.core k) with vlive := 0, matrix := {}, sems := [] } =
      core { Safety.offPool (s.core k) with vlive := 0, matrix := {}, sems := [] } ∧ P t

/-- Where an offset of a command's register or scratchpad operand lies: the core, the bank, and the row and the byte as an
address (R125, R172, R173). -/
def Safety.opCore (k : Nat) (c : MCmd) : Nat := if c.isScr && c.wa.getLsbD 24 then k / 4 * 4 + bits c.wa 22 2 else k
def Safety.opBank (c : MCmd) (off : Nat) : Nat :=
  let a := c.start + off
  if c.isScr then rotBank c.rot (a / 2 ^ 16 % 64) (a / 2 ^ 7 % 512) else a / 2 ^ 16
def Safety.opByte (s : State) (k : Nat) (c : MCmd) (off : Nat) : Nat :=
  (s.core (Safety.opCore k c)).poolRow (Safety.opBank c off) ((c.start + off) / 128 % 512) / 2 ^ (8 * ((c.start + off) % 128)) % 256

/-- An operand byte may be accessed: its bank has the role that the operand needs, on a core of the same slice (R113, R173). -/
def Safety.OpThere (s : State) (k : Nat) (c : MCmd) (off : Nat) : Prop :=
  if c.isScr then
    tblGet 0 (s.core (Safety.opCore k c)).roles (Safety.opBank c off) = 5 ∧
      (c.wa.getLsbD 24 = true → (s.core (Safety.opCore k c)).slice = (s.core k).slice ∧ (s.core k).slice.isSome = true)
  else (c.start + off) / 2048 < 320 ∧ (c.start + off) / 2048 < 32 * (s.core k).vb

/-- It may be read, and its row is sound (R339). -/
def Safety.OpReady (s : State) (k : Nat) (c : MCmd) (off : Nat) : Prop :=
  Safety.OpThere s k c off ∧
    (s.core (Safety.opCore k c)).poolUe.contains (Safety.opBank c off * 512 + (c.start + off) / 128 % 512) = false

/-- `n` bytes as a number, the first lowest, and `w` bits of them from a bit offset. -/
def Safety.numOf (byte : Nat → Nat) (n : Nat) : Nat := ((List.range n).map fun i => byte i * 256 ^ i).sum
def Safety.fieldOf (byte : Nat → Nat) (bit w : Nat) : Nat :=
  Safety.numOf (fun i => byte (bit / 8 + i)) ((bit % 8 + w + 7) / 8) / 2 ^ (bit % 8) % 2 ^ w

/-- A byte of TILE by its address, with the banks that the command captured, and whether it may be read (R174). -/
def Safety.tileByte (s : State) (k : Nat) (c : MCmd) (a : Nat) : Nat :=
  (s.core k).poolRow (tileBank c.t (a / 128)) (a / 128 % 512) / 2 ^ (8 * (a % 128)) % 256
def Safety.TileThere (s : State) (k : Nat) (c : MCmd) (a : Nat) : Prop := tblGet 0 (s.core k).roles (tileBank c.t (a / 128)) = 2
def Safety.TileReady (s : State) (k : Nat) (c : MCmd) (a : Nat) : Prop :=
  Safety.TileThere s k c a ∧ (s.core k).poolUe.contains (tileBank c.t (a / 128) * 512 + a / 128 % 512) = false

/-- An element of the array, and whether its row is sound (R164). -/
def Safety.arrayAt (c : Core) (r j : Nat) : Nat := elem 32 (c.poolRow (10 + r / 64) (r % 64 * 8 + j / 32)) (j % 32)
def Safety.ArrayReady (c : Core) (r : Nat) : Prop := ∀ j, j < 8 → c.poolUe.contains ((10 + r / 64) * 512 + r % 64 * 8 + j) = false

/-- Groups of products added to an accumulator in order, with the flags of the additions (R83). -/
def Safety.sums (ty : ElemTy) (terms : Nat → List (Nat × Nat)) (n acc : Nat) : Nat × FlagSet :=
  (List.range n).foldl (fun v u => let r := groupStep ty v.1 (terms u); (r.1, v.2 ||| r.2)) (acc, 0)

/-- A span of DEV memory as an engine of a core reads it now: sound rows at consecutive physical addresses (R182, R202). -/
def Safety.DevSpan (s : State) (k va n pa : Nat) : Prop :=
  pa % 128 = va % 128 ∧ ∀ o m, 0 < m → o + m ≤ n → (pa + o) % 128 + m ≤ 128 →
    ∃ e, ({ s with curCore := k, curK := .X } : State).entryAt (s.cyclesOf k) ((va + o) % 2 ^ 56) m .read = .ok e ∧ e.cls = 0 ∧
      e.phys ((va + o) % 2 ^ 56) = pa + o ∧ s.homeBad (some (s.ctx (s.ctxOf k)).part) ((pa + o) / 128) = false

end Sys2Proof
end

