-- ==== Sys2Proof/Certificates/Slice0/Obligations.lean ====
section
/-! DEFINITION. The statements for the provers, from the numbered rules of the spec. -/

section

open Sys2Proof Sys2Proof.Machine Sys2Proof.Safety

/-- O1. For every state in which the head can issue and its guard holds, add, addi, sub, mul, mulh, mulhn, madd, and,
andi, or, ori, xor, xori, shl, shr, sha, shi.l, shi.r and shi.a answer a next state that has retired the instruction,
holds in rd the value of R93 or R95 (x0 keeps reading zero), and leaves every other register, the rest of the machine
and memory unchanged; register shifts read only bits [5:0] of their count. For every state in which the head can issue
and its guard holds, div, rem, divn and remn complete and write rd: with b = 0 the quotients are all ones and the
remainders are a; with b not 0 the signed quotient truncates toward zero and the remainder takes the sign of the
dividend (modulo 2^64, so that the least number divided by -1 gives itself and remainder 0), and the unsigned pair is
that of the unsigned values. For every state in which the head can issue and its guard holds, min, max, minn, maxn,
seq, slt, sltn, sel, li and lih complete with the value of R93 or R95 in rd and nothing else changed; clz gives 64 for
0 and else the number k for which bit 63 - k is the highest one bit; popc counts the one bits; hash gives the counter
hash of its operands; and for a field within 64 bits (w at least 1 and pos + w at most 64, as the scanner requires)
bfx, bfx.s and bfi give what R96 computes. (R93, R94.) -/
def Obligations.ScalarArithmetic : Prop :=
  (
    ∀ (h : Head) (rd ra rb rc : Reg) (imm : BitVec 32) (n : BitVec 6) (pc : PcWord) (s : State),
      CanIssue h 1 pc s → s.guardBit h = true →
        let a := s.rx ra
        let b := s.rx rb
        let c := (s.rx rb).toNat % 64
        Sets (.add h rd ra rb) h 1 pc rd (s.rx ra + s.rx rb) s ∧
        Sets (.addi h rd ra imm) h 1 pc rd (s.rx ra + imm.signExtend 64) s ∧
        Sets (.sub h rd ra rb) h 1 pc rd (s.rx ra - s.rx rb) s ∧
        Sets (.mul h rd ra rb) h 1 pc rd (s.rx ra * s.rx rb) s ∧
        Sets (.mulh h rd ra rb) h 1 pc rd (((s.rx ra).signExtend 128 * (s.rx rb).signExtend 128).extractLsb' 64 64) s ∧
        Sets (.mulhn h rd ra rb) h 1 pc rd (((s.rx ra).setWidth 128 * (s.rx rb).setWidth 128).extractLsb' 64 64) s ∧
        Sets (.madd h rd ra rb rc) h 1 pc rd (s.rx ra * s.rx rb + s.rx rc) s ∧
        Sets (.land h rd ra rb) h 1 pc rd (a &&& b) s ∧ Sets (.andi h rd ra imm) h 1 pc rd (a &&& imm.signExtend 64) s ∧
        Sets (.lor h rd ra rb) h 1 pc rd (a ||| b) s ∧ Sets (.ori h rd ra imm) h 1 pc rd (a ||| imm.signExtend 64) s ∧
        Sets (.lxor h rd ra rb) h 1 pc rd (a ^^^ b) s ∧ Sets (.xori h rd ra imm) h 1 pc rd (a ^^^ imm.signExtend 64) s ∧
        Sets (.shl h rd ra rb) h 1 pc rd (a <<< c) s ∧ Sets (.shr h rd ra rb) h 1 pc rd (a >>> c) s ∧
        Sets (.sha h rd ra rb) h 1 pc rd (a.sshiftRight c) s ∧
        Sets (.shiL h rd ra n) h 1 pc rd (a <<< n.toNat) s ∧ Sets (.shiR h rd ra n) h 1 pc rd (a >>> n.toNat) s ∧
        Sets (.shiA h rd ra n) h 1 pc rd (a.sshiftRight n.toNat) s) ∧
  (
    ∀ (h : Head) (rd ra rb : Reg) (pc : PcWord) (s : State),
      CanIssue h 1 pc s → s.guardBit h = true →
        let a := s.rx ra
        let b := s.rx rb
        Sets (.div h rd ra rb) h 1 pc rd (if b = 0 then 0xFFFFFFFFFFFFFFFF#64 else BitVec.sdiv a b) s ∧
        Sets (.rem h rd ra rb) h 1 pc rd (if b = 0 then a else BitVec.srem a b) s ∧
        Sets (.divn h rd ra rb) h 1 pc rd (if b = 0 then 0xFFFFFFFFFFFFFFFF#64 else a / b) s ∧
        Sets (.remn h rd ra rb) h 1 pc rd (if b = 0 then a else a % b) s ∧
        (a = 0x8000000000000000#64 → b = 0xFFFFFFFFFFFFFFFF#64 →
          Sets (.div h rd ra rb) h 1 pc rd 0x8000000000000000#64 s ∧ Sets (.rem h rd ra rb) h 1 pc rd 0 s)) ∧
  (
    ∀ (h : Head) (rd ra rb rc : Reg) (imm : BitVec 32) (w : BitVec 7) (pos : BitVec 6) (pc : PcWord) (s : State),
      CanIssue h 1 pc s → s.guardBit h = true →
        let a := s.rx ra
        let b := s.rx rb
        let f := a.toNat / 2 ^ pos.toNat % 2 ^ w.toNat
        let m := BitVec.ofNat 64 ((2 ^ w.toNat - 1) * 2 ^ pos.toNat)
        Sets (.min h rd ra rb) h 1 pc rd (if a.slt b then a else b) s ∧ Sets (.max h rd ra rb) h 1 pc rd (if a.slt b then b else a) s ∧
        Sets (.minn h rd ra rb) h 1 pc rd (if a < b then a else b) s ∧ Sets (.maxn h rd ra rb) h 1 pc rd (if a < b then b else a) s ∧
        Sets (.seq h rd ra rb) h 1 pc rd (if a = b then 1 else 0) s ∧ Sets (.slt h rd ra rb) h 1 pc rd (if a.slt b then 1 else 0) s ∧
        Sets (.sltn h rd ra rb) h 1 pc rd (if a < b then 1 else 0) s ∧
        Sets (.sel h rd ra rb rc) h 1 pc rd (if s.rx rc ≠ 0 then a else b) s ∧
        Sets (.li h rd imm) h 1 pc rd (imm.signExtend 64) s ∧
        Sets (.lih h rd ra imm) h 1 pc rd (BitVec.ofNat 64 (imm.toNat * 2 ^ 32 + a.toNat % 2 ^ 32)) s ∧
        (a = 0 → Sets (.clz h rd ra) h 1 pc rd 64 s) ∧
        (∀ k, k < 64 → a.getLsbD (63 - k) = true → (∀ j, 63 - k < j → a.getLsbD j = false) →
          Sets (.clz h rd ra) h 1 pc rd (BitVec.ofNat 64 k) s) ∧
        Sets (.popc h rd ra) h 1 pc rd (BitVec.ofNat 64 ((List.range 64).countP fun i => a.getLsbD i)) s ∧
        Sets (.hash h rd ra rb) h 1 pc rd (counterHash a (s.rx rb)) s ∧
        (0 < w.toNat → pos.toNat + w.toNat ≤ 64 →
          Sets (.bfx h rd ra w pos) h 1 pc rd (BitVec.ofNat 64 f) s ∧
          Sets (.bfxS h rd ra w pos) h 1 pc rd
            (BitVec.ofInt 64 (if f.testBit (w.toNat - 1) then (f : Int) - 2 ^ w.toNat else f)) s ∧
          Sets (.bfi h rd ra w pos) h 1 pc rd ((s.rx rd &&& ~~~m) ||| (BitVec.ofNat 64 (a.toNat * 2 ^ pos.toNat) &&& m)) s))

/-- O2. For every state in which the head can issue and its guard holds, nop, and tok with its count n (as field value
plus one, from 1 to 16), complete: every register, memory and the rest of the machine stay, the retire count rises by
one, and the token queues gain n for each pushed queue and lose n for each popped one. For every state in which the
head can issue and its guard bit is false, each of the instructions listed (arithmetic, loads and stores, semaphore
and ring operations, special-register writes, traps, yield and tret, matrix commands) retires with its pops and pushes
and changes no register, no memory and nothing else: a guarded trap does not trap, a guarded yield does not end the
stream's part, and a guarded store does not store; so do the row accesses, where their guard disables all sixteen rows (that such a one
checks no register, role or index is log entry 36).
Where the stream runs and its head, which has not issued and waits for nothing, names a queue that holds fewer tokens than it pops, or one without room for its pushes (16 entries a
queue), an add and a tok stay at the head in a token wait on those queues bounded by %tlim: no token moves, and nothing
else changes. (R99, R110, R26, R29, R21, R25, R27, R31.) -/
def Obligations.NopTokFalseGuardsAndMissingTokens : Prop :=
  (
    ∀ (h : Head) (n : BitVec 4) (pc : PcWord) (s : State), s.guardBit h = true →
      (CanIssue h 1 pc s → Completes (.nop h) h 1 pc s fun t => Kept id id id s t ∧ RegsBut 0 s t ∧ MemSame s t) ∧
      (CanIssue h (n.toNat + 1) pc s →
        Completes (.tok h n) h (n.toNat + 1) pc s fun t => Kept id id id s t ∧ RegsBut 0 s t ∧ MemSame s t)) ∧
  (
    ∀ (h : Head) (rd ra rb : Reg) (imm : BitVec 32) (sr : BitVec 12) (o : BitVec 24) (ty : ElemTy) (sp : BitVec 2)
      (sem k : BitVec 6) (v : VReg) (acc : Acc) (rot : BitVec 4) (pc : PcWord) (s : State),
      CanIssue h 1 pc s → s.guardBit h = false →
        ∀ i ∈ ([.add h rd ra rb, .div h rd ra rb, .li h rd imm, .mfs h rd sr, .mts h ra sr, .trapI h imm, .haltI h ra,
            .brk h imm, .yieldI h, .tretKill h, .tretResume h, .budgChk h rd imm, .idleCyc h imm, .semi h rd ra sem,
            .sems h rd k sem, .semwTry h rd k sem, .mmul h ra rb acc v false 0 false 0 ty rot false, .msync h,
            .ld h rd ra rot ty sp o, .st h rd ra rot ty sp o] : List Instr),
          Completes i h 1 pc s fun t => Kept id id id s t ∧ RegsBut 0 s t ∧ MemSame s t) ∧
  (
    ∀ (h : Head) (ra : Reg) (v : VReg) (rot : BitVec 4) (sp : BitVec 2) (o : BitVec 24) (pc : PcWord) (s : State),
      CanIssue h 1 pc s → rowsOn h s = [] →
        ∀ i ∈ ([.vld h v ra rot sp o, .vst h v ra rot sp o, .vlds h v ra rot sp o, .vsts h v ra rot sp o, .vldx h v ra rot sp o,
            .vstx h v ra rot sp o] : List Instr),
          Completes i h 1 pc s fun t => Kept id id id s t ∧ RegsBut 0 s t ∧ MemSame s t) ∧
  (
    ∀ (h : Head) (rd ra rb : Reg) (n : BitVec 4) (pc : PcWord) (s : State), AtHead pc s →
      ∀ e ∈ ([(.add h rd ra rb, 1), (.tok h n, n.toNat + 1)] : List (Instr × Nat)),
        ((∃ q ∈ popQueues s.curK h, s.cur.tokens q < e.2) ∨ ∃ q ∈ pushQueues s.curK h, 16 < s.cur.tokens q + e.2) →
          Waits e.1 (.token (queueMask (popQueues s.curK h)) (queueMask (pushQueues s.curK h)) e.2) s.st.tlim.toNat s ∧
          ∃ t, Machine.exec e.1 s = .next t ∧ t.st.issued = false ∧ ∀ q, t.cur.tokens q = s.cur.tokens q)

/-- O3. For a target frame between 0 and 0xFF_FFFF_FFFF_FFC0 and a slot other than 7, b, bc with a condition that holds,
call and loop with a count that does not become 0 complete at frame + disp x 64 + slot, and jr completes at the
address in x[ra] when bits [63:56] and [5:3] are zero and the slot is not 7; call and jr write the PC that follows
them (read before the target register is written), loop writes the count less one, b and bc write nothing; bc with one
of the conditions 0 to 5 that does not hold and loop with count 1 complete at the next PC, the loop leaving 0; every
other register stays, and while the stream fetches privately nothing else changes. In a core with an ordinary slice
whose context has not halted, b, bc with a true condition, call and a taken loop whose target frame lies below 0 or
above 0xFF_FFFF_FFFF_FFC0 or whose slot is 7, and jr whose operand has a bit of [63:56] or [5:3] set or slot 7, raise
BAD_TARGET with the target address as faddr: PC, retire count, registers and memory stay, and the halt line of the
context rises. In the last slot of frame 0xFF_FFFF_FFFF_FFC0, which has no next PC, call and jr, and sequential flow (a
bc or loop that is not taken, a head whose guard is false, nop and add), raise it with faddr 0x0100_0000_0000_0000.
(R15, R48, R97, R98, R16.) -/
def Obligations.TransfersReachTheirTargetOrTrap : Prop :=
  (
    ∀ (h : Head) (ra rb rl : Reg) (cond slot : BitVec 3) (disp : BitVec 27) (npc : PcWord) (s : State),
      CanIssue h 1 npc s → s.guardBit h = true →
        let a := s.rx ra
        let b := s.rx rb
        let f : Int := ((s.st.pc.toNat - s.st.pc.toNat % 64 : Nat) : Int) + disp.toInt * 64
        let dest := BitVec.ofInt 56 (f + slot.toNat)
        (0 ≤ f → f ≤ 0xFFFFFFFFFFFFC0 → slot ≠ 7 →
          Jumps (.b h disp slot) h dest 0 0 s ∧
          ((cond = 0 ∧ a = b ∨ cond = 1 ∧ a ≠ b ∨ cond = 2 ∧ a.slt b = true ∨ cond = 3 ∧ a.slt b = false ∨
              cond = 4 ∧ a < b ∨ cond = 5 ∧ ¬ a < b) → Jumps (.bc h ra rb cond disp slot) h dest 0 0 s) ∧
          Jumps (.call h rl disp slot) h dest rl (npc.setWidth 64) s ∧
          (rl ≠ 0 → s.rx rl - 1 ≠ 0 → Jumps (.loop h rl disp slot) h dest rl (s.rx rl - 1) s)) ∧
        (a.toNat < 2 ^ 56 → a.toNat / 8 % 8 = 0 → a.toNat % 8 ≠ 7 →
          Jumps (.jr h rl ra) h (a.setWidth 56) rl (npc.setWidth 64) s) ∧
        ((cond = 0 ∧ a ≠ b ∨ cond = 1 ∧ a = b ∨ cond = 2 ∧ a.slt b = false ∨ cond = 3 ∧ a.slt b = true ∨
            cond = 4 ∧ ¬ a < b ∨ cond = 5 ∧ a < b) → Jumps (.bc h ra rb cond disp slot) h npc 0 0 s) ∧
        (rl ≠ 0 → s.rx rl = 1 → Jumps (.loop h rl disp slot) h npc rl 0 s)) ∧
  (
    ∀ (h : Head) (ra rb rl : Reg) (cond slot : BitVec 3) (disp : BitVec 27) (npc : PcWord) (s : State),
      CanIssue h 1 npc s → s.guardBit h = true → Ordinary s →
        let a := s.rx ra
        let b := s.rx rb
        let f : Int := ((s.st.pc.toNat - s.st.pc.toNat % 64 : Nat) : Int) + disp.toInt * 64
        let tr : Trap := { code := .badTarget, faddr := BitVec.ofInt 64 (f + slot.toNat) }
        (f < 0 ∨ 0xFFFFFFFFFFFFC0 < f ∨ slot = 7 →
          Traps (.b h disp slot) tr s ∧
          ((cond = 0 ∧ a = b ∨ cond = 1 ∧ a ≠ b ∨ cond = 2 ∧ a.slt b = true ∨ cond = 3 ∧ a.slt b = false ∨
              cond = 4 ∧ a < b ∨ cond = 5 ∧ ¬ a < b) → Traps (.bc h ra rb cond disp slot) tr s) ∧
          Traps (.call h rl disp slot) tr s ∧
          (rl ≠ 0 → s.rx rl - 1 ≠ 0 → Traps (.loop h rl disp slot) tr s)) ∧
        (2 ^ 56 ≤ a.toNat ∨ a.toNat / 8 % 8 ≠ 0 ∨ a.toNat % 8 = 7 →
          Traps (.jr h rl ra) { code := .badTarget, faddr := a } s)) ∧
  (
    ∀ (h : Head) (rd ra rb rl : Reg) (cond slot : BitVec 3) (disp : BitVec 27) (npc p : PcWord) (f : FrameRec) (q : List FrameRec)
      (u : State),
      CanIssue h 1 npc u → Ordinary u → p.toNat - p.toNat % 64 = 0xFFFFFFFFFFFFC0 → headerCount (f.words.getD 0 0) ≤ p.toNat % 8 + 1 →
        let s := u.setSt { u.st with pc := p, iq := f :: q }
        let a := s.rx ra
        let b := s.rx rb
        let past (i : Instr) : Prop := Traps i { code := .badTarget, faddr := 0x0100000000000000 } s
        (s.guardBit h = true →
          past (.call h rl disp slot) ∧ past (.jr h rl ra) ∧ past (.nop h) ∧ past (.add h rd ra rb) ∧
            ((cond = 0 ∧ a ≠ b ∨ cond = 1 ∧ a = b ∨ cond = 2 ∧ a.slt b = false ∨ cond = 3 ∧ a.slt b = true ∨
              cond = 4 ∧ ¬ a < b ∨ cond = 5 ∧ a < b) → past (.bc h ra rb cond disp slot)) ∧
            (rl ≠ 0 → s.rx rl = 1 → past (.loop h rl disp slot))) ∧
        (s.guardBit h = false → ∀ i ∈ ([.call h rl disp slot, .jr h rl ra, .b h disp slot, .bc h ra rb cond disp slot, .loop h rl disp slot,
          .nop h, .add h rd ra rb] : List Instr), past i))

/-- O4. In a core with an ordinary slice whose context has not halted, trap #n raises SOFT_TRAP with faddr n, halt xa
raises HALT (not resumable) with faddr x[ra], and brk #n raises BREAKPOINT with faddr n where %brken.en is 1: the head
does not retire, the stream's last-trap field takes the code, and the context's halt line rises with the trap as its
first cause; where %brken.en is 0 the brk retires and changes nothing. Where the K stream of a handler slice can
issue, and its guard holds, trap #n and halt xa answer a next state in which the context whose stop the slice serves
is DEAD, with the host notified, and the fault mailbox has taken, holds for its turn or has dropped and counted a HANDLER_FAULT record
with both causes, the handler's faddr, the context's %faddr and the time. Where an untraced context stops with no unit of its matrix engines
half done, no access pending and no late trap, its stop area holds after CONTEXT_STOPPED, as far as it lies in DEV memory, the records of every
stream and matrix engine of its cores and of every video engine that holds a command of it, with the words of R38, R332 and R333, and the
rest of memory stays. (What R38 and R332 leave open in these words is log entries 32, 33 and 45.) (R106, R35, R38, R329, R331, R332, R333, R336, R338.) -/
def Obligations.SoftwareTrapsEnterTheHaltLine : Prop :=
  (
    ∀ (h : Head) (ra : Reg) (imm : BitVec 32) (pc : PcWord) (s : State),
      CanIssue h 1 pc s → s.guardBit h = true →
        (Ordinary s →
          Traps (.trapI h imm) { code := .softTrap, faddr := imm.setWidth 64 } s ∧
          Traps (.haltI h ra) { code := .halt, faddr := s.rx ra, resumable := false } s ∧
          ((s.ctx s.curCtx).brken = true → Traps (.brk h imm) { code := .breakpoint, faddr := imm.setWidth 64 } s)) ∧
        ((s.ctx s.curCtx).brken = false →
          Completes (.brk h imm) h 1 pc s fun t => Kept id id id s t ∧ RegsBut 0 s t ∧ MemSame s t)) ∧
  (∀ (h : Head) (ra : Reg) (imm : BitVec 32) (pc : PcWord) (s : State),
    CanIssue h 1 pc s → s.guardBit h = true → s.isHandler = true →
      let x := s.curCtx
      let c := s.ctx x
      ∀ e ∈ ([(.trapI h imm, { code := .softTrap, faddr := imm.setWidth 64 }), (.haltI h ra, { code := .halt, faddr := s.rx ra })] :
          List (Instr × Trap)),
        let first := c.cause.map Prod.snd
        let words : List Nat :=
          [3 + x * 2 ^ 8 + s.curCore * 2 ^ 14 + s.curK.num * 2 ^ 22 + trapCode first * 2 ^ 24 + e.2.code.code * 2 ^ 32 +
            c.causeRead.toNat * 2 ^ 40, e.2.faddr.toNat, trapAddr first, s.time]
        ∃ t u, Machine.exec e.1 s = .next t ∧ (t.ctx x).mode = .dead ∧ Mailed c.part (fun j => words.getD j 0) s u ∧
          u.slices = s.slices ∧ u.queues = s.queues ∧ t = (u.notify c.part 0 1).killContext x) ∧
  ∀ s : State,
    let x := s.ev.ctx
    let c := s.ctx x
    let engines : List (Nat × Nat) := (([0, 1] : List Nat).flatMap fun d => ([0, 1, 2, 3, 4, 8, 9, 10, 11] : List Nat).map fun n => (d, n)).filter
      fun e => (s.engine e.1 e.2).holds x
    c.live = true → c.mode = .run → c.halt.isSome = true → c.traceEn = false → s.ev.nums = [] →
      (∀ m ∈ s.stopCores x, s.ctxOf m = x ∧ (s.core m).pending = [] ∧
        (∀ d ∈ (s.core m).matrix.running.toList ++ (s.core m).matrix.weights ++ (s.core m).matrix.queue, d.outs = []) ∧
        ∀ k, (s.stream m k).lateTrap = none ∧ (s.stream m k).atomicOut = false ∧ (s.stream m k).firm = false ∧
          ((s.core m).overfull k = true → (s.stream m k).trap ≠ none ∨ (s.core m).stateOf k ≠ 1)) →
        ∃ t, Machine.exec .contextStopped s = .next t ∧
          let slot (off : Nat) : Nat := c.stops * 2 ^ 16 + off
          let holds (off : Nat) (word : Nat → Nat) : Prop := ∀ j, j < 8 → slot off + 8 * j < devTop →
            PrivateTo c.part s ((slot off + 8 * j) / 128) → t.homeRead (some c.part) (slot off + 8 * j) 8 = word j % 2 ^ 64
          let written (off : Nat) : Prop := (∃ m ∈ s.stopCores x, m < 192 ∧ (off = 0xC000 + 64 * m ∨ ∃ k : StreamId, off = 64 * (4 * m + k.num))) ∨
            ∃ e ∈ engines, off = 0xF000 + 64 * (16 * e.1 + e.2)
          (∀ m ∈ s.stopCores x, m < 192 → (∀ k, holds (64 * (4 * m + k.num)) (streamStop s m k)) ∧ holds (0xC000 + 64 * m) (matrixStop s m)) ∧
            (∀ e ∈ engines, holds (0xF000 + 64 * (16 * e.1 + e.2)) (videoStop s x e.1 e.2)) ∧
            ∀ a, (∀ off, written off → ¬ (slot off ≤ a ∧ a < slot off + 64)) → OffL2 s (a / 128) → memRead t.mem a = memRead s.mem a

/-- O5. Where no access is redirected (R337), an mfs of a register that its level may read, other than the cause register
and the two request registers, completes with the register's value after the head's own pops in rd and nothing else
changed; and the stream, core, context, partition, retire count, PC, token limit, predicate selection, device time,
drift, domain, maximum, key, counter, shape and matrix-limit registers have the values that the state holds. (R34,
R100, R101.) -/
def Obligations.SpecialRegisterReads : Prop :=
  ∀ (h : Head) (rd : Reg) (sr : BitVec 12) (pc : PcWord) (s : State),
    CanIssue h 1 pc s → s.guardBit h = true → Undirected s →
      ((sr.toNat ∈ [0x040, 0x041, 0x043, 0x044, 0x061, 0x062] → s.isHandler = true) → sr ≠ 0x040 → sr ≠ 0x043 → sr ≠ 0x044 →
        Sets (.mfs h rd sr) h 1 pc rd ((s.issueHead h {}).readSr sr.toNat s.curCore s.curK true) s) ∧
      ∀ e ∈ ([(0x000, BitVec.ofNat 64 s.curK.num), (0x001, BitVec.ofNat 64 s.curCore), (0x002, BitVec.ofNat 64 s.curCtx),
          (0x003, BitVec.ofNat 64 s.curPart), (0x004, s.st.rc), (0x005, s.st.pc.setWidth 64), (0x007, s.st.tlim.setWidth 64),
          (0x00A, s.st.pwsel.setWidth 64), (0x010, BitVec.ofNat 64 s.time), (0x012, s.budget.setWidth 64), (0x020, 32),
          (0x021, s.cur.dom.setWidth 64), (0x030, s.cur.amax), (0x032, s.cur.srkey), (0x033, s.cur.srctr),
          (0x034, s.cur.vrkey), (0x035, s.cur.vrctr), (0x050, s.st.lnpos), (0x071, s.st.vsp),
          (0x070, BitVec.ofNat 64 (s.st.vshapeRows.toNat + s.st.vshapeCols.toNat * 2 ^ 16)),
          (0x081, s.cur.matrix.mlim.setWidth 64)] : List (BitVec 12 × W64)),
        Sets (.mfs h rd e.1) h 1 pc rd e.2 s

/-- O6. Where no access is redirected (R337), mts to %tlim, %pwsel, %amax, the keys and counters of rounding and of random
values, %vshape, %vsp, %mlim, %lsx and %hcsel completes; the register then reads the written word under the mask of
its fields; scalar registers, predicates, pool, memory and every other special register of the list stay. Where no
access is redirected, mts %status completes: each of the six sticky flags stays only where the written word has a 0 in
its place, the rounding field takes bits [9:7], the last-trap field stays; mts %pword completes: the word of the
predicate that %pwsel selects takes x[ra] unless the predicate is p0, which still reads all ones, and every other bit
of every predicate stays; registers, memory and the rest of the machine stay. (R34, R100, R19, R20, R35.) -/
def Obligations.SpecialRegisterWrites : Prop :=
  (
    ∀ (h : Head) (ra : Reg) (pc : PcWord) (s : State),
      CanIssue h 1 pc s → s.guardBit h = true → Undirected s →
        let table : List (BitVec 12 × W64) :=
          [(0x007, 0xFFFFFFFF), (0x00A, 0xFF), (0x030, 0x1FFFFFFFF), (0x032, 0xFFFFFFFFFFFFFFFF), (0x033, 0xFFFFFFFFFFFFFFFF),
            (0x034, 0xFFFFFFFFFFFFFFFF), (0x035, 0xFFFFFFFFFFFFFFFF), (0x070, 0x0FFF0FFF), (0x071, 0x30FFF0FFF),
            (0x081, 0xFFFFFFFF), (0x090, 0x01FF0000FFFFFFFF), (0x0A0, 0x3FF)]
        ∀ e ∈ table, Completes (.mts h ra e.1) h 1 pc s fun t =>
          t.readSr e.1.toNat s.curCore s.curK true = s.rx ra &&& e.2 ∧
          (∀ g ∈ table, g.1 ≠ e.1 → t.readSr g.1.toNat s.curCore s.curK true = s.readSr g.1.toNat s.curCore s.curK true) ∧
          RegsBut 0 s t ∧ MemSame s t ∧ t.cur.preds = s.cur.preds ∧ t.cur.pool = s.cur.pool ∧ t.st.flags = s.st.flags ∧
          (∀ c, c ≠ s.curCore → t.core c = s.core c) ∧ { t with cores := [] } = { s with cores := [] }) ∧
  (
    ∀ (h : Head) (ra : Reg) (pc : PcWord) (s : State),
      CanIssue h 1 pc s → s.guardBit h = true → Undirected s →
        let p : PReg := s.st.pwsel.extractLsb' 5 3
        let w := (s.st.pwsel.extractLsb' 0 5).toNat
        (Completes (.mts h ra 0x006) h 1 pc s fun t =>
          (∀ i, i < 6 → t.st.flags.getLsbD i = (s.st.flags.getLsbD i && !(s.rx ra).getLsbD i)) ∧
          t.st.rm = (s.rx ra).extractLsb' 7 3 ∧ t.st.last = s.st.last ∧
          Kept id id (fun st => { st with flags := 0, rm := 0 }) s t ∧ RegsBut 0 s t ∧ MemSame s t) ∧
        Completes (.mts h ra 0x00B) h 1 pc s fun t =>
          (∀ i, i < 2048 → (t.cur.pred p).getLsbD i =
            if p = 0 then true else if i / 64 = w then (s.rx ra).getLsbD (i % 64) else (s.cur.pred p).getLsbD i) ∧
          (∀ q, q ≠ p → t.cur.pred q = s.cur.pred q) ∧ t.cur.pred 0 = BitVec.allOnes 2048 ∧
          Kept id (fun c => { c with preds := [] }) id s t ∧ RegsBut 0 s t ∧ MemSame s t)

/-- O7. In a core with an ordinary slice whose context has not halted, mfs of a register with H read access and mts to a
register with H write access raise PRIV_VIOLATION whose faddr holds the opcode and the register number, and change nothing
but the record of the trap and the halt line of the context; so does every tret, with number 0. At HANDLER level, without redirection, mfs of
%cause and %faddr completes with the context's cause word and fault address; each form of tret, when the core has no
posted write to wait for, ends its stream's part of the slice as yield does and records its own action for the stopped
context. When the core has no posted write to wait for, yield on L, X or S, and on K where the pool stands in the base
layout of the slice's header, retires with its pushes and leaves the stream YIELDED, without frames and out of its
fetch group; on the K stream of a handler slice the recorded action is kill; on K of an ordinary slice with another
layout it traps POOL_NOT_BASE, which cannot be resumed, and does not retire. That the PC of a YIELDED stream stays at its
yield or tret is log entry 33, and that one without a next PC retires is log entry 34. (R33, R34, R100, R108, R334, R102, R103.) -/
def Obligations.HandlersYieldAndPrivilege : Prop :=
  (
    ∀ (h : Head) (rd : Reg) (pc : PcWord) (s : State),
      CanIssue h 1 pc s → s.guardBit h = true → Ordinary s →
        (∀ sr ∈ ([0x040, 0x041, 0x043, 0x044, 0x061, 0x062] : List (BitVec 12)),
          Traps (.mfs h rd sr) { code := .privViolation, faddr := BitVec.ofNat 64 (0x2A + 256 * sr.toNat) } s) ∧
        (∀ sr ∈ ([0x013, 0x014, 0x021, 0x042, 0x043, 0x044, 0x050, 0x060, 0x061, 0x062, 0x091, 0x0A2] : List (BitVec 12)),
          Traps (.mts h rd sr) { code := .privViolation, faddr := BitVec.ofNat 64 (0x2B + 256 * sr.toNat) } s) ∧
        ∀ i ∈ ([.tretResume h, .tretSkip h, .tretRestart h, .tretKill h] : List Instr),
          Traps i { code := .privViolation, faddr := 0x2F } s) ∧
  (
    ∀ (h : Head) (rd : Reg) (pc : PcWord) (s : State),
      CanIssue h 1 pc s → s.guardBit h = true → s.isHandler = true →
        (Undirected s →
          (Completes (.mfs h rd 0x040) h 1 pc s fun t =>
            t.rx rd = (if rd = 0 then 0 else (s.ctx s.curCtx).causeWord) ∧ (t.ctx s.curCtx).causeRead = true ∧
              Kept (fun u => u.setCtx s.curCtx { u.ctx s.curCtx with causeRead := false }) id id s t ∧ RegsBut rd s t ∧ MemSame s t) ∧
          Sets (.mfs h rd 0x041) h 1 pc rd (s.ctx s.curCtx).faddrWord s) ∧
        (s.cur.postedHost = false → s.cur.postedPeer = false →
          ∀ e ∈ ([(.tretResume h, .resume), (.tretSkip h, .skip), (.tretRestart h, .restart), (.tretKill h, .kill)] :
              List (Instr × TretAction)),
            ∃ t, EndsPart e.1 h s t ∧ (t.ctx s.curCtx).action = some e.2)) ∧
  (
    ∀ (h : Head) (pc : PcWord) (s : State) (v : Slice),
      CanIssue h 1 pc s → s.guardBit h = true → s.sliceOf s.curCore = some v →
        (s.cur.postedHost = false → s.cur.postedPeer = false → (s.curK = .K → s.cur.poolIsBase v.hdr.poolWord = true) →
          ∃ t, EndsPart (.yieldI h) h s t ∧ (s.isHandler = true → (t.ctx s.curCtx).action = some .kill)) ∧
        (s.curK = .K → s.cur.poolIsBase v.hdr.poolWord = false → Ordinary s →
          Traps (.yieldI h) { code := .poolNotBase, faddr := s.cur.poolReg, resumable := false } s))

/-- O8. budg.get completes with the slice's remaining budget in rd; budg.chk does the same where the budget is not below
n, and else traps BUDGET_EXHAUSTED with faddr n (in an ordinary slice whose context has not halted). idle.cyc #0, and
idle.until with a time not after the device time, complete at once and change nothing; idle.cyc #n with n above 0 and
idle.until with a later time wait without a limit, and nothing else changes; an idle.cyc that has issued retires once n
cycles have passed since its issue, and an idle.until once its time has come, with their pushes and nothing else changed.
As device time passes with nothing due and no host command pending, in an untraced module, the budget of a slice that
counts falls, to 0 at most, by the cycles n that its lowest core's cluster counts meanwhile; of each stream that is not
stopped, on a core of an ordinary slice that has not ended, one head counter, that of the class of R346's table, rises by n,
saturating at 2^48 - 1, but for one cycle that goes to ISSUE where the stream has issued since and has not yielded; the other
head counters stay. (That an issue takes one cycle of its own is log entry 1, and that the wait for the matrix engine counts under the
semaphore on which the engine waits log entry 45.) (R104, R109, R308, R346.) -/
def Obligations.BudgetAndIdle : Prop :=
  (∀ (h : Head) (rd : Reg) (imm : BitVec 32) (pc : PcWord) (s : State) (v : Slice),
    CanIssue h 1 pc s → s.guardBit h = true → s.sliceOf s.curCore = some v →
      Sets (.budgGet h rd) h 1 pc rd (v.budget.setWidth 64) s ∧
      (imm ≤ v.budget → Sets (.budgChk h rd imm) h 1 pc rd (v.budget.setWidth 64) s) ∧
      (v.budget < imm → Ordinary s → Traps (.budgChk h rd imm) { code := .budgetExhausted, faddr := imm.setWidth 64 } s)) ∧
  (∀ (h : Head) (ra : Reg) (n : BitVec 32) (pc : PcWord) (s : State),
    let u := s.rx ra + n.setWidth 64
    let now := s.time % 2 ^ 64
    let ended (t : State) : Prop := Kept id id id s t ∧ RegsBut 0 s t ∧ MemSame s t
    (CanIssue h 1 pc s → s.guardBit h = true →
      (n = 0 → Completes (.idleCyc h n) h 1 pc s ended) ∧ (n ≠ 0 → Waits (.idleCyc h n) (.idleCyc n.toNat) 0 s) ∧
      (u.toNat ≤ now → Completes (.idleUntil h ra n) h 1 pc s ended) ∧
      (now < u.toNat → Waits (.idleUntil h ra n) (.idleUntil u.toNat) 0 s)) ∧
    (CanFinish pc s →
      (s.st.issuedAt + n.toNat ≤ s.cyc → Finishes (.idleCyc h n) h pc s ended) ∧
      (u.toNat ≤ now → Finishes (.idleUntil h ra n) h pc s ended))) ∧
  ∀ (s : State) (ns : Nat) (rest : List Act), s.agenda = .elapse ns :: rest → ({ s with agenda := rest } : State).dueEvents = [] →
    (∀ x, (s.ctx x).scopeBusy = none ∧ (s.ctx x).traceEn = false) → ∃ t, Machine.step s = .next t ∧
      let cycles (core : Nat) : Nat := (t.cluster (core / 4)).cycles - (s.cluster (core / 4)).cycles
      let clocked (core : Nat) : Prop := (tblFind s.clusters (core / 4)).isSome = true
      (∀ i v, s.slice i = some v → clocked (v.cores.headD 0) → v.ended = none → v.handler = true ∨ (s.ctx v.ctx).mode ≠ .stopped →
        t.slice i = some { v with
          budget := BitVec.ofNat 32 (v.budget.toNat - cycles (v.cores.headD 0)), cycles := v.cycles + cycles (v.cores.headD 0) }) ∧
      ∀ core v k, s.sliceOf core = some v → clocked core → v.handler = false → v.ended = none → (s.stream core k).stopped = false →
        let st := s.stream core k
        let n := cycles core
        let cls := headClass (s.core core) core k
        let issue := if st.issuedNow ∧ cls ≠ 0x7E ∧ 0 < n then 1 else 0
        (∀ j, tblGet 0 st.hc j < 2 ^ 48) → ∀ j, tblGet 0 (t.stream core k).hc j =
          min (tblGet 0 st.hc j + (if j = 0 then issue else 0) + (if j = cls then n - issue else 0)) (2 ^ 48 - 1)

/-- O9. For a record whose %lnpos indices lie below their trip counts, the next position numbers the next issue (ordinal
i0 + t0 (i1 + t1 (i2 + t2 i3)) plus one) with every index again below its trip count, or, after the last issue, marks
the expansion as finished; and a record with a trip count of 0 completes: it moves its tokens, sets %lnpos to 0,
retires and changes nothing else. A record whose head can issue pops its tokens and does to the machine what the
instruction that %lnpos names, formed with no token bits, would do in its place. Where that one would retire, the record
stands at the next position, or, after the last one, makes its pushes, retires and leaves %lnpos at 0; where it would trap
or wait, the record traps or waits with the same record, %lnpos still names it, and the record does not count as retired.
So does a record that has issued and stands between two of its issues, its tokens popped once.
(R55, R57.) -/
def Obligations.LoopNestIndicesRunInnermostFirst : Prop :=
  (∀ (r : LnRec) (p : W64), lnFinished r p = false →
    let ord (p : W64) : Nat := lnIndex p 0 + r.trip 0 * (lnIndex p 1 + r.trip 1 * (lnIndex p 2 + r.trip 2 * lnIndex p 3))
    if ord p + 1 < r.trip 0 * r.trip 1 * r.trip 2 * r.trip 3 then
      lnFinished r (lnAdvance r p) = false ∧ ord (lnAdvance r p) = ord p + 1
    else lnFinished r (lnAdvance r p) = true) ∧
  (∀ (h : Head) (r : LnRec) (pc : PcWord) (s : State), CanIssue h 1 pc s →
    let p := s.st.lnpos
    let record : Instr := .loopNestRecord h r
    ((∃ l, l < 4 ∧ r.trip l = 0) →
      Completes record h 1 pc s fun t =>
        t.st.lnpos = 0 ∧ Kept id id (fun st => { st with lnpos := 0 }) s t ∧ RegsBut 0 s t ∧ MemSame s t) ∧
    ∀ i u, lnReason h r = none → lnFinished r p = false →
      decodeWord (lnIssueWord r h.guard (lnIndex p 0) (lnIndex p 1) (lnIndex p 2) (lnIndex p 3)) = .ok i → Machine.exec i s = .next u →
        ∃ t, Machine.exec record s = .next t ∧ (∀ q, t.rx q = u.rx q) ∧
          Kept (fun v => { v with expanded := false }) id (fun st => { st with lnpos := 0 }) u t ∧
          (u.st.rc = s.st.rc + 1 → lnFinished r (lnAdvance r p) = false →
            t.st.lnpos = lnAdvance r p ∧ t.st.pc = s.st.pc ∧ t.st.rc = s.st.rc ∧ t.st.issued = true ∧ TokensHeld s t) ∧
          (u.st.rc = s.st.rc + 1 → lnFinished r (lnAdvance r p) = true → t.st.lnpos = 0 ∧ Retired h 1 pc s t) ∧
          (u.st.rc = s.st.rc → t.st.lnpos = p ∧ t.st.pc = s.st.pc ∧ t.st.rc = s.st.rc ∧ t.st.issued = true ∧ TokensHeld s t ∧
            t.st.trap = u.st.trap ∧ t.st.wait = u.st.wait)) ∧
  ∀ (h : Head) (r : LnRec) (pc : PcWord) (s : State),
    let fresh : State := s.setSt { s.st with issued := false, popped := (0, 0), pushes := [] }
    let p := s.st.lnpos
    let record : Instr := .loopNestRecord h r
    s.st.issued = true → s.st.expIssued = false → s.canRun s.curCore s.curK = true → AtHead pc fresh →
    (lnFinished r p = true → s.st.kind = .plain → Finishes record h pc s fun t =>
      t.st.lnpos = 0 ∧ Kept id id (fun st => { st with lnpos := 0 }) s t ∧ RegsBut 0 s t ∧ MemSame s t) ∧
    ∀ i u, lnReason h r = none → lnFinished r p = false →
      decodeWord (lnIssueWord r h.guard (lnIndex p 0) (lnIndex p 1) (lnIndex p 2) (lnIndex p 3)) = .ok i → Machine.exec i fresh = .next u →
        ∃ t, Machine.exec record s = .next t ∧ (∀ q, t.rx q = u.rx q) ∧
          Kept (fun v => { v with expanded := false }) id (fun st => { st with lnpos := 0 }) u t ∧
          (u.st.rc = s.st.rc + 1 → lnFinished r (lnAdvance r p) = false →
            t.st.lnpos = lnAdvance r p ∧ t.st.pc = s.st.pc ∧ t.st.rc = s.st.rc ∧ t.st.issued = true ∧ t.st.popped = s.st.popped ∧
              ∀ q, t.cur.tokens q = s.cur.tokens q) ∧
          (u.st.rc = s.st.rc + 1 → lnFinished r (lnAdvance r p) = true → t.st.lnpos = 0 ∧ t.st.pc = pc ∧ t.st.rc = s.st.rc + 1 ∧
            t.st.issued = false ∧ ∀ q, t.cur.tokens q = s.cur.tokens q + (pushQueues s.curK h).count q) ∧
          (u.st.rc = s.st.rc → t.st.lnpos = p ∧ t.st.pc = s.st.pc ∧ t.st.rc = s.st.rc ∧ t.st.issued = true ∧ t.st.popped = s.st.popped ∧
            (∀ q, t.cur.tokens q = s.cur.tokens q) ∧ t.st.trap = u.st.trap ∧ t.st.wait = u.st.wait)

/-- O10. For a legal shape and registers in REG banks, vmov, vsplat, vand, vor, vxor, vsel, vshl, vshr, vabs and vneg
complete: each enabled lane of vd takes the value of R139 or R143 computed from the sources as they were, every other
element of vd, every other register and pool row stays, no flag rises, and scalar registers and memory stay. (R135,
R136, R139, R143.) -/
def Obligations.VectorMovesLogicAndShifts : Prop :=
  ∀ (h : Head) (vd va vb : VReg) (ra : Reg) (vc : PReg) (ty : ElemTy) (sat : Bool) (pc : PcWord) (s : State),
    CanIssue h 1 pc s → ShapeReady [ty.width] s → RegsReady [vd] [va, vb] s →
      let w := ty.width
      let a := el s va w
      let b := el s vb w
      Lanewise (.vmov h vd va ty) h pc vd w (fun i => (a i, 0)) s ∧
      Lanewise (.vsplat h vd ra ty) h pc vd w (fun _ => ((s.rx ra).toNat, 0)) s ∧
      Lanewise (.vand h vd va vb ty) h pc vd w (fun i => (a i &&& b i, 0)) s ∧
      Lanewise (.vor h vd va vb ty) h pc vd w (fun i => (a i ||| b i, 0)) s ∧
      Lanewise (.vxor h vd va vb ty) h pc vd w (fun i => (a i ^^^ b i, 0)) s ∧
      Lanewise (.vsel h vd va vb vc ty) h pc vd w (fun i => (if (s.cur.pred vc).getLsbD i then a i else b i, 0)) s ∧
      Lanewise (.vshl h vd va vb ty) h pc vd w (fun i => (if w ≤ b i then 0 else a i * 2 ^ b i, 0)) s ∧
      (fmtOf ty = none →
        Lanewise (.vshr h vd va vb ty) h pc vd w (fun i => ((intValue ty (a i) / 2 ^ b i % 2 ^ w).toNat, 0)) s ∧
        Lanewise (.vabs h vd va ty sat) h pc vd w
          (fun i => (if sat && decide (intMax ty < (intValue ty (a i)).natAbs) then (intMax ty).toNat else (intValue ty (a i)).natAbs, 0)) s ∧
        Lanewise (.vneg h vd va ty sat) h pc vd w
          (fun i => (((if sat then max (intMin ty) (min (intMax ty) (-intValue ty (a i))) else -intValue ty (a i)) % 2 ^ w).toNat, 0)) s) ∧
      (fmtOf ty ≠ none →
        Lanewise (.vabs h vd va ty sat) h pc vd w (fun i => (a i % 2 ^ (w - 1), 0)) s ∧
        Lanewise (.vneg h vd va ty sat) h pc vd w (fun i => (a i ^^^ 2 ^ (w - 1), 0)) s)

/-- O11. For a legal shape and registers in REG banks, vadd, vsub, vmul, vfma, vfms and vmuls complete with, for an
integer type, the exact value saturated or modulo 2^w and no flag, and for a floating type the exact value rounded
once under the instruction's mode with its flags; vdiv and vscale (by the row's or the column's factor) complete with
the rounded value; disabled lanes, other registers, scalar registers and memory stay. (R77, R80, R137.) -/
def Obligations.VectorArithmeticOnIntegersAndFloats : Prop :=
  ∀ (h : Head) (vd va vb vc : VReg) (rb : Reg) (ty : ElemTy) (rm : Rm) (sat col : Bool) (pc : PcWord) (s : State),
    CanIssue h 1 pc s → ShapeReady [ty.width] s → RegsReady [vd] [va, vb, vc] s →
      let w := ty.width
      let x (k : VReg) (i : Nat) : Int := intValue ty (el s k w i)
      let v (k : VReg) (i : Nat) : Machine.Num := valueOf ty (el s k w i)
      let scalar := (s.rx rb).toNat % 2 ^ w
      let int (z : Int) : Nat × FlagSet := (((if sat then max (intMin ty) (min (intMax ty) z) else z) % 2 ^ w).toNat, 0)
      let float (r : Exact × FlagSet) : Nat × FlagSet := packTy ty (s.mode rm) sat r
      (fmtOf ty = none →
        Lanewise (.vadd h vd va vb ty rm sat) h pc vd w (fun i => int (x va i + x vb i)) s ∧
        Lanewise (.vsub h vd va vb ty rm sat) h pc vd w (fun i => int (x va i - x vb i)) s ∧
        Lanewise (.vmul h vd va vb ty rm sat) h pc vd w (fun i => int (x va i * x vb i)) s ∧
        Lanewise (.vfma h vd va vb vc ty rm sat) h pc vd w (fun i => int (x va i * x vb i + x vc i)) s ∧
        Lanewise (.vfms h vd va vb vc ty rm sat) h pc vd w (fun i => int (x va i * x vb i - x vc i)) s ∧
        Lanewise (.vmuls h vd va rb ty rm sat) h pc vd w (fun i => int (x va i * intValue ty scalar)) s) ∧
      (fmtOf ty ≠ none →
        Lanewise (.vadd h vd va vb ty rm sat) h pc vd w (fun i => float ((v va i).add (v vb i))) s ∧
        Lanewise (.vsub h vd va vb ty rm sat) h pc vd w (fun i => float ((v va i).add (v vb i).neg)) s ∧
        Lanewise (.vmul h vd va vb ty rm sat) h pc vd w (fun i => float ((v va i).mul (v vb i))) s ∧
        Lanewise (.vfma h vd va vb vc ty rm sat) h pc vd w (fun i => float ((v va i).fma (v vb i) (v vc i))) s ∧
        Lanewise (.vfms h vd va vb vc ty rm sat) h pc vd w (fun i => float ((v va i).fma (v vb i) (v vc i).neg)) s ∧
        Lanewise (.vmuls h vd va rb ty rm sat) h pc vd w (fun i => float ((v va i).mul (valueOf ty scalar))) s ∧
        Lanewise (.vdiv h vd va vb ty rm sat) h pc vd w (fun i => float ((v va i).div (v vb i))) s ∧
        Lanewise (.vscale h vd va vb ty rm col sat) h pc vd w
          (fun i => float ((v va i).mul
            (v vb (if col then i % s.st.vshapeCols.toNat else i / s.st.vshapeCols.toNat)))) s)

/-- O12. For a legal shape and registers in REG banks, vsqrt, vrsqrt, vrcp, vexp, vexp2, vlog2, vtanh, vsigm, vgelu,
vround, vmin, vmax, vminn, vmaxn and vclamp complete: each enabled lane takes the model's evaluation of its function
(R138, R140, R141; where an enclosure does not separate two roundings, log entry 7 gives a free value) and its flags
are raised; for an integer type vmin and vmax are those of the values. Everything else stays.
(06_vector_instructions.md Functions, 03_number_formats.md.) -/
def Obligations.VectorFunctionsAndMinimaComplete : Prop :=
  ∀ (h : Head) (vd va vb vc : VReg) (ty : ElemTy) (rm : Rm) (sat : Bool) (pc : PcWord) (s : State),
    CanIssue h 1 pc s → ShapeReady [ty.width] s → RegsReady [vd] [va, vb, vc] s →
      let w := ty.width
      let a := el s va w
      let b := el s vb w
      let num (g : Machine.Num → Exact × FlagSet) (i : Nat) : Nat × FlagSet := packTy ty (s.mode rm) sat (g (valueOf ty (a i)))
      let fn (g : Func) (i : Nat) : Nat × FlagSet := g.apply ty (s.mode rm) sat (a i)
      Lanewise (.vsqrt h vd va ty rm sat) h pc vd w (num Num.sqrt) s ∧ Lanewise (.vrsqrt h vd va ty rm sat) h pc vd w (num Num.rsqrt) s ∧
      Lanewise (.vrcp h vd va ty rm sat) h pc vd w (num Num.rcp) s ∧ Lanewise (.vexp h vd va ty rm sat) h pc vd w (fn .exp) s ∧
      Lanewise (.vexp2 h vd va ty rm sat) h pc vd w (fn .exp2) s ∧ Lanewise (.vlog2 h vd va ty rm sat) h pc vd w (fn .log2) s ∧
      Lanewise (.vtanh h vd va ty rm sat) h pc vd w (fn .tanh) s ∧ Lanewise (.vsigm h vd va ty rm sat) h pc vd w (fn .sigm) s ∧
      Lanewise (.vgelu h vd va ty rm sat) h pc vd w (fn .gelu) s ∧
      Lanewise (.vround h vd va ty rm) h pc vd w (fun i => roundIntegral ((fmtOf ty).getD f32Fmt) (s.mode rm) (a i)) s ∧
      Lanewise (.vmin h vd va vb ty) h pc vd w (fun i => minMax ty false false (a i) (b i)) s ∧
      Lanewise (.vmax h vd va vb ty) h pc vd w (fun i => minMax ty true false (a i) (b i)) s ∧
      Lanewise (.vminn h vd va vb ty) h pc vd w (fun i => minMax ty false true (a i) (b i)) s ∧
      Lanewise (.vmaxn h vd va vb ty) h pc vd w (fun i => minMax ty true true (a i) (b i)) s ∧
      Lanewise (.vclamp h vd va vb vc ty) h pc vd w
        (fun i => let m := minMax ty true false (a i) (b i)
          let r := minMax ty false false m.1 (el s vc w i)
          (r.1, m.2 ||| r.2)) s ∧
      (fmtOf ty = none → ∀ x y, intValue ty (minMax ty false false x y).1 = min (intValue ty x) (intValue ty y) ∧
        intValue ty (minMax ty true false x y).1 = max (intValue ty x) (intValue ty y))

/-- O13. For a legal shape, registers in REG banks and, for the accumulator instructions, no matrix command in flight that
names the accumulator, vcvt converts each enabled lane from its source type, under stochastic rounding by the counter
hash of %srkey and %srctr plus the lane number, raises the flags of those conversions, advances %srctr by the lane count
exactly when stochastic rounding is in effect, and updates %amax from the source lanes exactly with its amax modifier;
vrdacc converts an accumulator's lanes from FP32, with their flags, and updates %amax likewise; vaddacc adds lanes into an accumulator in FP32; vzacc clears one accumulator; everything else stays.
(06_vector_instructions.md Conversions and Accumulators.) -/
def Obligations.ConversionsAndAccumulators : Prop :=
  ∀ (h : Head) (vd va : VReg) (acc : Acc) (src ty : ElemTy) (rm : Rm) (amax sat : Bool) (pc : PcWord) (s : State),
    CanIssue h 1 pc s →
      let w := ty.width
      let rest (s t : State) : Prop :=
        Kept id (fun c => { c with pool := [], poolUe := [], vlive := 0, amax := 0, srctr := 0 }) (fun st => { st with flags := 0 }) s t ∧
          RegsBut 0 s t ∧ MemSame s t
      let flags (r : Nat → Nat × FlagSet) (t : State) : Prop :=
        t.st.flags = s.st.flags ||| ((enabled h s).map fun i => (r i).2).foldl (· ||| ·) 0
      let high (i : Nat) : Nat := (counterHash s.cur.srkey (s.cur.srctr + BitVec.ofNat 64 i)).toNat / 2 ^ 32
      let laneMode (i : Nat) : Mode := if s.isRs src ty rm then .rs (high i) else s.mode rm
      let vcvt (i : Nat) : Nat × FlagSet := convert src ty (laneMode i) sat (el s va src.width i)
      let vrdacc (i : Nat) : Nat × FlagSet := convert .f32 ty (s.mode rm) sat (el s (accReg acc) 32 i)
      (ShapeReady [ty.width, src.width] s → RegsReady [vd] [va] s →
        Completes (.vcvt h vd va src ty rm amax sat) h 1 pc s fun t =>
          Elements vd w (fun i => i ∈ enabled h s) (fun i => (vcvt i).1) s t ∧ flags vcvt t ∧
          t.cur.srctr = (if s.isRs src ty rm then s.cur.srctr + BitVec.ofNat 64 (lanes s) else s.cur.srctr) ∧
          t.cur.amax = (if amax then (enabled h s).foldl (fun m i => amaxUpdate m (valueOf src (el s va src.width i))) s.cur.amax
            else s.cur.amax) ∧ rest s t) ∧
      (s.cur.matrix.namesAcc acc.toNat = false →
        (ShapeReady [ty.width, 32] s → RegsReady [vd] [accReg acc] s →
          Completes (.vrdacc h vd acc ty rm amax sat) h 1 pc s fun t =>
            Elements vd w (fun i => i ∈ enabled h s) (fun i => (vrdacc i).1) s t ∧ flags vrdacc t ∧ t.cur.srctr = s.cur.srctr ∧
            t.cur.amax = (if amax then (enabled h s).foldl (fun m i => amaxUpdate m (valueOf .f32 (el s (accReg acc) 32 i))) s.cur.amax
              else s.cur.amax) ∧ rest s t) ∧
        (ShapeReady [32, ty.width] s → RegsReady [] [accReg acc, va] s →
          Lanewise (.vaddacc h acc va ty rm) h pc (accReg acc) 32
            (fun i => packTy .f32 (s.mode rm) false ((f32Fmt.value (el s (accReg acc) 32 i)).add (valueOf ty (el s va w i)))) s) ∧
        (s.guardBit h = true →
          Completes (.vzacc h acc) h 1 pc s fun t =>
            t.cur.image (320 + acc.toNat) = 0 ∧ (∀ k, k < 384 → k ≠ 320 + acc.toNat → t.cur.image k = s.cur.image k) ∧ VecFrame s t))

/-- O14. For a legal shape, vcmp, vpand, vpor, vpnot and vdrop complete: the bits of the enabled lanes of pd take the
condition's value, all its other bits and the other predicates stay, and p0 keeps reading all ones. The conditions of
vcmp compare the values of the lanes: integers in the signedness of the type; every condition but .ne and .un is false
of a NaN, zeros are equal whatever their sign, and nv is raised where an enabled lane holds a signalling NaN, and no
other flag. vdrop keeps the lanes whose random word is at least the threshold, which for a threshold of 0 is each, and
advances %vrctr by the lane count; vpcnt writes the number of enabled lanes whose bit is 1, and vpfirst the lowest such
lane or the lane count; nothing else changes. (R142, R144, R154.) -/
def Obligations.PredicateInstructions : Prop :=
  ∀ (h : Head) (pd pa pb : PReg) (va vb : VReg) (ra rd : Reg) (ty : ElemTy) (cond : BitVec 3) (pc : PcWord) (s : State),
    CanIssue h 1 pc s → ShapeReady [ty.width] s →
      let bit (p : PReg) (i : Nat) : Bool := (s.cur.pred p).getLsbD i
      let done (i : Instr) (f : Nat → Bool) (ctr : W64) (raised : FlagSet) : Prop := Completes i h 1 pc s fun t =>
        PredLanes h pd f s t ∧ t.cur.vrctr = ctr ∧ t.st.flags = s.st.flags ||| raised ∧
          Kept id (fun c => { c with preds := [], vrctr := 0 }) (fun st => { st with flags := 0 }) s t ∧ RegsBut 0 s t ∧ MemSame s t
      let a (i : Nat) : Machine.Num := valueOf ty (el s va ty.width i)
      let b (i : Nat) : Machine.Num := valueOf ty (el s vb ty.width i)
      (RegsReady [] [va, vb] s →
        done (.vcmp h pd va vb ty cond) (fun i => compare' cond (a i) (b i)) s.cur.vrctr
          (if (enabled h s).any fun i => (a i).isSig || (b i).isSig then flagNv else 0)) ∧
      (∀ x y : Nat, fmtOf ty = none →
        let u := intValue ty x
        let v := intValue ty y
        compare' cond (valueOf ty x) (valueOf ty y) =
          [decide (u = v), decide (u ≠ v), decide (u < v), decide (u ≤ v), decide (v < u), decide (v ≤ u)].getD cond.toNat false) ∧
      (∀ x y : Machine.Num, x.isNan = true ∨ y.isNan = true → compare' cond x y = decide (cond = 1 ∨ 6 ≤ cond)) ∧
      (∀ (x y : Machine.Num) m n j k, x = .fin m 0 j → y = .fin n 0 k → compare' cond x y = decide (cond = 0 ∨ cond = 3 ∨ cond = 5)) ∧
      done (.vpand h pd pa pb) (fun i => bit pa i && bit pb i) s.cur.vrctr 0 ∧
      done (.vpor h pd pa pb) (fun i => bit pa i || bit pb i) s.cur.vrctr 0 ∧
      done (.vpnot h pd pa) (fun i => !bit pa i) s.cur.vrctr 0 ∧
      done (.vdrop h pd ra)
        (fun i => decide ((s.rx ra).toNat % 2 ^ 32 ≤ (counterHash s.cur.vrkey (s.cur.vrctr + BitVec.ofNat 64 i)).toNat / 2 ^ 32))
        (s.cur.vrctr + BitVec.ofNat 64 (lanes s)) 0 ∧
      Sets (.vpcnt h rd pa) h 1 pc rd (BitVec.ofNat 64 ((enabled h s).countP (bit pa))) s ∧
      Sets (.vpfirst h rd pa) h 1 pc rd (BitVec.ofNat 64 (((enabled h s).find? (bit pa)).getD (lanes s))) s

/-- O15. For a legal shape and registers in REG banks, vrsum, vrmax and vrmin write to element r of vd the sum, maximum or
minimum of row r, vcsum writes to element c the sum of column c, and vscan writes each row's prefix sums, all over
lanes whose disabled members are replaced by the operation's identity; every other element, register and memory stays,
and for an integer type the row sum is the exact sum saturated into the type. (That a disabled lane gives vscan the
identity is log entry 47.) (R85, R86, R146, R147.) -/
def Obligations.ReductionsAndScans : Prop :=
  ∀ (h : Head) (vd va : VReg) (ty : ElemTy) (rm : Rm) (excl : Bool) (pc : PcWord) (s : State),
    CanIssue h 1 pc s → ShapeReady [ty.width] s → RegsReady [vd] [va] s →
      let w := ty.width
      let rows := s.st.vshapeRows.toNat
      let cols := s.st.vshapeCols.toNat
      let row (ident r : Nat) : List Nat := laneValues h va w ident ((List.range cols).map fun c => r * cols + c) s
      let col (ident c : Nat) : List Nat := laneValues h va w ident ((List.range rows).map fun r => r * cols + c) s
      let done (i : Instr) (n : Nat) (f : Nat → Nat) : Prop := Completes i h 1 pc s fun t =>
        Elements vd w (· < n) f s t ∧ VecFrame s t
      done (.vrsum h vd va ty rm) rows (fun r => (treeSum ty (s.mode rm) (row (sumIdent ty) r)).1) ∧
      done (.vrmax h vd va ty) rows (fun r => (foldMinMax ty true (row (maxIdent ty) r)).1) ∧
      done (.vrmin h vd va ty) rows (fun r => (foldMinMax ty false (row (minIdent ty) r)).1) ∧
      done (.vcsum h vd va ty rm) cols (fun c => (treeSum ty (s.mode rm) (col (sumIdent ty) c)).1) ∧
      done (.vscan h vd va ty rm excl) (rows * cols)
        (fun i => (((scanRow ty (s.mode rm) excl (row (sumIdent ty) (i / cols))).1).getD (i % cols) (0, 0)).1) ∧
      (fmtOf ty = none → ∀ r, (treeSum ty (s.mode rm) (row 0 r)).1 =
        ((max (intMin ty) (min (intMax ty) ((row 0 r).map (intValue ty)).sum)) % 2 ^ w).toNat)

/-- O16. For a legal shape and registers in REG banks, vtrans writes the transposed tile; vperm and vlut write the element
that a 16-bit index names, or 0 for one out of range; vrmrg writes the merged rows; vrand writes lane by lane from the
counter hash and advances %vrctr by the lane count; vidx writes the lane, row or column number; vsortk writes to each
row the first k keys of the row and, in its second destination, their columns, in an order that is a permutation of
the row, descends, and keeps the columns of equal keys ascending, whose index writes follow the key writes; columns k
and above, other elements and registers stay, and a signalling NaN raises nv. (R148, R149, R150, R151, R153, R155.) -/
def Obligations.PermutesSortsAndGenerators : Prop :=
  ∀ (h : Head) (vd va vb : VReg) (ty : ElemTy) (rm : Rm) (byRow : Bool) (sh km1 : BitVec 9) (form : BitVec 2) (pc : PcWord) (s : State),
    CanIssue h 1 pc s →
      let w := ty.width
      let rows := s.st.vshapeRows.toNat
      let cols := s.st.vshapeCols.toNat
      let a := el s va w
      let j := el s vb 16
      (ShapeReady [w] s → RegsReady [vd] [va] s → s.guardBit h = true →
        Completes (.vtrans h vd va ty) h 1 pc s fun t =>
          Elements vd w (· < lanes s) (fun i => a (i % rows * cols + i / rows)) s t ∧ VecFrame s t) ∧
      (ShapeReady [w, 16] s → RegsReady [vd] [va, vb] s →
        Lanewise (.vperm h vd va vb ty byRow) h pc vd w
          (fun i => (if byRow then if j i < cols then a (i / cols * cols + j i) else 0
            else if j i < lanes s then a (j i) else 0, 0)) s ∧
        Lanewise (.vlut h vd va vb ty) h pc vd w (fun i => (if j i < 16384 / w then a (j i) else 0, 0)) s) ∧
      (RegsReady [vd] [va, vb] s → s.guardBit h = true → sh.toNat ≤ 128 →
        Completes (.vrmrg h vd va vb sh ty) h 1 pc s fun t =>
          Elements vd 1024 (fun _ => True) (fun r => el s va 1024 r / 2 ^ (8 * sh.toNat) + el s vb 1024 r * 2 ^ (8 * (128 - sh.toNat))) s t ∧
            VecFrame s t) ∧
      (ShapeReady [w] s → RegsReady [vd] [] s →
        (Completes (.vrand h vd ty) h 1 pc s fun t =>
          Elements vd w (fun i => i ∈ enabled h s)
            (fun i => randElem ty (counterHash s.cur.vrkey (s.cur.vrctr + BitVec.ofNat 64 i))) s t ∧
          t.cur.vrctr = s.cur.vrctr + BitVec.ofNat 64 (lanes s) ∧ RegsBut 0 s t ∧ MemSame s t ∧
          Kept id (fun c => { c with pool := [], poolUe := [], vlive := 0, vrctr := 0 }) (fun st => { st with flags := 0 }) s t) ∧
        Lanewise (.vidx h vd ty rm form) h pc vd w
          (fun i => indexElem ty (s.mode rm) (if form = 1 then i / cols else if form = 2 then i % cols else i)) s) ∧
      (ShapeReady [w, 16] s → RegsReady [vd, vb] [va] s → s.guardBit h = true →
        let keys (r : Nat) : List (Nat × Nat) := (List.range cols).map fun c => (a (r * cols + c), c)
        let sorted (r : Nat) : List (Nat × Nat) := sortKeys ty (keys r)
        let k := min (km1.toNat + 1) cols
        let written (i : Nat) : Prop := i < lanes s ∧ i % cols < k
        (∀ r, (sorted r).Perm (keys r) ∧ (sorted r).Pairwise fun x y => sortRank ty y.1 < sortRank ty x.1 ∨
          sortRank ty y.1 = sortRank ty x.1 ∧ x.2 < y.2) ∧
        Completes (.vsortk h vd va vb km1 ty) h 1 pc s fun t =>
          (∀ r c, r < rows → c < k → el t vb 16 (r * cols + c) = ((sorted r).getD c (0, 0)).2 ∧
            (vd ≠ vb → el t vd w (r * cols + c) = ((sorted r).getD c (0, 0)).1)) ∧
          (vd ≠ vb → (∀ i, i < 16384 / w → ¬ written i → el t vd w i = el s vd w i) ∧
            ∀ i, i < 1024 → ¬ written i → el t vb 16 i = el s vb 16 i) ∧
          (∀ k, k < 384 → k ≠ vd.toNat → k ≠ vb.toNat → t.cur.image k = s.cur.image k) ∧
          t.st.flags = s.st.flags ||| ((List.range (lanes s)).map fun i => sigFlag [valueOf ty (a i)]).foldl (· ||| ·) 0 ∧ VecFrame s t)

/-- O17. For a legal shape and registers in REG banks, vpush appends the enabled lanes of va in ascending order to vd and
past its capacity to another register vb, and vpop fills the enabled lanes from va and then vb; each advances its own
position in %vsp and sets its crossing bit exactly when it reached the capacity. vextr reads, and vins writes, one
element by an index that out of range reads 0 and writes nothing. vshape sets rows and columns; vlive and vlive.none
set the live count. Everything else stays. (R131, R157, R158, R159, R124.) -/
def Obligations.ConditionalStreamsAndSingleElements : Prop :=
  ∀ (h : Head) (vd va vb : VReg) (rd ra rb : Reg) (ty : ElemTy) (rl cl : BitVec 9) (rh ch : BitVec 2) (pc : PcWord) (s : State),
    CanIssue h 1 pc s →
      let w := ty.width
      let c := 16384 / w
      let es := enabled h s
      let cross (lo bit n : Nat) (t : State) : Prop :=
        t.st.vsp.toNat / 2 ^ lo % 2 ^ 12 = n % c ∧ t.st.vsp.getLsbD bit = decide (c ≤ n) ∧
          ∀ i, i < 64 → (i < lo ∨ lo + 12 ≤ i) → i ≠ bit → t.st.vsp.getLsbD i = s.st.vsp.getLsbD i
      let rest (t : State) : Prop :=
        Kept id (fun c => { c with pool := [], poolUe := [], vlive := 0 }) (fun st => { st with vsp := 0 }) s t ∧ RegsBut 0 s t ∧ MemSame s t
      (ShapeReady [w] s → RegsReady [vd, vb] [va] s → vd ≠ vb →
        let f := s.st.vsp.toNat % 2 ^ 12 % c
        Completes (.vpush h vd va vb ty) h 1 pc s fun t =>
          (∀ n, n < es.length → f + n < c → el t vd w (f + n) = el s va w (es.getD n 0)) ∧
          (∀ n, n < es.length → c ≤ f + n → el t vb w (f + n - c) = el s va w (es.getD n 0)) ∧
          (∀ i, i < c → i < f ∨ f + es.length ≤ i → el t vd w i = el s vd w i) ∧
          (∀ i, i < c → f + es.length ≤ c + i → el t vb w i = el s vb w i) ∧
          (∀ k, k < 384 → k ≠ vd.toNat → k ≠ vb.toNat → t.cur.image k = s.cur.image k) ∧
          cross 0 32 (f + es.length) t ∧ rest t) ∧
      (ShapeReady [w] s → RegsReady [vd] [va, vb] s →
        let q := s.st.vsp.toNat / 2 ^ 16 % 2 ^ 12 % c
        Completes (.vpop h vd va vb ty) h 1 pc s fun t =>
          (∀ n, n < es.length → el t vd w (es.getD n 0) = if q + n < c then el s va w (q + n) else el s vb w (q + n - c)) ∧
          (∀ i, i < c → i ∉ es → el t vd w i = el s vd w i) ∧
          (∀ k, k < 384 → k ≠ vd.toNat → t.cur.image k = s.cur.image k) ∧ cross 16 33 (q + es.length) t ∧ rest t) ∧
      (s.guardBit h = true →
        (RegsReady [] [va] s →
          let i := (s.rx rb).toNat
          Sets (.vextr h rd va rb ty) h 1 pc rd
            (if i < c then BitVec.ofInt 64 (if ty = .i4 then el s va w i else intValue ty (el s va w i)) else 0) s) ∧
        (RegsReady [vd] [] s →
          (Completes (.vins h vd ra rb ty) h 1 pc s fun t =>
            Elements vd w (· = (s.rx rb).toNat) (fun _ => (s.rx ra).toNat) s t ∧ VecFrame s t) ∧
          (vd.toNat < 320 → Completes (.vlive h vd) h 1 pc s fun t =>
            t.cur.vlive.toNat = vd.toNat + 1 ∧ Kept id (fun c => { c with vlive := 0 }) id s t ∧ RegsBut 0 s t ∧ MemSame s t)) ∧
        (Completes (.vliveNone h) h 1 pc s fun t =>
          t.cur.vlive = 0 ∧ Kept id (fun c => { c with vlive := 0 }) id s t ∧ RegsBut 0 s t ∧ MemSame s t) ∧
        Completes (.vshape h rl cl ch rh) h 1 pc s fun t =>
          t.st.vshapeRows.toNat = rh.toNat * 512 + rl.toNat + 1 ∧ t.st.vshapeCols.toNat = ch.toNat * 512 + cl.toNat + 1 ∧
          Kept id id (fun st => { st with vshapeRows := 0, vshapeCols := 0 }) s t ∧ RegsBut 0 s t ∧ MemSame s t)

/-- O18. For every queued matrix command whose head can issue under a true guard: where fewer than 16 commands stand in
the engine and no check of R176 or R177 fails, it retires with its fields, the values of its scalar registers, the
TILE bank count and the metadata row captured in a new entry at the end of the queue, and changes nothing else; where
16 stand, it waits in WAIT_ENGINE bounded by %tlim; where a check fails, it traps and does not retire. A dense mmul or
mmulz from registers is refused by no check exactly when its first word is zero, its shape word has no bit outside the
fields of R172, K is at least 1, M is at most 128, acc + ceil(M/2) is at most 64, its A image ends within v319, and
its weight rows end within the TILE banks; a failure of the first of these is check 1 and then K = 0 is check 2;
mmulg, and mbias with group counts, whose counts sum above 128 raise RAGGED_BOUND with the sum, whatever else fails.
(R166, R176, R26, R177.) -/
def Obligations.MatrixCommandsEnterTheQueue : Prop :=
  (
    ∀ (h : Head) (ra rb : Reg) (acc : Acc) (v : VReg) (swen ssen : Bool) (semw sems : BitVec 6) (ty : ElemTy) (rot : BitVec 4)
      (m : Bool) (pc : PcWord) (s : State),
      CanIssue h 1 pc s → s.guardBit h = true →
        let z : MSem := ⟨swen, semw, ssen, sems⟩
        let commands : List (Instr × MCmd × Reg × Reg) :=
          [(.mmul h ra rb acc v swen semw ssen sems ty rot m, mcmd 0x80 acc v z ty.code rot m, ra, rb),
            (.mmuls h ra rb acc v swen semw ssen sems ty rot m, mcmd 0x81 acc v z ty.code rot m, ra, rb),
            (.mmulg h ra rb acc v swen semw ssen sems ty, mcmd 0x82 acc v z ty.code 0 false, ra, rb),
            (.mmulz h ra rb acc v swen semw ssen sems ty rot m, mcmd 0x83 acc v z ty.code rot m, ra, rb),
            (.mdrain h ra rb acc v swen semw ssen sems ty rot m, mcmd 0x84 acc v z ty.code rot m, ra, rb),
            (.mscl h v swen semw ssen sems m, mcmd 0x85 0 v z 0xA 0 m, 0, 0),
            (.msclOff h swen semw ssen sems m, mcmd 0x85 0 0 z 0 0 m, 0, 0),
            (.mbias h ra v swen semw ssen sems m, mcmd 0x86 0 v z 0xA 0 m, ra, 0),
            (.mbiasOff h swen semw ssen sems, mcmd 0x86 0 0 z 0 0 false, 0, 0),
            (.mact h ra swen semw ssen sems, mcmd 0x87 0 0 z 0 0 false, ra, 0),
            (.mwld h ra rb v swen semw ssen sems rot, mcmd 0x88 0 v z 0 rot false, ra, rb),
            (.mwstr h ra rb v swen semw ssen sems, mcmd 0x89 0 v z 0 0 false, ra, rb),
            (.mwwait h swen semw ssen sems, mcmd 0x8A 0 0 z 0 0 false, 0, 0),
            (.mmeta h ra swen semw ssen sems, mcmd 0x8B 0 0 z 0 0 false, ra, 0),
            (.mfmt h ra swen semw ssen sems, mcmd 0x8C 0 0 z 0 0 false, ra, 0),
            (.mqst h v swen semw ssen sems, mcmd 0x8E 0 v z 0 0 false, 0, 0),
            (.mconv h ra rb acc v swen semw ssen sems ty rot, mcmd 0x8F acc v z ty.code rot false, ra, rb),
            (.mdwc h ra rb acc v swen semw ssen sems ty rot, mcmd 0x90 acc v z ty.code rot false, ra, rb),
            (.mtr h ra rb v swen semw ssen sems ty rot, mcmd 0x91 0 v z ty.code rot false, ra, rb),
            (.macc h acc v swen semw ssen sems, mcmd 0x92 acc v z 0xA 0 false, 0, 0),
            (.mcpyOut h acc v swen semw ssen sems, mcmd 0x93 acc v z 0 0 false, 0, 0),
            (.mcpyIn h acc v swen semw ssen sems, mcmd 0x93 acc v z 0 0 true, 0, 0),
            (.msem h swen semw ssen sems, mcmd 0x94 0 0 z 0 0 false, 0, 0)]
        ∀ e ∈ commands,
          let e' := s.cur.matrix
          let c : MCmd :=
            { e.2.1 with
              seq := e'.accepted % 2 ^ 16, num := e'.accepted, wa := s.rx e.2.2.1, wb := s.rx e.2.2.2
              t := (s.cur.banksOf 2).length, mrow := e'.metaNext.toNat }
          (e'.qlen < 16 → c.refusal = none → Completes e.1 h 1 pc s fun t =>
            t.cur.matrix.queue = e'.queue ++ [c] ∧ t.cur.matrix.accepted = e'.accepted + 1 ∧ t.cur.matrix.qlen = e'.qlen + 1 ∧
              t.cur.matrix.metaNext = (if c.op = 0x8B then c.wa.setWidth 13 else e'.metaNext) ∧
              Kept id (fun k => { k with matrix := { k.matrix with queue := [], accepted := 0, metaNext := 0 } }) id s t ∧
              RegsBut 0 s t ∧ MemSame s t) ∧
          (16 ≤ e'.qlen → Waits e.1 .matrixQueue s.st.tlim.toNat s) ∧
          ∀ tr, e'.qlen < 16 → c.refusal = some tr → Ordinary s → Traps e.1 tr s) ∧
  (
    (∀ c : MCmd, (c.op = 0x80 ∨ c.op = 0x83) → c.mod = false →
      let k := c.wb.toNat / 2 ^ 16 % 2 ^ 13
      let m := c.wb.toNat / 2 ^ 32 % 2 ^ 8 + 1
      let trow := c.wb.toNat % 2 ^ 13
      let w := (ElemTy.ofCode c.ty).width
      (c.refusal = none ↔
        c.wa = 0 ∧ c.wb &&& ~~~0x0000FFFF1FFF1FFF#64 = 0 ∧ 1 ≤ k ∧ m ≤ 128 ∧ c.acc + (m + 1) / 2 ≤ 64 ∧
          c.v * 2048 + 16 * w * k ≤ 655360 ∧ trow + w * k / 4 ≤ 512 * c.t) ∧
      (c.wa ≠ 0 → c.refusal = some { code := .matrixParam, faddr := 1 }) ∧
      (c.wa = 0 → c.wb &&& ~~~0x0000FFFF1FFF1FFF#64 = 0 → k = 0 → c.refusal = some { code := .matrixParam, faddr := 2 })) ∧
    ∀ c : MCmd, (c.op = 0x82 ∨ c.op = 0x86 ∧ c.mod = true) →
      let sum := ((List.range 8).map fun g => c.wa.toNat / 2 ^ (8 * g) % 256).sum
      128 < sum → c.refusal = some { code := .raggedBound, faddr := BitVec.ofNat 64 sum })

/-- O19. Where the engine of a core runs and its head command may start, MATRIX_COMMAND_START moves it from the queue into
execution, taking one from its semaphore first where it asks for that and the semaphore allows it;
MATRIX_COMMAND_COMPLETE of an executing mact, mfmt, mmeta or msem sets the epilogue state it names, counts it as done,
ends it and signals its semaphore; MATRIX_SEM_EXPIRED past the limit of the head's wait raises MATRIX_SEM_EXPIRED for
the engine and the context's halt line. msync retires when no command stands in the engine and else waits; mabort
empties the queue, counts what it discarded, and retires when nothing executes. (R167, R168, R187, R188.) -/
def Obligations.MatrixEngineStartsCompletesAndExpires : Prop :=
  (∀ (s : State) (c : MCmd) (rest : List MCmd),
    let k := s.ev.core
    let e := (s.core k).matrix
    e.queue = c :: rest → s.engineRuns k = true → e.mayStart c = true →
      ((c.swen = false ∨ c.semTaken = true) → ∃ t, Machine.exec .matrixCommandStart s = .next t ∧
        (t.core k).matrix =
          { e with queue := rest, running := if c.isLoad then e.running else some c, weights := if c.isLoad then e.weights ++ [c] else e.weights }) ∧
      (c.swen = true → c.semTaken = false → ((s.core k).sem c.semw).waiters = [] → 0 < ((s.core k).sem c.semw).value.toNat →
        ∃ t, Machine.exec .matrixCommandStart s = .next t ∧ (t.core k).matrix.queue = rest ∧
          ((t.core k).sem c.semw).value = ((s.core k).sem c.semw).value - 1) ∧
      (c.swen = true → c.semTaken = false → ((s.core k).sem c.semw).value = 0 →
        ∃ t, Machine.exec .matrixCommandStart s = .next t ∧ (t.core k).matrix.running = e.running ∧
          (t.core k).matrix.queue.length = rest.length + 1)) ∧
  (∀ (s : State) (c : MCmd),
    let k := s.ev.core
    let e := (s.core k).matrix
    e.running = some c → c.num = s.ev.n → s.ev.flag = false → c.progress = 0 → c.outs = [] → s.engineRuns k = true → c.op ∈ [0x87, 0x8B, 0x8C, 0x94] →
      (c.ssen = true → ((s.core k).sem c.sems).value.toNat < 0xFFFF) →
        ∃ t, Machine.exec .matrixCommandComplete s = .next t ∧ (t.core k).matrix.running = none ∧ (t.core k).matrix.done = e.done + 1 ∧
          (t.core k).matrix.queue = e.queue ∧ (t.core k).matrix.act = (if c.op = 0x87 then c.wa else e.act) ∧
          (t.core k).matrix.fmt = (if c.op = 0x8C then c.wa.setWidth 4 else e.fmt) ∧
          (t.core k).matrix.metaRow = (if c.op = 0x8B then c.wa.setWidth 13 else e.metaRow) ∧
          ((t.core k).sem c.sems).value = (if c.ssen then ((s.core k).sem c.sems).value + 1 else ((s.core k).sem c.sems).value) ∧
          (t.core k).pool = (s.core k).pool) ∧
  (∀ (s : State) (c : MCmd) (rest : List MCmd) (since lim : Nat) (v : Slice),
    let k := s.ev.core
    (s.core k).matrix.queue = c :: rest → c.waitSince = some (since, lim) → s.engineRuns k = true → lim ≠ 0 →
      lim < s.cyclesOf k - since → s.sliceOf k = some v → v.handler = false → (s.ctx v.ctx).halt = none →
        let tr : Trap := { code := .matrixSemExpired, faddr := BitVec.ofNat 64 c.semw }
        ∃ t, Machine.exec .matrixSemExpired s = .next t ∧ (t.core k).matrix.trap = some tr ∧ (t.core k).matrix.trapNum = c.num ∧
          (t.ctx v.ctx).halt = some s.time ∧ (t.ctx v.ctx).cause = some (.matrix k, tr)) ∧
  ∀ (h : Head) (pc : PcWord) (s : State), CanIssue h 1 pc s → s.guardBit h = true → s.st.capt = none →
    let e := s.cur.matrix
    (e.qlen = 0 → Completes (.msync h) h 1 pc s fun t => Kept id id id s t ∧ RegsBut 0 s t ∧ MemSame s t) ∧
    (0 < e.qlen → Waits (.msync h) .matrixDone s.st.tlim.toNat s) ∧
    (e.running = none → e.weights = [] → Completes (.mabort h) h 1 pc s fun t =>
      t.cur.matrix = { e with queue := [], aborted := BitVec.ofNat 8 (min 255 (e.aborted.toNat + e.queue.length)), metaNext := e.metaRow } ∧
        Kept id (fun k => { k with matrix := {}, sems := [] }) id s t ∧ RegsBut 0 s t ∧ MemSame s t)

/-- O20. For every type of ld and a head that can issue under a true guard: in MEM, the unit at x[ra] + off modulo 2^56,
aligned down, on a readable DEV page whose row is sound, completes with the bytes that the core sees there in rd,
sign-extended for .i types and zero-extended for .n types, storing nothing; on a HOST or PEER page the head sends one
read of the unit and waits; a failing translation or permission traps MEM_FAULT, not resumable. In POOL and CLUSTER, a
unit in an SCR bank completes with its bytes and changes nothing else, and a bank of another role traps POOL_ROLE. Once
the completion of a HOST or PEER read has come, the load retires in free-run with the bytes in rd and changes nothing
else, and in record mode also logs an HDATA record with them; a poisoned completion, or a refusal, traps
DATA_UNCORRECTABLE under the trapping policy, and under the other retires with 0, the poison bit and a POISON record.
(R193, R194, R197, R202, R113, R338, R339, R354, R383.) -/
def Obligations.ScalarLoads : Prop :=
  ∀ (h : Head) (reg ra : Reg) (rot : BitVec 4) (off : BitVec 24) (pc : PcWord) (s : State),
    ∀ f ∈ ([(.i8, 1, true), (.n8, 1, false), (.i16, 2, true), (.n16, 2, false), (.i32, 4, true), (.n32, 4, false),
        (.i64, 8, true), (.n64, 8, false)] : List (ElemTy × Nat × Bool)),
      let n := f.2.1
      let ext (v : Nat) : W64 := if f.2.2 = true ∧ 2 ^ (8 * n - 1) ≤ v then BitVec.ofInt 64 ((v : Int) - 2 ^ (8 * n)) else BitVec.ofNat 64 v
      let a := (((s.rx ra).toNat + off.toInt) % 2 ^ 56).toNat
      let va := a - a % n
      let q := off.toNat % 2 ^ 22 - off.toNat % 2 ^ 22 % n
      (CanIssue h 1 pc s → s.guardBit h = true →
        (∀ e, s.accessEntry va n .read = .ok e →
          let p := e.phys va
          (e.cls = 0 → Sound s (p / 128) → Completes (.ld h reg ra rot f.1 0 off) h 1 pc s fun t =>
            t.rx reg = (if reg = 0 then 0 else ext (seen s (p / 128) / 2 ^ (8 * (p % 128)) % 2 ^ (8 * n))) ∧ RegsBut reg s t ∧
              Cached id (fun _ => False) s t) ∧
          (e.cls ≠ 0 →
            ReadsOut (.ld h reg ra rot f.1 0 off) e va n s)) ∧
        (∀ tr, s.accessEntry va n .read = .error tr → Ordinary s →
          tr = { code := .memFault, faddr := BitVec.ofNat 64 va, detail := 0, resumable := false } ∧ Traps (.ld h reg ra rot f.1 0 off) tr s) ∧
        ∀ space core, Reaches s space off core →
          let role := tblGet 0 (s.core core).roles (scrBank rot q)
          (role = 5 → (s.core core).poolUe.contains (scrBank rot q * 512 + scrRow q) = false →
            Sets (.ld h reg ra rot f.1 space off) h 1 pc reg
              (ext ((s.core core).poolRow (scrBank rot q) (scrRow q) / 2 ^ (8 * (q % 128)) % 2 ^ (8 * n))) s) ∧
          (role ≠ 5 → Ordinary s →
            Traps (.ld h reg ra rot f.1 space off)
              { code := .poolRole
                faddr := BitVec.ofNat 64 (scrBank rot q * 2 ^ 16 + q % 2 ^ 16 + role * 2 ^ 24 + core % 4 * 2 ^ 28) } s)) ∧
      ∀ (e : TlbEntry) (c : Completion), CanFinish pc s → Answered 0 e c s →
        let i : Instr := .ld h reg ra rot f.1 0 off
        let x := s.curCtx
        let loads (v : Nat) (P : State → Prop) : Prop := Finishes i h pc s fun t =>
          t.rx reg = (if reg = 0 then 0 else ext v) ∧ RegsBut reg s t ∧ P t
        let record : List Nat := [1 + x * 2 ^ 8 + s.curCore * 2 ^ 14 + s.curK.num * 2 ^ 22, va, e.phys va, s.time]
        (∀ u : BitVec 1024, c = .data u → u.toNat < 2 ^ (8 * n) →
          ((s.ctx x).replayMode = 0 → loads u.toNat fun t => Kept id id id s t ∧ MemSame s t) ∧
          ((s.ctx x).replayMode = 1 → s.curCore < 192 → loads u.toNat fun t =>
            Logged x (s.curCore / 96) 6 s.curCore s.curK.num 0 s.st.rc.toNat u.toNat s t ∧
              KeptHome (fun u => { u with ctxs := tblMap u.ctxs fun c => { c with replayOvf := false }, heldAppends := [] }) id id s t)) ∧
        (c = .poisoned ∨ c = .refused → Ordinary s →
          ((s.ctx x).ue = false → Traps i { code := .dataUncorrectable, faddr := BitVec.ofNat 64 va, detail := 0 } s) ∧
          ((s.ctx x).ue = true → loads 0 fun t => t.st.flags = s.st.flags ||| 0x20 ∧
            Mailed (s.ctx x).part (fun j => record.getD j 0) s t ∧
              KeptHome (fun u => { u with parts := [], heldAppends := [], fabric := {} }) id (fun st => { st with flags := 0 }) s t))

/-- O21. For every type of st and a head that can issue under a true guard: in MEM, on a writable DEV page, it completes,
and the core then sees the row with exactly the bytes of the unit (x[ra] + off modulo 2^56, aligned down) replaced by
the low bytes of x[reg]; every other byte of memory stays (a dirty line that a fill pushes out apart), and no scalar
register changes; on a HOST or PEER page it completes with one write on the port; a failing translation traps
MEM_FAULT. In POOL and CLUSTER, an SCR row takes exactly those bytes, and every other row of every pool stays. (R193,
R194, R197, R202, R254.) -/
def Obligations.ScalarStores : Prop :=
  ∀ (h : Head) (reg ra : Reg) (rot : BitVec 4) (off : BitVec 24) (pc : PcWord) (s : State),
    CanIssue h 1 pc s → s.guardBit h = true →
      ∀ f ∈ ([(.i8, 1), (.n8, 1), (.i16, 2), (.n16, 2), (.i32, 4), (.n32, 4), (.i64, 8), (.n64, 8)] : List (ElemTy × Nat)),
        let n := f.2
        let v := (s.rx reg).toNat % 2 ^ (8 * n)
        let a := (((s.rx ra).toNat + off.toInt) % 2 ^ 56).toNat
        let va := a - a % n
        let q := off.toNat % 2 ^ 22 - off.toNat % 2 ^ 22 % n
        (∀ e, s.accessEntry va n .write = .ok e →
          let p := e.phys va
          (e.cls = 0 → (s.cur.banksOf 3 = [] → tblFind s.cur.ways (p / 128) = none) →
            Completes (.st h reg ra rot f.1 0 off) h 1 pc s fun t =>
              (Private s (p / 128) →
                seen t (p / 128) = mergeBytes 128 (seen s (p / 128)) (v * 2 ^ (8 * (p % 128))) (spanMask (p % 128) n)) ∧
                RegsBut 0 s t ∧ Cached id (fun x => p ≤ x ∧ x < p + n) s t) ∧
          (e.cls ≠ 0 → Completes (.st h reg ra rot f.1 0 off) h 1 pc s fun t =>
            Sent (e.cls == 2) (.write (e.busOf va) n (BitVec.ofNat 1024 v)) s t ∧
            (if e.cls = 2 then t.cur.peerSent = s.cur.peerSent + 1 ∧ t.cur.hostSent = s.cur.hostSent
              else t.cur.hostSent = s.cur.hostSent + 1 ∧ t.cur.peerSent = s.cur.peerSent) ∧
            Kept (fun s => { s with fabric := {} }) (fun c => { c with hostSent := 0, peerSent := 0 }) id s t ∧
              RegsBut 0 s t ∧ MemSame s t)) ∧
        (∀ tr, s.accessEntry va n .write = .error tr → Ordinary s →
          tr = { code := .memFault, faddr := BitVec.ofNat 64 va, detail := 1, resumable := false } ∧ Traps (.st h reg ra rot f.1 0 off) tr s) ∧
        ∀ space core, Reaches s space off core → tblGet 0 (s.core core).roles (scrBank rot q) = 5 →
          Completes (.st h reg ra rot f.1 space off) h 1 pc s fun t =>
            (∀ c b r, b < 64 → r < 512 → (t.core c).poolRow b r =
              if c = core ∧ b = scrBank rot q ∧ r = scrRow q then
                mergeBytes 128 ((s.core c).poolRow b r) (v * 2 ^ (8 * (q % 128))) (spanMask (q % 128) n)
              else (s.core c).poolRow b r) ∧
            PoolFrame s t ∧ RegsBut 0 s t

/-- O22. For vld, vlds and vldx under any guard, with the register in a REG bank: in MEM, where each enabled row j lies on
a readable DEV page held by a window or a buffer and on a sound row, they complete; row j of the register takes the
128 bytes that the core sees at base + 128 j, base + j x %lsx.stride, or base + element j of v[%lsx.ireg] as .i32,
aligned down modulo 2^56; disabled rows and every other row of the pool stay, a dead register becomes live when a row
is enabled, and nothing is stored. In POOL and CLUSTER the same holds with the rows' SCR bytes, where all enabled rows
lie within 0 to 0x3F_FFFF; one outside traps MEM_PARAM, check 1. Where the first enabled row lies on a HOST or PEER
page, the head sends one read of its 128 bytes and waits; once the completion of the last row that it lacks has come,
the access retires in free-run with each row as it was read, and changes nothing else; a poisoned or refused one traps
DATA_UNCORRECTABLE under the trapping policy. (R196, R198, R163, R383.) -/
def Obligations.RowLoads : Prop :=
  (∀ (h : Head) (vd : VReg) (ra : Reg) (rot : BitVec 4) (off : BitVec 24) (pc : PcWord) (s : State),
    CanIssue h 1 pc s → RegsReady [vd] [] s →
      let on := rowsOn h s
      ∀ f ∈ ([(fun sp => .vld h vd ra rot sp off, fun j => 128 * (j : Int)),
          (fun sp => .vlds h vd ra rot sp off, fun j => (j : Int) * s.st.lsxStride.toInt),
          (fun sp => .vldx h vd ra rot sp off,
            fun j => intValue .i32 (elem 32 (s.cur.poolRow (regBank s.st.lsxIreg.toNat) (regRow s.st.lsxIreg.toNat)) j))] :
          List ((BitVec 2 → Instr) × (Nat → Int))),
        ((∃ sp, f.1 sp = .vldx h vd ra rot sp off) → s.st.lsxIreg.toNat < 320 ∧ RegsReady [s.st.lsxIreg] [s.st.lsxIreg] s) →
        let loaded (t : State) (v : Nat → Nat) : Prop :=
          (∀ b r, b < 64 → r < 512 → ∀ j, j ∈ on → b = regBank vd.toNat → r = regRow vd.toNat + j → t.cur.poolRow b r = v j) ∧
          (∀ b r, b < 64 → r < 512 → (∀ j ∈ on, ¬ (b = regBank vd.toNat ∧ r = regRow vd.toNat + j)) → t.cur.poolRow b r = s.cur.poolRow b r) ∧
          t.cur.vlive = (if on ≠ [] ∧ vd.toNat < 320 ∧ s.cur.vlive.toNat ≤ vd.toNat then BitVec.ofNat 9 (vd.toNat + 1) else s.cur.vlive)
        let regs (c : Core) : Core := { c with pool := [], poolUe := [], vlive := 0 }
        (let base := (((s.rx ra).toNat + off.toInt) % 2 ^ 56).toNat
          let va (j : Nat) : Nat := ((((base : Int) + f.2 j) / 128 * 128) % 2 ^ 56).toNat
          ∀ e : Nat → TlbEntry, (∀ j ∈ on, Steady s (va j) 128 .read (e j) ∧ (e j).cls = 0 ∧ (e j).phys (va j) % 128 = 0 ∧
              Sound s ((e j).phys (va j) / 128) ∧ s.homeBad (some s.curPart) ((e j).phys (va j) / 128) = false ∧
              Private s ((e j).phys (va j) / 128)) → Fresh s →
            Completes (f.1 0) h 1 pc s fun t =>
              loaded t (fun j => seen s ((e j).phys (va j) / 128)) ∧ RegsBut 0 s t ∧ Cached regs (fun _ => False) s t) ∧
        (let base := (((s.rx ra).toNat + off.toInt) % 2 ^ 56).toNat
          ∀ j e, on.head? = some j →
            let va : Nat := ((((base : Int) + f.2 j) / 128 * 128) % 2 ^ 56).toNat
            s.accessEntry va 128 .read = .ok e → e.cls ≠ 0 → ReadsOut (f.1 0) e va 128 s) ∧
        ∀ space core, Reaches s space off core →
          let q (j : Nat) : Int := (((off.toNat % 2 ^ 22 : Nat) : Int) + f.2 j) / 128 * 128
          ((∀ j ∈ on, 0 ≤ q j ∧ q j ≤ 0x3FFFFF ∧ tblGet 0 (s.core core).roles (scrBank rot (q j).toNat) = 5 ∧
              (s.core core).poolUe.contains (scrBank rot (q j).toNat * 512 + scrRow (q j).toNat) = false) →
            Completes (f.1 space) h 1 pc s fun t =>
              loaded t (fun j => (s.core core).poolRow (scrBank rot (q j).toNat) (scrRow (q j).toNat)) ∧ RegsBut 0 s t ∧
                Kept id regs id s t) ∧
          ((∃ j ∈ on, q j < 0 ∨ 0x3FFFFF < q j) → Ordinary s →
            ∃ j ∈ on, Traps (f.1 space) { code := .memParam, faddr := BitVec.ofInt 64 (q j), detail := 1 } s)) ∧
  ∀ (h : Head) (vd : VReg) (ra : Reg) (rot : BitVec 4) (off : BitVec 24) (pc : PcWord) (s : State) (idx : Nat),
    CanFinish pc s → RegsReady [vd] [] s → s.cur.reshape = none → (s.ctx s.curCtx).replayMode = 0 →
      let on := (List.range 16).filter fun j => s.st.lanes.getLsbD j
      -- the access, the place of its first row among its steps, and the offsets of its rows
      ∀ f ∈ ([(.vld h vd ra rot 0 off, 0, fun j => 128 * (j : Int)), (.vlds h vd ra rot 0 off, 0, fun j => (j : Int) * s.st.lsxStride.toInt),
          (.vldx h vd ra rot 0 off, 1, fun j => intValue .i32 (elem 32 idx j))] : List (Instr × Nat × (Nat → Int))),
        (f.2.1 = 1 → s.st.lsxIreg.toNat < 320 ∧ RegsReady [s.st.lsxIreg] [] s ∧ tblFind s.st.notes 0 = some (.num idx)) →
        let va (j : Nat) : Nat := (((((((s.rx ra).toNat + off.toInt) % 2 ^ 56).toNat : Int) + f.2.2 j) / 128 * 128) % 2 ^ 56).toNat
        ∀ (k j : Nat) (e : TlbEntry) (c : Completion) (v : Nat → Nat), on[k]? = some j → Answered (f.2.1 + k) e c s →
          (∀ i, i < on.length → i ≠ k → tblFind s.st.notes (4 * (f.2.1 + i)) = some (.num (v (on.getD i 0))) ∧ v (on.getD i 0) < 2 ^ 1024) →
          (∀ i, f.2.1 + on.length ≤ i → tblFind s.st.notes (4 * i) = none) →
          (∀ u : BitVec 1024, c = .data u → v j = u.toNat → Finishes f.1 h pc s fun t =>
            (∀ i ∈ on, t.cur.poolRow (regBank vd.toNat) (regRow vd.toNat + i) = v i) ∧
            (∀ b r, b < 64 → r < 512 → (∀ i ∈ on, ¬ (b = regBank vd.toNat ∧ r = regRow vd.toNat + i)) → t.cur.poolRow b r = s.cur.poolRow b r) ∧
            t.cur.vlive = (if vd.toNat < 320 ∧ s.cur.vlive.toNat ≤ vd.toNat then BitVec.ofNat 9 (vd.toNat + 1) else s.cur.vlive) ∧
            RegsBut 0 s t ∧ MemSame s t ∧ Kept id (fun c => { c with pool := [], poolUe := [], vlive := 0 }) id s t) ∧
          (c = .poisoned ∨ c = .refused → (s.ctx s.curCtx).ue = false → Ordinary s →
            Traps f.1 { code := .dataUncorrectable, faddr := BitVec.ofNat 64 (va j), detail := 0 } s)

/-- O23. For vst, vsts and vstx under any guard, with the register in a REG bank and its rows sound: in MEM, where each
enabled row j lies on a writable DEV page held by a window or a buffer, they complete; the row of memory at base + 128
j, base + j x %lsx.stride, or base + element j of v[%lsx.ireg], aligned down modulo 2^56, is then seen by the core as
row j of the register unless a larger enabled row has the same address; every other address keeps its bytes (dirty
lines that fills push out apart), and no register changes. In POOL and CLUSTER the same holds of SCR rows, and every
other row of every pool stays. Where every enabled row lies on a HOST or PEER page that may be written, they
complete with one write of 128 bytes for each on its port, which the device counts as posted, and change nothing else.
(R196, R198, R200, R382, R383.) -/
def Obligations.RowStores : Prop :=
  ∀ (h : Head) (vd : VReg) (ra : Reg) (rot : BitVec 4) (off : BitVec 24) (pc : PcWord) (s : State),
    CanIssue h 1 pc s → RegsReady [vd] [vd] s → tblGet 0 s.cur.roles (regBank vd.toNat) = 1 →
      let on := rowsOn h s
      let row (j : Nat) : Nat := s.cur.poolRow (regBank vd.toNat) (regRow vd.toNat + j)
      ∀ f ∈ ([(fun sp => .vst h vd ra rot sp off, fun j => 128 * (j : Int)),
          (fun sp => .vsts h vd ra rot sp off, fun j => (j : Int) * s.st.lsxStride.toInt),
          (fun sp => .vstx h vd ra rot sp off,
            fun j => intValue .i32 (elem 32 (s.cur.poolRow (regBank s.st.lsxIreg.toNat) (regRow s.st.lsxIreg.toNat)) j))] :
          List ((BitVec 2 → Instr) × (Nat → Int))),
        ((∃ sp, f.1 sp = .vstx h vd ra rot sp off) → s.st.lsxIreg.toNat < 320 ∧ RegsReady [s.st.lsxIreg] [s.st.lsxIreg] s) →
        (let base := (((s.rx ra).toNat + off.toInt) % 2 ^ 56).toNat
          let va (j : Nat) : Nat := ((((base : Int) + f.2 j) / 128 * 128) % 2 ^ 56).toNat
          ∀ e : Nat → TlbEntry,
            let p (j : Nat) : Nat := (e j).phys (va j) / 128
            (∀ j ∈ on, Steady s (va j) 128 .write (e j) ∧ (e j).cls = 0 ∧ (e j).phys (va j) % 128 = 0 ∧
              (s.cur.banksOf 3 = [] → tblFind s.cur.ways (p j) = none)) →
            Completes (f.1 0) h 1 pc s fun t =>
              (∀ j ∈ on, Private s (p j) → (∀ i ∈ on, j < i → p i ≠ p j) → seen t (p j) = row j) ∧ RegsBut 0 s t ∧
                Cached id (fun x => ∃ j ∈ on, x / 128 = p j) s t) ∧
        (let base := (((s.rx ra).toNat + off.toInt) % 2 ^ 56).toNat
          let va (j : Nat) : Nat := ((((base : Int) + f.2 j) / 128 * 128) % 2 ^ 56).toNat
          ∀ e : Nat → TlbEntry, (∀ j ∈ on, s.accessEntry (va j) 128 .write = .ok (e j) ∧ (e j).cls ≠ 0) →
            let to' (peer : Bool) : List Nat := on.filter fun j => ((e j).cls == 2) == peer
            let sent (peer : Bool) : List PortOp := (to' peer).map fun j => .write ((e j).busOf (va j)) 128 (BitVec.ofNat 1024 (row j))
            Completes (f.1 0) h 1 pc s fun t =>
              t.fabric = { s.fabric with host := s.fabric.host ++ sent false, peer := s.fabric.peer ++ sent true } ∧
                t.cur.hostSent = s.cur.hostSent + (to' false).length ∧ t.cur.peerSent = s.cur.peerSent + (to' true).length ∧
                Kept (fun u => { u with fabric := {} }) (fun c => { c with hostSent := 0, peerSent := 0 }) id s t ∧ RegsBut 0 s t ∧
                MemSame s t) ∧
        ∀ space core, Reaches s space off core →
          let q (j : Nat) : Int := (((off.toNat % 2 ^ 22 : Nat) : Int) + f.2 j) / 128 * 128
          let b (j : Nat) : Nat := scrBank rot (q j).toNat
          let r (j : Nat) : Nat := scrRow (q j).toNat
          (∀ j ∈ on, 0 ≤ q j ∧ q j ≤ 0x3FFFFF ∧ tblGet 0 (s.core core).roles (b j) = 5) →
            Completes (f.1 space) h 1 pc s fun t =>
              (∀ j ∈ on, (∀ i ∈ on, j < i → ¬ (b i = b j ∧ r i = r j)) → (t.core core).poolRow (b j) (r j) = row j) ∧
              (∀ c b' r', b' < 64 → r' < 512 → (c = core → ∀ j ∈ on, ¬ (b' = b j ∧ r' = r j)) →
                (t.core c).poolRow b' r' = (s.core c).poolRow b' r') ∧
              PoolFrame s t ∧ RegsBut 0 s t

/-- O24. With a length of 1 to 2^24 bytes whose pages all have the rights of the kind, touch.r and touch.w complete: rd
counts the pages (1 for a range within one mapped page), and the core has a window with the range and the kind that is
open for 4,096 cycles from the current one; where fewer than eight windows are open all of those stay open, and where eight
are open, one of those that would expire first closes and the others stay open; any other
length traps MEM_PARAM check 1, and a failing page traps TOUCH_FAULT with its address (of an unmapped page, whose size the
spec cannot give, the 4 KiB below the address: log entry 45), both pinning nothing. (That a base keeps its low 56 bits is log entry 47.) pfet
completes for every address and row count, changes no register and stores nothing. (R199, R201.) -/
def Obligations.TouchOpensAWindowAndPfetOnlyFills : Prop :=
  ∀ (h : Head) (rd ra rb : Reg) (rows : BitVec 5) (off : BitVec 24) (pc : PcWord) (s : State),
    CanIssue h 1 pc s → s.guardBit h = true →
      let n := (s.rx rb).toNat
      let va := (s.rx ra).toNat % 2 ^ 56
      (∀ f ∈ ([(.touchR h rd ra rb, false), (.touchW h rd ra rb, true)] : List (Instr × Bool)),
        (n = 0 ∨ 2 ^ 24 < n → Ordinary s → Traps f.1 { code := .memParam, faddr := BitVec.ofNat 64 n, detail := 1 } s) ∧
        (0 < n → n ≤ 2 ^ 24 →
          (∀ pages, s.touchPages f.2 (n / 4096 + 2) va n [] = .ok pages →
            let w : Window := { ctx := s.curCtx, base := va, len := n, write := f.2, opened := s.cyc, expiry := s.cyc + 4096, pages := pages }
            let isOpen (x : Window) : Prop := x.opened ≤ s.cyc ∧ s.cyc < x.expiry
            let opens (u : State) : Nat := (u.cur.windows.filter fun x => decide (x.opened ≤ s.cyc) && decide (s.cyc < x.expiry)).length
            let crowd : Prop := 8 ≤ opens s
            let first (x : Window) : Prop := isOpen x ∧ ∀ y ∈ s.cur.windows, isOpen y → x.expiry ≤ y.expiry
            Completes f.1 h 1 pc s fun t =>
              t.rx rd = (if rd = 0 then 0 else BitVec.ofNat 64 pages.length) ∧ w ∈ t.cur.windows ∧
                (∀ x ∈ t.cur.windows, x = w ∨ (s.cyc < x.expiry ∨ s.windowUsed s.curCore x = true) ∧
                  ∃ y ∈ s.cur.windows, x = y ∨ crowd ∧ first y ∧ x = { y with expiry := s.cyc }) ∧
                (∀ x ∈ s.cur.windows, isOpen x → x ∈ t.cur.windows ∨ crowd ∧ first x) ∧
                (crowd → opens t = opens s) ∧ (¬ crowd → opens t = opens s + 1) ∧
                Kept id (fun c => { c with windows := [] }) id s t ∧ RegsBut rd s t ∧ MemSame s t) ∧
          (∀ tr, s.touchPages f.2 (n / 4096 + 2) va n [] = .error tr → Ordinary s → tr.code = .touchFault ∧ Traps f.1 tr s) ∧
          (s.translate s.curCore s.curCtx va = none → s.touchPages f.2 (n / 4096 + 2) va n [] =
            .error { code := .touchFault, faddr := BitVec.ofNat 64 (va / 4096 * 4096), detail := f.2.toNat }) ∧
          (∀ e, s.translate s.curCore s.curCtx va = some e → (e.r = false → s.touchPages f.2 (n / 4096 + 2) va n [] =
              .error { code := .touchFault, faddr := BitVec.ofNat 64 e.va, detail := 0 }) ∧
            (e.r = true → f.2 = true → e.w = false → s.touchPages f.2 (n / 4096 + 2) va n [] =
              .error { code := .touchFault, faddr := BitVec.ofNat 64 e.va, detail := 1 }) ∧
            (e.r = true → (f.2 = true → e.w = true) → va + n ≤ e.va + e.size → e.va ≤ va →
              s.touchPages f.2 (n / 4096 + 2) va n [] = .ok [e])))) ∧
      Completes (.pfet h rows ra off) h 1 pc s fun t => RegsBut 0 s t ∧ Cached id (fun _ => False) s t

/-- O25. cpy and cpyw with an aligned descriptor on a sound row of a readable DEV page complete: with a zero count they
change nothing but the core's cache; otherwise, where the box lies within the pool, every unit lies on a permitted DEV page held
by a window or a buffer (for cpy on a sound row) and in a sound SCR bank, each byte of each element that no later element
overwrites arrives: for cpy in the pool, as the core sees it; for cpyw at its address, as the core then sees it and, without a
cache, in SHARED-mode memory; every other row of every pool and every other byte of memory stays (dirty lines that fills push
out apart), and no register changes; a descriptor address that is not 128-byte aligned, a descriptor with a field that must be
zero, and a box outside the pool trap MEM_PARAM check 5 before anything is moved. A descriptor on a HOST or PEER page, and the
first unit of a cpy there, are asked for in one read each, and the head waits; a cpy whose last unit has its answer retires in
free-run with that unit's bytes in the pool. Where all units of a cpyw lie on HOST or PEER pages, it completes with one write for
each, in order. (R193, R203, R204, R254, R383.) -/
def Obligations.TensorCopies : Prop :=
  ∀ (h : Head) (reg ra : Reg) (rot : BitVec 4) (space : BitVec 2) (off : BitVec 24) (pc : PcWord) (s : State) (core : Nat),
    Reaches s space off core →
      let at' := (s.rx reg).toNat
      let bad : Trap := { code := .memParam, faddr := BitVec.ofNat 64 at', detail := 5 }
      let cpy : Instr := .cpy h reg ra rot space off
      let cpyw : Instr := .cpyw h reg ra rot space off
      let both (P : Instr → Prop) : Prop := P cpy ∧ P cpyw
      let base : Int := ((off.toNat % 2 ^ 22 : Nat) : Int)
      let m (d : CopyDesc) (i o : Nat) : Nat := (((d.base + (copyOffset d.dims i).1) % 2 ^ 56).toNat + o) % 2 ^ 56
      let q (d : CopyDesc) (i o : Nat) : Nat := (base + (copyOffset d.dims i).2).toNat + o
      let unit (d : CopyDesc) (i : Nat) : List Nat × Nat := copyUnits d.esz (m d i 0) (q d i 0)
      let units (d : CopyDesc) : List (Nat × Nat) := (List.range d.total).flatMap fun i => (unit d i).1.map fun o => (i, o)
      let inPool (d : CopyDesc) : Prop := 0 < d.total ∧ 0 ≤ base + d.poolMin ∧ base + d.poolMax + d.esz - 1 ≤ 0x3FFFFF
      let here (d : CopyDesc) (k : Nat × Nat) : Prop := k.1 < d.total ∧ k.2 < d.esz
      let after (k l : Nat × Nat) : Prop := k.1 < l.1 ∨ k.1 = l.1 ∧ k.2 < l.2
      let byte (v a : Nat) : Nat := v / 2 ^ (8 * (a % 128)) % 256
      let bank (d : CopyDesc) (k : Nat × Nat) : Nat := scrBank rot (q d k.1 k.2)
      let sound (d : CopyDesc) : Prop := ∀ k, here d k → tblGet 0 (s.core core).roles (bank d k) = 5 ∧
        (s.core core).poolUe.contains (bank d k * 512 + scrRow (q d k.1 k.2)) = false
      let bare : Prop := s.cur.ways = [] ∧ s.cur.banksOf 3 = []
      let regs (c : Core) : Core := { c with hostSent := 0, peerSent := 0 }
      (CanIssue h 1 pc s → s.guardBit h = true →
        (at' % 128 ≠ 0 → Ordinary s → both fun i => Traps i bad s) ∧
        (∀ e0, at' % 128 = 0 → s.accessEntry (at' % 2 ^ 56) 128 .read = .ok e0 → e0.cls ≠ 0 →
          both fun i => ReadsOut i e0 (at' % 2 ^ 56) 128 s) ∧
        ∀ e0, at' % 128 = 0 → Steady s (at' % 2 ^ 56) 128 .read e0 → e0.cls = 0 → e0.phys (at' % 2 ^ 56) % 128 = 0 →
          Sound s (e0.phys (at' % 2 ^ 56) / 128) →
          let img := seen s (e0.phys (at' % 2 ^ 56) / 128)
          -- what a trap of a copy that has read its descriptor leaves as it was
          let refused (i : Instr) : Prop := (bare → Traps i bad s) ∧
            ∃ t, Machine.exec i s = .next t ∧ t.st.trap = some bad ∧ t.st.pc = s.st.pc ∧ t.st.rc = s.st.rc ∧ (∀ r, t.rx r = s.rx r) ∧
              (∀ c b r, b < 64 → r < 512 → (t.core c).poolRow b r = (s.core c).poolRow b r) ∧ Undisturbed s t
          (parseCopy img = none → Ordinary s → both refused) ∧
          ∀ d, parseCopy img = some d →
            (d.total = 0 → both fun i => Completes i h 1 pc s fun t => Cached id (fun _ => False) s t ∧ RegsBut 0 s t ∧
              (bare → Kept id id id s t ∧ MemSame s t)) ∧
            (0 < d.total → (base + d.poolMin < 0 ∨ 0x3FFFFF < base + d.poolMax + d.esz - 1) → Ordinary s → both refused) ∧
            (inPool d → sound d →
              (∀ e : Nat → Nat → TlbEntry,
                (∀ k ∈ units d, Steady s (m d k.1 k.2) (unit d k.1).2 .read (e k.1 k.2) ∧ (e k.1 k.2).cls = 0 ∧
                  (e k.1 k.2).phys (m d k.1 k.2) % (unit d k.1).2 = 0 ∧
                  let row := (e k.1 k.2).phys (m d k.1 k.2) / 128
                  Sound s row ∧ s.homeBad (some s.curPart) row = false ∧ Private s row) → Fresh s →
                Completes cpy h 1 pc s fun t =>
                  (∀ k, here d k → (∀ l, here d l → after k l →
                      ¬ (bank d l = bank d k ∧ q d l.1 l.2 % 2 ^ 16 = q d k.1 k.2 % 2 ^ 16)) →
                    let o' := if (unit d k.1).2 = 1 then k.2 else 0
                    let p := (e k.1 o').phys (m d k.1 o') + (k.2 - o')
                    byte ((t.core core).poolRow (bank d k) (scrRow (q d k.1 k.2))) (q d k.1 k.2) = byte (seen s (p / 128)) p) ∧
                  (∀ c b r, b < 64 → r < 512 → (c = core → ∀ l, here d l → ¬ (b = bank d l ∧ r = scrRow (q d l.1 l.2))) →
                    (t.core c).poolRow b r = (s.core c).poolRow b r) ∧
                  CachedPools (fun _ => False) s t ∧ RegsBut 0 s t ∧ (bare → PoolFrame s t ∧ MemSame s t)) ∧
              (∀ e, s.accessEntry (m d 0 0) (unit d 0).2 .read = .ok e → e.cls ≠ 0 → bare →
                ReadsOut cpy e (m d 0 0) (unit d 0).2 s) ∧
              (∀ e : Nat → Nat → TlbEntry,
                let p (k : Nat × Nat) : Nat :=
                  let o' := if (unit d k.1).2 = 1 then k.2 else 0
                  (e k.1 o').phys (m d k.1 o') + (k.2 - o')
                (∀ k ∈ units d, Steady s (m d k.1 k.2) (unit d k.1).2 .write (e k.1 k.2) ∧ (e k.1 k.2).cls = 0 ∧
                  (e k.1 k.2).phys (m d k.1 k.2) % (unit d k.1).2 = 0 ∧
                  (s.cur.banksOf 3 = [] → tblFind s.cur.ways ((e k.1 k.2).phys (m d k.1 k.2) / 128) = none)) →
                Completes cpyw h 1 pc s fun t =>
                  (∀ k, here d k → (∀ l, here d l → after k l → p l ≠ p k) →
                    let v := byte ((s.core core).poolRow (bank d k) (scrRow (q d k.1 k.2))) (q d k.1 k.2)
                    (Private s (p k / 128) → byte (seen t (p k / 128)) (p k) = v) ∧
                      (bare → (s.die (homeDie (p k / 128 * 128))).split = false →
                        (memRead t.mem (p k)).toNat = v)) ∧
                  RegsBut 0 s t ∧ Cached id (fun a => ∃ k, here d k ∧ p k = a) s t) ∧
              ∀ e : Nat → Nat → TlbEntry, bare →
                (∀ k ∈ units d, s.accessEntry (m d k.1 k.2) (unit d k.1).2 .write = .ok (e k.1 k.2) ∧ (e k.1 k.2).cls ≠ 0) →
                let to' (peer : Bool) : List (Nat × Nat) := (units d).filter fun k => ((e k.1 k.2).cls == 2) == peer
                let value (k : Nat × Nat) : Nat := numOf (fun o =>
                  byte ((s.core core).poolRow (bank d (k.1, k.2 + o)) (scrRow (q d k.1 (k.2 + o)))) (q d k.1 (k.2 + o))) (unit d k.1).2
                let sent (peer : Bool) : List PortOp := (to' peer).map fun k =>
                  .write ((e k.1 k.2).busOf (m d k.1 k.2)) (unit d k.1).2 (BitVec.ofNat 1024 (value k))
                Completes cpyw h 1 pc s fun t =>
                  t.fabric = { s.fabric with host := s.fabric.host ++ sent false, peer := s.fabric.peer ++ sent true } ∧
                    t.cur.hostSent = s.cur.hostSent + (to' false).length ∧ t.cur.peerSent = s.cur.peerSent + (to' true).length ∧
                    Kept (fun u => { u with fabric := {} }) regs id s t ∧ RegsBut 0 s t ∧ MemSame s t)) ∧
      ∀ (img : Nat) (d : CopyDesc) (n : Nat) (k : Nat × Nat) (e : TlbEntry) (u : BitVec 1024), CanFinish pc s →
        s.cur.reshape = none → (s.ctx s.curCtx).replayMode = 0 → at' % 128 = 0 → tblFind s.st.notes 0 = some (.num img) →
        parseCopy img = some d → inPool d → sound d → (units d)[n]? = some k → Answered (1 + n) e (.data u) s →
        (∀ i, i < (units d).length → i ≠ n → (tblFind s.st.notes (4 * (1 + i))).isSome = true) →
        u.toNat < 2 ^ (8 * (unit d k.1).2) →
          Finishes cpy h pc s fun t =>
            (∀ o, o < (unit d k.1).2 → byte ((t.core core).poolRow (bank d (k.1, k.2 + o)) (scrRow (q d k.1 (k.2 + o)))) (q d k.1 (k.2 + o)) =
              u.toNat / 2 ^ (8 * o) % 256) ∧
            (∀ c b r a, b < 64 → r < 512 → a < 128 →
              (c = core → ∀ o, o < (unit d k.1).2 → ¬ (b = bank d (k.1, k.2 + o) ∧ r * 128 + a = q d k.1 (k.2 + o) % 2 ^ 16)) →
              byte ((t.core c).poolRow b r) a = byte ((s.core c).poolRow b r) a) ∧
            CachedPools (fun _ => False) s t ∧ RegsBut 0 s t ∧ MemSame s t

/-- O26. With a valid scope entry n, and for n = 31 no posted write to flush, fence.rel, fence.acq and fence.full
complete, change no register and no row that the core sees (where its lines are not stale). Where the entry names an
agent other than the core, fence.rel leaves no dirty line on a location of the entry, fence.acq and fence.full leave
no line there; a release of a dirty line that was not stale leaves the home with the line's data; lines elsewhere
stay. An entry that is not valid traps SCOPE_STALE with the entry and its generation. (R251, R252, R261.) -/
def Obligations.FencesActOnTheLocationsOfTheirScope : Prop :=
  ∀ (h : Head) (scope : BitVec 5) (pc : PcWord) (s : State), CanIssue h 1 pc s → s.guardBit h = true →
    let n := scope.toNat
    let e := s.scopeEntry s.curCtx n s.curCore
    (e.valid = true → (n = 31 → s.cur.postedHost = false ∧ s.cur.postedPeer = false) →
      ∀ f ∈ ([(.fenceRel h scope, false), (.fenceAcq h scope, true), (.fenceFull h scope, true)] : List (Instr × Bool)),
        Completes f.1 h 1 pc s fun t =>
          (e.namesOther n s.curCore = true → ∀ r, s.inLocs e s.curPart r = true →
            Clean t r ∧ (f.2 = true → tblFind t.cur.ways r = none) ∧
            (Fresh s → Private s r → t.homeRow (some s.curPart) r = seen s r)) ∧
          (∀ r, (e.namesOther n s.curCore = false ∨ s.inLocs e s.curPart r = false) →
            tblFind t.cur.ways r = tblFind s.cur.ways r) ∧
          RegsBut 0 s t ∧ Cached id (fun _ => False) s t) ∧
    (e.valid = false → Ordinary s →
      ∀ i ∈ ([.fenceRel h scope, .fenceAcq h scope, .fenceFull h scope] : List Instr),
        Traps i { code := .scopeStale, faddr := BitVec.ofNat 64 (n + 256 * e.gen.toNat) } s)

/-- O27. For a head that can issue under a true guard: a role-setting pool with a malformed range or a placement that R114
forbids completes with BANK_BOUNDS, and a well placed one with more than 16 TILE or WAY banks with ROLE_LIMIT; where a
released TILE bank is named by the matrix engine it completes with TILE_BUSY when its limit is 0 and waits otherwise;
where a bank is released and none of them is named, it waits while an access that another stream issued before it has not
been performed (a range wholly in the role waits for nothing); where
there is none and no line stands in a released bank, it completes with REG_LIVE, else SCR_PINNED, else RING_OCCUPIED as
released banks hold a live register, a pin, or a ring that has records (without .rel) or does not fit elsewhere (with
.rel). In each case nothing but rd and the status changes; while it waits, %pool shows it as busy. pool.pin and pool.unpin with a malformed range or a bank that is not SCR
complete with BANK_BOUNDS and change nothing else. A role-setting pool that passes every check of R119 completes with
OK: the banks of its range have the new role and every other bank its own, the banks that changed role read zero and
hold no line; without .rel the rings of released banks are unset and every other row of the pool stays; with .rel the
rings keep positions and spill, every row of their storage stands at their new bases, and every row of the pool that is
neither released nor a new place stays; other rings stay, where the lines written back lie in no spill area in use. pool.pin and pool.unpin of an SCR range
complete with OK and set or clear exactly the pins of the range. pstat completes with %pool, the mask of a role's
banks, the pins, the busy mask, or the count of dirty lines, and changes nothing else. That a reshape switches in one step is
log entry 19, and that the rows which moving rings leave count as free when the rings are placed is log entry 36. (R117, R118,
R119, R120, R121, R122, R123.) -/
def Obligations.PoolReshapesPinsAndReports : Prop :=
  (
    ∀ (h : Head) (rd ra : Reg) (role : BitVec 4) (rel : Bool) (limit : BitVec 10) (pc : PcWord) (s : State),
      CanIssue h 1 pc s → s.guardBit h = true →
        let v := (s.rx ra).toNat
        let first := v % 64
        let n := v / 64 % 128
        let banks := (List.range n).map fun i => first + i
        let formed := v / 2 ^ 13 = 0 ∧ 0 < n ∧ first + n ≤ 64
        let new := setRoles s.cur.roles banks role.toNat
        let gone := banks.filter fun b => roleOf s.cur.roles b != role.toNat
        let refused (i : Instr) (k : Nat) : Prop :=
          Completes i h 1 pc s fun t => PoolStatusIs rd k t ∧ Kept id offStatus id s t ∧ RegsBut rd s t ∧ MemSame s t
        let waits (i : Instr) (k : WaitKind) : Prop :=
          WaitsBut id (fun c => { c with reshape := none, poolBusy := false }) i k 0 s ∧
            ∃ t, Machine.exec i s = .next t ∧ t.cur.poolBusy = true ∧
              t.cur.reshape = some { banks := gone, before := s.cur.issuedAccesses s.curCore }
        let i : Instr := .poolReshape h rd ra role rel limit
        (¬ formed ∨ placementOk new = false → refused i 5) ∧
        (formed → placementOk new = true → 16 < (roleBanks new 2).length ∨ 16 < (roleBanks new 3).length → refused i 6) ∧
        (formed → placementOk new = true → (roleBanks new 2).length ≤ 16 → (roleBanks new 3).length ≤ 16 →
          ((∃ b ∈ s.cur.matrix.tileBanks, b ∈ gone ∧ roleOf s.cur.roles b = 2) →
            (limit = 0 → refused i 4) ∧ (limit ≠ 0 → waits i .poolTile)) ∧
          ((∀ b ∈ s.cur.matrix.tileBanks, b ∈ gone → roleOf s.cur.roles b ≠ 2) → gone ≠ [] →
            s.cur.issuedAccesses s.curCore ≠ [] → waits i .busy) ∧
          ((∀ b ∈ s.cur.matrix.tileBanks, b ∈ gone → roleOf s.cur.roles b ≠ 2) → s.cur.issuedAccesses s.curCore = [] → (∀ e ∈ s.cur.ways, e.2.bank ∉ gone) →
            let live := (∃ b ∈ gone, roleOf s.cur.roles b = 1) ∧ 32 * ((roleBanks new 1).length - 2) < s.cur.vlive.toNat
            let pinned := ∃ b ∈ gone, s.cur.pins.getLsbD b = true
            let held := ∃ m ∈ s.cur.ringsIn (gone.filter fun b => roleOf s.cur.roles b == 4),
              (s.cur.ring m).used ≠ 0 ∨ (s.cur.ring m).spill ≠ []
            let hit := s.cur.ringsIn (gone.filter fun b => roleOf s.cur.roles b == 4)
            let kept := (List.range 16).filter fun m => (s.cur.ring m).enabled && !hit.contains m
            (live → refused i 1) ∧ (¬ live → pinned → refused i 3) ∧ (¬ live → ¬ pinned → held → rel = false → refused i 2) ∧
              (¬ live → ¬ pinned → rel = true → placeRings s.cur new hit (kept.flatMap fun m => (s.cur.ring m).rows) = none → refused i 2))) ∧
        (¬ formed ∨ (∃ b ∈ banks, roleOf s.cur.roles b ≠ 5) →
          refused (.poolPin h rd ra) 5 ∧ refused (.poolUnpin h rd ra) 5)) ∧
  (
    (∀ (h : Head) (rd ra : Reg) (role : BitVec 4) (rel : Bool) (limit : BitVec 10) (pc : PcWord) (s : State),
      CanIssue h 1 pc s → s.guardBit h = true →
        let v := (s.rx ra).toNat
        let first := v % 64
        let n := v / 64 % 128
        let banks := (List.range n).map fun i => first + i
        let new := setRoles s.cur.roles banks role.toNat
        let gone := banks.filter fun b => roleOf s.cur.roles b != role.toNat
        let hit := s.cur.ringsIn (gone.filter fun b => roleOf s.cur.roles b == 4)
        let kept := (List.range 16).filter fun m => (s.cur.ring m).enabled && !hit.contains m
        v / 2 ^ 13 = 0 → 0 < n → first + n ≤ 64 →
          (placementOk new = true → (roleBanks new 2).length ≤ 16 → (roleBanks new 3).length ≤ 16 →
            (∀ b ∈ s.cur.matrix.tileBanks, b ∈ gone → roleOf s.cur.roles b ≠ 2) → (gone = [] ∨ s.cur.issuedAccesses s.curCore = []) →
            ((∃ b ∈ gone, roleOf s.cur.roles b = 1) → s.cur.vlive.toNat ≤ 32 * ((roleBanks new 1).length - 2)) →
            (∀ b ∈ gone, s.cur.pins.getLsbD b = false) → s.cur.ways.Pairwise (fun a b => a.1 < b.1) →
            let off (c : Core) : Core := offStatus { c with roles := [], pool := [], poolUe := [], rings := [] }
            let whole := Unspilled s ∨ ∀ e ∈ s.cur.ways, e.2.bank ∈ gone → e.2.dirty = 0
            let frame (t : State) : Prop :=
              PoolStatusIs rd 0 t ∧ (∀ b, b < 64 → roleOf t.cur.roles b = if b ∈ banks then role.toNat else roleOf s.cur.roles b) ∧
                (∀ e ∈ t.cur.ways, e.2.bank ∉ gone) ∧ RegsBut rd s t ∧ Undisturbed s t ∧
                Kept offHome (fun c => off (offWays c)) id (offSpills s) (offSpills t) ∧
                (Unspilled s → Kept offHome (fun c => off (offWays c)) id s t) ∧ ∀ d, offL2 (t.die d) = offL2 (s.die d)
            let i : Instr := .poolReshape h rd ra role rel limit
            (rel = false → (∀ m ∈ hit, (s.cur.ring m).used = 0 ∧ (s.cur.ring m).spill = []) →
              Completes i h 1 pc s fun t => frame t ∧ (whole → ∀ m, t.cur.ring m = if m ∈ hit then {} else s.cur.ring m) ∧
                (∀ n ∈ t.cur.poolUe, n ∈ s.cur.poolUe ∧ n / 512 ∉ gone) ∧
                ∀ b r, b < 64 → r < 512 → t.cur.poolRow b r = if b ∈ gone then 0 else s.cur.poolRow b r) ∧
            (rel = true → ∀ l, placeRings s.cur new hit (kept.flatMap fun m => (s.cur.ring m).rows) = some l →
              let rows (m : Nat) : Nat := (s.cur.ring m).rows.length
              let src (m i : Nat) : Nat := (s.cur.ring m).base / 128 + i
              Completes i h 1 pc s fun t => frame t ∧
                (whole → (∀ m, m ∉ hit → t.cur.ring m = s.cur.ring m) ∧
                  ∀ e ∈ l, t.cur.ring e.1 = { s.cur.ring e.1 with base := e.2 * 128 }) ∧
                (∀ e ∈ l, ∀ i, i < rows e.1 →
                  t.cur.poolRow ((e.2 + i) / 512) ((e.2 + i) % 512) = s.cur.poolRow (src e.1 i / 512) (src e.1 i % 512)) ∧
                (∀ b r, b < 64 → r < 512 → (∀ e ∈ l, ∀ i, i < rows e.1 → b * 512 + r ≠ e.2 + i) →
                  t.cur.poolRow b r = if b ∈ gone then 0 else s.cur.poolRow b r) ∧
                ∀ n ∈ t.cur.poolUe, n ∈ s.cur.poolUe ∧ n / 512 ∉ gone ∨
                  ∃ e ∈ l, ∃ i, i < rows e.1 ∧ n = e.2 + i ∧ src e.1 i ∈ s.cur.poolUe)) ∧
          ((∀ b ∈ banks, roleOf s.cur.roles b = 5) → ∀ f ∈ ([(.poolPin h rd ra, true), (.poolUnpin h rd ra, false)] : List (Instr × Bool)),
            Completes f.1 h 1 pc s fun t => PoolStatusIs rd 0 t ∧
              (∀ b, b < 64 → t.cur.pins.getLsbD b = if b ∈ banks then f.2 else s.cur.pins.getLsbD b) ∧
              Kept id (fun c => offStatus { c with pins := 0 }) id s t ∧ RegsBut rd s t ∧ MemSame s t)) ∧
    ∀ (h : Head) (rd : Reg) (which : BitVec 4) (pc : PcWord) (s : State), CanIssue h 1 pc s → s.guardBit h = true →
      let n := which.toNat
      (n = 0 → Sets (.pstat h rd which) h 1 pc rd s.cur.poolReg s) ∧
      (n = 1 → Sets (.pstat h rd which) h 1 pc rd s.cur.busyBanks s) ∧
      (2 ≤ n → n ≤ 6 → ∀ v : W64, (∀ b, b < 64 → v.getLsbD b = decide (roleOf s.cur.roles b = n - 1)) → Sets (.pstat h rd which) h 1 pc rd v s) ∧
      (n = 7 → Sets (.pstat h rd which) h 1 pc rd s.cur.pins s) ∧
      (n = 8 → Sets (.pstat h rd which) h 1 pc rd (BitVec.ofNat 64 (s.cur.ways.filter fun e => e.2.dirty != 0).length) s))

/-- O28. For a head that can issue under a true guard, wbinv of the whole cache and of a virtual range complete with the
number of selected dirty lines in rd; with .keep the selected lines stay and are clean, otherwise they are gone; the
home of a selected line that was not stale then holds the line's data; lines outside the selection stay as they were,
and no other state of the core changes. (R127, R128, R254.) -/
def Obligations.WriteBackCountsAndCleans : Prop :=
  ∀ (h : Head) (rd ra rb : Reg) (keep : Bool) (pc : PcWord) (s : State), CanIssue h 1 pc s → s.guardBit h = true →
    let n := min (s.rx rb).toNat (2 ^ 56)
    let ranges := s.rowRanges (n / 4096 + 2) ((s.rx ra).toNat % 2 ^ 56) n
    ∀ f ∈ ([(.wbinvAll h rd keep, fun _ => true), (.wbinvRng h rd ra rb keep, fun r => ranges.any fun e => decide (e.1 ≤ r) && decide (r ≤ e.2))] :
        List (Instr × (Nat → Bool))),
      Completes f.1 h 1 pc s fun t =>
        t.rx rd = (if rd = 0 then 0 else BitVec.ofNat 64 (s.cur.ways.filter fun e => f.2 e.1 && e.2.dirty != 0).length) ∧
          (∀ r, f.2 r = true → Clean t r ∧ (keep = false → tblFind t.cur.ways r = none) ∧
            (keep = true → (tblFind t.cur.ways r).map Line.data = (tblFind s.cur.ways r).map Line.data) ∧
            (Fresh s → Private s r → t.homeRow (some s.curPart) r = seen s r)) ∧
          (∀ r, f.2 r = false → tblFind t.cur.ways r = tblFind s.cur.ways r) ∧
          RegsBut rd s t ∧ Cached id (fun _ => False) s t

/-- O29. For a head that can issue under a true guard: semi with a value up to 0xFFFF sets the semaphore and returns the
old value, and above that traps MEM_PARAM check 3; semw with no other waiter and a value of at least k takes k and
returns the value before, otherwise it joins the waiters and waits within limit x 4096 cycles; semw.try takes k when
no waiter is queued and the value suffices, returns all ones and changes nothing when not, and with k = 0 returns the
value; sems adds k and returns the new value, or traps SEM_OVERFLOW and changes nothing. Every other semaphore,
register and memory byte stays. Where the core that owns the semaphore holds the issuing core's slice, xsem.i, a
taking xsem.w and xsem.try, a failing xsem.try, and xsem.s complete as their core forms do, on the semaphore of the
cluster, with a fence of scope 1 around a take or a signal (lines that are not stale keep what the core sees); where
it does not, each traps DOM_PARAM and changes no semaphore; xsem.s above 0xFFFF traps SEM_OVERFLOW with 64 added to
the number. On L and S, a mark whose head can issue under a true guard completes when the other queue has issued at
least as many marks as this one makes, and counts itself; else it waits in WAIT_MARK with its own number, bounded by
%tlim. It changes nothing else. (R216, R27, R244, R221.) -/
def Obligations.SemaphoresAndMarks : Prop :=
  (
    ∀ (h : Head) (rd ra : Reg) (sem k : BitVec 6) (limit : BitVec 12) (pc : PcWord) (s : State),
      CanIssue h 1 pc s → s.guardBit h = true →
        let m := sem.toNat
        let v := s.cur.sem m
        let gives (i : Instr) (r : W64) (x : BitVec 16) : Prop :=
          Gives i h pc rd r id (fun c => { c with sems := [] }) s fun t =>
            t.cur.sem m = { v with value := x } ∧ ∀ j, j ≠ m → t.cur.sem j = s.cur.sem j
        ((s.rx ra).toNat ≤ 0xFFFF → gives (.semi h rd ra sem) (v.value.setWidth 64) ((s.rx ra).setWidth 16)) ∧
        (0xFFFF < (s.rx ra).toNat → Ordinary s → Traps (.semi h rd ra sem) { code := .memParam, faddr := s.rx ra, detail := 3 } s) ∧
        (v.waiters = [] → k.toNat ≤ v.value.toNat → gives (.semw h rd limit k sem) (v.value.setWidth 64) (v.value - k.setWidth 16)) ∧
        ((v.waiters ≠ [] ∧ (∀ e ∈ v.waiters, e.1 ≠ .stream s.curCore s.curK ∧ e.2 < s.cyc) ∨ v.waiters = [] ∧ v.value.toNat < k.toNat) →
          WaitsBut id (fun c => { c with sems := [] }) (.semw h rd limit k sem) (.sem m k.toNat) (limit.toNat * 4096) s ∧
          ∃ t, Machine.exec (.semw h rd limit k sem) s = .next t ∧
            t.cur.sem m = { v with waiters := v.waiters ++ [(.stream s.curCore s.curK, s.cyc)] } ∧ ∀ j, j ≠ m → t.cur.sem j = s.cur.sem j) ∧
        (k = 0 → gives (.semwTry h rd k sem) (v.value.setWidth 64) v.value) ∧
        (k ≠ 0 → v.waiters = [] → k.toNat ≤ v.value.toNat → gives (.semwTry h rd k sem) (v.value.setWidth 64) (v.value - k.setWidth 16)) ∧
        (k ≠ 0 → v.waiters ≠ [] ∨ v.value.toNat < k.toNat → gives (.semwTry h rd k sem) 0xFFFFFFFFFFFFFFFF#64 v.value) ∧
        (v.value.toNat + k.toNat ≤ 0xFFFF →
          gives (.sems h rd k sem) ((v.value + k.setWidth 16).setWidth 64) (v.value + k.setWidth 16)) ∧
        (0xFFFF < v.value.toNat + k.toNat → Ordinary s →
          Traps (.sems h rd k sem)
            { code := .semOverflow, faddr := BitVec.ofNat 64 (m + v.value.toNat * 2 ^ 16 + k.toNat * 2 ^ 32) } s)) ∧
  (
    ∀ (h : Head) (rd ra : Reg) (sem : BitVec 4) (k : BitVec 6) (limit : BitVec 12) (pc : PcWord) (s : State),
      CanIssue h 1 pc s → s.guardBit h = true →
        let m := sem.toNat
        let u := s.curCore / 4
        let v := (s.cluster u).xsem m
        let same := (s.core (u * 4 + m / 4)).slice = s.cur.slice
        let gives (i : Instr) (r : W64) (x : BitVec 16) : Prop :=
          Completes i h 1 pc s fun t =>
            t.rx rd = (if rd = 0 then 0 else r) ∧ (t.cluster u).xsem m = { v with value := x } ∧
              (∀ w j, w ≠ u ∨ j ≠ m → (t.cluster w).xsem j = (s.cluster w).xsem j) ∧
              (∀ w, ({ quiet (t.cluster w) with xsems := [] } : Cluster) = { quiet (s.cluster w) with xsems := [] }) ∧
              RegsBut rd s t ∧ Undisturbed s t ∧ KeptHome (fun u => { u with clusters := [] }) id id s t
        (same →
          ((s.rx ra).toNat ≤ 0xFFFF → gives (.xsemI h rd ra sem) (v.value.setWidth 64) ((s.rx ra).setWidth 16)) ∧
          (v.waiters = [] → k.toNat ≤ v.value.toNat → gives (.xsemW h rd limit k sem) (v.value.setWidth 64) (v.value - k.setWidth 16)) ∧
          (v.waiters = [] → v.value.toNat < k.toNat →
            WaitsBut (fun u => { u with clusters := [] }) id (.xsemW h rd limit k sem) (.xsem m k.toNat) (limit.toNat * 4096) s ∧
            ∃ t, Machine.exec (.xsemW h rd limit k sem) s = .next t ∧
              (t.cluster u).xsem m = { v with waiters := [(.stream s.curCore s.curK, s.cyc)] } ∧
              (∀ w j, w ≠ u ∨ j ≠ m → (t.cluster w).xsem j = (s.cluster w).xsem j) ∧ ClusterBut (fun c => { c with xsems := [] }) s t) ∧
          (v.waiters = [] → k.toNat ≤ v.value.toNat → gives (.xsemTry h rd k sem) (v.value.setWidth 64) (v.value - k.setWidth 16)) ∧
          (k = 0 → gives (.xsemTry h rd k sem) (v.value.setWidth 64) v.value) ∧
          (k ≠ 0 → v.waiters ≠ [] ∨ v.value.toNat < k.toNat → gives (.xsemTry h rd k sem) 0xFFFFFFFFFFFFFFFF#64 v.value) ∧
          (v.value.toNat + k.toNat ≤ 0xFFFF → gives (.xsemS h rd k sem) ((v.value + k.setWidth 16).setWidth 64) (v.value + k.setWidth 16)) ∧
          (0xFFFF < v.value.toNat + k.toNat → (∀ e ∈ s.cur.ways, e.2.dirty = 0) → Ordinary s →
            TrapsBut id (fun c => { c with ways := [] }) (.xsemS h rd k sem)
              { code := .semOverflow, faddr := BitVec.ofNat 64 (64 + m + v.value.toNat * 2 ^ 16 + k.toNat * 2 ^ 32) } s)) ∧
        (¬ same → Ordinary s →
          ∀ i ∈ ([.xsemI h rd ra sem, .xsemW h rd limit k sem, .xsemTry h rd k sem, .xsemS h rd k sem] : List Instr),
            Traps i { code := .domParam, faddr := BitVec.ofNat 64 m, detail := 0x80 + m } s)) ∧
  (
    ∀ (h : Head) (pc : PcWord) (s : State), CanIssue h 1 pc s → s.guardBit h = true →
      ∀ e ∈ ([(.L, .S), (.S, .L)] : List (StreamId × StreamId)), s.curK = e.1 →
        let n := s.st.marks + 1
        (n ≤ (s.cur.stream e.2).marksIssued → Completes (.mark h) h 1 pc s fun t =>
          t.st.marks = n ∧ Kept id id (fun st => { st with marks := 0 }) s t ∧ RegsBut 0 s t ∧ MemSame s t) ∧
        ((s.cur.stream e.2).marksIssued < n → Waits (.mark h) (.mark n) s.st.tlim.toNat s))

/-- O30. For a head that can issue under a true guard: rset with a good config word, a ring without records, storage
wholly in RING banks that no other enabled ring shares, and no spill, or a spill area that is aligned and on writable DEV
pages, completes with status 0, and the ring is enabled with the word's size, capacity and base, its spill area as pinned,
and every position at zero. A config word with a bad field gives status 1, a ring with records 2, storage that is not wholly
in RING banks 3, storage that another enabled ring shares 4, and a spill area that fails 5 (so one at 2^56 or above: log
entry 45), checked in this order; and these change nothing else; rset.clr unsets a ring without records and gives 2 for one
with records. rstat.pos and rstat.spill complete with the positions word and the spilled count; rwaitf and rwaite
complete with the available and the free count when it is at least x[rb], wait within limit x 64 cycles when it is
less, trap check 3 above the capacity and check 2 on a disabled ring. (R205, R206, R207, R210.) -/
def Obligations.RingSetUpAndReading : Prop :=
  ∀ (h : Head) (rd ra rb : Reg) (ring : BitVec 4) (limit : BitVec 24) (pc : PcWord) (s : State),
    CanIssue h 1 pc s → s.guardBit h = true →
      let m := ring.toNat
      let r := s.cur.ring m
      let w := (s.rx ra).toNat
      let z := w / 2 ^ 24 % 8
      let cap := 2 ^ (w / 2 ^ 28 % 16)
      let base := w % 2 ^ 22
      let busy := r.enabled = true ∧ (r.head ≠ r.tail ∨ r.spill ≠ [])
      let goodWord := w / 2 ^ 40 = 0 ∧ w / 2 ^ 33 % 8 = 0 ∧ w / 2 ^ 27 % 2 = 0 ∧ w / 2 ^ 22 % 4 = 0 ∧ z ≤ 4 ∧ w % 128 = 0
      let positions := r.head.toNat % 2 ^ 16 + r.claimed.toNat % 2 ^ 16 * 2 ^ 16 + r.tail.toNat % 2 ^ 16 * 2 ^ 32 +
        r.enabled.toNat * 2 ^ 48 + r.sp.toNat * 2 ^ 49
      let avail := (r.tail.toNat + 2 ^ 32 - r.claimed.toNat) % 2 ^ 32
      let free := if r.spill = [] then 2 ^ r.k - (r.tail.toNat + 2 ^ 32 - r.head.toNat) % 2 ^ 32 else 0
      (goodWord → ¬ busy → w / 2 ^ 32 % 2 = 0 → base + cap * (8 * 2 ^ z) ≤ 2 ^ 22 →
        (∀ a, base ≤ a → a < base + cap * (8 * 2 ^ z) → roleOf s.cur.roles (a / 2 ^ 16) = 4) →
        (∀ q, q < 16 → q ≠ m → (s.cur.ring q).enabled = true →
          base + cap * (8 * 2 ^ z) ≤ (s.cur.ring q).base ∨ (s.cur.ring q).base + 2 ^ (s.cur.ring q).k * (8 * 2 ^ (s.cur.ring q).z) ≤ base) →
        Gives (.rset h rd ra rb ring) h pc rd 0 id (fun c => { c with rings := [] }) s fun t =>
          (t.cur.ring m).enabled = true ∧ (t.cur.ring m).sp = false ∧ (t.cur.ring m).z = z ∧ 2 ^ (t.cur.ring m).k = cap ∧
            (t.cur.ring m).base = base ∧ (t.cur.ring m).head = 0 ∧ (t.cur.ring m).claimed = 0 ∧ (t.cur.ring m).tail = 0 ∧
            (t.cur.ring m).spill = [] ∧ ∀ q, q ≠ m → t.cur.ring q = s.cur.ring q) ∧
      (let last := base + cap * (8 * 2 ^ z)
        let stored := last ≤ 2 ^ 22 ∧ ∀ a, base ≤ a → a < last → roleOf s.cur.roles (a / 2 ^ 16) = 4
        let alone := ∀ q, q < 16 → q ≠ m → (s.cur.ring q).enabled = true →
          last ≤ (s.cur.ring q).base ∨ (s.cur.ring q).base + 2 ^ (s.cur.ring q).k * (8 * 2 ^ (s.cur.ring q).z) ≤ base
        let x := (s.rx rb).toNat
        let area := 2 ^ (w / 2 ^ 36 % 16) * (8 * 2 ^ z)
        let parts := s.spillParts (area / 4096 + 2) x area
        let gives (k : Nat) : Prop := Sets (.rset h rd ra rb ring) h 1 pc rd (BitVec.ofNat 64 k) s
        goodWord → ¬ busy →
          (¬ stored → gives 3) ∧ (stored → ¬ alone → gives 4) ∧
          (stored → alone → w / 2 ^ 32 % 2 = 1 →
            (x % 128 ≠ 0 ∨ 2 ^ 56 ≤ x ∨ parts = none → gives 5) ∧
            ((∀ e, s.translate s.curCore s.curCtx x = some e → e.cls ≠ 0 ∨ e.w = false) → parts = none) ∧
            (∀ e, s.translate s.curCore s.curCtx x = some e → e.cls = 0 → e.w = true → area ≤ e.size - (x - e.va) →
              parts = some [(e.phys x, area)]) ∧
            ∀ l, x % 128 = 0 → x < 2 ^ 56 → parts = some l →
              Gives (.rset h rd ra rb ring) h pc rd 0 id (fun c => { c with rings := [] }) s fun t =>
                t.cur.ring m = {
                  enabled := true, sp := true, z := z, k := w / 2 ^ 28 % 16, ks := w / 2 ^ 36 % 16, base := base, spillVa := x
                  spillPages := l } ∧
                ∀ q, q ≠ m → t.cur.ring q = s.cur.ring q)) ∧
      (¬ goodWord → Sets (.rset h rd ra rb ring) h 1 pc rd 1 s) ∧
      (goodWord → busy → Sets (.rset h rd ra rb ring) h 1 pc rd 2 s) ∧
      (busy → Sets (.rsetClr h rd ring) h 1 pc rd 2 s) ∧
      (¬ busy → Gives (.rsetClr h rd ring) h pc rd 0 id (fun c => { c with rings := [] }) s fun t =>
        t.cur.ring m = {} ∧ ∀ q, q ≠ m → t.cur.ring q = s.cur.ring q) ∧
      Sets (.rstatPos h rd ring) h 1 pc rd (BitVec.ofNat 64 positions) s ∧
      Sets (.rstatSpill h rd ring) h 1 pc rd (BitVec.ofNat 64 r.spill.length) s ∧
      ∀ f ∈ ([(.rwaitf h rd rb ring limit, avail), (.rwaite h rd rb ring limit, free)] : List (Instr × Nat)),
        (r.enabled = true → (s.rx rb).toNat ≤ 2 ^ r.k → (s.rx rb).toNat ≤ f.2 → Sets f.1 h 1 pc rd (BitVec.ofNat 64 f.2) s) ∧
        (r.enabled = true → (s.rx rb).toNat ≤ 2 ^ r.k → f.2 < (s.rx rb).toNat → Waits f.1 (.ring s.curCore m) (limit.toNat * 64) s) ∧
        (r.enabled = true → 2 ^ r.k < (s.rx rb).toNat → Ordinary s → Traps f.1 { code := .memParam, faddr := s.rx rb, detail := 3 } s) ∧
        (r.enabled = false → Ordinary s → Traps f.1 { code := .memParam, faddr := BitVec.ofNat 64 m, detail := 2 } s)

/-- O31. For a head that can issue under a true guard and an enabled ring: rput with room completes with status 0, the
record of its two registers stands at the tail's place and the tail is one more; without room but with spill space and
quota, the record joins the spilled ones, the quota falls by the record size, and memory may change in the spill area; else it completes with status 1 at
limit 0 and waits within limit x 64 cycles otherwise. rget without claims takes bytes 0 to 7 of the record at claimed
and moves head and claimed by one, waits on an empty ring, and traps check 4 with claims open. rclaim of m = min(n,
available) records into SCR moves claimed by m, writes only the claimed bytes' rows, and rclaim.rel moves head by n,
or traps check 3. Nothing else changes. (R205, R208, R209, R210.) -/
def Obligations.RingTakesClaimsAndAppends : Prop :=
  ∀ (h : Head) (rd ra rb : Reg) (ring : BitVec 4) (limit : BitVec 24) (n : BitVec 8) (pc : PcWord) (s : State),
    CanIssue h 1 pc s → s.guardBit h = true →
      let m := ring.toNat
      let r := s.cur.ring m
      let size := 8 * 2 ^ r.z
      let addr (p : Nat) : Nat := r.base + p % 2 ^ r.k * size
      let row (c : Core) (a : Nat) : Nat := c.poolRow (a / 2 ^ 16) (a / 128 % 512)
      let bytes (c : Core) (a k : Nat) : Nat := row c a / 2 ^ (8 * (a % 128)) % 2 ^ (8 * k)
      let quota := (s.ctx s.curCtx).spillq.toNat
      let rings (c : Core) : Core := { c with rings := [], pool := [], poolUe := [] }
      let others (t : State) : Prop := ∀ q, q ≠ m → t.cur.ring q = s.cur.ring q
      let put := (s.rx ra).toNat + (s.rx rb).toNat * 2 ^ 64
      r.enabled = true → r.z ≤ 4 → r.base % 128 = 0 →
        (1 ≤ r.free → Gives (.rput h rd ra rb ring limit) h pc rd 0 id rings s fun t =>
          t.cur.ring m = { r with tail := r.tail + 1 } ∧ others t ∧
            (∀ b x, b < 64 → x < 512 → ¬ (b = addr r.tail.toNat / 2 ^ 16 ∧ x = addr r.tail.toNat / 128 % 512) →
              t.cur.poolRow b x = s.cur.poolRow b x) ∧
            bytes t.cur (addr r.tail.toNat) size = put % 2 ^ (8 * size)) ∧
        (r.free = 0 → r.sp = true → r.spill.length < 2 ^ r.ks → size ≤ quota →
          let area (a : Nat) : Prop := ∃ p ∈ r.spillPages, ∃ o, o < p.2 ∧ a / 128 = (p.1 + o) / 128
          Completes (.rput h rd ra rb ring limit) h 1 pc s fun t =>
            t.rx rd = 0 ∧ t.cur.ring m = { r with spill := r.spill ++ [bytesOf put size] } ∧ others t ∧ t.cur.pool = s.cur.pool ∧
              (t.ctx s.curCtx).spillq.toNat = quota - size ∧
              (∀ x, ({ t.ctx x with spillq := 0, scans := [] } : Ctx) = { s.ctx x with spillq := 0, scans := [] }) ∧
              (∀ x, x ≠ s.curCtx → (t.ctx x).spillq = (s.ctx x).spillq) ∧ RegsBut rd s t ∧ UndisturbedBut area s t ∧
              (∀ d, offL2 (t.die d) = offL2 (s.die d)) ∧ Kept (fun u => { offHome u with ctxs := [] }) rings id s t) ∧
        (r.free = 0 → r.sp = false ∨ 2 ^ r.ks ≤ r.spill.length ∨ quota < size →
          (limit = 0 → Sets (.rput h rd ra rb ring limit) h 1 pc rd 1 s) ∧
          (limit ≠ 0 → Waits (.rput h rd ra rb ring limit) (.ring s.curCore m) (limit.toNat * 64) s)) ∧
        (r.head = r.claimed → r.claimed ≠ r.tail →
          s.cur.poolUe.contains (addr r.claimed.toNat / 2 ^ 16 * 512 + addr r.claimed.toNat / 128 % 512) = false →
          Gives (.rget h rd ring limit) h pc rd (BitVec.ofNat 64 (bytes s.cur (addr r.claimed.toNat) size)) id rings s fun t =>
            t.cur.ring m = { r with head := r.head + 1, claimed := r.claimed + 1 } ∧ others t ∧ t.cur.pool = s.cur.pool) ∧
        (r.head = r.claimed → r.claimed = r.tail → Waits (.rget h rd ring limit) (.ring s.curCore m) (limit.toNat * 64) s) ∧
        (r.head ≠ r.claimed → Ordinary s →
          Traps (.rget h rd ring limit) { code := .memParam, faddr := BitVec.ofNat 64 (r.claimed - r.head).toNat, detail := 4 } s) ∧
        (let k := min n.toNat (r.tail - r.claimed).toNat
          let dst := (s.rx rb).toNat
          dst + k * size ≤ 2 ^ 22 → dst < 2 ^ 22 →
          (∀ i, i < k * size → roleOf s.cur.roles ((dst + i) / 2 ^ 16) = 5) →
          (∀ i, i < k → roleOf s.cur.roles (addr (r.claimed.toNat + i) / 2 ^ 16) = 4 ∧
            s.cur.poolUe.contains (addr (r.claimed.toNat + i) / 2 ^ 16 * 512 + addr (r.claimed.toNat + i) / 128 % 512) = false) →
          Gives (.rclaim h rd rb ring n) h pc rd (BitVec.ofNat 64 k) id rings s fun t =>
            t.cur.ring m = { r with claimed := r.claimed + BitVec.ofNat 32 k } ∧ others t ∧
              (∀ i j, i < k → j < size →
                bytes t.cur (dst + i * size + j) 1 = bytes s.cur (addr (r.claimed.toNat + i) + j) 1) ∧
              ∀ a, a < 2 ^ 22 → a < dst ∨ dst + k * size ≤ a → bytes t.cur a 1 = bytes s.cur a 1) ∧
        (n.toNat ≤ (r.claimed - r.head).toNat →
          Gives (.rclaimRel h rd ring n) h pc rd (BitVec.ofNat 64 n.toNat) id rings s fun t =>
            t.cur.ring m = { r with head := r.head + n.setWidth 32 } ∧ others t ∧ t.cur.pool = s.cur.pool) ∧
        ((r.claimed - r.head).toNat < n.toNat → Ordinary s →
          Traps (.rclaimRel h rd ring n) { code := .memParam, faddr := BitVec.ofNat 64 n.toNat, detail := 3 } s)

/-- O32. For a head that can issue under a true guard, with a valid scope entry, an SCR payload and no replay (in record mode the append is logged, and in replay it waits for its turn, as said at the end): on an
enabled ring of a core bound to the issuing context with room for the n records, wenq completes with status 0, the
payload's records stand from the tail on and the tail is n more; without room, but with room in the ring's spill area and
in the context's quota, the payload's records join the spilled ones, the quota falls by their bytes, and memory may change
in the spill area alone; where neither the ring nor its spill has room, or the quota is spent, it completes with status 1 at
limit 0 and changes no ring, and waits within limit x 64 cycles otherwise; more records than a ring without spill holds trap
MEM_PARAM check 3. On a memory ring
whose descriptor, records and tail lie on permitted DEV pages, it waits while another append is under way there; with
room it completes with status 0, every record holds its payload at its home and the tail word is n more; without, it
completes with status 1 or waits as before. A core ring that is disabled or of another context, a malformed handle and a malformed descriptor trap MEM_PARAM check 7,
and more records than a memory ring holds check 3. Every other row of a pool, ring and byte of memory stays (dirty lines of the
release apart, and records of rings whose spill areas share bytes). In record mode an append to a ring of another core logs a RING record with the tail and the agent; in replay it waits
while the ring's next record is another agent's, and else is made. (R208, R209, R212, R213, R214, R354, R355.) -/
def Obligations.WriteWithEnqueue : Prop :=
  (∀ (h : Head) (rd ra rb : Reg) (scope : BitVec 5) (limit : BitVec 17) (n : BitVec 7) (pc : PcWord) (s : State),
    CanIssue h 1 pc s → s.guardBit h = true → ScopeReady s scope → n ≠ 0 → (s.ctx s.curCtx).replayMode = 0 →
      let i : Instr := .wenq h rd ra rb scope limit n
      let offRings (u : State) : State := { u with cores := tblMap u.cores fun k => { k with rings := [], pool := [], poolUe := [] } }
      let w := (s.rx ra).toNat
      let src := s.rx rb
      (w < 2 ^ 63 →
        let c := w % 256
        let q := w / 256 % 16
        let r := (s.core c).ring q
        let size := 8 * 2 ^ r.z
        let addr (p : Nat) : Nat := r.base + p % 2 ^ r.k * size
        let quota := (s.ctx s.curCtx).spillq.toNat
        let mine := w / 2 ^ 12 = 0 ∧ c < 192 ∧ (∃ v, s.sliceOf c = some v ∧ v.ctx = s.curCtx) ∧ r.enabled = true
        (¬ mine → Ordinary s → Traps i { code := .memParam, faddr := s.rx ra, detail := 7 } s) ∧
        (mine → r.z ≤ 4 → r.base % 128 = 0 → PayloadReady s src (n.toNat * size) →
          (n.toNat ≤ r.free → Completes i h 1 pc s fun t =>
            t.rx rd = 0 ∧ (t.core c).ring q = { r with tail := r.tail + n.setWidth 32 } ∧
              (∀ d p, d ≠ c ∨ p ≠ q → ({ (t.core d).ring p with spill := [] } : Ring) = { (s.core d).ring p with spill := [] }) ∧
              (Unspilled s ∨ AllClean s → ∀ d p, d ≠ c ∨ p ≠ q → (t.core d).ring p = (s.core d).ring p) ∧
              (∀ a b, a < n.toNat → b < size → poolByte (t.core c) (addr (r.tail.toNat + a) + b) = poolByte s.cur (src.toNat + a * size + b)) ∧
              (∀ d x, x < 2 ^ 22 → (d = c → ∀ a, a < n.toNat → ¬ (addr (r.tail.toNat + a) ≤ x ∧ x < addr (r.tail.toNat + a) + size)) →
                poolByte (t.core d) x = poolByte (s.core d) x) ∧
              (∀ d, ∀ x ∈ (t.core d).poolUe, x ∈ (s.core d).poolUe) ∧ RegsBut rd s t ∧ Undisturbed s t ∧
              KeptHome id id id (offRings s) (offRings t)) ∧
          (r.free < n.toNat → r.sp = true → r.spill.length + n.toNat ≤ 2 ^ r.ks → n.toNat * size ≤ quota → Unspilled s ∨ AllClean s →
            (∀ e ∈ r.spillPages, e.1 % size = 0 ∧ e.2 % size = 0) →
            let area (x : Nat) : Prop := ∃ e ∈ r.spillPages, ∃ o, o < e.2 ∧ x / 128 = (e.1 + o) / 128
            Completes i h 1 pc s fun t =>
              t.rx rd = 0 ∧ (∃ l : List (List Byte), (t.core c).ring q = { r with spill := r.spill ++ l } ∧ l.length = n.toNat ∧
                ∀ a rec, l[a]? = some rec → rec.length = size ∧
                  ∀ b, b < size → (rec.getD b 0).toNat = poolByte s.cur (src.toNat + a * size + b)) ∧
              (∀ d p, d ≠ c ∨ p ≠ q → let g := (s.core d).ring p
                ({ (t.core d).ring p with spill := [] } : Ring) = { g with spill := [] } ∧
                  ((∀ e ∈ r.spillPages, ∀ e' ∈ g.spillPages, e.1 + e.2 ≤ e'.1 ∨ e'.1 + e'.2 ≤ e.1) → (t.core d).ring p = g)) ∧
              (∀ d x, x < 2 ^ 22 → poolByte (t.core d) x = poolByte (s.core d) x) ∧
              (∀ d, ∀ x ∈ (t.core d).poolUe, x ∈ (s.core d).poolUe) ∧ (t.ctx s.curCtx).spillq.toNat = quota - n.toNat * size ∧
              (∀ x, ({ t.ctx x with spillq := 0, scans := [] } : Ctx) = { s.ctx x with spillq := 0, scans := [] }) ∧
              (∀ x, x ≠ s.curCtx → (t.ctx x).spillq = (s.ctx x).spillq) ∧ RegsBut rd s t ∧ UndisturbedBut area s t ∧
              KeptHome (fun u => { u with ctxs := [] }) id id (offRings s) (offRings t)) ∧
          (r.sp = false → 2 ^ r.k < n.toNat → Ordinary s →
            Traps i { code := .memParam, faddr := BitVec.ofNat 64 n.toNat, detail := 3 } s) ∧
          (r.free < n.toNat →
            r.sp = false ∧ n.toNat ≤ 2 ^ r.k ∨ r.sp = true ∧ (2 ^ r.ks < r.spill.length + n.toNat ∨ quota < n.toNat * size) →
            (limit = 0 → Completes i h 1 pc s fun t =>
              t.rx rd = (if rd = 0 then 0 else 1) ∧ RegsBut rd s t ∧ Cached id (fun _ => False) s t) ∧
            (limit ≠ 0 → AllClean s → WaitsBut id offWays i (.ring c q) (limit.toNat * 64) s)))) ∧
      (2 ^ 63 ≤ w →
        let desc := w % 2 ^ 56
        (w / 2 ^ 56 % 2 ^ 7 ≠ 0 ∨ desc % 64 ≠ 0 → Ordinary s → Traps i { code := .memParam, faddr := s.rx ra, detail := 7 } s) ∧
        ∀ ed et : TlbEntry, ∀ er : Nat → TlbEntry, w / 2 ^ 56 % 2 ^ 7 = 0 → desc % 64 = 0 →
          let pd := ed.phys desc
          Steady s desc 64 .read ed → ed.cls = 0 → pd % 64 = 0 → s.homeBad (some s.curPart) (pd / 128) = false →
            Clean s (pd / 128) → Private s (pd / 128) →
          let word (j : Nat) : Nat := s.homeRead (some s.curPart) (pd + 8 * j) 8
          (descFields (s.homeRead (some s.curPart) pd 64) = none → Ordinary s →
            TrapsBut id offWays i { code := .memParam, faddr := BitVec.ofNat 64 desc, detail := 7 } s) ∧
          (∀ base z k, descFields (s.homeRead (some s.curPart) pd 64) = some (base, z, k) → 2 ^ k < n.toNat → Ordinary s →
            TrapsBut id offWays i { code := .memParam, faddr := BitVec.ofNat 64 n.toNat, detail := 3 } s) ∧
          ∀ base z k, descFields (s.homeRead (some s.curPart) pd 64) = some (base, z, k) → n.toNat ≤ 2 ^ k →
            let size := 8 * 2 ^ z
            let room : Prop := (n.toNat : Int) ≤ 2 ^ k - ((word 2 : Int) - word 3)
            PayloadReady s src (n.toNat * size) →
            (s.appending pd = true → AllClean s → WaitsBut id offWays i .busy 0 s) ∧ (s.appending pd = false →
            (room →
              let va (a : Nat) : Nat := (base + (word 2 + a) % 2 ^ k * size) % 2 ^ 56
              let p (a : Nat) : Nat := (er a).phys (va a)
              let pt := et.phys (desc + 16)
              (∀ a, a < n.toNat → Steady s (va a) size .write (er a) ∧ (er a).cls = 0 ∧ p a % size = 0) →
              Steady s (desc + 16) 8 .write et → et.cls = 0 → pt % 8 = 0 →
              (∀ a b, a < n.toNat → b < n.toNat → a ≠ b → p a + size ≤ p b ∨ p b + size ≤ p a) →
              (∀ a, a < n.toNat → p a + size ≤ pt ∨ pt + 8 ≤ p a) →
              (∀ a, a < n.toNat → Private s (p a / 128)) → Private s (pt / 128) →
              Completes i h 1 pc s fun t =>
                t.rx rd = 0 ∧ RegsBut rd s t ∧ t.homeRead (some s.curPart) pt 8 = (word 2 + n.toNat) % 2 ^ 64 ∧
                  (∀ a b, a < n.toNat → b < size →
                    t.homeRead (some s.curPart) (p a + b) 1 = poolByte s.cur (src.toNat + a * size + b)) ∧
                  (∀ x, (∀ a, a < n.toNat → ¬ (p a ≤ x ∧ x < p a + size)) → ¬ (pt ≤ x ∧ x < pt + 8) → Settled s (x / 128) →
                    memRead t.mem x = memRead s.mem x) ∧
                  KeptHome id id id s t) ∧
            (¬ room →
              (limit = 0 → Completes i h 1 pc s fun t =>
                t.rx rd = (if rd = 0 then 0 else 1) ∧ RegsBut rd s t ∧ Cached id (fun _ => False) s t) ∧
              (limit ≠ 0 → AllClean s → WaitsBut id offWays i (.memRing desc) (limit.toNat * 64) s))))) ∧
  ∀ (h : Head) (rd ra rb : Reg) (scope : BitVec 5) (limit : BitVec 17) (n : BitVec 7) (pc : PcWord) (s : State),
    CanIssue h 1 pc s → s.guardBit h = true → ScopeReady s scope → n ≠ 0 → AllClean s → Unspilled s → (s.rx ra).toNat / 2 ^ 12 = 0 →
      let i : Instr := .wenq h rd ra rb scope limit n
      let x := s.curCtx
      let c := (s.rx ra).toNat % 256
      let q := (s.rx ra).toNat / 256 % 16
      let r := (s.core c).ring q
      let agent := s.curCore * 4 + s.curK.num
      let joins (P : State → Prop) : Prop := Completes i h 1 pc s fun t =>
        t.rx rd = 0 ∧ RegsBut rd s t ∧ (t.core c).ring q = { r with tail := r.tail + n.setWidth 32 } ∧ P t
      let next := (s.ctx x).replayRecs.find? fun e =>
        e.1.toNat % 2 ^ 8 == 2 && e.1.toNat / 2 ^ 8 % 2 ^ 8 == c && e.1.toNat / 2 ^ 18 % 2 ^ 4 == q
      c < 192 → c ≠ s.curCore → (∃ v, s.sliceOf c = some v ∧ v.ctx = x) → r.enabled = true → r.z ≤ 4 → r.base % 128 = 0 →
        PayloadReady s (s.rx rb) (n.toNat * (8 * 2 ^ r.z)) → n.toNat ≤ r.free →
        ((s.ctx x).replayMode = 1 → joins (Logged x (c / 96) 2 c 0 q r.tail.toNat agent s)) ∧
        ((s.ctx x).replayMode = 2 →
          (next = none → joins fun _ => True) ∧
          ∀ e, next = some e → (e.2.toNat = agent → joins fun _ => True) ∧
            (e.2.toNat ≠ agent → WaitsBut id offWays i .forced 0 s))

/-- O33. For a head that can issue under a true guard and a valid scope entry that names the engine: epush of a valid
handle, vdec, mask and gsx of a handle of their kind with an aligned block, and the five forms of rfsh and mthr to the
change-mask unit of their die, complete with the sequence number of the core's FIFO in rd, the command at the end of
the FIFO with its context, core, slice and captured entry, and the number one more; a FIFO with eight entries of the
core holds them in an engine wait bounded by %tlim; a bad handle, a handle of another kind, an engine outside the
entry and a misaligned block trap MEM_PARAM check 6, whose faddr the model fills as log entry 41 says. epop completes with the oldest element of the core removed, and
waits within limit x 64 cycles while there is none. (R218, R219, R220, R270.) -/
def Obligations.CommandsEnterTheEngineFifos : Prop :=
  ∀ (h : Head) (rd ra rb : Reg) (scope : BitVec 5) (die : BitVec 1) (limit : BitVec 24) (pc : PcWord) (s : State),
    CanIssue h 1 pc s → s.guardBit h = true →
      let handle := (s.rx ra).toNat
      let n := scope.toNat
      let entry := s.scopeEntry s.curCtx n s.curCore
      let block := (s.rx rb).toNat
      let bit (d slot : Nat) : Nat := 8 * d + (if slot < 5 then slot else 5)
      let enters (i : Instr) (d slot : Nat) (src : VSource) : Prop :=
        let g := s.engine d slot
        entry.engines.getLsbD (bit d slot) = true →
          (g.occupancy s.curCore < 8 → Completes i h 1 pc s fun t =>
            t.rx rd = (if rd = 0 then 0 else BitVec.ofNat 64 (tblGet 0 g.seqs s.curCore)) ∧
              (t.engine d slot).fifo = g.fifo ++
                [{ die := d, ctx := s.curCtx, core := s.curCore, slice := s.cur.slice.getD 0, seq := tblGet 0 g.seqs s.curCore, src := src
                   scope := some (n, entry.gen.toNat) }] ∧
              tblGet 0 (t.engine d slot).seqs s.curCore = (tblGet 0 g.seqs s.curCore + 1) % 2 ^ 32 ∧
              ({ t.engine d slot with fifo := [], seqs := [] } : Engine) = { g with fifo := [], seqs := [] } ∧
              (∀ d' slot', d' ≠ d ∨ slot' ≠ slot → t.engine d' slot' = s.engine d' slot') ∧ RegsBut rd s t ∧ Undisturbed s t ∧
              KeptHomeBut (fun e => { e with engines := [] }) id id id s t) ∧
          (8 ≤ g.occupancy s.curCore → Waits i (.engineRoom (engineHandle d slot)) s.st.tlim.toNat s)
      (ScopeReady s scope →
        (∀ d slot, handle < 128 → engineSlot handle = some (d, slot) → block % 64 = 0 →
          enters (.epush h rd ra rb scope) d slot (.block (block % 2 ^ 56)) ∧
          (handle % 16 = 0 → enters (.vdec h rd ra rb scope) d slot (.block (block % 2 ^ 56))) ∧
          (handle % 16 = 1 → enters (.mask h rd ra rb scope) d slot (.block (block % 2 ^ 56))) ∧
          (handle % 16 = 2 → enters (.gsx h rd ra rb scope) d slot (.block (block % 2 ^ 56)))) ∧
        enters (.rfshLayer h rd ra scope die) die.toNat 4 (.rfshLayer handle) ∧
        enters (.rfshTile h rd ra rb scope die) die.toNat 4 (.rfshTile handle (s.rx rb)) ∧
        enters (.mthrThr h rd ra rb scope die) die.toNat 4 (.mthr 0 handle (s.rx rb)) ∧
        enters (.mthrLim h rd ra rb scope die) die.toNat 4 (.mthr 1 handle (s.rx rb)) ∧
        enters (.mthrNref h rd ra rb scope die) die.toNat 4 (.mthr 2 handle (s.rx rb))) ∧
      (entry.valid = true → Ordinary s →
        let at' (f : Nat) : Trap := { code := .memParam, faddr := BitVec.ofNat 64 f, detail := 6 }
        (handle ≥ 128 ∨ engineSlot handle = none →
          (∀ i ∈ ([.epush h rd ra rb scope, .vdec h rd ra rb scope, .mask h rd ra rb scope, .gsx h rd ra rb scope] : List Instr),
            Traps i (at' (if handle < 256 then handle + n * 256 else handle)) s) ∧ Traps (.epop h rd ra limit) (at' handle) s) ∧
        (∀ d slot, handle < 128 → engineSlot handle = some (d, slot) →
          ∀ f ∈ ([(.vdec h rd ra rb scope, 0), (.mask h rd ra rb scope, 1), (.gsx h rd ra rb scope, 2),
              (.epush h rd ra rb scope, handle % 16)] : List (Instr × Nat)),
            handle % 16 ≠ f.2 ∨ entry.engines.getLsbD (bit d slot) = false ∨ block % 64 ≠ 0 → Traps f.1 (at' (handle + n * 256)) s)) ∧
      ∀ d slot, handle < 128 → engineSlot handle = some (d, slot) →
        let g := s.engine d slot
        (∀ v rest, g.elements s.curCore = v :: rest → Completes (.epop h rd ra limit) h 1 pc s fun t =>
          t.rx rd = (if rd = 0 then 0 else v) ∧ (t.engine d slot).elements s.curCore = rest ∧
            (∀ c, c ≠ s.curCore → (t.engine d slot).elements c = g.elements c) ∧ (t.engine d slot).fifo = g.fifo ∧
            (∀ d' slot', d' ≠ d ∨ slot' ≠ slot → t.engine d' slot' = s.engine d' slot') ∧
            Kept (fun s => { s with dies := [] }) id id s t ∧ RegsBut rd s t ∧ MemSame s t) ∧
        (g.elements s.curCore = [] → Waits (.epop h rd ra limit) (.engineResult (engineHandle d slot)) (limit.toNat * 64) s)

/-- O34. For a head that can issue under a true guard: detach completes with its stream detached, dphase with the phase of the core,
and where a context traces them, the front end records DETACH with the core's position and the stream, and the stream PHASE. Where
they are not traced, nothing else changes. join.open completes with 0 and no change where the entry exists, with 1 where the table
holds eight entries, and else with 0 and a new entry that expects the positions of the stream's fetch group, or its
own when detached. join waits where the entry lacks arrivals, having marked its own; where every other expected
position waits there, it completes: the entry is gone, every member retires its join, and each is in the new group,
attached exactly where its next PC is that of the lowest position. A join without an entry, or not expected in it,
traps JOIN_UNKNOWN. (R232, R233, R234, R235, R241, R350.) -/
def Obligations.DetachmentJoinsAndPhases : Prop :=
  ∀ (h : Head) (rd : Reg) (id' : BitVec 8) (limit : BitVec 16) (pc : PcWord) (s : State),
    CanIssue h 1 pc s → s.guardBit h = true →
      (Completes (.detach h) h 1 pc s fun t => t.st.attached = false ∧ RegsBut 0 s t ∧
        (s.st.attached = true → Recorded s.curCtx (16384 + s.curCore / 4 * 4) 4 0x30 (2 ^ (s.curCore % 4) + s.curK.num * 2 ^ 4) s t)) ∧
      (∀ f ∈ ([(.dphaseComp h, false), (.dphaseComm h, true)] : List (Instr × Bool)), Completes f.1 h 1 pc s fun t =>
        t.cur.dphs = f.2 ∧ RegsBut 0 s t ∧ Recorded s.curCtx (s.curCore * 4 + s.curK.num) 4 0x32 f.2.toNat s t) ∧
      (Untraced s.curCtx 1 s → Untraced s.curCtx 4 s →
      let u := s.curCore / 4
      let slice := s.cur.slice.getD 0
      let entry := (s.cluster u).joins.find? fun e => e.slice == slice && e.kind == s.curK && e.id == id'.toNat
      let own : BitVec 4 := BitVec.ofNat 4 (2 ^ (s.curCore % 4))
      let joins (c : Cluster) : Cluster := { c with joins := [] }
      (Completes (.detach h) h 1 pc s fun t =>
        t.st.attached = false ∧ Kept id id (fun st => { st with attached := false }) s t ∧ RegsBut 0 s t ∧ MemSame s t) ∧
      (entry.isSome = true → Sets (.joinOpen h rd id') h 1 pc rd 0 s) ∧
      (entry = none → 8 ≤ (s.cluster u).joins.length → Sets (.joinOpen h rd id') h 1 pc rd 1 s) ∧
      (entry = none → (s.cluster u).joins.length < 8 → Completes (.joinOpen h rd id') h 1 pc s fun t =>
        t.rx rd = 0 ∧ (∃ m, (t.cluster u).joins = (s.cluster u).joins ++
            [{ slice := slice, kind := s.curK, id := id'.toNat, expected := m, arrived := 0, expiry := none }] ∧
          ∀ p, p < 4 → m.getLsbD p = (match s.fetchGroup s.curCore s.curK with
            | some g => (s.groupMembers u g).contains (4 * u + p)
            | none => decide (p = s.curCore % 4))) ∧
        ClusterBut joins s t ∧ Kept (fun s => { s with clusters := [] }) id id s t ∧ RegsBut rd s t ∧ MemSame s t) ∧
      (entry = none → Ordinary s → Traps (.join h limit id') { code := .joinUnknown, faddr := id'.setWidth 64 } s) ∧
      (∀ e, entry = some e →
        let wants (p : Nat) : Prop := p < 4 ∧ e.expected.getLsbD p = true
        let here (p : Nat) : Prop := ((s.core (4 * u + p)).stream s.curK).arrived (.join id'.toNat) = true
        (e.expected &&& own = 0 → Ordinary s →
          Traps (.join h limit id') { code := .joinUnknown, faddr := BitVec.ofNat 64 (id'.toNat + 256) } s) ∧
        (e.expected &&& own ≠ 0 →
          (e.arrived ||| own ≠ e.expected → limit ≠ 0 → (∀ x, e.expiry = some x → s.cyc < x) →
            WaitsBut (fun u => { u with clusters := [] }) id (.join h limit id') (.join id'.toNat) 0 s ∧
            ∃ t, Machine.exec (.join h limit id') s = .next t ∧ ClusterBut joins s t ∧
              (t.cluster u).joins = (s.cluster u).joins.map fun d =>
                if d.slice = slice ∧ d.kind = s.curK ∧ d.id = id'.toNat then
                  { e with
                    arrived := e.arrived ||| own
                    expiry := if e.arrived = 0 ∨ e.arrived &&& own ≠ 0 ∧ e.expiry = none then some (s.cyc + limit.toNat * 256) else e.expiry }
                else d) ∧
          (e.arrived ||| own = e.expected → (∀ p, wants p → 4 * u + p ≠ s.curCore → here p) →
            (∀ p, wants p → (s.core (4 * u + p)).slice = s.cur.slice ∧ ∃ npc, s.nextPcOf (4 * u + p) s.curK = some npc) →
            Completes (.join h limit id') h 1 pc s fun t =>
              (∀ d ∈ (t.cluster u).joins, ¬ (d.slice = slice ∧ d.kind = s.curK ∧ d.id = id'.toNat)) ∧
              (∀ p, wants p → ((t.core (4 * u + p)).stream s.curK).group = (s.cluster u).nextGroup) ∧
              (∀ p, wants p → 4 * u + p ≠ s.curCore → Completed (4 * u + p) s.curK s t) ∧
              (∀ p low, wants p → wants low → (∀ r, wants r → low ≤ r) →
                ((t.core (4 * u + p)).stream s.curK).attached =
                  (s.nextPcOf (4 * u + p) s.curK == s.nextPcOf (4 * u + low) s.curK)) ∧
              (∀ c, (∀ p, wants p → c ≠ 4 * u + p) → t.core c = s.core c) ∧ (∀ w, w ≠ u → t.cluster w = s.cluster w) ∧
              ({ t with cores := [], clusters := [] } : State) = { s with cores := [], clusters := [] } ∧
              (∀ r, t.rx r = s.rx r) ∧ MemSame s t))) ∧
      ∀ f ∈ ([(.dphaseComp h, false), (.dphaseComm h, true)] : List (Instr × Bool)),
        Completes f.1 h 1 pc s fun t =>
          t.cur.dphs = f.2 ∧ Kept id (fun c => { c with dphs := false }) id s t ∧ RegsBut 0 s t ∧ MemSame s t)

/-- O35. For a head that can issue under a true guard, where %dom is consistent with the gang: dinfo completes with the
domain number, the member count, the rank, or the core of rank 0 (of several the least; of none a free value: log entry 47). dsync with a valid scope entry pairs with the dsyncs
of the same level and number: it waits while some other stream of its mask has not arrived, and once all have, with
the same mask and phase, every one of them retires, the own stream last; paired arrivals with another mask trap
DOM_PARAM and, the masks being one, with other phases DOM_PHASE with the ranks in phase 1. cbcast waits while some
other member of the cluster domain has not arrived with its own of the same number, and once all have named the same
rank, completes with the value of that rank's member (where none has it, a free value) in the destination of every member; another
rank, or one not below the count, traps DOM_PARAM, whose level 4 is log entry 45. Where %dom is not
consistent, each of the three traps DOM_PARAM with %dom. (R239, R240, R242, R243.) -/
def Obligations.DomainsSynchroniseAndBroadcast : Prop :=
  ∀ (h : Head) (rd ra : Reg) (scope : BitVec 5) (level smask : BitVec 4) (limit : BitVec 16) (which src : BitVec 2) (pc : PcWord) (s : State),
    CanIssue h 1 pc s → s.guardBit h = true → Untraced s.curCtx 1 s →
      let l := level.toNat
      let r3 := s.cur.dom.toNat / 2 ^ 24
      let nOf (l : Nat) : Nat := if l = 0 then 1 else if l = 1 then s.cur.dom.toNat % 2 ^ 8
        else if l = 2 then s.cur.dom.toNat / 2 ^ 8 % 2 ^ 8 else s.cur.dom.toNat / 2 ^ 16 % 2 ^ 8
      let good := r3 < nOf 3 ∧ 0 < nOf 1 ∧ 0 < nOf 2 ∧ nOf 2 % nOf 1 = 0 ∧ nOf 3 % nOf 2 = 0 ∧ nOf 3 = s.gang.length
      let number (l m : Nat) : Nat := (s.core m).dom.toNat / 2 ^ 24 / nOf l
      let rank (l m : Nat) : Nat := (s.core m).dom.toNat / 2 ^ 24 % nOf l
      let domain (l : Nat) : List Nat := if l = 0 then [s.curCore] else s.gang.filter fun m => number l m == r3 / nOf l
      let members := domain l
      let fellows := domain 1
      let n := tblGet 0 s.st.pairs l
      let arr (e : Nat × StreamId) : Prop := (s.stream e.1 e.2).arrivedAt (.dsync l) l n = true
      let paired := s.pairedMask l n members 4 smask.toNat
      let named (mask : Nat) : List (Nat × StreamId) := members.flatMap fun m => (streamsOf mask).map fun k => (m, k)
      let others (mask : Nat) : List (Nat × StreamId) := (named mask).filter fun e => !(e.1 == s.curCore && e.2 == s.curK)
      let capt (m : Nat) (k : StreamId) : Nat := (s.stream m k).capt.getD 0
      let agreed : Prop := ∀ m ∈ members, ∀ k, arr (m, k) → capt m k % 16 &&& smask.toNat ≠ 0 → capt m k % 16 = smask.toNat
      let phase (e : Nat × StreamId) : Bool := if e = (s.curCore, s.curK) then s.cur.dphs else capt e.1 e.2 / 16 % 2 == 1
      let mine := smask.toNat + s.cur.dphs.toNat * 16
      let met (m : Nat) : Prop := (s.stream m s.curK).arrivedAt .cbcast 4 (tblGet 0 s.st.pairs 4) = true
      let sync : Instr := .dsync h scope level limit smask
      let cast : Instr := .cbcast h rd ra limit src
      (good →
        (which ≠ 3 → Sets (.dinfo h rd level which) h 1 pc rd
          (BitVec.ofNat 64 (if which = 0 then r3 / nOf l else if which = 1 then nOf l else r3 % nOf l)) s) ∧
        (∀ m, members.find? (fun m => rank l m == 0) = some m → Sets (.dinfo h rd level 3) h 1 pc rd (BitVec.ofNat 64 m) s) ∧
        (members.find? (fun m => rank l m == 0) = none → Completes (.dinfo h rd level 3) h 1 pc s fun t =>
          Kept (fun s => { s with free := 0 }) id id s t ∧ RegsBut rd s t ∧ MemSame s t) ∧
        (ScopeReady s scope →
          ((∃ e ∈ others smask.toNat ++ others paired, ¬ arr e) → AllClean s →
            WaitsBut id offWays sync (.dsync l) (limit.toNat * 256) s ∧ ∃ t, Machine.exec sync s = .next t ∧ t.st.capt = some mine) ∧
          (agreed → (∀ e ∈ others smask.toNat, arr e ∧ capt e.1 e.2 = mine ∧ (s.nextPcOf e.1 e.2).isSome = true) →
            (others smask.toNat).Nodup → (s.curCore, s.curK) ∈ named smask.toNat →
              ∃ t, Machine.exec sync s = .next t ∧ t.st.pc = pc ∧ t.st.rc = s.st.rc + 1 ∧ t.st.issued = false ∧ t.st.wait = none ∧
                tblGet 0 t.st.pairs l = n + 1 ∧ (∀ r, t.rx r = s.rx r) ∧ (∀ e ∈ others smask.toNat, Completed e.1 e.2 s t) ∧
                ∀ c, c ≠ s.curCore → (∀ e ∈ others smask.toNat, e.1 ≠ c) → offSpill (t.core c) = offSpill (s.core c)) ∧
          (agreed → others smask.toNat = [] → (s.curCore, s.curK) ∈ named smask.toNat →
            Completes sync h 1 pc s fun t =>
              tblGet 0 t.st.pairs l = n + 1 ∧ (∀ j, j ≠ l → tblGet 0 t.st.pairs j = tblGet 0 s.st.pairs j) ∧ RegsBut 0 s t ∧
                Undisturbed s t ∧ KeptHome id id (fun st => { st with pairs := [] }) s t) ∧
          ((∀ e ∈ others paired, arr e) → AllClean s → Ordinary s → (∃ e ∈ others paired, capt e.1 e.2 % 16 ≠ smask.toNat) →
            TrapsBut id offWays sync { code := .domParam, faddr := smask.setWidth 64, detail := l } s) ∧
          ((∀ e ∈ others paired, arr e ∧ capt e.1 e.2 % 16 = smask.toNat) → AllClean s → Ordinary s →
            (s.curCore, s.curK) ∈ named paired → (∃ e ∈ others paired, phase e ≠ s.cur.dphs) →
            TrapsBut id offWays sync
              { code := .domPhase
                faddr := BitVec.ofNat 64 (((members.filter fun m => (named paired).any fun e => e.1 == m && phase e).map
                  fun m => 2 ^ rank l m).foldl (· ||| ·) 0), detail := l } s)) ∧
        (nOf 1 ≤ src.toNat → Ordinary s → Traps cast { code := .domParam, faddr := src.setWidth 64, detail := 4 } s) ∧
        (src.toNat < nOf 1 →
          ((∃ m ∈ fellows, m ≠ s.curCore ∧ ¬ met m) → Waits cast .cbcast (limit.toNat * 256) s ∧
            ∃ t, Machine.exec cast s = .next t ∧ t.st.capt = some ((s.rx ra).toNat + src.toNat * 2 ^ 64)) ∧
          ((∀ m ∈ fellows, m ≠ s.curCore → met m) → (∃ m ∈ fellows, m ≠ s.curCore ∧ capt m s.curK / 2 ^ 64 ≠ src.toNat) → Ordinary s →
            Traps cast { code := .domParam, faddr := src.setWidth 64, detail := 4 } s) ∧
          ((∀ m ∈ fellows, m ≠ s.curCore → met m ∧ capt m s.curK / 2 ^ 64 = src.toNat ∧
              (s.core m).slice = s.cur.slice ∧ (s.nextPcOf m s.curK).isSome = true) → fellows.Nodup →
            let named := fellows.find? fun m => rank 1 m == src.toNat
            ∃ v : W64, (∀ m, named = some m → v = if m = s.curCore then s.rx ra else BitVec.ofNat 64 (capt m s.curK)) ∧
            Completes cast h 1 pc s fun t =>
              t.rx rd = (if rd = 0 then 0 else v) ∧ RegsBut rd s t ∧ MemSame s t ∧
                tblGet 0 t.st.pairs 4 = tblGet 0 s.st.pairs 4 + 1 ∧ (∀ c, c ∉ fellows → c ≠ s.curCore → t.core c = s.core c) ∧
                (named ≠ none → t.free = s.free) ∧ ({ t with cores := [], free := 0 } : State) = { s with cores := [], free := 0 } ∧
                ∀ m ∈ fellows, m ≠ s.curCore → Completed m s.curK s t ∧
                  (∀ h' d a l' q, ({ s with curCore := m } : State).headInstr = some (.cbcast h' d a l' q) →
                    (t.stream m s.curK).reg d = (if d = 0 then 0 else v))))) ∧
      (¬ good → Ordinary s →
        Traps (.dinfo h rd level which) { code := .domParam, faddr := s.cur.dom.setWidth 64, detail := l } s ∧
        Traps cast { code := .domParam, faddr := s.cur.dom.setWidth 64, detail := 4 } s ∧
        (ScopeReady s scope → Traps sync { code := .domParam, faddr := s.cur.dom.setWidth 64, detail := l } s))

/-- O36. At USER level scset traps PRIV_VIOLATION. At HANDLER level, with its 64-byte image on a readable DEV page of a
sound row, it completes: a bad image gives 0x100 plus the generation and one that names a core or slice not allotted
to the partition 0x200 plus it, both without a change to the table; otherwise, while no instruction holds a capture,
the entry takes the image's masks and valid bit, its generation rises by one modulo 256 and is the result, and every
other entry stays; while a capture is held it waits. scget completes with the word of the entry: the core masks, the
slice mask, or engines, classes, valid bit and generation. (R246, R249, R250, R251.) -/
def Obligations.ScopeEntriesAreReadAndInstalled : Prop :=
  ∀ (h : Head) (rd ra : Reg) (scope : BitVec 5) (w : BitVec 4) (pc : PcWord) (s : State),
    CanIssue h 1 pc s → s.guardBit h = true →
      let n := scope.toNat
      let e := tblGet {} (s.ctx s.curCtx).scopes n
      let f := s.scopeEntry s.curCtx n s.curCore
      (w.toNat < 5 → Sets (.scget h rd scope w) h 1 pc rd
        (if w = 0 then f.cores.extractLsb' 0 64 else if w = 1 then f.cores.extractLsb' 64 64
          else if w = 2 then f.cores.extractLsb' 128 64 else if w = 3 then f.slices
          else BitVec.ofNat 64 (f.engines.toNat + f.classes.toNat * 2 ^ 16 + f.valid.toNat * 2 ^ 32 + f.gen.toNat * 2 ^ 40)) s) ∧
      (s.isHandler = false → Ordinary s → Traps (.scset h rd ra scope) { code := .privViolation, faddr := 0xC4 } s) ∧
      (s.isHandler = true →
        let va := (s.rx ra).toNat % 2 ^ 56 - (s.rx ra).toNat % 2 ^ 56 % 64
        ∀ t0, s.accessEntry va 64 .read = .ok t0 → t0.cls = 0 → t0.phys va % 64 = 0 → Sound s (t0.phys va / 128) →
          let img := seen s (t0.phys va / 128) / 2 ^ (8 * (t0.phys va % 128)) % 2 ^ 512
          let i : Instr := .scset h rd ra scope
          let gives (k : Nat) : Prop := Completes i h 1 pc s fun t =>
            t.rx rd = (if rd = 0 then 0 else BitVec.ofNat 64 k) ∧ RegsBut rd s t ∧ Cached id (fun _ => False) s t
          let p := (s.ctx s.curCtx).part
          (badImage img = true → gives (256 + e.gen.toNat)) ∧
          (badImage img = false → s.foreignImage p img = true → gives (512 + e.gen.toNat)) ∧
          (badImage img = false → s.foreignImage p img = false → s.scopeHeld s.curCtx n e.gen.toNat = true →
            AllClean s → WaitsBut id offWays i .busy 0 s) ∧
          (badImage img = false → s.foreignImage p img = false → s.scopeHeld s.curCtx n e.gen.toNat = false →
            Completes i h 1 pc s fun t =>
              t.rx rd = (if rd = 0 then 0 else BitVec.ofNat 64 ((e.gen.toNat + 1) % 256)) ∧
                tblGet {} (t.ctx s.curCtx).scopes n =
                  { cores := BitVec.ofNat 192 img, slices := BitVec.ofNat 64 (img / 2 ^ 192), engines := BitVec.ofNat 16 (img / 2 ^ 256)
                    classes := BitVec.ofNat 4 (img / 2 ^ 272), valid := img.testBit 288, gen := e.gen + 1 } ∧
                (∀ m, m ≠ n → tblGet {} (t.ctx s.curCtx).scopes m = tblGet {} (s.ctx s.curCtx).scopes m) ∧
                (∀ x, x ≠ s.curCtx → (t.ctx x).scopes = (s.ctx x).scopes) ∧
                (∀ x, ({ t.ctx x with scopes := [], scans := [] } : Ctx) = { s.ctx x with scopes := [], scans := [] }) ∧
                RegsBut rd s t ∧ Undisturbed s t ∧ KeptHome (fun u => { u with ctxs := [] }) id id s t))

/-- O37. For a head that can issue under a true guard with a valid scope entry: on a sound row of a writable DEV page, amo
and amon of each operation and acas complete; the old value is the unit at its home once the core's copy is written
back; the home then holds the operation's result in exactly the bytes of the unit (for acas only where the old value
equals the low bytes of x[rd]); amo and acas return the old value zero-extended, amon writes no register; the core
holds no copy of the row; every other byte stays (dirty lines apart). On a HOST or PEER page, amo.add, amo.swap, amon.add
and acas send one AtomicOp and wait, and every other operation traps MEM_PARAM check 8, with the operation recorded where log
entry 45 says; a failed translation
traps MEM_FAULT with kind 3; an invalid entry traps SCOPE_STALE. Once the completion has come they retire, in
free-run: with the old value zero-extended in rd and %hatom.last 0; a refusal gives 3 and %hatom 3 under STATUS and
traps HOST_ATOMIC_UNSUPPORTED under TRAP. (R262, R263, R264, R386.) -/
def Obligations.AtomicsActOnceAtTheHome : Prop :=
  (∀ (h : Head) (rd ra rb : Reg) (scope : BitVec 5) (ord : BitVec 2) (pc : PcWord) (s : State),
    CanIssue h 1 pc s → s.guardBit h = true →
      let entry := s.scopeEntry s.curCtx scope.toNat s.curCore
      let at' := (s.rx ra).toNat % 2 ^ 56
      ∀ f ∈ ([(0, 0, 4), (0, 1, 8), (1, 0, 4), (1, 1, 8), (2, 0, 4), (2, 1, 8), (3, 0, 4), (3, 1, 8), (4, 0, 4), (4, 1, 8), (5, 0, 4), (5, 1, 8),
          (6, 0, 4), (6, 1, 8), (7, 0, 4), (7, 1, 8), (8, 0, 4), (8, 1, 8), (9, 2, 4)] : List (BitVec 4 × BitVec 2 × Nat)),
        let n := f.2.2
        let va := at' - at' % n
        let v := (s.rx rb).toNat % 2 ^ (8 * n)
        let new (old : Nat) : Nat :=
          let a := BitVec.ofNat (8 * n) old
          let b := BitVec.ofNat (8 * n) v
          match f.1.toNat with
          | 0 => (a + b).toNat
          | 1 => (a &&& b).toNat
          | 2 => (a ||| b).toNat
          | 3 => (a ^^^ b).toNat
          | 4 => if b.slt a then v else old
          | 5 => if a.slt b then v else old
          | 6 => min old v
          | 7 => max old v
          | 8 => v
          | _ => (add32 old v).1
        let amo : Instr := .amo h rd ra rb scope f.1 ord f.2.1
        let amon : Instr := .amon h ra rb scope f.1 ord f.2.1
        let acas : Instr := .acas h rd ra rb scope ord f.2.1
        (entry.valid = false → Ordinary s → ∀ i ∈ ([amo, amon, acas] : List Instr),
          Traps i { code := .scopeStale, faddr := BitVec.ofNat 64 (scope.toNat + 256 * entry.gen.toNat) } s) ∧
        (entry.valid = true → Ordinary s → (∀ tr, s.accessEntry va n .atomic = .error tr → ∀ i ∈ ([amo, amon, acas] : List Instr),
          Traps i { code := .memFault, faddr := BitVec.ofNat 64 va, detail := 3, resumable := false } s)) ∧
        (ScopeReady s scope → ∀ e, s.accessEntry va n .atomic = .ok e →
          let p := e.phys va
          let old := mergedRow s (p / 128) / 2 ^ (8 * (p % 128)) % 2 ^ (8 * n)
          (e.cls = 0 → p % n = 0 → Sound s (p / 128) ∨ Clean s (p / 128) → s.homeBad (some s.curPart) (p / 128) = false → Private s (p / 128) →
            let after (t : State) (u : Nat) : Prop :=
              t.homeRow (some s.curPart) (p / 128) =
                  mergeBytes 128 (mergedRow s (p / 128)) (u * 2 ^ (8 * (p % 128))) (spanMask (p % 128) n) ∧
                tblFind t.cur.ways (p / 128) = none ∧ Cached id (fun x => p ≤ x ∧ x < p + n) s t
            (Completes amo h 1 pc s fun t => t.rx rd = (if rd = 0 then 0 else BitVec.ofNat 64 old) ∧ RegsBut rd s t ∧ after t (new old)) ∧
            (f.1 ≠ 8 → Completes amon h 1 pc s fun t => RegsBut 0 s t ∧ after t (new old)) ∧
            (f.1 = 0 → Completes acas h 1 pc s fun t =>
              t.rx rd = (if rd = 0 then 0 else BitVec.ofNat 64 old) ∧ RegsBut rd s t ∧
                after t (if old = (s.rx rd).toNat % 2 ^ (8 * n) then v else old))) ∧
          (e.cls ≠ 0 →
            let sends (i : Instr) (op cmp : Nat) : Prop :=
              ∃ t o, Machine.exec i s = .next t ∧ t.curCore = s.curCore ∧ t.curK = s.curK ∧ t.st.outs = [o] ∧ o.peer = (e.cls == 2) ∧
                o.bus = e.busOf va ∧ o.len = n ∧ o.va = va ∧ o.atomic = some (op, BitVec.ofNat 128 v, BitVec.ofNat 128 cmp) ∧
                t.st.wait = some { kind := .outbound, since := s.cyc, limit := 0 } ∧ t.st.atomicOut = true ∧ t.st.pc = s.st.pc ∧
                t.st.rc = s.st.rc ∧ (∀ r, t.rx r = s.rx r) ∧ TokensHeld s t ∧
                Sent (e.cls == 2) (.atomic (e.busOf va) n op (BitVec.ofNat 128 v) (BitVec.ofNat 128 cmp)) s t ∧ Undisturbed s t ∧
                KeptHome (fun u => { u with fabric := {} }) id id s t
            (f.1 ≠ 0 → f.1 ≠ 8 → Ordinary s → ∀ i ∈ ([amo, amon] : List Instr),
              Traps i { code := .memParam, faddr := BitVec.ofNat 64 va, detail := 8, offset := f.1.toNat } s) ∧
            (f.1 = 0 ∨ f.1 = 8 → sends amo f.1.toNat 0) ∧
            (f.1 = 0 → sends amon 0 0 ∧ sends acas 10 ((s.rx rd).toNat % 2 ^ (8 * n)))))) ∧
  ∀ (h : Head) (rd ra rb : Reg) (scope : BitVec 5) (ord : BitVec 2) (pc : PcWord) (s : State) (e : TlbEntry) (c : Completion),
    CanFinish pc s → (s.ctx s.curCtx).replayMode = 0 → (s.scopeEntry s.curCtx scope.toNat s.curCore).valid = true →
      let i := if ord.getLsbD 1 = true then (if scope = 31 then 5 else 2) else 1
      (∀ j, j < i → (tblFind s.st.notes (4 * j)).isSome = true) → tblFind s.st.notes 1 = some (.page e) → e.cls ≠ 0 →
      tblFind s.st.notes (4 * i) = none → tblFind s.st.notes (4 * i + 2) = some (.answer c) →
        ∀ f ∈ ([(0, 4), (1, 8)] : List (BitVec 2 × Nat)),
          let n := f.2
          let at' := (s.rx ra).toNat % 2 ^ 56
          let after (i : Instr) (rd : Reg) (v : Nat) (hatom : BitVec 2) : Prop := Finishes i h pc s fun t =>
            t.rx rd = (if rd = 0 then 0 else BitVec.ofNat 64 v) ∧ t.st.hatom = hatom ∧ RegsBut rd s t ∧ Undisturbed s t ∧
              KeptHome id id (fun st => { st with hatom := 0 }) s t
          let forms : List (Instr × Reg) :=
            [(.amo h rd ra rb scope 0 ord f.1, rd), (.amo h rd ra rb scope 8 ord f.1, rd), (.acas h rd ra rb scope ord f.1, rd)]
          (∀ u : BitVec 1024, c = .data u →
            (∀ g ∈ forms, after g.1 g.2 (u.toNat % 2 ^ (8 * n)) (s.st.hatom &&& 2)) ∧
              after (.amon h ra rb scope 0 ord f.1) 0 0 (s.st.hatom &&& 2)) ∧
          (c = .refused → (s.ctx s.curCtx).hatom = true →
            (∀ g ∈ forms, after g.1 g.2 3 3) ∧ after (.amon h ra rb scope 0 ord f.1) 0 0 3) ∧
          (c = .refused → (s.ctx s.curCtx).hatom = false → Ordinary s →
            ∀ g ∈ (.amon h ra rb scope 0 ord f.1, (0 : Reg)) :: forms,
              Traps g.1 { code := .hostAtomicUnsupported, faddr := BitVec.ofNat 64 (at' - at' % n), detail := 3 } s)

/-- O38. For a head that can issue under a true guard: marm frees the stream's monitor and completes with 2 on a row that
is not DEV, with 1 where sixteen other monitors stand in the cluster, and else with 0, a fresh monitor of the stream
on the row, and no copy of it in the core. mwait completes with 3 without a monitor, and with the code of the event
that arrived; it then frees the monitor and drops the core's copy of the row; without an event it waits, and its
monitor with it. A write performed at a row's home gives every monitor of the row that has no event the code 0, in SPLIT mode those
of the cores of the partition that writes; where it makes
a full L2 give up another line, the monitors that wait on that line's row, of its partition's cores, have taken the code 1; and
MONITOR_EVICTION, after which the L2 slice of its partition holds the row no more, and SPURIOUS_EVENT give those that wait the codes 1
and 2, the former in SPLIT mode to that partition's cores. (R267, R268, R327.) -/
def Obligations.MonitorsWatchOneRow : Prop :=
  (∀ (h : Head) (rd ra : Reg) (limit : BitVec 24) (pc : PcWord) (s : State), CanIssue h 1 pc s → s.guardBit h = true →
    let u := s.curCore / 4
    let own (m : Monitor) : Bool := m.core == s.curCore && m.k == s.curK
    let rest (t : State) : List Monitor := (t.cluster u).monitors.filter fun m => !own m
    let va := (s.rx ra).toNat % 2 ^ 56
    let ended (t : State) (k : Nat) : Prop :=
      t.rx rd = (if rd = 0 then 0 else BitVec.ofNat 64 k) ∧ RegsBut rd s t ∧ ClusterBut (fun c => { c with monitors := [] }) s t ∧
        MemSame s t ∧ Kept (fun u => { u with clusters := [] }) offWays id s t ∧ t.cur.poolUe = s.cur.poolUe
    let dropped (t : State) (row : Nat) : Prop := ∀ r, tblFind t.cur.ways r = if r = row then none else tblFind s.cur.ways r
    (∀ e, s.accessEntry va 1 .read = .ok e →
      let row := e.phys va / 128
      Clean s row →
        (e.cls ≠ 0 → Completes (.marm h rd ra) h 1 pc s fun t => ended t 2 ∧ (t.cluster u).monitors = rest s ∧ t.cur.ways = s.cur.ways) ∧
        (e.cls = 0 → 16 ≤ (rest s).length → Completes (.marm h rd ra) h 1 pc s fun t =>
          ended t 1 ∧ (t.cluster u).monitors = rest s ∧ dropped t row) ∧
        (e.cls = 0 → (rest s).length < 16 → Completes (.marm h rd ra) h 1 pc s fun t =>
          ended t 0 ∧ (t.cluster u).monitors = rest s ++ [{ core := s.curCore, k := s.curK, row := row, event := none }] ∧
            dropped t row)) ∧
    ((s.cluster u).monitors.find? own = none → Completes (.mwait h rd limit) h 1 pc s fun t =>
      ended t 3 ∧ (∀ w, t.cluster w = s.cluster w) ∧ t.cur.ways = s.cur.ways) ∧
    ∀ m, (s.cluster u).monitors.find? own = some m →
      (∀ k, m.event = some k → Clean s m.row → Completes (.mwait h rd limit) h 1 pc s fun t =>
        ended t k ∧ (t.cluster u).monitors = rest s ∧ dropped t m.row) ∧
      (m.event = none → WaitsBut (fun u => { u with clusters := [] }) id (.mwait h rd limit) (.mon m.row) 0 s ∧
        ∃ t, Machine.exec (.mwait h rd limit) s = .next t ∧ ClusterBut (fun c => { c with monitors := [] }) s t ∧
          (t.cluster u).monitors = (s.cluster u).monitors.map fun m => if own m = true then { m with waiting := true } else m)) ∧
  (∀ (s : State) (p : Option Nat) (row v mask i : Nat), mask ≠ 0 →
    let d := s.die (homeDie (row * 128))
    let homed (m : Monitor) (q : Option Nat) : Prop :=
      (s.die (homeDie (m.row * 128))).split = false ∨ q = some (s.ctx (s.ctxOf m.core)).part
    let written (m : Monitor) : Monitor := if m.row = row ∧ m.event = none ∧ homed m p then { m with event := some 0 } else m
    let left (key : Nat) (m : Monitor) : Monitor :=
      if m.row = key % 2 ^ 48 ∧ m.event = none ∧ m.waiting = true ∧ homed m (some (key / 2 ^ 48)) then { m with event := some 1 } else m
    let crowded := d.split = true ∧ l2Rows ≤ d.l2.length ∧ ∃ q, p = some q ∧ tblFind d.l2 (l2Key q row) = none
    let after (l : List Monitor) : Prop := ((s.homeWrite p row v mask).cluster i).monitors = l.map written
    (¬ crowded → after (s.cluster i).monitors) ∧
      (crowded → ∃ e ∈ d.l2, after ((s.cluster i).monitors.map (left e.1)))) ∧
  ∀ s : State,
    let die := homeDie (s.ev.row * 128)
    (s.ev.row < 2 ^ 48 → ∃ t, Machine.exec .monitorEviction s = .next t ∧
      (∀ i, (t.cluster i).monitors = (s.cluster i).monitors.map fun m =>
        if m.row = s.ev.row ∧ m.event = none ∧ m.waiting = true ∧
            ((s.die die).split = false ∨ (s.ctx (s.ctxOf m.core)).part = s.ev.part) then { m with event := some 1 } else m) ∧
      (∀ e ∈ (t.die die).l2, e.1 ≠ s.ev.part * 2 ^ 48 + s.ev.row) ∧
      (∀ e ∈ (s.die die).l2, e.1 ≠ s.ev.part * 2 ^ 48 + s.ev.row → e ∈ (t.die die).l2) ∧
      ∀ a, a / 128 ≠ s.ev.row → memRead t.mem a = memRead s.mem a) ∧
    ∃ t, Machine.exec .spuriousEvent s = .next t ∧ (∀ i, (t.cluster i).monitors =
      if i = s.ev.core / 4 then (s.cluster i).monitors.map fun m =>
        if m.core = s.ev.core ∧ m.k = s.ev.k ∧ m.event = none ∧ m.waiting = true then { m with event := some 2 } else m
      else (s.cluster i).monitors) ∧ ({ t with clusters := [] } : State) = { s with clusters := [] }

/-- O39. For a head that can issue under a true guard, enq to a queue of its context with room, whose head is captured,
completes with 0 and the header address at the end of the queue; to an empty one, the core holding nothing dirty, it
completes with 0 and the header captured as the queue's head, or, where the header cannot be read or is not sound, with
0 and a completion record in place of the entry; to a full one it completes with 1 and to one that is no queue of its
context with 2, with nothing entered; a misaligned address or one with bits [63:56] traps MEM_PARAM
check 1. A write of the host's port of a queue appends likewise with status 0, also to an empty queue, and else reports 3 for a bad address, 2
for a context that is not live or is DEAD (the model's reading of BAD_QUEUE: log entry 48), 1 for a full queue. The first held enqueue whose queue has room enters it
and leaves the hold list. A control word sets its fields, the context only while the queue is empty, and a queue that
it disables keeps no selection. Other queues stay. For a head that can issue under a true guard and a valid scope
entry, whose core holds nothing dirty, on an entry of the context's dependence table in a sound writable DEV page:
dep.arm completes with the old counter in rd and x[ra] in the counter; a counter above 1 falls by one and rd takes its
old value; a counter of 1 becomes 0 and its header enters its queue, an empty one as its captured head if it is sound, or the hold list of the queue's die where the
queue is full; where that list holds 2,048 the instruction waits, bounded by %tlim, with nothing changed; a counter of
0 traps DEP_UNDERFLOW and a queue that is not the context's MEM_PARAM check 1. An index not below the table's size
traps MEM_PARAM check 1. Every other byte, queue and register stays. (R294, R313, R315, R380, R266, R314.) -/
def Obligations.EnqueuesAndDependenceCounters : Prop :=
  let badRecord (x a q : Nat) (s t : State) : Prop :=
    (∃ base k, ∃ tail head : Nat, s.ringDesc (some (0, x)) (some (s.ctx x).part) (s.ctx x).cring = some (base, 2, k, tail, head) ∧
      (1 : Int) ≤ 2 ^ k - ((tail : Int) - head)) →
    Appends (.completion x) (s.ctx x).part 0 x (s.ctx x).cring 2 4 (fun j => ([a, 16 + q * 2 ^ 16, 0, s.time] : List Nat).getD j 0) s t
  (
    (∀ (h : Head) (rd ra rb : Reg) (n : BitVec 10) (pc : PcWord) (s : State), CanIssue h 1 pc s → s.guardBit h = true →
      ∀ e ∈ ([(.enq h rd ra n, n.toNat), (.enqR h rd ra rb, (s.rx rb).toNat)] : List (Instr × Nat)),
        let a := (s.rx ra).toNat
        let q := e.2
        let ended (k : Nat) (t : State) : Prop :=
          t.rx rd = (if rd = 0 then 0 else BitVec.ofNat 64 k) ∧ RegsBut rd s t ∧ Undisturbed s t
        (a % 64 ≠ 0 ∨ 2 ^ 56 ≤ a → Ordinary s → Traps e.1 { code := .memParam, faddr := s.rx ra, detail := 1 } s) ∧
        (a % 64 = 0 → a < 2 ^ 56 →
          (1024 ≤ q ∨ (s.queue q).ctx.toNat ≠ s.curCtx → Sets e.1 h 1 pc rd 2 s) ∧
          (q < 1024 → (s.queue q).ctx.toNat = s.curCtx →
            (Full s q → Completes e.1 h 1 pc s fun t => ended 1 t ∧ KeptHome id id id s t) ∧
            (¬ Full s q → (s.queue q).head.isSome = true → Completes e.1 h 1 pc s fun t =>
              ended 0 t ∧ Enqueued q a s t ∧ KeptHome offQueues id id s t) ∧
            (¬ Full s q → (s.queue q).head = none → (s.queue q).entries = [] → (s.queue q).displaced = [] → AllClean s →
              let hdr := s.readHeader (q / 512 % 2) s.curCtx a
              let sound (x : Header) : Prop := headerOk x (s.ctx s.curCtx).dn = true ∧
                s.gangPlacements s.curPart x.gang (queueDies q (s.queue q).dies) ≠ []
              (∀ x, hdr = some x → sound x → Completes e.1 h 1 pc s fun t =>
                ended 0 t ∧ t.queue q = { s.queue q with entries := [(a, 0)], head := some x, turn := (s.queue q).turn + 1 } ∧ (∀ p, p ≠ q → t.queue p = s.queue p) ∧
                  KeptHome offQueues id id s t) ∧
              ((∀ x, hdr = some x → ¬ sound x) → Completes e.1 h 1 pc s fun t =>
                let u := s.completionRecord s.curCtx a q 0 0 0 s.time false false false false true false
                t.rx rd = 0 ∧ RegsBut rd s t ∧ (∀ p, t.queue p = s.queue p) ∧ t.mem = u.mem ∧ t.heldAppends = u.heldAppends ∧
                  (∀ y, (t.ctx y).lost = (u.ctx y).lost) ∧ badRecord s.curCtx a q s t))))) ∧
    ∀ s : State,
      (∀ pre post a q, (s.die s.ev.die).holds = pre ++ (q, a) :: post → (∀ e ∈ pre, 64 ≤ (s.queue e.1).entries.length) →
        (s.queue q).entries.length < 64 → (s.queue q).head.isSome = true →
          ∃ t, Machine.exec .heldEnqueueEntry s = .next t ∧ (t.die s.ev.die).holds = pre ++ post ∧ Enqueued q a s t ∧
            (∀ d, d ≠ s.ev.die → t.die d = s.die d) ∧ { t with dies := [], queues := [] } = { s with dies := [], queues := [] }) ∧
      (s.ev.q < 1024 →
        let q := s.ev.q
        let v := s.ev.v
        let x := s.ctx (s.queue q).ctx.toNat
        let bad := v.toNat % 64 ≠ 0 ∨ 2 ^ 56 ≤ v.toNat
        let dead := x.live = false ∨ x.mode = .dead
        let reports (k : BitVec 8) (add : List (Nat × Nat)) : Prop := ∃ t, Machine.exec .hostEnqueue s = .next t ∧
          t.queue q = { s.queue q with entries := (s.queue q).entries ++ add, hostStatus := k } ∧ (∀ p, p ≠ q → t.queue p = s.queue p) ∧
          { t with queues := [] } = { s with queues := [] }
        (bad → reports 3 []) ∧ (¬ bad → dead → reports 2 []) ∧ (¬ bad → ¬ dead → Full s q → reports 1 []) ∧
        (¬ bad → ¬ dead → ¬ Full s q → (s.queue q).head.isSome = true → reports 0 [(v.toNat, 0)]) ∧
        (¬ bad → ¬ dead → ¬ Full s q → (s.queue q).head = none → (s.queue q).entries = [] → (s.queue q).displaced = [] →
          let y := (s.queue q).ctx.toNat
          let hdr := s.readHeader (q / 512 % 2) y v.toNat
          let sound (h : Header) : Prop := headerOk h x.dn = true ∧ s.gangPlacements x.part h.gang (queueDies q (s.queue q).dies) ≠ []
          let leaves (w : Queue) (u : State) (P : State → Prop) : Prop := ∃ t, Machine.exec .hostEnqueue s = .next t ∧
            t.queue q = { w with hostStatus := 0 } ∧ (∀ p, p ≠ q → t.queue p = s.queue p) ∧ { t with queues := [] } = { u with queues := [] } ∧ P t
          (∀ h, hdr = some h → sound h →
            leaves { s.queue q with entries := [(v.toNat, 0)], head := some h, turn := (s.queue q).turn + 1 } s fun _ => True) ∧
          ((∀ h, hdr = some h → ¬ sound h) → leaves (s.queue q)
            (s.completionRecord y v.toNat q 0 0 0 s.time false false false false true false) (badRecord y v.toNat q s))) ∧
        ∃ t, Machine.exec .queueControlWrite s = .next t ∧
          t.queue q = { s.queue q with
            en := v.getLsbD 63, ctx := if (s.queue q).entries = [] then v.extractLsb' 52 6 else (s.queue q).ctx
            pri := v.extractLsb' 50 2, dies := v.extractLsb' 48 2, tko := v.extractLsb' 40 8 } ∧
          (∀ p, p ≠ q → t.queue p = s.queue p) ∧
          (v.getLsbD 63 = true → { t with queues := [] } = { s with queues := [] }) ∧
          (v.getLsbD 63 = false → ∀ d, d < 2 → ∀ e ∈ (t.die d).placements, e.2.queue ≠ q) ∧ MemSame s t)) ∧
  (
    ∀ (h : Head) (rd ra : Reg) (scope : BitVec 5) (idx : BitVec 16) (pc : PcWord) (s : State),
      CanIssue h 1 pc s → s.guardBit h = true →
        let c := s.ctx s.curCtx
        (∀ e ∈ ([(.depDec h rd scope idx, idx.toNat), (.depDecr h rd ra scope, (s.rx ra).toNat), (.depArm h rd ra scope idx, idx.toNat)] :
            List (Instr × Nat)), c.dn ≤ e.2 → Ordinary s →
          Traps e.1 { code := .memParam, faddr := BitVec.ofNat 64 e.2, detail := 1 } s) ∧
        (ScopeReady s scope → AllClean s →
          let entry (i : Nat) (go : Nat → Nat → Nat → Nat → (State → Prop) → Prop) : Prop :=
            i < c.dn → ∀ e : TlbEntry, let va := (c.dtab + 32 * i) % 2 ^ 56
              let pa := e.phys va
              Steady s va 32 .atomic e → e.cls = 0 → pa % 32 = 0 → s.homeBad (some s.curPart) (pa / 128) = false → Private s (pa / 128) →
                let word (j : Nat) : Nat := s.homeRead (some s.curPart) (pa + 8 * j) 8
                go pa (word 0) (word 1 % 2 ^ 56) (word 2 % 2 ^ 10) fun t =>
                  t.rx rd = (if rd = 0 then 0 else BitVec.ofNat 64 (word 0)) ∧ RegsBut rd s t ∧
                    ∀ a, ¬ (pa ≤ a ∧ a < pa + 8) → OffL2 s (a / 128) → memRead t.mem a = memRead s.mem a
          entry idx.toNat (fun pa _ _ _ told => Completes (.depArm h rd ra scope idx) h 1 pc s fun t =>
            told t ∧ t.homeRead (some s.curPart) pa 8 = (s.rx ra).toNat ∧ Cached id (fun a => pa ≤ a ∧ a < pa + 8) s t) ∧
          ∀ f ∈ ([(.depDec h rd scope idx, idx.toNat), (.depDecr h rd ra scope, (s.rx ra).toNat)] : List (Instr × Nat)),
            entry f.2 fun pa old hdr q told =>
              (2 ≤ old → Completes f.1 h 1 pc s fun t =>
                told t ∧ t.homeRead (some s.curPart) pa 8 = old - 1 ∧ Cached id (fun a => pa ≤ a ∧ a < pa + 8) s t) ∧
              (old = 0 → Ordinary s →
                TrapsBut id offWays f.1 { code := .depUnderflow, faddr := BitVec.ofNat 64 ((c.dtab + 32 * f.2) % 2 ^ 56) } s) ∧
              (old = 1 → (s.queue q).ctx.toNat ≠ s.curCtx → Ordinary s →
                TrapsBut id offWays f.1 { code := .memParam, faddr := BitVec.ofNat 64 q, detail := 1 } s) ∧
              (old = 1 → (s.queue q).ctx.toNat = s.curCtx →
                (¬ Full s q → (s.queue q).head.isSome = true → Completes f.1 h 1 pc s fun t =>
                  told t ∧ t.homeRead (some s.curPart) pa 8 = 0 ∧ Enqueued q hdr s t ∧ KeptHome offQueues id id s t) ∧
                (¬ Full s q → (s.queue q).head = none → (s.queue q).entries = [] → (s.queue q).displaced = [] → ∀ p : Nat,
                  (∀ j, j < 8 → Private s ((p + 8 * j) / 128) ∧ ∃ e, tlbFind (s.die (q / 512 % 2)).tlb s.curCtx ((hdr + 8 * j) % 2 ^ 56) = some e ∧
                    e.r = true ∧ e.cls = 0 ∧ e.phys ((hdr + 8 * j) % 2 ^ 56) = p + 8 * j) → (p + 64 ≤ pa ∨ pa + 8 ≤ p) →
                    let found := s.readHeader (q / 512 % 2) s.curCtx hdr
                    let sound (x : Header) : Prop := headerOk x c.dn = true ∧ s.gangPlacements s.curPart x.gang (queueDies q (s.queue q).dies) ≠ []
                    (∀ x, found = some x → sound x → Completes f.1 h 1 pc s fun t =>
                      told t ∧ t.homeRead (some s.curPart) pa 8 = 0 ∧ t.queue q = { s.queue q with
                        entries := [(hdr, 0)], head := some x, turn := (s.queue q).turn + 1 } ∧ (∀ p, p ≠ q → t.queue p = s.queue p) ∧
                        KeptHome offQueues id id s t) ∧
                    ((∀ x, found = some x → ¬ sound x) → Completes f.1 h 1 pc s fun t =>
                      t.rx rd = (if rd = 0 then 0 else 1) ∧ RegsBut rd s t ∧ ∀ p, t.queue p = s.queue p)) ∧
                (Full s q → (s.die (q / 512 % 2)).holds.length < 2048 → Completes f.1 h 1 pc s fun t =>
                  told t ∧ t.homeRead (some s.curPart) pa 8 = 0 ∧
                    (∀ d, (t.die d).holds = if d = q / 512 % 2 then (s.die d).holds ++ [(q, hdr)] else (s.die d).holds) ∧
                    KeptHomeBut (fun d => { d with holds := [] }) id id id s t) ∧
                (Full s q → 2048 ≤ (s.die (q / 512 % 2)).holds.length → WaitsBut id offWays f.1 .holdList s.st.tlim.toNat s))))

/-- O40. For a head that can issue under a true guard with no posted write to flush: pwr whose bytes lie in a raw range
with wr posts its low bytes at that address on the port of the first such range; ntfy ors x[ra] into event word v of
the partition's function and sends vector v, or sets it pending where it is masked; pamo in a range with at sends one
AtomicOp and waits; without such a range pwr and pamo trap MEM_PARAM check 9. A pamo that has issued takes the
completion, in free-run: the old value, zero-extended, in rd (for 128 bits in rd and rd + 1) with %hatom.last 0; a
refusal gives 3 and %hatom 3 under STATUS and traps HOST_ATOMIC_UNSUPPORTED under TRAP; a poisoned one traps
DATA_UNCORRECTABLE under the trapping policy. A completion answers the outstanding request; one not come within the
timeout counts as poisoned, also where it comes later. A host write of ones clears bits of an event word. (R382, R383, R386, R387, R388, R389,
R390.) -/
def Obligations.RawAccessesAndNotifications : Prop :=
  (∀ (h : Head) (rd ra rb : Reg) (v : BitVec 8) (ord : BitVec 2) (pc : PcWord) (s : State),
    s.cur.postedHost = false → s.cur.postedPeer = false →
      let x := s.rx ra
      let at' (n : Nat) : Nat := x.toNat - x.toNat % n
      let refusedAt (n : Nat) : Trap := { code := .memParam, faddr := BitVec.ofNat 64 (at' n), detail := 9 }
      let first (atm : Bool) (n r : Nat) : Prop := r < 4 ∧ Allowed s atm (at' n) n r ∧ ∀ p, p < r → ¬ Allowed s atm (at' n) n p
      let pwrs : List (Instr × Nat) := [(.pwr h ra rb 0, 4), (.pwr h ra rb 1, 8)]
      let pamos : List (Instr × Nat × Nat) :=
        [(.pamoAdd h rd ra rb ord 0, 0, 4), (.pamoAdd h rd ra rb ord 1, 0, 8), (.pamoSwap h rd ra rb ord 0, 8, 4),
          (.pamoSwap h rd ra rb ord 1, 8, 8), (.pamoCas h rd ra rb ord 0, 10, 4), (.pamoCas h rd ra rb ord 1, 10, 8),
          (.pamoCas h rd ra rb ord 2, 10, 16)]
      (CanIssue h 1 pc s → s.guardBit h = true →
        (∀ e ∈ pwrs,
          ((∀ r, r < 4 → ¬ Allowed s false (at' e.2) e.2 r) → Ordinary s → Traps e.1 (refusedAt e.2) s) ∧
          ∀ r, first false e.2 r → Completes e.1 h 1 pc s fun t =>
            Sent (portOf s r) (.write (at' e.2) e.2 (BitVec.ofNat 1024 ((s.rx rb).toNat % 2 ^ (8 * e.2)))) s t ∧
              t.cur.peerSent = s.cur.peerSent + (portOf s r).toNat ∧ t.cur.hostSent = s.cur.hostSent + (!portOf s r).toNat ∧
              RegsBut 0 s t ∧ Undisturbed s t ∧
              KeptHome (fun u => { u with fabric := {} }) (fun c => { c with hostSent := 0, peerSent := 0 }) id s t) ∧
        (Completes (.ntfy h ra v) h 1 pc s fun t =>
          let p := s.curPart
          let w := v.toNat
          tblGet 0 (t.part p).events w = tblGet 0 (s.part p).events w ||| x ∧
            (∀ u, u ≠ w → tblGet 0 (t.part p).events u = tblGet 0 (s.part p).events u) ∧
            ((s.part p).masked.contains w = false → Sent false (.msix (p + 1) w) s t) ∧
            ((s.part p).masked.contains w = true → t.fabric = s.fabric ∧ (t.part p).pending.contains w = true) ∧
            { t.part p with events := [], pending := [] } = { s.part p with events := [], pending := [] } ∧
            (∀ o, o ≠ p → t.part o = s.part o) ∧ RegsBut 0 s t ∧ Undisturbed s t ∧
            KeptHome (fun u => { u with fabric := {}, parts := [] }) id id s t) ∧
        ∀ e ∈ pamos,
          ((∀ r, r < 4 → ¬ Allowed s true (at' e.2.2) e.2.2 r) → Ordinary s → Traps e.1 (refusedAt e.2.2) s) ∧
          ∀ r, first true e.2.2 r → ∃ t o, Machine.exec e.1 s = .next t ∧ t.curCore = s.curCore ∧ t.curK = s.curK ∧
            t.st.outs = [o] ∧ o.peer = portOf s r ∧ o.bus = at' e.2.2 ∧ o.len = e.2.2 ∧ o.va = at' e.2.2 ∧ t.st.atomicOut = true ∧
            t.st.wait = some { kind := .outbound, since := s.cyc, limit := 0 } ∧
            Sent (portOf s r) (.atomic (at' e.2.2) e.2.2 e.2.1 (BitVec.ofNat 128 (s.pairValue rb e.2.2)) (BitVec.ofNat 128 (s.pairValue rd e.2.2))) s t ∧
            t.st.pc = s.st.pc ∧ t.st.rc = s.st.rc ∧ (∀ r, t.rx r = s.rx r) ∧ TokensHeld s t ∧ Undisturbed s t ∧
            KeptHome (fun u => { u with fabric := {} }) id id s t) ∧
      (CanFinish pc s → (s.ctx s.curCtx).replayMode = 0 → ∀ c : Completion,
        let i := if ord.getLsbD 1 = true then 5 else 1
        (∀ j, j < i → (tblFind s.st.notes (4 * j)).isSome = true) → tblFind s.st.notes (4 * i) = none →
        tblFind s.st.notes (4 * i + 2) = some (.answer c) → ∀ e ∈ pamos,
          let wide := e.2.2 = 16
          let after (lo hi : Nat) (hatom : BitVec 2) : Prop := (wide → rd.toNat % 2 = 0 ∧ rd ≠ 0) → Finishes e.1 h pc s fun t =>
            t.rx rd = (if rd = 0 then 0 else BitVec.ofNat 64 lo) ∧ (wide → t.rx (rd + 1) = BitVec.ofNat 64 hi) ∧
              (∀ r, r ≠ rd → ¬ (wide ∧ r = rd + 1) → t.rx r = s.rx r) ∧ t.st.hatom = hatom ∧ Undisturbed s t ∧
              KeptHome id id (fun st => { st with hatom := 0 }) s t
          (∀ u : BitVec 1024, c = .data u → after (u.toNat % 2 ^ (8 * min 8 e.2.2)) (u.toNat / 2 ^ 64 % 2 ^ 64) (s.st.hatom &&& 2)) ∧
          (c = .refused → (s.ctx s.curCtx).hatom = true → after 3 0 3) ∧
          (c = .refused → (s.ctx s.curCtx).hatom = false → Ordinary s →
            Traps e.1 { code := .hostAtomicUnsupported, faddr := BitVec.ofNat 64 (at' e.2.2), detail := 3 } s) ∧
          (c = .poisoned → (s.ctx s.curCtx).ue = false → Ordinary s →
            Traps e.1 { code := .dataUncorrectable, faddr := BitVec.ofNat 64 (at' e.2.2), detail := 3 } s))) ∧
  ∀ s : State,
    let st := s.stream s.ev.core s.ev.k
    let answers (i : Instr) (c : Completion) (o : Outbound) : Prop := ∃ t, Machine.exec i s = .next t ∧
      t.stream s.ev.core s.ev.k = { st with outs := st.outs.eraseIdx s.ev.n, notes := tblSet st.notes o.key (.answer c) } ∧
      (∀ m k, m ≠ s.ev.core ∨ k ≠ s.ev.k → t.stream m k = s.stream m k) ∧
      (∀ m, (t.core m).setStream s.ev.k {} = (s.core m).setStream s.ev.k {}) ∧ { t with cores := [] } = { s with cores := [] }
    (∀ o, st.outs[s.ev.n]? = some o →
      let late := o.sent + ([50000, 1000000, 10000000, 50000000] : List Nat).getD s.fabric.ctmo.toNat 0 < s.time
      (¬ late → answers .outboundCompletion s.ev.res o ∧ Machine.exec .completionTimeout s = .next s) ∧
        (late → answers .outboundCompletion .poisoned o ∧ answers .completionTimeout .poisoned o)) ∧
    (s.ev.part < 8 → s.ev.n < 256 → ∃ t, Machine.exec .eventWordClear s = .next t ∧
      (∀ p w, tblGet 0 (t.part p).events w =
        if p = s.ev.part ∧ w = s.ev.n then tblGet 0 (s.part p).events w &&& ~~~ s.ev.v else tblGet 0 (s.part p).events w) ∧
      (∀ p, { t.part p with events := [] } = { s.part p with events := [] }) ∧ { t with parts := [] } = { s with parts := [] })

/-- O41. For a head that can issue under a true guard: tmark in a context without traced marks changes nothing; else its
record (time, type 1, tag and x[ra][23:0]) joins the stream's open frame, whose sixth record sends it; where the frame
may take no more (10,000 ns since its first record, or a delta above 65,535), the frame goes out first and the record
opens the next. A frame that goes out stands at the tail of the context's trace ring, with the tail one more, unless the
ring has no room or its descriptor is invalid; it is numbered, and its words are those of R349. A frame whose first
record is 10,000 ns old goes out. An addi at a checkpoint completes in record mode and logs a CHECK record with the
retire count and its fingerprint; in replay it completes where its stream's next CHECK record has that fingerprint, and
uses it up, and else traps REPLAY_DIVERGED. Where the stop area is sound, dump completes with 4 where its slice serves no stop, and with 5 for a misaligned or
short buffer; in a writable DEV buffer it completes with 1 where every record fits and with 2 where not: the buffer
holds the header (status, context, sel, bytes written, bytes needed, records, the stop's time, cause and faddr) and the
records that fit before the first that does not, in order, with the stop records, registers, predicates, vector
registers and accumulators of the stop's cores, and nothing else is stored to; where the first write fails it completes
with 3. A stream or engine that has waited more than 16,777,216 cycles for a
forced event in replay traps REPLAY_DIVERGED with its position and raises its context's halt line (of an engine, cycles
of 900 MHz: log entry 38). Each of these three puts its record into the mailbox, where it waits its turn, or counts it. That word 1 of a frame
is the time of its first record, whose delta is 0, is log entry 26. (R338, R340, R341, R342, R348, R349, R350, R352, R353, R354, R356, R357.) -/
def Obligations.TraceRecordsDumpsAndStarvedReplay : Prop :=
  (∀ (h : Head) (ra : Reg) (tag : BitVec 16) (pc : PcWord) (s : State), CanIssue h 1 pc s → s.guardBit h = true → s.curCore < 192 →
    let x := s.curCtx
    let c := s.ctx x
    let k := s.curK.num
    let key := s.curCore * 4 + k
    let src : TraceSrc := tblGet {} c.trace key
    let marked := c.traceEn = true ∧ c.traceCls.getLsbD 0 = true
    let due := ∃ r0 l, src.recs.head? = some r0 ∧ src.recs.getLast? = some l ∧ (r0.1 + 10000 ≤ s.time ∨ l.1 + 65535 < s.time)
    let new := (s.time, 1, tag.toNat + (s.rx ra).toNat % 2 ^ 24 * 2 ^ 16)
    let sends (recs : List (Nat × Nat × Nat)) (left : TraceSrc) : Prop := Completes (.tmark h ra tag) h 1 pc s fun t =>
      SourceIs x key left s t ∧ FrameOut s.curCore k x src.fseq recs s t ∧
        KeptHome (fun u => { u with ctxs := [], fabric := {}, heldAppends := [] }) id id s t ∧ RegsBut 0 s t
    (¬ marked → Completes (.tmark h ra tag) h 1 pc s fun t => Kept id id id s t ∧ RegsBut 0 s t ∧ MemSame s t) ∧
    (marked → ¬ due → src.recs.length < 5 → Completes (.tmark h ra tag) h 1 pc s fun t =>
      SourceIs x key { src with recs := src.recs ++ [new] } s t ∧ Kept (fun u => { u with ctxs := [] }) id id s t ∧ RegsBut 0 s t ∧ MemSame s t) ∧
    (marked → ¬ due → src.recs.length = 5 → sends (src.recs ++ [new]) { recs := [], fseq := src.fseq + 1 }) ∧
    (marked → due → src.recs.length < 6 → sends src.recs { recs := [new], fseq := src.fseq + 1 })) ∧
  (∀ (h : Head) (rd ra : Reg) (imm : BitVec 32) (pc : PcWord) (s : State),
    let i : Instr := .addi h rd ra imm
    let x := s.curCtx
    let c := s.ctx x
    let n := s.st.rc.toNat
    let cpk := if 8 ≤ c.replayCpk.toNat ∧ c.replayCpk.toNat ≤ 24 then c.replayCpk.toNat else 24
    let fp := (counterHash (s.rx ra) (s.st.rc * 256 + BitVec.ofNat 64 (s.word / 2 ^ 56))).toNat / 2 ^ 32
    let adds (P : State → Prop) : Prop :=
      Completes i h 1 pc s fun t => t.rx rd = (if rd = 0 then 0 else s.rx ra + imm.signExtend 64) ∧ RegsBut rd s t ∧ P t
    s.curCore < 192 → CanIssue h 1 pc (s.setCtx x { c with replayMode := 0 }) → s.guardBit h = true → encode i = [s.word] →
      (n + 1) % 2 ^ cpk = 0 →
        (c.replayMode = 1 → adds fun t => Logged x (s.curCore / 96) 1 s.curCore s.curK.num 0 n fp s t) ∧
        (c.replayMode = 2 →
          let next := c.replayRecs.find? fun e => e.1.toNat % 2 ^ 8 == 1 && e.1.toNat / 2 ^ 8 % 2 ^ 8 == s.curCore && e.1.toNat / 2 ^ 16 % 4 == s.curK.num
          (next = none → adds fun _ => True) ∧
          ∀ r, next = some r → let want := r.2.toNat % 2 ^ 32
            (want = fp → adds fun t => r ∈ (t.ctx x).replayRecs → r ∈ c.replayRecs.erase r) ∧
            (want ≠ fp → Ordinary s → c.traceEn = false → ∃ t, Machine.exec i s = .next t ∧
              t.st.trap = some { code := .replayDiverged, faddr := s.st.rc } ∧ t.st.pc = s.st.pc ∧ t.st.rc = s.st.rc ∧ (∀ r, t.rx r = s.rx r) ∧
              (t.ctx x).halt = some s.time ∧
              Mailed c.part (fun j => ([4 + x * 2 ^ 8 + s.curCore * 2 ^ 14 + s.curK.num * 2 ^ 22 + 0x40 * 2 ^ 24, n, want + fp * 2 ^ 32, s.time] :
                List Nat).getD j 0) s t))) ∧
  (∀ (h : Head) (rd ra rb : Reg) (sel : BitVec 4) (pc : PcWord) (s : State),
    let i : Instr := .dump h rd ra rb sel
    let x := s.curCtx
    let c := s.ctx x
    let va := (s.rx ra).toNat
    let room := (s.rx rb).toNat
    let serves := (∃ v, s.sliceOf s.curCore = some v ∧ v.handler = true) ∧ c.mode = .stopped
    let stopWord (off j : Nat) : Nat :=
      let a := c.stops * 2 ^ 16 + off + 8 * j
      if a < devTop then s.homeRead (some c.part) a 8 else 0
    -- type, core, stream, length of the body, and where the stop record stands in the stop area
    let opt (b : Nat) (l : List (Nat × Nat × Nat × Nat × Nat)) : List (Nat × Nat × Nat × Nat × Nat) := if sel.getLsbD b then l else []
    let recs : List (Nat × Nat × Nat × Nat × Nat) :=
      ((ascending (s.stopCores x)).flatMap fun m =>
        (allStreams.map fun k => (1, m, k.num, 64, streamOffset m k)) ++ opt 0 (allStreams.map fun k => (2, m, k.num, 256, 0)) ++
          opt 1 [(3, m, 0, 1792, 0)] ++ opt 2 [(4, m, 0, 2048 * (s.core m).vlive.toNat, 0)] ++ opt 3 [(5, m, 0, 131072, 0)] ++
          [(1, m, 0, 64, matrixOffset m)]) ++
      (s.stopEngines x).map fun e => (1, stopWord (engineOffset e.1 e.2) 0 / 2 ^ 10 % 2 ^ 8, 0, 64, engineOffset e.1 e.2)
    let upTo (n : Nat) : Nat := 64 + ((recs.take n).map fun r => 16 + r.2.2.2.1).sum
    let fault : List Nat := [2 + x * 2 ^ 8 + s.curCore * 2 ^ 14 + s.curK.num * 2 ^ 22, va % 2 ^ 56, 0, s.time]
    (∀ r ∈ recs, r.1 = 1 → c.stops * 2 ^ 16 + r.2.2.2.2 < devTop →
      s.homeBad (some c.part) ((c.stops * 2 ^ 16 + r.2.2.2.2) / 128) = false) → CanIssue h 1 pc s → s.guardBit h = true →
      (¬ serves → Sets i h 1 pc rd 4 s) ∧ (serves → va % 64 ≠ 0 ∨ room < 64 → Sets i h 1 pc rd 5 s) ∧
      (serves → va % 64 = 0 → 64 ≤ room →
        (∀ n, n ≤ recs.length → upTo n ≤ room → (n < recs.length → room < upTo (n + 1)) →
          s.cur.postedHost = false → s.cur.postedPeer = false → va + upTo n ≤ 2 ^ 56 → ∀ e : TlbEntry, e.cls = 0 →
          (∀ a m, va ≤ a → a + m ≤ va + upTo n → Steady s a m .write e) →
          let p := e.phys va
          p % 128 = va % 128 → (∀ a, p ≤ a → a < p + upTo n → s.homeBad (some s.curPart) (a / 128) = false ∧ Private s (a / 128) ∧
            (s.cur.banksOf 3 = [] → tblFind s.cur.ways (a / 128) = none)) →
          let status := if n = recs.length then 1 else 2
          Completes i h 1 pc s fun t =>
            let byte (o : Nat) : Nat := seen t ((p + o) / 128) / 2 ^ (8 * ((p + o) % 128)) % 2 ^ 8
            let word (o : Nat) : Nat := seen t ((p + o) / 128) / 2 ^ (8 * ((p + o) % 128)) % 2 ^ 64
            t.rx rd = (if rd = 0 then 0 else BitVec.ofNat 64 status) ∧ RegsBut rd s t ∧
              (∀ j, j < 8 → word (8 * j) =
                ([status + x * 2 ^ 8 + sel.toNat * 2 ^ 16, upTo n, upTo recs.length, n, c.stopTime, c.causeWord.toNat,
                  c.faddrWord.toNat, 0] : List Nat).getD j 0 % 2 ^ 64) ∧
              (∀ j r, j < n → recs[j]? = some r →
                let o := upTo j
                let m := s.core r.2.1
                word o = (r.1 + r.2.1 * 2 ^ 8 + r.2.2.1 * 2 ^ 16 + r.2.2.2.1 * 2 ^ 32) % 2 ^ 64 ∧ word (o + 8) = 0 ∧
                  (r.1 = 1 → ∀ a, a < 8 → word (o + 16 + 8 * a) = stopWord r.2.2.2.2 a) ∧
                  (r.1 = 2 → ∀ a, a < 32 → word (o + 16 + 8 * a) = ((m.stream (StreamId.ofNum r.2.2.1)).reg (BitVec.ofNat 5 a)).toNat) ∧
                  (r.1 = 3 → ∀ q a, q < 7 → a < 256 →
                    byte (o + 16 + 256 * q + a) = (m.pred (BitVec.ofNat 3 (q + 1))).toNat / 2 ^ (8 * a) % 2 ^ 8) ∧
                  (r.1 = 4 → ∀ v a, v < m.vlive.toNat → a < 2048 → byte (o + 16 + 2048 * v + a) = m.image v / 2 ^ (8 * a) % 2 ^ 8) ∧
                  (r.1 = 5 → ∀ v a, v < 64 → a < 2048 → byte (o + 16 + 2048 * v + a) = m.image (320 + v) / 2 ^ (8 * a) % 2 ^ 8)) ∧
              Cached id (fun a => p ≤ a ∧ a < p + upTo n) s t) ∧
        ∀ tr, s.accessEntry (va % 2 ^ 56) 64 .write = .error tr → Completes i h 1 pc s fun t =>
          t.rx rd = (if rd = 0 then 0 else 3) ∧ RegsBut rd s t ∧ Mailed c.part (fun j => fault.getD j 0) s t ∧ ((s.part c.part).mbox = 0 →
            t.part c.part = { s.part c.part with mlost := satInc (s.part c.part).mlost } ∧ (∀ p, p ≠ c.part → t.part p = s.part p) ∧
              Kept (fun u => { u with parts := [] }) id id s t ∧ MemSame s t))) ∧
  (∀ s : State, let src : TraceSrc := tblGet {} (s.ctx s.ev.ctx).trace s.ev.n
    ∀ r rest, src.recs = r :: rest → r.1 + 10000 ≤ s.time → ∃ t, Machine.exec .traceFrameTimeout s = .next t ∧
      SourceIs s.ev.ctx s.ev.n { recs := [], fseq := src.fseq + 1 } s t ∧ (offSpills t).cores = (offSpills s).cores ∧
      ∀ core k, core < 192 → k < 4 → s.ev.n = core * 4 + k → rest.length < 6 → FrameOut core k s.ev.ctx src.fseq (r :: rest) s t) ∧
  ∀ s : State,
    let told (x core k n : Nat) (t : State) : Prop :=
      let words : List Nat := [4 + x * 2 ^ 8 + core * 2 ^ 14 + k * 2 ^ 22 + 0x40 * 2 ^ 24 + 2 ^ 40, n, 0, s.time]
      (t.ctx x).halt = some s.time ∧ ((s.ctx x).traceEn = false → Mailed (s.ctx x).part (fun j => words.getD j 0) s t)
    (s.ev.flag = false → ∀ w v, (s.stream s.ev.core s.ev.k).wait = some w → w.kind = .forced → s.canRun s.ev.core s.ev.k = true →
      s.sliceOf s.ev.core = some v → v.handler = false → (s.ctx v.ctx).replayMode = 2 → (s.ctx v.ctx).halt = none →
      16777216 < s.cyclesOf s.ev.core - w.since →
        ∃ t, Machine.exec .replayStarved s = .next t ∧ told v.ctx s.ev.core s.ev.k.num (s.stream s.ev.core s.ev.k).rc.toNat t ∧ (t.stream s.ev.core s.ev.k).trap =
          some { code := .replayDiverged, faddr := (s.stream s.ev.core s.ev.k).rc }) ∧
    (s.ev.flag = true → ∀ k t0, (s.engine (s.ev.die % 2) s.ev.n).commit = some k → (s.engine (s.ev.die % 2) s.ev.n).trap = none →
      k.heldSince = some t0 → 16777216 < (s.time - t0) * 9 / 10 → (s.ctx k.cmd.ctx).replayMode = 2 →
      s.engineServes k.cmd = true → (∀ v, s.slice k.cmd.slice = some v → v.handler = false) → (s.ctx k.cmd.ctx).mode = .run →
      (s.ctx k.cmd.ctx).halt = none →
        ∃ t, Machine.exec .replayStarved s = .next t ∧ told k.cmd.ctx k.cmd.core 3 k.cmd.seq t ∧ (t.engine (s.ev.die % 2) s.ev.n).trap =
          some (k.cmd, k.code, { code := .replayDiverged, faddr := BitVec.ofNat 64 k.cmd.seq }))

/-- O42. IDLE_WAKE completes an idle whose cycles have passed or whose time has come, and where its context traces waits and its wait
class has lasted 256 cycles, its stream records WAIT. Each expiry event, for a stream with
an ordinary slice whose wait of its kind has lasted more cycles than its limit, raises the trap of that kind (TOKEN,
RING, SEM, MARK, ENGINE, DOM _WAIT_EXPIRED) with the rule's faddr where stated, and the head does not retire; of a wait
for tokens or room, the queues still waited on at expiry, and nothing happens where every one has come. JOIN_EXPIRED
traps the waiting stream of the lowest position with the arrived and missing positions, and the entry stays without an
expiry, which the first member to arrive again sets. MWAIT_EXPIRED completes the mwait with 4, or with the code of an event that
has arrived, and frees its monitor. SPILL_MOVE takes the oldest spilled record to the tail, with its bytes where no row of the
spill area is uncorrectable, and returns its quota. TOUCH_WINDOW_EXPIRY keeps exactly the windows that have not ended and those
that an access issued under them still needs (that they stay is log entry 22). TILE_BUSY completes a pool whose wait for TILE
banks has reached its limit: it retires with its pushes, with TILE_BUSY in rd and %pool, and every bank keeps its role.
(The occupancy of an expired epop is log entry 47.) INSTRUCTION_RETIRE gives the stream the next turn (log entries 1 and 17), and in that turn a head that has issued, and whose
effect is complete, retires: it stands at the next PC, its retire count is one more, and its pushes are made. (R26, R27, R109, R119, R201, R209, R210, R216, R235, R242, R268, R350.) -/
def Obligations.WaitingHeadsWakeOrExpire : Prop :=
  ∀ s : State,
    let core := s.ev.core
    let k := s.ev.k
    let st := s.stream core k
    let late (m : Nat) (w : Waiting) : Prop := w.limit ≠ 0 ∧ w.limit < s.cyclesOf m - w.since
    let expires (i : Instr) (m : Nat) (j : StreamId) (w : Waiting) (code : TrapCode) (faddr : Option Nat) (detail : Nat) : Prop :=
      (s.stream m j).wait = some w → late m w → (s.stream m j).trap = none → (s.stream m j).stopped = false → OrdinaryAt m s →
        ∃ t, Machine.exec i s = .next t ∧ TrapsAt m j code faddr detail id s t
    let absent (u : State) (level : Nat) (here : Nat → Bool) : Option Nat :=
      some (u.rankMask level here + u.rankMask level (fun m => !here m) * 2 ^ 32)
    let value (n : Nat) : Nat := ((s.core core).sem n).value.toNat
    let xvalue (n : Nat) : Nat := ((s.cluster (core / 4)).xsem n).value.toNat
    (∀ w, st.wait = some w →
      (∃ n, w.kind = .idleCyc n ∧ st.issuedAt + n ≤ s.cyclesOf core) ∨ (∃ n, w.kind = .idleUntil n ∧ n ≤ s.time % 2 ^ 64) →
      s.canRun core k = true → (∃ pc, s.nextPcOf core k = some pc) →
        ∃ t, Machine.exec .idleWake s = .next t ∧ Completed core k s t ∧ (∀ r, (t.stream core k).reg r = st.reg r) ∧
          (Untraced (s.ctxOf core) 1 s → MemSame s t) ∧ (∀ m j, m ≠ core ∨ j ≠ k → (t.stream m j) = s.stream m j) ∧
          let n := s.cyclesOf core - st.clsSince
          4 ≤ st.cls → st.cls ≤ 0x75 → 256 ≤ n → Recorded (s.ctxOf core) (core * 4 + k.num) 1 2 (min n (2 ^ 32 - 1) + st.cls * 2 ^ 32) s t) ∧
    (∀ since limit : Nat,
      let w (kind : WaitKind) : Waiting := { kind := kind, since := since, limit := limit }
      (∀ pop room n, let lack := (s.core core).lackMask pop n
        let full := (s.core core).fullMask room n
        (lack ≠ 0 ∨ full ≠ 0 → expires .tokenWaitExpired core k (w (.token pop room n)) .tokenWaitExpired (some (lack ||| full)) 0) ∧
        (lack = 0 → full = 0 → st.wait = some (w (.token pop room n)) → Machine.exec .tokenWaitExpired s = .next s)) ∧
      (∀ n a, expires .semWaitExpired core k (w (.sem n a)) .semWaitExpired (some (n + value n * 2 ^ 16 + a * 2 ^ 32)) 0 ∧
        expires .semWaitExpired core k (w (.xsem n a)) .semWaitExpired (some (64 + n + xvalue n * 2 ^ 16 + a * 2 ^ 32)) 0) ∧
      (∀ n, expires .markWaitExpired core k (w (.mark n)) .markWaitExpired
        (some ((s.core core).l.marksIssued % 2 ^ 32 + (s.core core).s.marksIssued % 2 ^ 32 * 2 ^ 32)) 0) ∧
      expires .engineWaitExpired core k (w .holdList) .engineWaitExpired (some 0xFF7E) 0 ∧
      (∀ kind ∈ ([.matrixQueue, .matrixDone] : List WaitKind), expires .engineWaitExpired core k (w kind) .engineWaitExpired
        (some (0x7F + (s.core core).matrix.qlen * 2 ^ 8)) 0) ∧
      (∀ n d slot, engineSlot n = some (d, slot) →
        expires .engineWaitExpired core k (w (.engineRoom n)) .engineWaitExpired (some (n + (s.engine d slot).occupancy core * 2 ^ 8)) 0 ∧
        expires .engineWaitExpired core k (w (.engineResult n)) .engineWaitExpired
          (some (n + ((s.engine d slot).elements core).length * 2 ^ 8)) 0) ∧
      (let u : State := { s with curCore := core, curK := k };
        (∀ level, expires .domExpired core k (w (.dsync level)) .domExpired
          (absent u level fun m => (streamsOf (st.capt.getD 0 % 16)).all fun j =>
            ((s.core m).stream j).arrived (.dsync level) && tblGet 0 ((s.core m).stream j).pairs level == tblGet 0 st.pairs level) level) ∧
        expires .domExpired core k (w .cbcast) .domExpired
          (absent u 1 fun m =>
            ((s.core m).stream k).arrived .cbcast && tblGet 0 ((s.core m).stream k).pairs 4 == tblGet 0 st.pairs 4) 4) ∧
      ∀ m j, s.ev.who = .stream m j →
        (∀ c n, expires .ringWaitExpired m j (w (.ring c n)) .ringWaitExpired
          (some (((s.core c).ring n).positions + c * 2 ^ 50 + n * 2 ^ 58)) 0) ∧
        ∀ a, expires .ringWaitExpired m j (w (.memRing a)) .ringWaitExpired none 0) ∧
    (∀ pre e post p x, let i := s.ev.cluster
      let here (p : Nat) : Prop := (s.core (4 * i + p)).slice = some e.slice ∧ ((s.core (4 * i + p)).stream k).arrived (.join e.id) = true
      (s.cluster i).joins = pre ++ e :: post → (∀ d ∈ pre, d.kind ≠ k ∨ d.id ≠ s.ev.n) → e.kind = k → e.id = s.ev.n →
      (∀ d ∈ post, d.slice ≠ e.slice ∨ d.kind ≠ k ∨ d.id ≠ e.id) →
      e.arrived ≠ e.expected → e.expiry = some x → x ≤ (s.cluster i).cycles → p < 4 → e.expected.getLsbD p = true → here p →
      (∀ q, q < p → e.expected.getLsbD q = true → ¬ here q) → OrdinaryAt (4 * i + p) s →
        ∃ t, Machine.exec .joinExpired s = .next t ∧ TrapsAt (4 * i + p) k .joinExpired
          (some (e.id + e.arrived.toNat * 2 ^ 8 + (e.expected &&& ~~~ e.arrived).toNat * 2 ^ 12)) 0
            (fun u => { u with clusters := [] }) s t ∧
          (t.cluster i).joins = pre ++ { e with expiry := none } :: post ∧ (∀ c, c ≠ i → t.cluster c = s.cluster c) ∧
          (∀ n, ((t.cluster i).xsem n).value = ((s.cluster i).xsem n).value) ∧
          ({ t.cluster i with joins := [], xsems := [] } : Cluster) = { s.cluster i with joins := [], xsems := [] }) ∧
    (∀ w h rd row, ∀ limit : BitVec 24, st.wait = some w → w.kind = .mon row →
      ({ s with curCore := core, curK := k } : State).headInstr = some (.mwait h rd limit) →
      limit.toNat * 64 < s.cyclesOf core - w.since → s.canRun core k = true → (∃ pc, s.nextPcOf core k = some pc) →
        ∃ t, Machine.exec .mwaitExpired s = .next t ∧ Completed core k s t ∧
          (let code := (((s.cluster (core / 4)).monitors.find? fun m => m.core == core && m.k == k).bind Monitor.event).getD 4
            ∀ r, (t.stream core k).reg r = if r = rd then (if rd = 0 then 0 else BitVec.ofNat 64 code) else st.reg r) ∧
          ∀ m ∈ (t.cluster (core / 4)).monitors, ¬ (m.core = core ∧ m.k = k)) ∧
    (∀ b rest, let n := s.ev.n
      let r := (s.core core).ring n
      let x := s.ctxOf core
      r.spill = b :: rest → r.used < 2 ^ r.k → (s.core core).slice.isSome = true →
        ∃ t, Machine.exec .spillMove s = .next t ∧ (t.core core).ring n = { r with spill := rest, tail := r.tail + 1 } ∧
          (∀ m q, m ≠ core ∨ q ≠ n → (t.core m).ring q = (s.core m).ring q) ∧
          (t.ctx x).spillq = (s.ctx x).spillq + BitVec.ofNat 32 (8 * 2 ^ r.z) ∧
          (r.z ≤ 4 → r.base % 128 = 0 →
            (∀ e ∈ r.spillPages, ∀ i, i < (e.1 % 128 + e.2 + 127) / 128 → s.homeBad (some (s.ctx x).part) (e.1 / 128 + i) = false) →
            ∀ j, j < 8 * 2 ^ r.z → poolByte (t.core core) (r.base + r.tail.toNat % 2 ^ r.k * (8 * 2 ^ r.z) + j) = (b.getD j 0).toNat) ∧ MemSame s t) ∧
    (∃ t, Machine.exec .touchWindowExpiry s = .next t ∧ (∀ w, w ∈ (t.core core).windows ↔ w ∈ (s.core core).windows ∧
      (s.cyclesOf core < w.expiry ∨ w.ctx = s.ctxOf core ∧ ∃ j, (s.stream core j).trap = none ∧
        ((s.stream core j).issued = true ∧ (s.stream core j).kind = .access ∧ w.opened ≤ (s.stream core j).issuedAt ∧
            (s.stream core j).issuedAt < w.expiry ∨
          ∃ a ∈ (s.stream core j).ahead, a.kind = .access ∧ w.opened ≤ a.issuedAt ∧ a.issuedAt < w.expiry))) ∧
      (∀ m, { t.core m with windows := [] } = { s.core m with windows := [] }) ∧ { t with cores := [] } = { s with cores := [] }) ∧
    (∀ w h rd ra role rel limit pc, let o : State := { s with curCore := core, curK := .K }
      let c := s.core core
      let v := (c.k.reg ra).toNat
      let banks := (List.range (v / 64 % 128)).map fun i => v % 64 + i
      let new := setRoles c.roles banks role.toNat
      c.k.wait = some w → w.kind = .poolTile → o.headInstr = some (.poolReshape h rd ra role rel limit) → c.k.issued = true →
      c.k.guardOn = true → c.k.skipping = false → c.k.kind = .pool → c.k.poisonDue = false → tblFind c.k.notes 4 = none →
      c.pending = [] → s.canRun core .K = true → s.nextPcOf core .K = some pc → Untraced (s.ctxOf core) 1 s →
      v / 2 ^ 13 = 0 → 0 < v / 64 % 128 → v % 64 + v / 64 % 128 ≤ 64 → placementOk new = true → (roleBanks new 2).length ≤ 16 →
      (roleBanks new 3).length ≤ 16 → role ≠ 2 → (∃ b ∈ c.matrix.tileBanks, b ∈ banks ∧ roleOf c.roles b = 2) →
      limit.toNat * 256 ≤ s.cyclesOf core - w.since →
        ∃ t, Machine.exec .tileBusy s = .next t ∧ t.curCore = core ∧ t.curK = .K ∧ Completed core .K s t ∧ PoolStatusIs rd 4 t ∧
          (∀ r, r ≠ rd → t.rx r = o.rx r) ∧ (∀ q, t.cur.tokens q = c.tokens q + (pushQueues .K h).count q) ∧ MemSame s t ∧
          KeptAt core .K
            (fun u => { u with
              curCore := 0, curK := .K, issueOnly := false, chosen := none, late := false, expanding := false, expanded := false })
            (fun c => offStatus { c with reshape := none }) id s t) ∧
    ∃ t, Machine.exec .instructionRetire s = .next t ∧ t = { s with agenda := .turn core k :: s.agenda } ∧
      ∀ (α : Type) (i : Instr) (h : Head) (f : Form) (hold : State → Option (WaitKind × Nat)) (cap : Op α) (eff : α → Op Flow)
        (o u : State) (pc : PcWord), core < 192 →
        ({ s with curCore := core, curK := k, issueOnly := false, chosen := none, late := false, expanding := false
                  expanded := false } : State).ready = .run o i →
        (∀ v, Machine.exec i v = runForm h f hold cap eff v) → o.canRun core k = true → o.st.issued = true → o.st.skipping = false →
        f.lanes = true ∨ o.st.guardOn = true → Op.attempt (opBind cap eff) o = .ok u .next → u.curCore = core → u.curK = k →
        o.nextPc = some pc →
          ∃ w, Machine.step t = .next w ∧ (w.stream core k).pc = pc ∧ (w.stream core k).rc = (u.stream core k).rc + 1 ∧
            (w.stream core k).issued = false ∧ (w.stream core k).wait = none ∧ w.agenda = u.agenda ∧
            (∀ r, (w.stream core k).reg r = (u.stream core k).reg r) ∧
            ∀ q, (w.core core).tokens q = (u.core core).tokens q + f.n * (pushQueues k h).count q

/-- O43. A round with one head that may be selected and has tickets, with no context in replay, where the heads, the free cores or the
interval have changed since the last one, advances the die's generator by one draw, which an untraced recording context logs, and places the head on the first
placement that is free and admitted, or defers it: to a free core or to the next interval; where nothing has changed no
round takes place. A context in replay has its logged selection placed as logged, once that placement is free and admitted. An interval start refills each balance up to its budget and ends the deferrals to it. A reservation
of free and admitted cores that the partition allows grants them and takes the energy share from each cluster; a core
that is not free counts a conflict, with its back-off. A grant lapses after 256 cycles, and with it the reservation
that it belongs to. A reserved gang whose grants have not lapsed is bound with its header's PCs, its argument in x1,
its budget and head counters of 0, and leaves its queue, which an untraced recording context logs. An exhausted budget traps BUDGET_EXHAUSTED on K of the lowest core, also within the
skid of a halt; where that stream has sent an AtomicOp, whose answer its head still takes, the halt line rises and the stream
has the trap to take after its head. An ended slice frees its cores, and its completion record, with the time at which its last
stream yielded, stands at the tail of its context's ring, or waits for the appends there. Due
current returns. A halted context with no head that must retire first stops: its streams stand at their heads and it
waits for its handler, which is bound on the handler core; its end carries out its tret: the context runs again, or is
DEAD. That a lapsed grant ends its whole reservation is log entry 42, that current returns strictly after its time is log entry
44, and that an overfull head which waits or has trapped does not hold the stop up is log entry 39. (R300, R301, R303, R304, R305, R306,
R307, R308, R309, R316, R329, R355.) -/
def Obligations.SlicesAreSelectedBoundAndEnded : Prop :=
  ∀ s : State,
    let d := s.ev.die % 2
    let n := s.ev.n
    let die := s.die d
    (∀ c slot, die.idleSlot = some slot → s.selectable d = [c] → 0 < c.tickets → (∀ e ∈ s.ctxs, e.2.replayMode ≠ 2) →
      let q := s.queue c.queue
      let all := s.gangPlacements (s.ctx q.ctx.toNat).part c.hdr.gang (queueDies c.queue q.dies)
      let fit (p : List Nat) : Prop := s.placeFree p = true ∧ s.admits c.hdr p = true
      let seed := let x := die.seed ^^^ (die.seed >>> 12); let y := x ^^^ (x <<< 25); y ^^^ (y >>> 27)
      let round (P : State → Prop) : Prop := ∃ t, Machine.exec .selectionRound s = .next t ∧ P t ∧ (t.die d).rounds = die.rounds + 1 ∧
        (t.die d).seed = seed ∧ (Untraced q.ctx.toNat 2 s → Logged q.ctx.toNat d 3 d 0 0 die.rounds (seed * 0x2545F4914F6CDD1D).toNat s t) ∧
        (t.die d).lastRound = some (s.roundView d) ∧ t.queues = s.queues ∧ t.slices = s.slices ∧
        (∀ m k, t.stream m k = s.stream m k) ∧ ∀ m, (t.core m).slice = (s.core m).slice ∧ (t.core m).grant = (s.core m).grant
      (die.lastRound = some (s.roundView d) → Machine.exec .selectionRound s = .next s) ∧
      (die.lastRound ≠ some (s.roundView d) →
        (∀ pre p post, all = pre ++ p :: post → (∀ x ∈ pre, ¬ fit x) → fit p → round fun t =>
          tblFind (t.die d).placements slot =
            some { queue := c.queue, hdr := c.hdr, pri := c.pri, tko := q.tko.toNat, round := die.rounds, candidates := p :: post } ∧
          (t.die d).deferred = die.deferred) ∧
        ((∀ p ∈ all, s.placeFree p = false) → round fun t =>
          (t.die d).deferred = die.deferred ++ [{ queue := c.queue, turn := q.turn, interval := false }] ∧ (t.die d).placements = die.placements) ∧
        ((∃ p ∈ all, s.placeFree p = true) → (∀ p ∈ all, ¬ fit p) → round fun t =>
          (t.die d).deferred = die.deferred ++ [{ queue := c.queue, turn := q.turn, interval := true }] ∧ (t.die d).placements = die.placements))) ∧
    (∀ c slot r sel p, die.idleSlot = some slot → s.selectable d = [c] →
      let q := s.queue c.queue
      let x := q.ctx.toNat
      let all := s.gangPlacements (s.ctx x).part c.hdr.gang (queueDies c.queue q.dies)
      (s.ctx x).replayMode = 2 → (∀ e ∈ s.ctxs, if e.1 = x then e.2 = s.ctx x else e.2.replayMode ≠ 2) → (s.ctx x).nextRound d = some r →
      (s.ctx x).selectOf d r = some sel → (s.ctx x).openSelects d = [] → sel.2.toNat % 2 ^ 10 = c.queue → p ∈ all →
      p.headD 0 = sel.2.toNat / 2 ^ 10 % 2 ^ 8 → (∀ o ∈ all, o.headD 0 = p.headD 0 → o = p) → ∃ t, Machine.exec .selectionRound s = .next t ∧
        if s.placeFree p = true ∧ s.admits c.hdr p = true then
          (t.die d).rounds = die.rounds + 1 ∧ tblFind (t.die d).placements slot =
            some { queue := c.queue, hdr := c.hdr, pri := c.pri, tko := q.tko.toNat, round := die.rounds, candidates := [p], forced := true }
        else t.dies = tblSet s.dies d { die with lastRound := (t.die d).lastRound } ∨ t = s) ∧
    (let k := s.time / 10000 + 1 - s.intervals; k ≠ 0 → ∃ t, Machine.exec .controlIntervalStart s = .next t ∧ t.intervals = s.intervals + k ∧ MemSame s t ∧ t.cores = s.cores ∧
        (∀ i, (t.cluster i).budget = (s.cluster i).budgetNew ∧
          (t.cluster i).bal = min ((s.cluster i).bal + k * (s.cluster i).budgetNew.toNat) (s.cluster i).budgetNew.toNat) ∧
        ∀ i e, e ∈ (t.die i).deferred ↔ e ∈ (s.die i).deferred ∧ e.interval = false) ∧
    (∀ p, tblFind die.placements n = some p → (s.queue p.queue).en = true → (s.ctx (s.queue p.queue).ctx.toNat).mode = .run →
      let cores := p.candidates.headD []
      (∀ e ∈ ([(.reserve, p.conflicts = 0), (.reservationRetry, p.conflicts ≠ 0 ∧ p.retryAt ≤ s.time)] : List (Instr × Prop)),
        p.reserved = false → e.2 → s.placeAllowed p cores = true →
        ((∀ c ∈ cores, s.coreFree c = true) → s.admits p.hdr cores = true → ∃ t, Machine.exec e.1 s = .next t ∧
          tblFind (t.die d).placements n = some { p with reserved := true } ∧
          (∀ c ∈ cores, (t.core c).grant = some (d, n, s.cyclesOf c)) ∧ (∀ c, c ∉ cores → t.core c = s.core c) ∧
          ∀ i, (t.cluster i).bal = if i ∈ cores.map (· / 4) then
            max ((s.cluster i).bal - ((p.hdr.energy + (cores.map (· / 4)).dedup.length - 1) / (cores.map (· / 4)).dedup.length : Nat)) (-2 ^ 31)
            else (s.cluster i).bal) ∧
        ((∃ c ∈ cores, s.coreFree c = false) → p.conflicts < 5 → ∃ t, Machine.exec e.1 s = .next t ∧ t.cores = s.cores ∧
          tblFind (t.die d).placements n = some { p with
            conflicts := p.conflicts + 1
            retryAt := s.time + ((min (64 * 2 ^ p.conflicts) 2048 + (if d = 1 then 32 else 0)) * 10 + 8) / 9 })) ∧
      (∀ a, p.reserved = true → (∀ c ∈ cores, ∃ g, (s.core c).grant = some (d, n, g) ∧ s.cyclesOf c - g ≤ 256) →
        s.placeAllowed p cores = true → (s.queue p.queue).entries = [a] → (s.queue p.queue).displaced = [] →
        ∃ t v, Machine.exec .bind s = .next t ∧ t.slice s.nextSlice = some v ∧ v.ctx = (s.queue p.queue).ctx.toNat ∧ v.handler = false ∧
          v.cores = cores ∧ v.budget = BitVec.ofNat 32 p.hdr.budget ∧ (t.queue p.queue).entries = [] ∧ (t.queue p.queue).head = none ∧
          tblFind (t.die d).placements n = none ∧
          (Untraced v.ctx 2 s → Logged v.ctx d 4 d 0 0 p.round (p.queue + cores.headD 0 * 2 ^ 10) s t) ∧
          ∀ c ∈ cores, (t.core c).slice = some s.nextSlice ∧ (t.core c).grant = none ∧ ∀ k, (t.stream c k).mode = .run ∧
            (∀ j, tblGet 0 (t.stream c k).hc j = 0) ∧
            (t.stream c k).pc = BitVec.ofNat 56 (p.hdr.code + p.hdr.entry k) ∧
            ∀ r, (t.stream c k).reg r = if r = 1 then BitVec.ofNat 64 p.hdr.arg else 0)) ∧
    (∀ d slot at', (s.core s.ev.core).grant = some (d, slot, at') → 256 < s.cyclesOf s.ev.core - at' →
      ∃ t, Machine.exec .grantLapse s = .next t ∧ MemSame s t ∧
        (∀ p, tblFind (s.die d).placements slot = some p → p.reserved = true →
          let cores := p.candidates.headD []
          let shared := (cores.map (· / 4)).dedup
          tblFind (t.die d).placements slot = some { p with reserved := false } ∧
            (∀ c, (c ∈ cores ∧ ∃ g, (s.core c).grant = some (d, slot, g)) → t.core c = { s.core c with grant := none }) ∧
            (∀ c, ¬ (c ∈ cores ∧ ∃ g, (s.core c).grant = some (d, slot, g)) → t.core c = s.core c) ∧
            ∀ i, (t.cluster i).bal = if i ∈ shared then
              min ((s.cluster i).bal + ((p.hdr.energy + shared.length - 1) / shared.length : Nat)) (s.cluster i).budget.toNat
              else (s.cluster i).bal) ∧
        ((∀ p, tblFind (s.die d).placements slot = some p → p.reserved = false) →
          t.core s.ev.core = { s.core s.ev.core with grant := none } ∧ (∀ c, c ≠ s.ev.core → t.core c = s.core c) ∧
            { t with cores := [] } = { s with cores := [] })) ∧
    (∀ v, s.slice n = some v →
      (∀ c rest, v.cores = c :: rest → (s.core c).slice = some n → v.handler = false → v.budget = 0 → (s.stream c .K).mode ≠ .yielded →
        (s.stream c .K).trap = none → (s.stream c .K).lateTrap = none → (s.ctx v.ctx).mode = .run →
          ((s.stream c .K).atomicOut = false →
            ((s.ctx v.ctx).halt = none → ∃ t, Machine.exec .budgetExhausted s = .next t ∧ TrapsAt c .K .budgetExhausted none 0 id s t) ∧
            ((s.ctx v.ctx).halt.isSome = true → s.skidOver c = false → ∃ t, Machine.exec .budgetExhausted s = .next t ∧
              (t.stream c .K).trap = some { code := .budgetExhausted } ∧ (t.ctx v.ctx).halt = (s.ctx v.ctx).halt)) ∧
          ((s.stream c .K).atomicOut = true → (s.ctx v.ctx).halt = none → ∃ t, Machine.exec .budgetExhausted s = .next t ∧
            t.stream c .K = { s.stream c .K with lateTrap := some { code := .budgetExhausted } } ∧
            (∀ m k, m ≠ c ∨ k ≠ .K → t.stream m k = s.stream m k) ∧ (t.ctx v.ctx).halt = some s.time ∧ MemSame s t)) ∧
      (v.handler = false → (∀ c ∈ v.cores, ∀ k, (s.stream c k).mode = .yielded) → (s.ctx v.ctx).mode = .run → v.hdr.succ = 0xFFFF →
        ∃ t, Machine.exec .sliceEnd s = .next t ∧ t.slice n = none ∧
          (∀ c ∈ v.cores, (t.core c).slice = none ∧ (t.core c).ways = [] ∧ ∀ k, (t.stream c k).mode = .idle) ∧
          (let x := s.ctx v.ctx
            let low := v.cores.headD 0
            let tokens := v.cores.any fun c => (s.core c).tokqWord != 0
            let tend := v.ended.getD s.time
            let late := decide (v.hdr.deadline ≠ 0 ∧ v.hdr.deadline < tend)
            let word := ([v.hdr.addr, tokens.toNat + 2 * late.toNat + 4 * v.ext.toNat + min v.restarts 255 * 2 ^ 8 +
              v.queue % 2 ^ 10 * 2 ^ 16 + low % 2 ^ 8 * 2 ^ 26, min v.cycles (2 ^ 32 - 1), tend] : List Nat)
            (∀ c ∈ v.cores, (s.core c).ways = [] ∧ (s.core c).pending = []) → Untraced v.ctx 2 s →
            (∃ base k, ∃ tail head : Nat, s.ringDesc (some (low / 96, v.ctx)) (some x.part) x.cring = some (base, 2, k, tail, head) ∧
              (1 : Int) ≤ 2 ^ k - ((tail : Int) - head)) →
              Appends (.completion v.ctx) x.part (low / 96) v.ctx x.cring 2 4 (fun j => word.getD j 0) s t))) ∧
    (∃ t, Machine.exec .currentReturn s = .next t ∧ (∀ e, e ∈ t.pack.returns ↔ e ∈ s.pack.returns ∧ s.time ≤ e.1) ∧
      ∀ g, (t.regulator g).used =
        (s.regulator g).used - ((s.pack.returns.filter fun e => decide (e.1 < s.time) && e.2.1 == g).map fun e => e.2.2).sum) ∧
    (let x := s.ev.ctx
      let c := s.ctx x
      c.live = true → c.mode = .run → c.halt.isSome = true → s.ev.nums = [] →
      (∀ m ∈ s.stopCores x, ∀ k, (s.stream m k).atomicOut = false ∧ (s.stream m k).firm = false ∧
        ((s.core m).overfull k = true → (s.stream m k).trap ≠ none ∨ (s.core m).stateOf k ≠ 1)) →
      (∀ m ∈ s.stopCores x, ∀ c, (s.core m).matrix.running = some c → c.outs ≠ [] → ∃ v, s.sliceOf m = some v ∧ v.handler = false) →
        ∃ t, Machine.exec .contextStopped s = .next t ∧ (t.ctx x).mode = .stopped ∧ (t.ctx x).stopTime = s.time ∧
          (t.part c.part).handlerQueue = (s.part c.part).handlerQueue ++ [x] ∧
          ∀ m ∈ s.stopCores x, m < 192 → ∀ k, (t.stream m k).stopped = true ∧ (t.stream m k).pc = (s.stream m k).pc ∧
            (t.stream m k).rc = (s.stream m k).rc ∧ ∀ r, (t.stream m k).reg r = (s.stream m k).reg r) ∧
    (∀ x rest hdr, let p := s.ev.part
      let core := (s.part p).hcore.toNat
      (s.part p).handlerQueue = x :: rest → s.coreFree core = true → (s.die (core / 96)).modeBusy = false →
      s.readHeader (core / 96) x (s.ctx x).hslice = some hdr → headerOk hdr (s.ctx x).dn = true → hdr.gang = 0 →
        ∃ t v, Machine.exec .handlerSliceBind s = .next t ∧ t.slice s.nextSlice = some v ∧ v.ctx = x ∧ v.handler = true ∧ v.cores = [core] ∧
          (t.core core).slice = some s.nextSlice ∧ (t.part p).handlerQueue = rest ∧
          ∀ k, (t.stream core k).mode = .run ∧ (t.stream core k).pc = BitVec.ofNat 56 (hdr.code + hdr.entry k)) ∧
    ∀ m v, (s.slices.find? fun e => e.2.handler && (s.ctx e.2.ctx).part == s.ev.part) = some (m, v) → s.slice m = some v →
      (∀ c ∈ v.cores, ∀ k, (s.stream c k).mode = .yielded) → v.hdr.succ = 0xFFFF →
      (∀ j w, s.slice j = some w → w.ctx = v.ctx → w.handler = false → w.budget ≠ 0) →
        ∃ t, Machine.exec .handlerSliceEnd s = .next t ∧
          ((s.ctx v.ctx).action = none ∨ (s.ctx v.ctx).action = some .kill → (t.ctx v.ctx).mode = .dead) ∧
          (∀ a, (s.ctx v.ctx).action = some a → a ≠ .kill →
            (t.ctx v.ctx).mode = .run ∧ (a ≠ .skip → (t.ctx v.ctx).halt = none ∧ (t.ctx v.ctx).cause = none))

/-- O44. A page walk fills the buffers that miss, of a core, its cluster and its die, from the first that holds the
translation or from the walk: every address of its page then translates to its leaf there, each buffer keeps at most its
64, 1,024 or 32,768 entries, the others stay; one that finds nothing leaves everything. A malformed invalidation
sets bad; a well-formed one waits; a completion drops exactly the translations that meet its range
from every buffer, leaves no dirty line in the context's cores, and counts; it does not come while a touch window of the
context pins a page of the range, a spill area meets it, an issued access not performed has a translation there,
or an engine commits a command of the context. A miss starts a walk on its die, or merges with one of its page that has not ended;
the first 64 walks have a walker, each of whose steps reads one entry, and a merged miss takes the walk's result (the rest of it at
once: log entry 46); one that has failed leaves its walker, and no buffer holds it; walks that have read an entry for an invalidated range are discarded. A scan request
handles its pages in turn: one that does not map, or is no readable, executable DEV page, ends it with MAP_FAULT at its
offset, slot 7; one that the scanner refuses, with the reason; one that passes joins its frames. A completed scan
handles the pages left; with status OK and no frame written since its scan it marks its frames with their tags; with
a written frame it reports CHANGED with its offset and marks none. A frame is delivered to a privately fetching stream only
from an executable DEV page of its own tag whose frame is scanned with that tag; one that the drift bound withholds is not delivered, and its member's stall begins. A drift release detaches exactly the members that
have consumed least, which keep their frames. (Log entry 40: that an invalidation cleans the context's cores and waits for its commits; 22: that windows hold it.) (R61, R230, R227, R229, R320, R321, R322, R323, R324, R325.) -/
def Obligations.TranslationsScansAndFetches : Prop :=
  ∀ s : State,
    let x := s.ev.ctx
    let c := s.ctx x
    let v := s.ev.v
    let only (t : State) : Prop := { t with ctxs := [] } = { s with ctxs := [] } ∧ ∀ y, y ≠ x → t.ctx y = s.ctx y
    (let m := s.ev.core
      let va := s.ev.off % 2 ^ 56
      let own (n : Nat) : Option TlbEntry := tlbFind ([(s.core m).tlb, (s.cluster (m / 4)).tlb, (s.die (m / 96)).tlb].getD n []) x va
      let d := m / 96
      let walks := (s.die d).walks
      let merges (w : Walk) : Prop := (∀ l r, w.st ≠ .done l r) ∧ w.covers x va = true
      (s.ev.flag2 = true → s.ev.n = 0 → ∃ t, Machine.exec .pageWalk s = .next t ∧ (∀ i, i ≠ d → t.die i = s.die i) ∧
        { t.die d with walks := [] } = { s.die d with walks := [] } ∧ { t with dies := [] } = { s with dies := [] } ∧
        ((∃ w ∈ walks, merges w) → (t.die d).walks = walks) ∧
        ((∀ w ∈ walks, ¬ merges w) → (t.die d).walks = walks ++ [{ ctx := x, va := va, st := .table 3 (c.root * 2 ^ 20) }])) ∧
      (s.ev.flag2 = true → s.ev.n = 1 → ∃ t, Machine.exec .pageWalk s = .next t ∧ (∀ i, i ≠ d → t.die i = s.die i) ∧
        { t.die d with walks := [] } = { s.die d with walks := [] } ∧ { t with dies := [] } = { s with dies := [] } ∧
        (t.die d).walks.length = walks.length ∧ ∀ i w, walks[i]? = some w →
          (i < 64 → merges w → (t.die d).walks[i]? = some (s.walkStep w)) ∧
          (¬ (i < 64 ∧ merges w) → (t.die d).walks[i]? = some w)) ∧
      (let gone (w : Walk) : Bool := w.covers x va && w.ended
       s.ev.flag2 = true → 1 < s.ev.n →
          ((∀ w ∈ walks, gone w = false) → Machine.exec .pageWalk s = .next s) ∧
          ∀ w l, walks.find? gone = some w → w.st = .done l none → (∀ n, n < 3 → own n = none) →
            ∃ t, Machine.exec .pageWalk s = .next t ∧ (t.die d).walks = walks.filter (fun w => !gone w) ∧
              (∀ i, i ≠ d → t.die i = s.die i) ∧ { t.die d with walks := [] } = { s.die d with walks := [] } ∧
              { t with dies := [] } = { s with dies := [] }) ∧
      (∀ w ∈ walks, merges w → s.walkRest (s.walkStep w) = s.walkRest w) ∧
      ((∀ w ∈ walks, ¬ merges w) → s.walkOn d x va = s.walk x va) ∧
      (∀ w, walks.find? (fun w => w.serves x va) = some w → s.walkOn d x va = s.walkRest w) ∧
      ∀ found, s.ev.flag2 = false → found = (match (if s.ev.flag then tlbFind (s.die (m / 96)).tlb x va else s.buffered m x va) with
          | some e => some e
          | none => s.walkOn d x va) →
        (found = none → Machine.exec .pageWalk s = .next s) ∧
        ∀ e, found = some e → ∃ t, Machine.exec .pageWalk s = .next t ∧
          let listed (n : Nat) : Prop := s.ev.nums = [] ∨ n ∈ s.ev.nums
          let inCore := s.ev.flag = false ∧ own 0 = none ∧ listed 0
          let inCluster := s.ev.flag = false ∧ own 0 = none ∧ own 1 = none ∧ listed 1
          let inDie := (s.ev.flag = true ∨ own 0 = none ∧ own 1 = none) ∧ own 2 = none ∧ listed 2
          let took (n : Nat) (old new : List (Nat × TlbEntry)) : Prop := new.length ≤ n ∧
            (∀ a, e.va ≤ a → a < e.va + e.size → tlbFind new x a = some e) ∧ ∀ o ∈ new, o = (x, e) ∨ o ∈ old
          (inCore → took 64 (s.core m).tlb (t.core m).tlb) ∧ (¬ inCore → (t.core m).tlb = (s.core m).tlb) ∧
          (inCluster → took 1024 (s.cluster (m / 4)).tlb (t.cluster (m / 4)).tlb) ∧
          (¬ inCluster → (t.cluster (m / 4)).tlb = (s.cluster (m / 4)).tlb) ∧
          (inDie → took 32768 (s.die (m / 96)).tlb (t.die (m / 96)).tlb) ∧ (¬ inDie → (t.die (m / 96)).tlb = (s.die (m / 96)).tlb) ∧
          (∀ n, n ≠ m → t.core n = s.core n) ∧ (∀ i, i ≠ m / 4 → t.cluster i = s.cluster i) ∧ (∀ d, d ≠ m / 96 → t.die d = s.die d) ∧
          { t.core m with tlb := [] } = { s.core m with tlb := [] } ∧
          { t.cluster (m / 4) with tlb := [] } = { s.cluster (m / 4) with tlb := [] } ∧
          { t.die (m / 96) with tlb := [] } = { s.die (m / 96) with tlb := [] } ∧
          { t with cores := [], clusters := [], dies := [] } = { s with cores := [], clusters := [], dies := [] }) ∧
    (let va := v.toNat / 2 ^ 12 % 2 ^ 44 * 4096
      let size := v.toNat % 16
      let wrong := v.getLsbD 63 = true ∧ (va ≠ 0 ∨ size ≠ 0) ∨ v.getLsbD 63 = false ∧ (9 < size ∨ va % pageSize size ≠ 0)
      ∃ t, Machine.exec .tinvWrite s = .next t ∧ only t ∧ (wrong → t.ctx x = { c with tinvBad := true }) ∧
        (¬ wrong → ∃ r : InvReq, t.ctx x = { c with tinv := c.tinv ++ [r] } ∧ r.all = v.getLsbD 63 ∧
          (r.all = false → r.va = va ∧ r.len = pageSize size))) ∧
    (∀ r rest, c.tinv = r :: rest →
      let meets (va len : Nat) : Prop := r.all = true ∨ va < r.va + r.len ∧ r.va < va + len
      let bound (m : Nat) : Prop := (s.core m).slice.isSome = true ∧ s.ctxOf m = x
      (s.invalHeld x r = false → ∃ t, Machine.exec .invalidationComplete s = .next t ∧
        { t.ctx x with scans := [] } = { c with scans := [], tinv := rest, tinvDone := c.tinvDone + 1 } ∧
        (∀ y, y ≠ x → { t.ctx y with scans := [] } = { s.ctx y with scans := [] }) ∧
        (∀ m, bound m → ∀ row l, tblFind (t.core m).ways row = some l → l.dirty = 0) ∧
        ((∀ m, bound m → (s.core m).pending = [] ∧ ∀ l ∈ (s.core m).ways, l.2.dirty = 0) →
          Drops x (fun e => meets e.va e.size) id id s t ∧ offAgents t = offAgents s) ∧
        (∀ d w, w ∈ (t.die d).walks ↔ w ∈ (s.die d).walks ∧ ¬ (w.ctx = x ∧ meets w.span.1 w.span.2)) ∧
        (Unspilled s → let quiet (st : Stream) : Stream := { st with flags := 0, lateTrap := none }
          Drops x (fun e => meets e.va e.size) (fun m =>
            { m with ways := [], wayClock := 0, poolUe := [], pending := [], l := quiet m.l, xs := quiet m.xs, s := quiet m.s, k := quiet m.k })
            offL2 s t)) ∧
      (∀ m w e, w ∈ (s.core m).windows → w.ctx = x → s.cyclesOf m < w.expiry → e ∈ w.pages → meets e.va e.size →
        Machine.exec .invalidationComplete s = .next s) ∧
      ∀ m, bound m →
        (∀ n, let g := (s.core m).ring n
          g.enabled = true → g.sp = true → meets g.spillVa (2 ^ g.ks * (8 * 2 ^ g.z)) → Machine.exec .invalidationComplete s = .next s) ∧
        (∀ k key e, (s.stream m k).trap = none → (key, Note.page e) ∈ (s.stream m k).notes → meets e.va e.size →
          ((s.stream m k).captScope.isSome = true ∨ tblFind (s.stream m k).notes (key / 4 * 4) = none) →
            Machine.exec .invalidationComplete s = .next s) ∧
        ∀ d slot k, (s.engine d slot).commit = some k → k.cmd.ctx = x → Machine.exec .invalidationComplete s = .next s) ∧
    (∃ t, Machine.exec .xscanWrite s = .next t ∧ only t ∧ t.ctx x = { c with scans := c.scans ++
      [{ va := v.toNat / 2 ^ 12 % 2 ^ 44 * 4096, left := v.toNat % 2 ^ 8 + 1, status := 0, report := 0, frames := [], changed := none }] }) ∧
    (∀ r rest, c.scans = r :: rest → s.ev.flag = true → ∃ t r', Machine.exec .scanComplete s = .next t ∧ only t ∧
      t.ctx x = { c with scans := r' :: rest } ∧
      (r.left = 0 ∨ r.status ≠ 0 ∨ r.changed ≠ none → r' = r) ∧
      (0 < r.left → r.status = 0 → r.changed = none →
        let off := 4096 * r.frames.length
        let page := s.translateOn ((s.part c.part).hcore.toNat / 96) x ((r.va + off) % 2 ^ 56)
        (page = none ∨ (∃ e, page = some e ∧ (e.cls ≠ 0 ∨ e.r = false ∨ e.x = false)) →
          r' = { r with left := 0, status := 2, report := off + 7 * 2 ^ 32 }) ∧
        ∀ e, page = some e → e.cls = 0 → e.r = true → e.x = true → let pa := e.phys ((r.va + off) % 2 ^ 56)
          (∀ i, i < 32 → s.homeBad (some c.part) (pa / 4096 * 32 + i) = false) →
            (s.scanFrame4K c.part pa (StreamId.ofNum e.xs) = none →
              r' = { r with left := r.left - 1, frames := r.frames ++ [(pa / 4096, e.xs)] }) ∧
            ∀ o slot code, s.scanFrame4K c.part pa (StreamId.ofNum e.xs) = some (o, slot, code) →
              r' = { r with left := 0, status := 1, report := off + o + slot * 2 ^ 32 + code * 2 ^ 40 })) ∧
    (∀ r0 rest r, c.scans = r0 :: rest → s.ev.flag = false → r = s.scanPages x r0.left r0 →
      let ends (status report : Nat) (t : State) : Prop := (t.ctx x).scans = rest ∧
        (t.ctx x).xscanStatus = BitVec.ofNat 8 status ∧ (t.ctx x).xscanReport = BitVec.ofNat 48 report ∧ MemSame s t
      (r.changed = none → ∃ t, Machine.exec .scanComplete s = .next t ∧ ends r.status r.report t ∧
        (r.status ≠ 0 → t.scanned = s.scanned) ∧
        (r.status = 0 → (r.frames.map Prod.fst).Nodup → (∀ f ∈ r.frames, tblFind t.scanned f.1 = some f.2) ∧
          ∀ f, f ∉ r.frames.map Prod.fst → tblFind t.scanned f = tblFind s.scanned f)) ∧
      ∀ i, r.changed = some i → ∃ t, Machine.exec .scanComplete s = .next t ∧ ends 3 (i * 4096 + 7 * 2 ^ 32) t ∧ t.scanned = s.scanned) ∧
    (let m := s.ev.core
      let k := s.ev.k
      let st := s.stream m k
      ∀ pc, s.canRun m k = true → st.attached = false → st.nextFetch = some pc →
        let va := pc - pc % 64
        (∀ e, s.translate m (s.ctxOf m) va = some e →
          let p := e.phys va
          let words := (List.range 8).map fun j => s.homeRead (some (s.ctx (s.ctxOf m)).part) (p + 8 * j) 8
          let good := e.x = true ∧ e.xs = k.num ∧ e.cls = 0 ∧ tblFind s.scanned (p / 4096) = some k.num
          (good → s.homeBad (some (s.ctx (s.ctxOf m)).part) (p / 128) = false → ∃ t, Machine.exec .frameFetch s = .next t ∧
            t.stream m k = { st with iq := st.iq ++ [FrameRec.mk va p words] } ∧
            (∀ n j, n ≠ m ∨ j ≠ k → t.stream n j = s.stream n j) ∧ { t with cores := [] } = { s with cores := [] }) ∧
          (¬ good → Machine.exec .frameFetch s = .next s)) ∧
        (s.translate m (s.ctxOf m) va = none → Machine.exec .frameFetch s = .next s)) ∧
    (let m := s.ev.core
      let k := s.ev.k
      let st := s.stream m k
      ∀ pc g, s.canRun m k = true → s.fetchGroup m k = some g → st.nextFetch = some pc →
        s.leastConsumed (m / 4) g + 32 < st.consumed + st.iq.length + 1 → ∃ t, Machine.exec .frameFetch s = .next t ∧
          t.stream m k = { st with stalled := some (st.stalled.getD (s.cluster (m / 4)).cycles) } ∧
          (∀ n j, n ≠ m ∨ j ≠ k → t.stream n j = s.stream n j) ∧ { t with cores := [] } = { s with cores := [] }) ∧
    ∀ pre g post, let i := s.ev.cluster
      (s.cluster i).groups = pre ++ g :: post → g.kind = s.ev.k →
      (∀ o ∈ pre, o.kind ≠ s.ev.k ∨ ∀ m ∈ s.groupMembers i o, (s.stream m o.kind).stalled = none) →
      (∃ m ∈ s.groupMembers i g, ∃ t0, let st := s.stream m g.kind
        st.stalled = some t0 ∧ 4096 ≤ (s.cluster i).cycles - t0 ∧ s.leastConsumed i g + 32 < st.consumed + st.iq.length + 1) →
        ∃ t, Machine.exec .driftRelease s = .next t ∧ ∀ m j,
          let slow := m ∈ s.groupMembers i g ∧ j = g.kind ∧ (s.stream m j).consumedCount = s.leastConsumed i g
          (slow → t.stream m j = { s.stream m j with attached := false }) ∧ (¬ slow → t.stream m j = s.stream m j)

/-- O45. A partition word that breaks no rule of R291 is taken and else sets err; hcore likewise; a slice map is taken, but while its
die is in SPLIT mode or a switch of it is pending. An L2 mode that a valid
partition without a slice map forbids sets err; another starts a switch, which, with nothing bound on the die, takes
effect, drops every line, and leaves in memory each dirty byte of the lines (of a byte that lines of two partitions hold dirty, memory takes
that of one of them), and every other byte as it was. An install creates a context that is not live from its record, and drops its translations and touch windows. A host stop
raises the halt line of a running context by the host, with its cycle on each cluster. A seed of 0 is stored as 1. A grant adds to bgrant and to the
budget of each bound slice that exhausted its own, saturating. %stopat takes its fields, and the stream it names stops
at its count with HOST_STOP, disarmed and held from its next issue. The scope command installs an image as scset does,
or answers FIXED; an image that is uncorrectable counts as bad (log entry 41). A register write at the offset of an
outbound entry, a raw range or the fabric register sets exactly its fields; an unassigned offset changes nothing. The
mask bit of an MSI-X vector holds or releases its message, and the size of BAR 2 is set (how the host reaches these two
is the model's choice: log entry 44). (R249, R291, R292, R299, R300, R327, R335, R344, R345, R380, R381, R387.) -/
def Obligations.ControlWindowWritesTakeTheirEffect : Prop :=
  ∀ s : State,
    let v := s.ev.v
    let x := s.ev.ctx
    let c := s.ctx x
    let p := s.ev.part
    let d := s.ev.die % 2
    (p < 8 →
      let o := s.part p
      let onlyPart (new : Part) : Prop := ∃ t, Machine.exec .partitionWrite s = .next t ∧ t.part p = new ∧
        (∀ q, q ≠ p → t.part q = s.part q) ∧ { t with parts := [], dies := [] } = { s with parts := [], dies := [] } ∧
        ∀ i, { t.die i with deferred := [] } = { s.die i with deferred := [] } ∧
          ((t.die i).deferred = (s.die i).deferred ∨
            (t.die i).deferred = (s.die i).deferred.filter fun e => e.interval || (s.ctx (s.queue e.queue).ctx.toNat).part != p)
      let breaks (valid : Bool) (clusters : BitVec 48) (hcore : Nat) : Prop :=
        (∃ q, q < 8 ∧ q ≠ p ∧ (s.part q).clusters &&& clusters ≠ 0) ∨
        (o.clusters ≠ clusters ∧ ∃ m, m < 192 ∧ o.clusters.getLsbD (m / 4) = true ∧ (s.core m).slice.isSome = true) ∨
        (valid = true ∧ clusters.getLsbD (hcore / 4) = false)
      (s.ev.off = 0 → ¬ breaks (v.getLsbD 63) (v.extractLsb' 0 48) o.hcore.toNat →
        onlyPart { o with valid := v.getLsbD 63, clusters := v.extractLsb' 0 48, err := o.err && !v.getLsbD 62 }) ∧
      (s.ev.off = 0 → breaks (v.getLsbD 63) (v.extractLsb' 0 48) o.hcore.toNat → onlyPart { o with err := true }) ∧
      (s.ev.off = 8 → ¬ breaks o.valid o.clusters (v.toNat % 256) → onlyPart { o with hcore := v.extractLsb' 0 8 }) ∧
      (s.ev.off = 8 → breaks o.valid o.clusters (v.toNat % 256) → onlyPart { o with err := true }) ∧
      (s.ev.off = 16 → onlyPart { o with mbox := v.extractLsb' 0 56 }) ∧
      (let fixed (i : Nat) : Prop := (s.die i).modeBusy = true ∨ (s.die i).split = true
       (s.ev.off = 0x20 → (fixed 0 → onlyPart o) ∧ (¬ fixed 0 → onlyPart { o with smap0 := v.extractLsb' 0 32 })) ∧
        (s.ev.off = 0x28 → (fixed 1 → onlyPart o) ∧ (¬ fixed 1 → onlyPart { o with smap1 := v.extractLsb' 0 32 })))) ∧
    (let o := s.die d
      let changes := o.modeBusy = false ∧ v.getLsbD 0 ≠ o.split
      let barred := v.getLsbD 0 = true ∧ ∃ q, q < 8 ∧ (s.part q).valid = true ∧ (s.part q).smap d = 0
      let become (new : Die) : Prop := ∃ t, Machine.exec .l2ModeWrite s = .next t ∧ t.die d = new ∧
        (∀ e, e ≠ d → t.die e = s.die e) ∧ { t with dies := [] } = { s with dies := [] }
      (¬ changes → become { o with modeErr := o.modeErr && !v.getLsbD 2 }) ∧ (changes → barred → become { o with modeErr := true }) ∧
      (changes → ¬ barred → become { o with modeErr := o.modeErr && !v.getLsbD 2, modeBusy := true, modeNew := v.getLsbD 0 }) ∧
      (o.modeBusy = true → (∀ m, m < 96 → (s.core (96 * d + m)).slice = none) → ∃ t, Machine.exec .l2ModeSwitch s = .next t ∧
        { t.die d with deferred := [] } = { o with l2 := [], l2ue := [], split := o.modeNew, modeBusy := false, deferred := [] } ∧
        t.cores = s.cores ∧
        (∀ key w mask i, tblFind o.l2 key = some (w, mask) → i < 128 → mask.getLsbD i = true →
          (∀ k w' m, k ≠ key → k % 2 ^ 48 = key % 2 ^ 48 → tblFind o.l2 k = some (w', m) → m.getLsbD i = false) →
            memRead t.mem (key % 2 ^ 48 * 128 + i) = BitVec.ofNat 8 (w.toNat / 2 ^ (8 * i))) ∧
        ∀ a, (∀ key w mask, key % 2 ^ 48 = a / 128 → tblFind o.l2 key = some (w, mask) → mask.getLsbD (a % 128) = false) →
          memRead t.mem a = memRead s.mem a)) ∧
    (∀ a, x < 64 → v.getLsbD 63 = true → c.live = false → s.pack.shutdown = false → s.pack.linkFault = false →
      a = v.toNat / 64 % 2 ^ 50 * 64 → a + 64 ≤ devTop → s.homeBad none (a / 128) = false →
        let w (i : Nat) : Nat := s.homeRead none (a + 8 * i) 8
        ∃ t, Machine.exec .contextInstall s = .next t ∧ (t.ctx x).live = true ∧ (t.ctx x).mode = .run ∧ (t.ctx x).record = a ∧
          (t.ctx x).part = w 0 % 8 ∧ (t.ctx x).cring = w 2 % 2 ^ 56 ∧ (t.ctx x).dn = w 5 % 2 ^ 16 ∧ (t.ctx x).root = w 6 / 2 ^ 32 % 2 ^ 28 ∧
          (t.ctx x).stops = w 6 % 2 ^ 32 ∧ (t.ctx x).ue = (w 6).testBit 63 ∧ (t.ctx x).hatom = (w 7).testBit 63 ∧
          (∀ y, y ≠ x → t.ctx y = s.ctx y) ∧ Drops x (fun _ => True) (fun m => { m with windows := [] }) id s t ∧
          (∀ m u, u ∈ (t.core m).windows ↔ u ∈ (s.core m).windows ∧ u.ctx ≠ x) ∧ offAgents t = offAgents s) ∧
    (v.getLsbD 0 = true → c.live = true → c.mode = .run → c.halt = none → ∃ t, Machine.exec .hostStop s = .next t ∧
      t.ctx x = { c with halt := some s.time, haltAt := tblMap s.clusters Cluster.cycles, cause := some (.host, { code := .hostStop }) } ∧
      (∀ y, y ≠ x → t.ctx y = s.ctx y) ∧ { t with ctxs := [] } = { s with ctxs := [] }) ∧
    (∃ t, Machine.exec .seedWrite s = .next t ∧ (t.die d).seed = (if v = 0 then 1 else v) ∧ { t with dies := [] } = { s with dies := [] }) ∧
    (∃ t, Machine.exec .bgrantWrite s = .next t ∧ (t.ctx x).bgrant = c.bgrant + v.extractLsb' 0 32 ∧
      ∀ n u, s.slice n = some u → ∃ w, t.slice n = some w ∧
        ((u.ctx = x ∧ u.handler = false ∧ ∃ m ∈ u.cores, ∃ k tr, (s.stream m k).trap = some tr ∧ tr.code = .budgetExhausted) →
          w = { u with budget := BitVec.ofNat 32 (min (u.budget.toNat + v.toNat % 2 ^ 32) (2 ^ 32 - 1)), ext := true }) ∧
        (u.ctx ≠ x ∨ u.handler = true ∨ (∀ m ∈ u.cores, ∀ k, (s.stream m k).trap = none) → w = u)) ∧
    (∃ t, Machine.exec .stopatWrite s = .next t ∧ t.ctx x = { c with
      stopatEn := v.getLsbD 63, stopatK := v.extractLsb' 60 2, stopatCore := v.extractLsb' 52 8, stopatRc := v.extractLsb' 0 52 }) ∧
    (let m := c.stopatCore.toNat
      let k := StreamId.ofNum c.stopatK.toNat
      ∀ u, s.sliceOf m = some u → u.ctx = x → u.handler = false → c.stopatEn = true → c.stopatRc.toNat ≤ (s.stream m k).rc.toNat →
        (s.stream m k).issued = false → s.canRun m k = true → c.halt = none → ∃ t, Machine.exec .hostStopAt s = .next t ∧
          t.ctx x = { c with
            stopatEn := false, halt := some s.time, haltAt := tblMap s.clusters Cluster.cycles, cause := some (.stream m k, { code := .hostStop }) } ∧
          t.stream m k = { s.stream m k with held := true } ∧ t.canRun m k = false ∧
          (∀ n j, n ≠ m ∨ j ≠ k → t.stream n j = s.stream n j) ∧ { t with cores := [], ctxs := [] } = { s with cores := [], ctxs := [] }) ∧
    (c.scopeBusy = none →
      let n := v.toNat % 32
      let a := v.toNat / 64 % 2 ^ 50 * 64
      (n ∈ ([0, 1, 30, 31] : List Nat) → ∃ t, Machine.exec .scopeCommand s = .next t ∧ t.ctx x = { c with scopeResult := 0x300 }) ∧
      (n ∉ ([0, 1, 30, 31] : List Nat) → a < devTop →
        let img := s.homeRead none a 64
        let e := tblGet {} c.scopes n
        ∃ t, Machine.exec .scopeCommand s = .next t ∧
          (s.homeBad none (a / 128) = true ∨ badImage img = true → (t.ctx x).scopeResult = BitVec.ofNat 16 (256 + e.gen.toNat) ∧ (t.ctx x).scopes = c.scopes) ∧
          (s.homeBad none (a / 128) = false → badImage img = false → s.foreignImage c.part img = true →
            (t.ctx x).scopeResult = BitVec.ofNat 16 (512 + e.gen.toNat) ∧ (t.ctx x).scopes = c.scopes) ∧
          (s.homeBad none (a / 128) = false → badImage img = false → s.foreignImage c.part img = false → s.scopeHeld x n e.gen.toNat = true →
            (t.ctx x).scopeBusy.isSome = true ∧ (t.ctx x).scopes = c.scopes) ∧
          (s.homeBad none (a / 128) = false → badImage img = false → s.foreignImage c.part img = false → s.scopeHeld x n e.gen.toNat = false →
            (t.ctx x).scopeBusy = none ∧ (t.ctx x).scopeResult = (e.gen + 1).setWidth 16 ∧
              (tblGet {} (t.ctx x).scopes n).gen = e.gen + 1 ∧ (tblGet {} (t.ctx x).scopes n).valid = img.testBit 288 ∧
              ∀ u, u ≠ n → tblGet {} (t.ctx x).scopes u = tblGet {} c.scopes u))) ∧
    (s.ev.flag = true → p < 8 → ∃ t, Machine.exec .registerWrite s = .next t ∧
      (let o := s.part p
        let n := s.ev.n
        ({ t.part p with masked := [], pending := [] } : Part) = { o with masked := [], pending := [] } ∧ (∀ q, q ≠ p → t.part q = s.part q) ∧
        (v.getLsbD 0 = true → n ∈ (t.part p).masked ∧ (t.part p).pending = o.pending ∧ t.fabric = s.fabric) ∧
        (v.getLsbD 0 = false → (t.part p).masked = o.masked.erase n ∧ (t.part p).pending = o.pending.erase n ∧
          if n ∈ o.pending then Sent false (.msix (p + 1) n) s t else t.fabric = s.fabric)) ∧
      { t with parts := [], fabric := {} } = { s with parts := [], fabric := {} }) ∧
    (s.ev.flag = false → s.ev.flag2 = true → (∃ i, i < 10 ∧ v.toNat = 2 ^ i) → ∃ t, Machine.exec .registerWrite s = .next t ∧
      t.fabric = { s.fabric with bars := tblSet s.fabric.bars p v.toNat } ∧ { t with fabric := {} } = { s with fabric := {} }) ∧
    (s.ev.flag = false → s.ev.flag2 = false →
    (∀ j, j < 1024 → s.ev.off = 0x3820000 + 8 * j → ∃ t, Machine.exec .registerWrite s = .next t ∧
      (∀ u, tblGet (false, false, 0, 0) t.fabric.outbound u = if u = j then
        (v.getLsbD 63, v.getLsbD 62, v.extractLsb' 54 8, v.extractLsb' 27 27) else tblGet (false, false, 0, 0) s.fabric.outbound u) ∧
      { t with fabric := {} } = { s with fabric := {} }) ∧
    (∀ q r, q < 8 → r < 4 → (s.ev.off = 0x3810000 + 64 * q + 16 * r ∨ s.ev.off = 0x3810000 + 64 * q + 16 * r + 8) →
      ∃ t, Machine.exec .registerWrite s = .next t ∧ (∀ y, y ≠ q → t.part y = s.part y) ∧
        let old := tblGet ((0 : BitVec 52), (0 : BitVec 52), false, false, false) (s.part q).raw r
        tblGet (0, 0, false, false, false) (t.part q).raw r = (if s.ev.off % 16 = 0 then (v.extractLsb' 12 52, old.2)
          else (old.1, v.extractLsb' 12 52, v.getLsbD 2, v.getLsbD 1, v.getLsbD 0))) ∧
    (s.ev.off = 0x3800000 → ∃ t, Machine.exec .registerWrite s = .next t ∧
      t.fabric = { s.fabric with modNo := v.extractLsb' 60 4, ctmo := v.extractLsb' 58 2 } ∧ { t with fabric := {} } = { s with fabric := {} }) ∧
    (0x60000 ≤ s.ev.off → s.ev.off < 0x3000000 → Machine.exec .registerWrite s = .next s))

/-- O46. A context reset leaves the context DEAD and not live, its scope table invalid at generation 0, its queues
disabled and empty; if it was live, its slices are unbound and no engine holds a command of it; the life and the mode
of the other contexts stay, as do their queues. A partition reset does so to every installed context of the partition
and to no other, unbinds the cores of its clusters, clears their pools and drops their cache lines, and empties its L2 slices; its definition
stays. A Function Level Reset of functions 0 to 7 is a partition reset; one of a higher function, a hot reset and a
cold boot are module resets: cores, contexts, partitions, queues, slices and dies take their reset values, as does the
fabric control register, the image in flash stays, the controller boots or enters recovery, and a stack whose results stand in flash and restore well
reads RESTORED, and any other FULL; after a cold boot all read FULL. (R363, R374, R376, R377.) -/
def Obligations.ResetsClearWhatTheyName : Prop :=
  ∀ s : State,
    let x := s.ev.ctx
    let p := s.ev.part
    let gone (y : Nat) (t : State) : Prop := (t.ctx y).live = false ∧ (t.ctx y).mode = .dead ∧ (t.ctx y).scopes = [] ∧
      (t.ctx y).halt = none ∧ ∀ q, (s.queue q).ctx.toNat = y → (t.queue q).en = false ∧ (t.queue q).entries = [] ∧ (t.queue q).head = none
    let unheld (y : Nat) (t : State) : Prop := (∀ n v, t.slice n = some v → v.ctx ≠ y) ∧
      (∀ n v, s.slice n = some v → v.ctx = y → ∀ c ∈ v.cores, (t.core c).slice = none ∧ (t.core c).ways = []) ∧
      ∀ d e, (∀ c ∈ (t.engine d e).fifo, c.ctx ≠ y) ∧ (∀ k, (t.engine d e).commit = some k → k.cmd.ctx ≠ y) ∧
        ∀ u ∈ (t.engine d e).streams, u.ctx ≠ y
    (x < 64 → ∃ t, Machine.exec .resetContext s = .next t ∧ gone x t ∧ ((s.ctx x).live = true → unheld x t) ∧
      (∀ y, y ≠ x → (t.ctx y).live = (s.ctx y).live ∧ (t.ctx y).mode = (s.ctx y).mode) ∧
      ∀ q, (s.queue q).ctx.toNat ≠ x → t.queue q = s.queue q) ∧
    (64 ≤ x → Machine.exec .resetContext s = .next s) ∧
    (∀ i ∈ [Instr.resetPartition, Instr.functionLevelReset], p < 8 → ∃ t, Machine.exec i s = .next t ∧
      (∀ y, y < 64 → (s.ctx y).live = true → (s.ctx y).part = p → gone y t ∧ unheld y t) ∧
      (∀ c, (s.part p).clusters.getLsbD (c / 4) = true → (t.core c).slice = none ∧ (t.core c).pool = [] ∧ (t.core c).ways = [] ∧
        (t.core c).roles = [] ∧ ∀ k, (t.stream c k).mode = .idle) ∧
      (∀ d, ∀ e ∈ (t.die d).l2, e.1 / 2 ^ 48 ≠ p) ∧
      (∀ y, y < 64 → ¬ ((s.ctx y).live = true ∧ (s.ctx y).part = p) →
        (t.ctx y).live = (s.ctx y).live ∧ (t.ctx y).mode = (s.ctx y).mode ∧ ∀ q, (s.queue q).ctx.toNat = y → t.queue q = s.queue q) ∧
      ∀ q, (t.part q).valid = (s.part q).valid ∧ (t.part q).clusters = (s.part q).clusters ∧ (t.part q).hcore = (s.part q).hcore ∧
        (t.part q).mbox = (s.part q).mbox) ∧
    (8 ≤ p → Machine.exec .resetPartition s = .next s) ∧
    ∀ i ask bad saved,
      (i, ask, bad, saved) ∈ ([(.resetModule, s.ev.flag, s.ev.nums, s.control.saved), (.hotReset, false, s.ev.nums, s.control.saved),
        (.coldBoot, false, [], [])] : List (Instr × Bool × List Nat × List Nat)) ∨
        8 ≤ p ∧ (i, ask, bad, saved) = (Instr.functionLevelReset, false, s.ev.nums, s.control.saved) →
      ∃ t, Machine.exec i s = .next t ∧ t.cores = [] ∧ t.ctxs = [] ∧ t.parts = [] ∧ t.queues = [] ∧ t.slices = [] ∧ t.dies = [] ∧
        t.scanned = [] ∧ t.clusters = State.reset.clusters ∧ (∀ g, t.regulator g = {}) ∧
        t.fabric = { ({} : Fabric) with host := s.fabric.host, peer := s.fabric.peer } ∧ t.control.flash = s.control.flash ∧
        t.control.recovery = (ask || !Config.imageFormatOk (s.control.flash.getD Config.factoryImage)) ∧
        t.control.booted = !t.control.recovery ∧
        ∀ j, j < 8 → t.control.booted = true → (t.stack j).state = if saved.contains j && !bad.contains j then 2 else 1

/-- O47. In recovery a block of 4 KiB is taken after those before it; when the blocks form an image it is started; a
recovered image is written to flash only where the security configuration permits it. GET_VERSION answers version 1.3
and begins the connection anew. GET_CAPABILITIES before it, and the other requests before their negotiation, are
answered with ERROR, unexpected request. GET_DIGESTS answers the SHA-384 digest of the chain of slot 0;
GET_CERTIFICATE a portion of it, with what remains; another slot, or an offset past the chain, ERROR, invalid request.
The capabilities that it answers offer
certificates, the challenge and measurements with a signature. CHALLENGE is signed over the transcript, the request and the answer with the key that measurement 2 yields.
GET_MEASUREMENTS has the blocks asked for, each with its index, its type and its digest or raw value of R375's table, a nonce of 32 bytes and the
last 8 bytes of the request, and a signature where one is asked for. NEGOTIATE_ALGORITHMS selects
SHA-384 and the ExtAsym entry of the curve where they are offered. Any other request is answered with ERROR,
unsupported request. The layouts of the messages, the places of the capability flags and the codes 1, 4 and 7 of ERROR are
those of DSP0274 1.3: log entry 44. Nothing but the controller's own state and the free-value counter changes, but that an image which starts trains or restores the stacks. (R363, R374, R375.) -/
def Obligations.ControllerRecoversAndAttests : Prop :=
  ∀ s : State,
    let c := s.control
    let own (i : Instr) (P : Control → Prop) : Prop :=
      ∃ t, Machine.exec i s = .next t ∧ P t.control ∧ { t with control := {}, free := 0, pack := {} } = { s with control := {}, free := 0, pack := {} } ∧
        (i = .recoveryBlock ∨ t.pack = s.pack)
    let answers (i : Instr) (m : List Byte) : Prop := own i fun d => d.answer = m ∧ d.transcript = c.transcript ++ s.ev.bytes ++ m
    let refuses (i : Instr) (code data : Byte) : Prop := own i fun d => d = { c with answer := [0x13, 0x7F, code, data] }
    let sign (m : List Byte) : List Byte :=
      bytesOf (Config.aliasSign (sha384 ((c.image).getD (c.flash.getD Config.factoryImage))) (sha384 m)).toNat 96
    let chain := Config.certificateChain
    let word (n : Nat) : List Byte := [BitVec.ofNat 8 n, BitVec.ofNat 8 (n / 256)]
    (c.recovery = true → s.ev.bytes.length = 4096 → own .recoveryBlock fun d =>
      d.blocks = c.blocks ++ [s.ev.bytes] ∧ d.flash = c.flash ∧
        d.image = (if Config.imageFormatOk (c.blocks ++ [s.ev.bytes]).flatten then some (c.blocks ++ [s.ev.bytes]).flatten else c.image) ∧
        d.recovery = !Config.imageFormatOk (c.blocks ++ [s.ev.bytes]).flatten) ∧
    (c.recovery = true → s.ev.bytes.length = 4096 → ∃ t, Machine.exec .recoveryBlock s = .next t ∧
      { t.pack with hbm := [] } = { s.pack with hbm := [] } ∧
      if Config.imageFormatOk (c.blocks ++ [s.ev.bytes]).flatten then
        ∀ j, j < 8 → t.stack j = { s.stack j with
          state := if c.saved.contains j && !s.ev.nums.contains j then 2 else 1, failed := false, ppr := 0 }
      else t.pack = s.pack) ∧
    (c.recovery = false ∨ s.ev.bytes.length ≠ 4096 → Machine.exec .recoveryBlock s = .next s) ∧
    own .recoveryCommit (fun d => d = { c with
      flash := if c.image.isSome && Config.securityConfig.getLsbD 2 then c.image else c.flash }) ∧
    own .getVersion (fun d => d = { c with
      version := true, caps := false, algs := false, measureLog := [], answer := [0x10, 0x04, 0, 0, 0, 1, 0, 0x13]
      transcript := s.ev.bytes ++ [0x10, 0x04, 0, 0, 0, 1, 0, 0x13] }) ∧
    (c.version = false → refuses .getCapabilities 4 0) ∧
    (c.version = true → own .getCapabilities fun d => d.caps = true ∧ ∃ rest, rest.length = 16 ∧ d.answer = [0x13, 0x61, 0, 0] ++ rest ∧
      ofBytes ((rest.drop 4).take 4) &&& 0x16 = 0x16) ∧
    (c.caps = false → refuses .negotiateAlgorithms 4 0) ∧
    (c.caps = true → own .negotiateAlgorithms fun d =>
      d.algs = (((s.ev.nums.getD 1 0).testBit 1) && (s.ev.nums.drop 2).contains curveEntry) ∧ d.answer.take 4 = [0x13, 0x63, 0, 0]) ∧
    (c.algs = false → ∀ i ∈ [Instr.getDigests, .getCertificate, .challenge, .getMeasurements], refuses i 4 0) ∧
    (c.algs = true → answers .getDigests ([0x13, 0x01, 1, 1] ++ sha384 chain)) ∧
    (c.algs = true → if s.ev.n = 0 ∧ s.ev.off < chain.length then
        let part := (chain.drop s.ev.off).take s.ev.len
        answers .getCertificate ([0x13, 0x02, 0, 0] ++ word part.length ++ word (chain.length - s.ev.off - part.length) ++ part)
      else refuses .getCertificate 1 0) ∧
    (c.algs = true → s.ev.n ≠ 0 → refuses .challenge 1 0) ∧
    (c.algs = true → s.ev.n = 0 → ∃ body, answers .challenge (body ++ sign (c.transcript ++ s.ev.bytes ++ body)) ∧
      body.take 52 = [0x13, 0x03, 0, 1] ++ sha384 chain) ∧
    (c.algs = true → 4 < s.ev.n → s.ev.n ≠ 255 → refuses .getMeasurements 1 0) ∧
    (c.algs = true → s.ev.n ≤ 4 ∨ s.ev.n = 255 → ∃ body, own .getMeasurements (fun d =>
        d.answer = body ++ (if s.ev.flag then sign (c.transcript ++ c.measureLog ++ s.ev.bytes ++ body) else []) ∧
        d.transcript = c.transcript ∧ d.measureLog = if s.ev.flag then [] else c.measureLog ++ s.ev.bytes ++ body) ∧
      let image := c.image.getD (c.flash.getD Config.factoryImage)
      let source : Nat := if c.image.isSome = true then 1 else 0
      let raw (w : Nat) : List Byte := if s.ev.flag2 then bytesOf w 8 else sha384 (bytesOf w 8)
      let value (i : Nat) : List Byte :=
        ([bytesOf Config.romDigest.toNat 48, sha384 image, raw Config.securityConfig.toNat, raw source] : List (List Byte)).getD (i - 1) []
      let type (i : Nat) : Byte := ([0x00, 0x01, if s.ev.flag2 then 0x83 else 0x03, if s.ev.flag2 then 0x89 else 0x09] : List Byte).getD (i - 1) 0
      let block (i : Nat) : List Byte := [BitVec.ofNat 8 i, 1] ++ word ((value i).length + 3) ++ [type i] ++ word (value i).length ++ value i
      let asked : List Nat := if s.ev.n = 255 then [1, 2, 3, 4] else if s.ev.n = 0 then [] else [s.ev.n]
      let blocks := asked.flatMap block
      ∃ nonce, nonce.length = 32 ∧ body = [0x13, 0x60, (if s.ev.n = 0 then 4 else 0), 0, BitVec.ofNat 8 asked.length] ++
        word blocks.length ++ [0] ++ blocks ++ nonce ++ [0, 0] ++ s.ev.bytes.drop (s.ev.bytes.length - 8)) ∧
    refuses .spdmUnsupported 7 (BitVec.ofNat 8 s.ev.n)

/-- O48. A flit retried counts; at the 16th failure the link fails, every live context is DEAD and LINK_FAULT is recorded.
An idle stack begins a retrain in state 3, or a lane repair where a spare is left; at the end of the pause the count
rises, a lane repair takes a spare, a failed retrain leaves state 4; each records its event. A sentinel takes its
margins; a margin newly below its threshold is recorded where ien is set. A row's activation counts in its bank's
tracker of 8 as R367 says, and at the threshold its neighbours are refreshed; a refresh window clears every count. The
fourth corrected error of a location in 60 s, or an uncorrectable one, makes it lasting: an HBM row is queued for
repair, a pool row is retired to a spare, or its core fails; an uncorrectable line of L2 makes its line, or in SHARED
mode its row, uncorrectable, and counts nowhere (log entry 44). An event is four words in the next slot of the event
ring, whose tail rises, and nothing else in memory; one that cannot be appended is counted, and one that meets another
append on its way waits there. (R213, R362, R364, R365, R366,
R367, R371, R372, R373.) -/
def Obligations.StacksLinkAndErrorsAreMaintained : Prop :=
  ∀ s : State,
    let n := s.ev.n
    let k := s.stack n
    let P := s.pack
    let becomes (i : Instr) (new : Stack) : Prop := ∃ t, Machine.exec i s = .next t ∧ t.stack n = new ∧
      (∀ u, u ≠ n → t.stack u = s.stack u) ∧ { t with pack := { t.pack with hbm := [] } } = { s with pack := { P with hbm := [] } }
    (n < 16 → ∃ t, Machine.exec .miosorFlitRetry s = .next t ∧ t = { s with pack := { P with linkRetries := satInc P.linkRetries } }) ∧
    (16 ≤ n → ∃ t u, Machine.exec .miosorFlitRetry s = .next t ∧ t.pack.linkFault = true ∧ AllDead s t ∧
      Killed { P with linkFault := true } s.cluster s u ∧ Event 12 0 0 0 (P.linkRetries.toNat + 2 ^ 63) 0 u t) ∧
    (k.busy = true → becomes .retrain k ∧ becomes .laneRepair k) ∧
    (k.busy = false → becomes .retrain { k with busy := true, act := 1, state := 3 } ∧
      becomes .laneRepair (if k.spare = 0 then { k with busy := true, act := 1, state := 3 } else { k with busy := true, act := 2 })) ∧
    (k.busy = false → Machine.exec .stackPauseEnd s = .next s) ∧
    (k.busy = true →
      let up : Stack := { k with busy := false, retrains := satInc k.retrains }
      let done (new : Stack) (type : Nat) : Prop := ∃ t u, Machine.exec .stackPauseEnd s = .next t ∧ u.stack n = new ∧
        (∀ j, j ≠ n → u.stack j = s.stack j) ∧ { u with pack := { u.pack with hbm := [] } } = { s with pack := { P with hbm := [] } } ∧
        Event type n 0 0 (new.retrains.toNat + new.ppr.toNat * 2 ^ 32 + new.spare.toNat * 2 ^ 40 + new.state.toNat * 2 ^ 60) 0 u t
      (k.act = 2 → done { up with spare := k.spare - 1 } 8) ∧
        (k.act ≠ 2 → s.ev.flag = true → done { up with state := if k.failed then 4 else 1 } 9) ∧
        (k.act ≠ 2 → s.ev.flag = false → done { up with state := 4, failed := true } 10)) ∧
    (let j := n / 4
      let m := (s.stack j).sentinel (n % 4)
      let vm := BitVec.ofNat 8 (s.ev.nums.getD 0 0)
      let tm := BitVec.ofNat 8 (s.ev.nums.getD 1 0)
      let low := vm < m.vthr ∨ tm < m.tthr
      ∃ t u, Machine.exec .sentinelUpdate s = .next t ∧ (u.stack j).sentinel (n % 4) = { m with
          vmarg := vm, tmarg := tm, below := m.below || decide low } ∧
        (∀ i, i ≠ j → u.stack i = s.stack i) ∧ (∀ i, i ≠ n % 4 → (u.stack j).sentinel i = (s.stack j).sentinel i) ∧
        (low ∧ m.below = false ∧ m.ien = true →
          Event 7 j 0 0 (tm.toNat + vm.toNat * 2 ^ 8 + m.tthr.toNat * 2 ^ 40 + m.vthr.toNat * 2 ^ 48 + 2 ^ 62 + 2 ^ 63) 0 u t) ∧ (¬ (low ∧ m.below = false ∧ m.ien = true) → t = u)) ∧
    (let a := s.ev.row
      let T := tblGet [] P.trackers n
      let cnt := tblGet 0 T a
      let new := if cnt ≠ 0 then cnt + 1 else if T.length < 8 then 1 else 0
      let hit := P.distThr.toNat ≤ new ∧ new ≠ 0
      (T.map Prod.fst).Nodup → (∀ e ∈ T, e.2 ≠ 0) → T.length ≤ 8 →
        ∃ t l, Machine.exec .rowActivation s = .next t ∧ { t with pack := {} } = { s with pack := {} } ∧
          (∀ b, tblGet 0 (tblGet [] t.pack.trackers n) b = if b = a then (if hit then 0 else new)
            else tblGet 0 T b - (if cnt = 0 ∧ T.length = 8 then 1 else 0)) ∧
          (∀ q, q ≠ n → tblGet [] t.pack.trackers q = tblGet [] P.trackers q) ∧ (tblGet [] t.pack.trackers n).length ≤ 8 ∧
          t.pack.refreshed = l ++ P.refreshed ∧ ∀ e, e ∈ l ↔ hit ∧ e.1 = n ∧
            (e.2 + 1 = a ∨ e.2 = a + 1 ∨ P.distRadius = 2 ∧ (e.2 + 2 = a ∨ e.2 = a + 2))) ∧
    (∃ t, Machine.exec .refreshWindowStart s = .next t ∧ ∀ q, tblGet [] t.pack.trackers q = []) ∧
    (let l := s.ev.loc
      let old := (P.ecc.find? fun r => r.loc == l).getD { loc := l, times := [], lasting := false }
      let times := if s.ev.flag then old.times else old.times ++ [s.time]
      let near := (times.filter fun z => decide (s.time ≤ z + 60000000000)).length
      let now := s.ev.flag = true ∨ 4 ≤ near
      (∀ d p row, l = .l2 d p row →
        (s.ev.flag = false → Machine.exec .ceLasting s = .next s) ∧
        (s.ev.flag = true → ∃ t, Machine.exec .ceLasting s = .next t ∧ { t with dies := [], ue := [] } = { s with dies := [], ue := [] } ∧
          (∀ e, { t.die e with l2ue := [] } = { s.die e with l2ue := [] }) ∧
          ((s.die (d % 2)).split = true → t.ue = s.ue ∧ l2Key p row ∈ (t.die (d % 2)).l2ue ∧ ∀ e, e ≠ d % 2 → t.die e = s.die e) ∧
          ((s.die (d % 2)).split = false → t.dies = s.dies ∧ row ∈ t.ue))) ∧
      ((∀ d p row, l ≠ .l2 d p row) → ∃ t u, Machine.exec .ceLasting s = .next t ∧ { u with pack := { u.pack with ecc := [] } } = { s with pack := { P with ecc := [] } } ∧
        (∀ r, r ∈ u.pack.ecc ↔ r ∈ P.ecc ∧ r.loc ≠ l ∨ r = { loc := l, times := times, lasting := old.lasting || decide now }) ∧
        t.pack.ecc = u.pack.ecc ∧ (s.ev.flag = false → ¬ now ∨ old.lasting = true → t = u) ∧
        (∀ core bank row, l = .pool core bank row →
          (s.ev.flag = false → now → old.lasting = false → Event 1 core bank row (bank * 2 ^ 16 + row * 128) near u t) ∧
          (s.ev.flag = true → bank * 512 + row ∈ (t.core core).poolUe)) ∧
        ∀ stack ch bank row, l = .hbm stack ch bank row →
          (s.ev.flag = false → now → old.lasting = false → s.ev.flag2 = false → ∃ w, Event 1 stack bank row s.ev.off near u w ∧
            Event 5 stack bank row s.ev.off near (w.setStack stack { s.stack stack with ppr := satInc (s.stack stack).ppr }) t) ∧
          (s.ev.flag = true → s.ev.off / 128 ∈ t.ue) ∧
          (s.ev.flag2 = true → t.stack stack = s.stack stack))) ∧
    (let core := s.ev.core
      let spent := tblGet 0 (s.core core).retired n
      let lasting := ∃ r ∈ P.ecc, r.loc = .pool core n s.ev.row ∧ r.lasting = true
      (¬ lasting → Machine.exec .poolRowRetire s = .next s) ∧
      (lasting → ∃ t u, Machine.exec .poolRowRetire s = .next t ∧ (∀ r ∈ t.pack.ecc, r.loc ≠ .pool core n s.ev.row) ∧
        { u with pack := { u.pack with ecc := [] }, cores := [] } = { s with pack := { P with ecc := [] }, cores := [] } ∧
        (∀ r, r ∈ u.pack.ecc ↔ r ∈ P.ecc ∧ r.loc ≠ .pool core n s.ev.row) ∧ (∀ m, m ≠ core → u.core m = s.core m) ∧
        (spent < 8 → tblGet 0 (t.core core).retired n = spent + 1 ∧ (t.core core).failed = (s.core core).failed ∧
          (∀ b, tblGet 0 (u.core core).retired b = if b = n then spent + 1 else tblGet 0 (s.core core).retired b) ∧
          { u.core core with retired := [] } = { s.core core with retired := [] } ∧
          Event 3 core n s.ev.row (n * 2 ^ 16 + s.ev.row * 128) (7 - spent) u t) ∧
        (8 ≤ spent → (t.core core).failed = true ∧ u.core core = { s.core core with failed := true } ∧
          Event 4 core n s.ev.row (n * 2 ^ 16 + s.ev.row * 128) 0 u t))) ∧
    ∀ type core bank row w1 w2 base z tail head t, Event type core bank row w1 w2 s t →
      let served := s.ringServes { use := .event, space := none, part := none, desc := P.evDesc.toNat, z := 2, words := [] }
      let lost := t.mem = s.mem ∧ t.pack = { P with evLost := if P.evLost = BitVec.allOnes 32 then P.evLost else P.evLost + 1 }
      (served = true → t.mem = s.mem ∧ t.pack = P ∧ t.fabric = s.fabric ∧ t.heldAppends.length = s.heldAppends.length + 1) ∧
      (served = false → s.ringDesc none none P.evDesc.toNat = none → lost) ∧
      (served = false → ∀ y, s.ringDesc none none P.evDesc.toNat = some (base, y, z, tail, head) →
        y ≠ 2 ∨ (2 : Int) ^ z ≤ (tail : Int) - head → lost) ∧
      (served = false → s.ringDesc none none P.evDesc.toNat = some (base, 2, z, tail, head) → tail - head < 2 ^ z →
        base + 32 * 2 ^ z ≤ devTop → (base + 32 * 2 ^ z ≤ P.evDesc.toNat ∨ P.evDesc.toNat + 64 ≤ base) →
          let slot := base + tail % 2 ^ z * 32
          t.pack = P ∧ t.heldAppends = s.heldAppends ∧ t.homeRead none (P.evDesc.toNat + 16) 8 = (tail + 1) % 2 ^ 64 ∧
          t.homeRead none (slot + 8) 8 = w1 % 2 ^ 64 ∧ t.homeRead none (slot + 16) 8 = w2 % 2 ^ 32 ∧
          t.homeRead none (slot + 24) 8 = s.time % 2 ^ 64 ∧ (type < 256 → t.homeRead none slot 1 = type) ∧
          ∀ a, (a < slot ∨ slot + 32 ≤ a) → (a < P.evDesc.toNat + 16 ∨ P.evDesc.toNat + 24 ≤ a) → memRead t.mem a = memRead s.mem a)

/-- O49. A set point out of range or below 340 + max(0, (fmhz - 600)/5) mV, or one written while a change is in progress,
sets err and changes nothing else. Another sets the limit, at most 2,400, and begins its change: at 10 mV per
microsecond, the frequency first where it falls and last where it rises, with the clocks of the domain's clusters
stopped for 1 microsecond at the frequency step. The end of the change leaves the set point in force. A cluster's
power register takes the budget for the next interval and the regulator; the switch waits until no slice is bound or
granted on the cluster and its current has returned, stops its clock for 2 microseconds, and is pending until they have
passed. Measured currents, module
power, temperature and hours to end of life are taken; a cluster is warm from 95 °C and throttled from 105 °C until
below 100 °C; at 115 °C every live context is DEAD and the module shuts down; THERMAL is recorded as 95 °C or 115 °C
is reached. (That one frequency step makes a change, and that tstate returns to 0, is the model's reading: log entry
14; and so is the cluster's lowest core in THERMAL's core field: log entry 48.) (R368, R369, R370, R371.) -/
def Obligations.RegulatorsClustersAndTemperature : Prop :=
  ∀ s : State,
    let g := s.ev.n
    let r := s.regulator g
    let v := s.ev.v
    let P := s.pack
    let i := s.ev.cluster
    let c := s.cluster i
    let mv := v.toNat / 2 ^ 36 % 2 ^ 10
    let f := v.toNat / 2 ^ 25 % 2 ^ 11
    let good := 340 ≤ mv ∧ mv ≤ 520 ∧ 300 ≤ f ∧ f ≤ 1000 ∧ f % 25 = 0 ∧ 340 + (f - 600) / 5 ≤ mv
    let becomes (j : Instr) (new : Regulator) (Q : State → Prop) : Prop := ∃ t, Machine.exec j s = .next t ∧ t.regulator g = new ∧
      (∀ u, u ≠ g → t.regulator u = s.regulator u) ∧ PackOnly s t ∧ { t.pack with regs := [] } = { P with regs := [] } ∧ Q t
    let still (t : State) : Prop := t.clusters = s.clusters
    (r.busy = true ∨ ¬ good → becomes .regulatorWrite { r with err := true } still) ∧
    (r.busy = false → good →
      let taken : Regulator := { r with err := r.err && !v.getLsbD 62, ilim := BitVec.ofNat 12 (min (v.toNat / 2 ^ 46 % 2 ^ 12) 2400) }
      let change : Regulator := { taken with busy := true, change := some (BitVec.ofNat 10 mv, BitVec.ofNat 11 f) }
      let span := 100 * (max mv r.mv.toNat - min mv r.mv.toNat)
      (mv = r.mv.toNat → f = r.fmhz.toNat → becomes .regulatorWrite taken still) ∧
      (f < r.fmhz.toNat →
        becomes .regulatorWrite { change with fmhz := BitVec.ofNat 11 f, doneAt := s.time + span + 1000 } (Stopped g 1000 s)) ∧
      (r.fmhz.toNat < f → mv = r.mv.toNat → becomes .regulatorWrite { change with doneAt := s.time + 1000 } (Stopped g 1000 s)) ∧
      (r.fmhz.toNat ≤ f → mv ≠ r.mv.toNat → becomes .regulatorWrite { change with doneAt := s.time + span } still)) ∧
    (r.change = none → Machine.exec .regulatorChangeDone s = .next s) ∧
    (∀ m q, r.change = some (m, q) →
      (s.time < r.doneAt → Machine.exec .regulatorChangeDone s = .next s) ∧
      (r.doneAt ≤ s.time → r.fmhz < q → r.mv ≠ m →
        becomes .regulatorChangeDone { r with mv := m, doneAt := s.time + 1000 } (Stopped g 1000 s)) ∧
      (r.doneAt ≤ s.time → q ≤ r.fmhz ∨ r.mv = m →
        becomes .regulatorChangeDone { r with busy := false, change := none, mv := m, fmhz := q } still)) ∧
    (∃ t, Machine.exec .clusterPowerWrite s = .next t ∧ { t with clusters := [] } = { s with clusters := [] } ∧
      (∀ u, u ≠ i → t.cluster u = s.cluster u) ∧ t.cluster i = { c with
        budgetNew := v.extractLsb' 0 32, switchTo := if v.toNat / 2 ^ 32 % 4 = c.reg then none else some (v.toNat / 2 ^ 32 % 4)
        switching := c.switching && decide (v.toNat / 2 ^ 32 % 4 ≠ c.reg) }) ∧
    (let free := (∀ m, m < 4 → (s.core (4 * i + m)).slice = none ∧ (s.core (4 * i + m)).grant = none) ∧ c.currentUntil ≤ s.time;
      let after (new : Cluster) : Prop := ∃ t, Machine.exec .regulatorSwitch s = .next t ∧ (∀ u, u ≠ i → t.cluster u = s.cluster u) ∧
        { t with clusters := [] } = { s with clusters := [] } ∧ t.cluster i = new
      (c.switchTo = none ∨ c.switching = false ∧ ¬ free ∨ c.switching = true ∧ s.time < c.clockStop →
        Machine.exec .regulatorSwitch s = .next s) ∧
      ∀ q, c.switchTo = some q →
        (c.switching = false → free → after { c with switching := true, clockStop := max c.clockStop (s.time + 2000) }) ∧
        (c.switching = true → c.clockStop ≤ s.time → after { c with reg := q, switchTo := none, switching := false })) ∧
    (g < 4 → becomes .measurementUpdate { r with imeas := BitVec.ofNat 12 (s.ev.nums.getD 0 0) } still) ∧
    (4 ≤ g → ∃ t, Machine.exec .measurementUpdate s = .next t ∧ t = { s with pack := { P with mpow := BitVec.ofNat 16 (s.ev.nums.getD 0 0) } }) ∧
    (let z := s.ev.temp
      let new : Cluster := { c with
        temp := BitVec.ofInt 16 z, tstate := if 840 ≤ z ∨ c.tstate = 2 ∧ 800 ≤ z then 2 else if 760 ≤ z then 1 else 0 }
      let word (d : Cluster) : Nat := d.temp.toNat + d.tstate * 2 ^ 16 + d.eol.toNat * 2 ^ 32
      let reached := c.temp.toInt < 760 ∧ 760 ≤ z;
      (z < 920 → ∃ t u, Machine.exec .thermal s = .next t ∧ u.cluster i = new ∧ (∀ j, j ≠ i → u.cluster j = s.cluster j) ∧
        { u with clusters := [] } = { s with clusters := [] } ∧ (¬ reached → t = u) ∧ (reached → Event 11 (4 * i) 0 0 (word new) 0 u t)) ∧
      (920 ≤ z → ∃ t u, Machine.exec .thermal s = .next t ∧ t.pack.shutdown = true ∧ AllDead s t ∧ (t.cluster i).temp = new.temp ∧
        (t.cluster i).tstate = 2 ∧ Killed { P with shutdown := true } (fun j => if j = i then new else s.cluster j) s u ∧
        (c.temp.toInt < 920 → Event 11 (4 * i) 0 0 (word new) 0 u t) ∧ (920 ≤ c.temp.toInt → t = u))) ∧
    ∃ t, Machine.exec .eolUpdate s = .next t ∧ { t with clusters := [] } = { s with clusters := [] } ∧
      (∀ u, u ≠ i → t.cluster u = s.cluster u) ∧ t.cluster i = { c with eol := BitVec.ofNat 32 s.ev.n }

/-- O50. An incoming posted write inside the window that its function's BAR 2 maps, cut to the size of the BAR, replaces
exactly its bytes at their homes; one that passes the window changes nothing (the size of a BAR that nothing has set, 512 GiB: log entry 44). A read inside it completes with the bytes
of the homes, one that passes it with Unsupported Request; a read or an AtomicOp that meets an uncorrectable row
completes poisoned (log entry 41). A FetchAdd or Swap of 4 or 8 aligned bytes, and a CAS of 4, 8 or 16, completes
with the old value and leaves the new one, and no other byte changes; any other, and one to a BAR 0, completes with
Unsupported Request and changes nothing else. Eight aligned bytes of BAR 0 of the physical function are a register of
the control window; of a virtual function, an event word, of which a write of 1 clears a bit. A PTM dialogue, 1 ms after the last and not before, first
sets device time (where that goes back, the control intervals count from it: log entry 46), then slews it, and puts it in step after three near offsets, out of step past 1,000 ns or after ten
failures. A port reports its generation and width, or 0 where it is down. (R263, R327, R379, R380, R384, R385, R390,
R392, R393.) -/
def Obligations.IncomingRequestsReachTheirHomes : Prop :=
  ∀ s : State,
    let fn := s.ev.part
    let off := s.ev.off
    let b := s.ev.bytes
    let F := s.fabric
    let base := (s.part fn).wbase.toNat * 2 ^ 30
    let p : Option Nat := if fn < 8 then some fn else none
    let pa := (if fn < 8 then base else 0) + off
    let inside (n : Nat) : Prop := pa + n ≤ devTop ∧ off + n ≤ tblGet 512 F.bars fn * 2 ^ 30 ∧
      (fn < 8 → (s.part fn).winEn = true ∧ off + n ≤ (s.part fn).wsize.toNat * 2 ^ 30)
    let byte (t : State) (a : Nat) : Nat := t.homeRead p a 1
    let others (u : State) : State := offHome (offSpills u)
    let outside (n : Nat) (t : State) : Prop := ∀ a, (a < pa ∨ pa + n ≤ a) →
      ((fn < 8 → PrivateTo fn s (a / 128)) → byte t a = byte s a) ∧ (OffL2 s (a / 128) → memRead t.mem a = memRead s.mem a)
    let answered (i : Instr) (a : Reply) : Prop :=
      ∃ t, Machine.exec i s = .next t ∧ t = { s with fabric := { F with answer := some a } }
    (s.ev.flag = false →
      (inside b.length → ∃ t, Machine.exec .incomingPostedWrite s = .next t ∧ others t = others s ∧
        (Unspilled s → offHome t = offHome s) ∧ (∀ j, j < b.length → byte t (pa + j) = (b.getD j 0).toNat) ∧ outside b.length t) ∧
      (¬ inside b.length → Machine.exec .incomingPostedWrite s = .next s) ∧
      (inside s.ev.len → (∀ j, j < s.ev.len → s.homeBad p ((pa + j) / 128) = false) →
        ∃ l : List Byte, l.length = s.ev.len ∧ (∀ j, j < s.ev.len → (l.getD j 0).toNat = byte s (pa + j)) ∧
          answered .incomingRead (.data l)) ∧
      (∀ j, inside s.ev.len → j < s.ev.len → s.homeBad p ((pa + j) / 128) = true → answered .incomingRead .poisoned) ∧
      (¬ inside s.ev.len → answered .incomingRead .unsupported) ∧
      (let n := s.ev.len
        let op := s.ev.n
        let fits := (n = 4 ∨ n = 8 ∨ n = 16 ∧ op = 2) ∧ op ≤ 2 ∧ off % n = 0 ∧ inside n
        let old := s.homeRead p pa n
        let w := s.ev.operand.toNat % 2 ^ (8 * n)
        let new := if op = 0 then (old + w) % 2 ^ (8 * n) else if op = 1 then w
          else if old = s.ev.cmp.toNat % 2 ^ (8 * n) then w else old
        (fits → s.homeBad p (pa / 128) = false → ∃ t, Machine.exec .incomingAtomicOp s = .next t ∧
          t.fabric = { F with answer := some (.data (bytesOf old n)) } ∧ t.homeRead p pa n = new ∧
          others { t with fabric := {} } = others { s with fabric := {} } ∧ outside n t) ∧
        (fits → s.homeBad p (pa / 128) = true → answered .incomingAtomicOp .poisoned) ∧
        (¬ fits → answered .incomingAtomicOp .unsupported))) ∧
    (s.ev.flag = true → answered .incomingAtomicOp .unsupported ∧
      (fn = 8 → off % 8 = 0 → off + 8 ≤ 2 ^ 26 →
        (b.length = 8 → Machine.exec .incomingPostedWrite s = .next (s.hostWrite off (BitVec.ofNat 64 (ofBytes b)))) ∧
        (s.ev.len = 8 → answered .incomingRead (.data (bytesOf (s.hostRead off).toNat 8)))) ∧
      (∀ e, fn < 8 → e < 256 → off = 0x1000 + 8 * e →
        let word (u : State) (f : Nat) : W64 := tblGet 0 (u.part fn).events f
        (b.length = 8 → ∃ t, Machine.exec .incomingPostedWrite s = .next t ∧
          (∀ f, word t f = if f = e then word s e &&& ~~~ BitVec.ofNat 64 (ofBytes b) else word s f) ∧
          (∀ q, q ≠ fn → t.part q = s.part q) ∧ { t with parts := [] } = { s with parts := [] }) ∧
        (s.ev.len = 8 → answered .incomingRead (.data (bytesOf (word s e).toNat 8))))) ∧
    (F.sinceDialogue < 1000000 → Machine.exec .ptmDialogue s = .next s) ∧
    (1000000 ≤ F.sinceDialogue → s.ev.ptm = none → ∃ t, Machine.exec .ptmDialogue s = .next t ∧ t = { s with fabric := { F with
      sinceDialogue := 0, ptmBad := F.ptmBad + 1, ptmGood := 0, tsync := F.tsync && decide (F.ptmBad + 1 < 10) } }) ∧
    (∀ m, 1000000 ≤ F.sinceDialogue → s.ev.ptm = some m →
      let z : Int := (m - BitVec.ofNat 64 s.time).toInt
      let near := -100 ≤ z ∧ z ≤ 100
      let back := F.ptmSet = false ∧ (m.toNat + 9999) / 10000 < s.intervals
      ∃ t, Machine.exec .ptmDialogue s = .next t ∧ t.time = (if F.ptmSet then s.time else m.toNat) ∧ t.fabric.ptmSet = true ∧ t.fabric.sinceDialogue = 0 ∧
        (¬ back → t.intervals = s.intervals ∧ t.dies = s.dies) ∧
        (back → t.intervals = (m.toNat + 9999) / 10000 ∧
          ∀ d, tblFind t.dies d = (tblFind s.dies d).map fun v => { v with lastRound := none }) ∧
        t.fabric.slew = (if F.ptmSet then z else 0) ∧ t.fabric.ptmBad = 0 ∧ (near → t.fabric.ptmGood = F.ptmGood + 1) ∧
        (¬ near → t.fabric.ptmGood = 0) ∧ (1000 < z ∨ z < -1000 → t.fabric.tsync = false) ∧
        (near → 2 ≤ F.ptmGood → t.fabric.tsync = true) ∧ (-1000 ≤ z → z ≤ 1000 → F.tsync = true → t.fabric.tsync = true) ∧
        { t with fabric := {}, time := 0, intervals := 0, dies := [] } = { s with fabric := {}, time := 0, intervals := 0, dies := [] }) ∧
    let g := s.ev.nums.getD 0 0
    let w := s.ev.nums.getD 1 0
    let up := g ∈ [5, 6, 7] ∧ w ∈ [4, 8, 16]
    let gen : BitVec 4 := if up then BitVec.ofNat 4 g else 0
    let width : BitVec 5 := if up then BitVec.ofNat 5 w else 0
    ∃ t, Machine.exec .portLinkChange s = .next t ∧
      t = { s with fabric := if s.ev.n = 0 then { F with gen0 := gen, w0 := width } else { F with gen1 := gen, w1 := width } }

/-- O51. For a codec engine whose next command has its block at consecutive physical addresses: a well-formed OPEN, whose
record and store can be written, opens the stream and writes only there (their contents are free values: log entry 6);
a CLOSE of an open stream, whose record and store can be read, removes it; an ill-formed block, one with a code that is none of
the three, and a DECODE or CLOSE of a stream that is not open, end BAD_BLOCK and write nothing; a DECODE keeps its tag as info
whatever it ends with. A DECODE of an open stream whose unit, record and store can be read ends UNSUPPORTED, with nothing
written, where the stream has met that before or the unit needs what the engines do not decode, and the stream keeps that. Else,
where its record and store can be written, one that shows no frame ends NO_OUTPUT, or EMPTY with end set, and writes only there;
and one that shows a frame, whose buffers can be written, ends OK, or STREAM_ERROR where a block is concealed or the unit has an
error, has the flags of the frame as info, writes only there, in each byte that one span alone names the frame's value (header,
planes and tensors; log entries 43 and 46), and counts the frame as the stream's output. Where another agent has stored to the
record or the store, the same holds but for the values written and the scene flag. A record, store, unit or frame that cannot be
accessed raises ENGINE_FAULT. What the standards themselves yield is the event's operand (log entry 16). The end of a command
whose appends are made, where its core's result FIFO has room, appends status, poison and info to that FIFO, counts it, and
leaves the engine idle, and in record mode logs the completion; where the FIFO is full, the command stays. Begin and end of a
command are traced, where its context traces them. (R218, R220, R271, R273, R274, R275, R276, R277, R278, R335, R350, R354.) -/
def Obligations.CodecCommandsArePreparedAndEnd : Prop :=
  ∀ (s : State) (c : VCmd) (A v : Nat),
    let die := s.ev.die % 2
    let j := s.ev.n % 4
    let E := s.engine die j
    let x := c.ctx
    let w (i : Nat) : Nat := v / 2 ^ (64 * i) % 2 ^ 64
    let zero (l : List Nat) : Prop := ∀ i ∈ l, w i = 0
    let page (a : Nat) : Prop := a < 2 ^ 56 ∧ a % 4096 = 0
    let writable (a n : Nat) : Prop := ∃ pa, At s die x .write a n pa
    (NextCommand (s.setCtx x { s.ctx x with traceEn := false }) die j c → c.src = .block A → Holds s die x A 64 v →
      w 0 % 256 ∉ [0x10, 0x11, 0x12] → ∃ t k, Machine.exec .openStream s = .next t ∧ (t.engine die j).commit = some k ∧ k.status = 5 ∧
        Recorded x (8192 + engineHandle die j * 4) 3 0x20 (c.seq % 2 ^ 32 + w 0 % 256 * 2 ^ 32) s t) ∧
    (NextCommand s die j c → c.src = .block A → Holds s die x A 64 v →
      let keeps (t : State) : Prop := MemSame s t ∧ (t.engine die j).streams = E.streams
      let tag := w 7 % 2 ^ 32 * 2 ^ 16
      let bad (i : Instr) (info : Nat) : Prop := Prepared i die j c 5 info s fun t _ => keeps t
      let faults (i : Instr) (a kind : Nat) : Prop := (∀ b, s.slice c.slice = some b → b.handler = false) →
        ∃ t, Machine.exec i s = .next t ∧ (t.engine die j).commit = none ∧ keeps t ∧ (t.engine die j).trap =
          some ({ c with scope := none }, w 0 % 256, { code := .engineFault, faddr := BitVec.ofNat 64 a, detail := kind })
      let unreadable (a : Nat) : Prop := s.engineEntry die x a .read = none ∨
        (s.ctx x).ue = false ∧ ∃ pa, s.engineEntry die x a .read = some pa ∧ s.homeBad (some (s.ctx x).part) (pa / 128) = true
      let openOk := w 0 < 2 ^ 10 ∧ w 0 / 2 ^ 8 ≠ 3 ∧ page (w 1) ∧ page (w 2) ∧ w 3 < 2 ^ 32 ∧ zero [4, 5, 6, 7]
      let decodeOk := (w 0 = 0x11 ∨ w 0 = 0x411) ∧ w 1 < 2 ^ 56 ∧ w 2 < 2 ^ 56 ∧ w 3 < 2 ^ 32 ∧ (w 3 = 0 → w 0 = 0x411) ∧ page (w 4) ∧
        w 5 < 2 ^ 56 ∧ w 5 % 128 = 0 ∧ w 6 < 2 ^ 56 ∧ w 6 % 128 = 0 ∧ w 7 < 2 ^ 32
      let closeOk := w 0 = 0x12 ∧ w 1 < 2 ^ 56 ∧ zero [2, 3, 4, 5, 6, 7]
      (w 0 % 256 = 0x10 → openOk → writable (w 1) 4096 → writable (w 2) (w 3 / 8 * 8) → Prepared .openStream die j c 0 0 s fun t k =>
        k.code = 0x10 ∧ (t.engine die j).streams =
            E.dropStream x (w 1) ++ [{ ctx := x, addr := w 1, store := w 2, size := w 3, std := w 0 / 2 ^ 8 % 4
                                       image := freeWords s.free (512 + w 3 / 8) }] ∧
          MemBut die x [(w 1, 4096), (w 2, w 3 / 8 * 8)] s t) ∧
      (w 0 % 256 = 0x10 → ¬ openOk → bad .openStream 0) ∧
      (w 0 % 256 ∉ [0x10, 0x11, 0x12] → bad .openStream 0) ∧
      (w 0 % 256 = 0x12 → ¬ closeOk → bad .closeStream 0) ∧
      (w 0 % 256 = 0x11 → ¬ decodeOk → bad .decodeUnit tag) ∧
      (∀ i ∈ ([.closeStream, .decodeUnit] : List Instr), (if i = .closeStream then closeOk else w 0 % 256 = 0x11 ∧ decodeOk) →
        (unreadable (w 1) → faults i (w 1) 0) ∧
        ∀ r, Holds s die x (w 1) 4096 r →
          (E.stream x (w 1) = none → bad i (if i = .closeStream then 0 else tag)) ∧
          ∀ st, E.stream x (w 1) = some st → 8 ≤ st.size → st.store < 2 ^ 56 → unreadable st.store → faults i st.store 0) ∧
      ∀ st r q, E.stream x (w 1) = some st → Holds s die x (w 1) 4096 r → Holds s die x st.store (st.size / 8 * 8) q →
        (closeOk → Prepared .closeStream die j c 0 0 s fun t k =>
          k.code = 0x12 ∧ (t.engine die j).streams = E.dropStream x (w 1) ∧ MemSame s t) ∧
        (w 0 % 256 = 0x11 → decodeOk → w 3 ≠ 0 → unreadable (w 2) → faults .decodeUnit (w 2) 0) ∧
        ∀ u, w 0 % 256 = 0x11 → decodeOk → Holds s die x (w 2) (w 3) u →
          let d := s.ev.out
          let fin := w 0 = 0x411
          let own := [(st.addr, 4096), (st.store, st.size / 8 * 8)]
          let spans := frameSpans d st (w 4) (w 5) (w 6) s.free
          let all := own ++ spans.map fun e => (e.1, e.2.1)
          let profiles : List Profile := if st.std = 0 then [.high, .constrainedHigh] else if st.std = 1 then [.main, .main10] else [.main]
          let lacks : List CodecTool := if st.std = 0 then [.fieldPictures, .mbaff, .svc, .mvc]
            else if st.std = 1 then [.rangeExtension, .screenContent, .multilayer] else [.largeScaleTile]
          let outside := d.unsupported = true ∨ d.profile ∉ profiles ∨ (if st.std = 0 then 52 else 51) < d.level ∨
            (st.std = 1 ∧ d.highTier = true) ∨ (∃ z ∈ d.tools, z ∈ lacks) ∨ st.size < d.need ∨
            (d.depth ≠ 8 ∧ (d.depth ≠ 10 ∨ st.std = 0)) ∨ (d.form ≠ .c420 ∧ (d.form ≠ .mono ∨ st.std ≠ 2)) ∨
            d.w.toNat < 64 ∨ 4096 < d.w.toNat ∨ d.ht.toNat < 64 ∨ 2304 < d.ht.toNat
          let concealed := ∃ b ∈ d.blocks, b.concealed = true
          -- another agent has stored to the record or to the store
          let spoiled : Bool := st.spoiled || decide (st.image ≠ r + q * 2 ^ 32768)
          let ends (status info : Nat) (new : Nat → VStream) (P : State → Prop) : Prop :=
            Prepared .decodeUnit die j c status (tag + info) s fun t k => k.code = 0x11 ∧ P t ∧
              ∃ z, (t.engine die j).streams = E.dropStream x (w 1) ++ [{ new z with spoiled := spoiled }]
          (st.unsupported = true → ends 4 0 (fun _ => st) (MemSame s)) ∧
          (st.unsupported = false → outside → ends 4 0 (fun _ => { st with unsupported := true }) (MemSame s)) ∧
          (st.unsupported = false → ¬ outside → d.written = true → s.engineEntry die x (w 4) .write = none →
            faults .decodeUnit (w 4) 1) ∧
          (st.unsupported = false → ¬ outside → writable st.addr 4096 → writable st.store (st.size / 8 * 8) →
            (d.written = false → ends (if fin then 2 else 1) 0 (fun z => { st with image := z }) (MemBut die x own s)) ∧
            ∀ status flags, d.written = true → (∀ e ∈ spans, writable e.1 e.2.1) →
              (status = if d.errors = true ∨ concealed then 3 else 0) →
              (flags = 1 + (if concealed then 4 else 0) + (if d.filmGrain then 8 else 0)) →
              let shown (z : Nat) : VStream :=
                { st with outputs := st.outputs + 1, prev := some (framePicture d (st.before d)), image := z }
              (spoiled = true → ∃ scene : Bool, ends status (flags + if scene then 2 else 0) shown (MemBut die x all s)) ∧
              (spoiled = false → Shown d st (w 4) (w 5) (w 6) spans ∧
                ends status (flags + if (st.before d).isNone then 2 else 0) shown fun t => MemBut die x all s t ∧
                  -- a byte that one span of the frame alone names takes the frame's value there
                  ∀ i e l b, spans[i]? = some e → l < e.2.1 → s.engineEntry die x (e.1 + l) .write = some b →
                    (∀ n q l', all[n]? = some q → l' < q.2 → (n, l') ≠ (2 + i, l) → s.engineEntry die x (q.1 + l') .write ≠ some b) →
                    t.homeRead (some (s.ctx x).part) b 1 = e.2.2 / 2 ^ (8 * l) % 256))) ∧
    ∀ k, let F := s.engine die s.ev.n
      let y := s.ctx k.cmd.ctx
      F.commit = some k → F.trap = none → k.begun = true → k.progress = k.appends.length → s.engineServes k.cmd = true → k.cmd.die = die →
        (∀ e ∈ k.last, e.core = none) →
          let room := (F.elements k.cmd.core).length < 16 ∨ (s.core k.cmd.core).slice ≠ some k.cmd.slice
          (y.replayMode = 0 → room → k.last = [] → ∃ t, Machine.exec .videoCommandCompletion s = .next t ∧ (t.engine die s.ev.n).commit = none ∧
            Recorded k.cmd.ctx (8192 + engineHandle die s.ev.n * 4) 3 0x21 (k.cmd.seq % 2 ^ 32 + k.status * 2 ^ 32) s t) ∧
          (Untraced k.cmd.ctx 3 s → y.replayMode = 1 → room → k.last = [] → ∃ t, Machine.exec .videoCommandCompletion s = .next t ∧
            (t.engine die s.ev.n).commit = none ∧ Logged k.cmd.ctx (die % 2) 5 (engineHandle die s.ev.n) 0 0 F.completions
              (k.cmd.core + k.cmd.seq * 2 ^ 8) s t) ∧
          (Untraced k.cmd.ctx 3 s → y.replayMode = 0 → room → ∃ t, Machine.exec .videoCommandCompletion s = .next t ∧ (t.engine die s.ev.n).commit = none ∧
            (t.engine die s.ev.n).completions = F.completions + 1 ∧ (t.engine die s.ev.n).fifo = F.fifo ∧ t.cores = s.cores ∧
            (k.last = [] → MemSame s t) ∧
            ∀ m, (t.engine die s.ev.n).elements m = if m = k.cmd.core ∧ (s.core m).slice = some k.cmd.slice then
              F.elements m ++ [BitVec.ofNat 64 (k.status + k.poison.toNat * 2 ^ 8 + k.info % 2 ^ 48 * 2 ^ 16)] else F.elements m) ∧
          (y.replayMode = 0 → ¬ room → ∃ t, Machine.exec .videoCommandCompletion s = .next t ∧ MemSame s t ∧ t.engine die s.ev.n = F)

/-- O52. For an engine whose next command's operands stand at consecutive physical addresses: with a well-formed layer record,
rfsh.layer sets pend, rfsh.tile sets force in the tile's state word, and mthr replaces its field and returns the old one, and
no other byte of memory changes; a malformed record, a tile past the grid, or a value out of range, ends BAD_BLOCK and writes
nothing. A MASK whose block and layer are well formed, whose cores are bound to its context with their rings enabled for 8-byte
records, and whose grid fits its frame, decides every tile: REUSE where the frame does not refresh the layer, the tile is not
forced, its error with this frame is within the threshold, the vectors of its blocks lie within the spread limit of one another,
and it has not been reused too often; a tile marked REUSE has what R282 guarantees. It writes the state words and, where it names
one, the slice header, has the tiles' records, in raster order over all rings (log entry 47), and the end records to append, sets last and clears pend at its end, and counts
recomputed and reused tiles; one whose grid does not fit ends GEOMETRY, and one whose block, layer or cores are not so BAD_BLOCK.
A GSX, its list in memory or in the pool of its core, copies for each REUSE record each position of its source window to that
tile of the destination store, or to the record's place in the pool of a core bound to its context, and no other byte, a later
record over an earlier one; a record outside the grid ends GEOMETRY; records that pass the end of the pool, one with a zero field
that is not zero, and any other code of either engine, end BAD_BLOCK. (R273, R279, R280, R281, R282, R283, R285, R286, R287, R288.) -/
def Obligations.MaskAndGatherCommandsArePrepared : Prop :=
  ∀ (s : State) (c : VCmd),
    let die := s.ev.die % 2
    let x := c.ctx
    let word (v i : Nat) : Nat := v / 2 ^ (64 * i) % 2 ^ 64
    let writable (a n : Nat) : Prop := ∃ pa, At s die x .write a n pa
    let bad (i : Instr) (slot status : Nat) : Prop := Prepared i die slot c status 0 s fun t _ => MemSame s t
    let sets (i : Instr) (slot info a n v : Nat) : Prop :=
      Prepared i die slot c 0 info s fun t _ => Takes die x a n v s t ∧ MemBut die x [(a, n)] s t
    (∀ L v, NextCommand s die 4 c → Holds s die x L 64 v → L % 64 = 0 → L < 2 ^ 56 →
      let w := word v
      (parseLayer ((List.range 8).map w) = none → (c.src = .rfshLayer L ∨ (∃ z, c.src = .rfshTile L z) → bad .rfshCommand 4 5) ∧
        ∀ form z, c.src = .mthr form L z → bad .mthrCommand 4 5) ∧
      ∀ ly, parseLayer ((List.range 8).map w) = some ly →
      (c.src = .rfshLayer L → writable (L + 16) 8 →
        sets .rfshCommand 4 0 (L + 16) 8 (if (w 2).testBit 24 then w 2 else w 2 + 2 ^ 24)) ∧
      (∀ z u, c.src = .rfshTile L z →
        let a := (w 3 + 8 * z.toNat) % 2 ^ 56
        (z.toNat < w 2 % 2 ^ 12 * (w 2 / 2 ^ 12 % 2 ^ 12) → Holds s die x a 8 u → writable a 8 →
          sets .rfshCommand 4 0 a 8 (if u.testBit 56 then u else u + 2 ^ 56)) ∧
        (w 2 % 2 ^ 12 * (w 2 / 2 ^ 12 % 2 ^ 12) ≤ z.toNat → bad .rfshCommand 4 5)) ∧
      ∀ form z, c.src = .mthr form L z → form < 3 → writable (L + 8 * form) 8 →
        let n := z.toNat
        (form = 0 → sets .mthrCommand 4 (w 0 % 2 ^ 48) L 8 n) ∧
        (form = 1 → n < 2 ^ 24 → n / 2 ^ 16 ≠ 0 →
          sets .mthrCommand 4 (w 1 % 2 ^ 24) (L + 8) 8 (w 1 / 2 ^ 24 * 2 ^ 24 + n)) ∧
        (form = 2 → n < 2 ^ 16 → sets .mthrCommand 4 (w 2 / 2 ^ 48) (L + 16) 8 (w 2 % 2 ^ 48 + n * 2 ^ 48)) ∧
        (form = 1 → 2 ^ 24 ≤ n ∨ n / 2 ^ 16 = 0 → bad .mthrCommand 4 5) ∧ (form = 2 → 2 ^ 16 ≤ n → bad .mthrCommand 4 5)) ∧
    (∀ A v, NextCommand s die 4 c → c.src = .block A → Holds s die x A 64 v →
      let w := word v
      let core := w 4 % 2 ^ 8
      let nc := w 4 / 2 ^ 8 % 2 ^ 5 + 1
      let rr := w 4 / 2 ^ 16 % 2 ^ 4
      let ru := w 4 / 2 ^ 20 % 2 ^ 4
      let L := w 1
      let blockOk := w 0 = 0x20 ∧ L < 2 ^ 56 ∧ L % 64 = 0 ∧ w 2 < 2 ^ 56 ∧ w 3 < 2 ^ 56 ∧ w 4 / 2 ^ 13 % 2 ^ 3 = 0 ∧
        w 4 / 2 ^ 24 % 2 ^ 24 ≠ 0 ∧ w 4 / 2 ^ 48 = 0 ∧ w 5 = 0 ∧ w 6 = 0 ∧ w 7 = 0
      let takes (m r : Nat) : Prop := (∃ b, s.sliceOf m = some b ∧ b.ctx = x) ∧ ((s.core m).ring r).enabled = true ∧ ((s.core m).ring r).z = 0
      let coresOk := ∀ i, i < nc → core + i < 192 ∧ takes (core + i) rr ∧ takes (core + i) ru
      (w 0 % 256 ∉ [0xE8, 0xE9] → ¬ blockOk → bad .maskCommand 4 5) ∧
      ∀ lv fv, blockOk → Holds s die x L 64 lv → Holds s die x (w 2) 128 fv →
        (parseLayer ((List.range 8).map (word lv)) = none ∨ ¬ coresOk → bad .maskCommand 4 5) ∧
        ∀ ly m e st, parseLayer ((List.range 8).map (word lv)) = some ly → coresOk →
        let fw := fv % 2 ^ 16
        let fh := fv / 2 ^ 16 % 2 ^ 16
        let sw := ly.tw * 2 ^ ly.ls
        let sh := ly.th * 2 ^ ly.ls
        let fits := sw % 16 = 0 ∧ sh % 16 = 0 ∧ ly.tx = (fw + sw - 1) / sw ∧ ly.ty = (fh + sh - 1) / sh
        let nby := (fh + 15) / 16
        let bp := word fv 4 % 2 ^ 16
        let n := ly.tx * ly.ty
        let idx := word fv 1
        (¬ fits → bad .maskCommand 4 6) ∧
        (fits → Holds s die x (word fv 2 % 2 ^ 56) (4 * bp * nby) m → Holds s die x (word fv 3 % 2 ^ 56) (4 * bp * nby) e →
          Holds s die x ly.tst (8 * n) st → writable ly.tst (8 * n) → writable (L + 16) 8 → writable (L + 32) 8 →
          (w 3 ≠ 0 → writable (w 3 + 12) 4 ∧ writable (w 3 + 20) 2) →
            let fresh : Prop := fv.testBit 36 = true ∨ ly.pend = true ∨ ly.last = 2 ^ 64 - 1 ∨ idx ≠ (ly.last + 1) % 2 ^ 64 ∨
              ly.n ≠ 0 ∧ idx % ly.n = 0
            ∃ ds : List TileDecision, ds.length = n ∧
            (∀ i d, ds[i]? = some d → Decided ly ((fw + 15) / 16) nby bp m e fresh (i % ly.tx) (i / ly.tx) (word st i) d) ∧
            (∀ d ∈ ds, d.reuse = true → d.word % 2 ^ 48 ≤ ly.thr ∧ TileSpread ly ((fw + 15) / 16) nby bp m d.tx d.ty ∧
              d.word / 2 ^ 48 % 2 ^ 8 ≤ ly.rlim ∧ ¬ fresh ∧ (word st (d.ty * ly.tx + d.tx)).testBit 56 = false) ∧
            let reused := (ds.filter fun d => d.reuse).length
            let est := ly.e0 + (ly.erc * (n - reused) + ly.eru * reused + 65535) / 65536
            ∃ t k, Machine.exec .maskCommand s = .next t ∧ (t.engine die 4).commit = some k ∧ k.begun = true ∧ k.code = 0x20 ∧
              k.info = min (n - reused) (2 ^ 24 - 1) + min reused (2 ^ 24 - 1) * 2 ^ 24 ∧ k.status = 0 ∧ k.poison = false ∧
              MaskRecords core nc rr ru idx ds k.appends ∧ k.limit = w 4 / 2 ^ 24 % 2 ^ 24 * 64 ∧
              (let u := (s.commitWrites c k.first).1;
                (w 3 = 0 → Takes die x ly.tst (8 * n) (packFields 8 (ds.map fun d => d.word)) s u ∧ MemBut die x [(ly.tst, 8 * n)] s u) ∧
                (w 3 ≠ 0 → Takes die x (w 3 + 12) 4 (min est (2 ^ 32 - 1)) s u ∧ Takes die x (w 3 + 20) 2 (min n (2 ^ 16 - 1)) s u ∧
                  MemBut die x [(ly.tst, 8 * n), (w 3 + 12, 4), (w 3 + 20, 2)] s u)) ∧
              let u := (s.commitWrites c k.last).1;
              Takes die x (L + 32) 8 idx s u ∧ MemBut die x [(L + 16, 8), (L + 32, 8)] s u ∧
                Takes die x (L + 16) 8 (if (word lv 2).testBit 24 then word lv 2 - 2 ^ 24 else word lv 2) s u)) ∧
    ∀ A v, let slot := 8 + s.ev.n % 4
      NextCommand s die slot c → c.src = .block A → Holds s die x A 64 v →
      let w := word v
      let f (lo n : Nat) : Nat := w 5 / 2 ^ lo % 2 ^ n
      let tx := f 0 12
      let ty := f 12 12
      let tw := f 24 8
      let th := f 32 8
      let pb := f 40 12
      let tb := (tw * th * pb + 127) / 128 * 128
      let size := tx * ty * tb
      (w 0 % 256 ≠ 0x30 → bad .gsxCommand slot 5) ∧
      ∀ l (pooled stored : Bool), w 0 = 0x30 + (if pooled then 0x100 else 0) + (if stored then 0 else 0x200) →
        (pooled = false → w 1 < 2 ^ 56 ∧ w 1 % 8 = 0) → 0 < w 2 → w 2 < 2 ^ 24 → w 3 < 2 ^ 56 → w 3 % 128 = 0 → w 4 < 2 ^ 56 → w 4 % 128 = 0 →
        w 5 < 2 ^ 52 → w 6 = 0 → w 7 = 0 → 0 < tx → 0 < ty → 0 < tw → 0 < th → 0 < pb →
        (stored = true → w 4 + size ≤ w 3 ∨ w 3 + size ≤ w 4) →
        (stored = false → w 4 < 2 ^ 30 ∧ w 4 / 2 ^ 22 < 192 ∧ ∃ b, s.sliceOf (w 4 / 2 ^ 22) = some b ∧ b.ctx = x) →
        (pooled = false → Holds s die x (w 1) (8 * w 2) l) →
        (pooled = true → w 1 < 2 ^ 22 ∧ w 1 + 8 * w 2 ≤ 2 ^ 22 ∧ ∀ i, i < 8 * w 2 → poolByte (s.core c.core) (w 1 + i) = l / 2 ^ (8 * i) % 256 ∧
          roleOf (s.core c.core).roles ((w 1 + i) / 2 ^ 16) = 5 ∧ (s.core c.core).poolUe.contains ((w 1 + i) / 128) = false) →
          let list := (List.range (w 2)).map fun i => l / 2 ^ (64 * i) % 2 ^ 64
          let recs := list.filter fun r => !r.testBit 25 && r.testBit 24
          let clear := ∀ r ∈ list, r / 2 ^ 26 % 2 ^ 6 = 0
          (¬ clear → bad .gsxCommand slot 5) ∧
          (clear → (∃ r ∈ recs, tx ≤ r % 2 ^ 12 ∨ ty ≤ r / 2 ^ 12 % 2 ^ 12) → bad .gsxCommand slot 6) ∧
          (clear → recs = [] → Prepared .gsxCommand die slot c 0 0 s fun t _ => MemSame s t) ∧
          ∀ src, clear → (∀ r ∈ recs, r % 2 ^ 12 < tx ∧ r / 2 ^ 12 % 2 ^ 12 < ty) → Holds s die x (w 3) size src →
            let len := tw * th * pb
            let signed (n : Nat) : Int := if 2 ^ 15 ≤ n then (n : Int) - 2 ^ 16 else n
            let sx (r : Nat) : Nat := (max 0 (min ((r % 2 ^ 12 * tw : Nat) + signed (r / 2 ^ 32 % 2 ^ 16)) (((tx - 1) * tw : Nat) : Int))).toNat
            let sy (r : Nat) : Nat :=
              (max 0 (min ((r / 2 ^ 12 % 2 ^ 12 * th : Nat) + signed (r / 2 ^ 48 % 2 ^ 16)) (((ty - 1) * th : Nat) : Int))).toNat
            -- byte `o` of the image of a record's tile
            let image (r o : Nat) : Nat :=
              let u := sx r + o / pb % tw
              let z := sy r + o / pb / tw
              src / 2 ^ (8 * ((z / th * tx + u / tw) * tb + (z % th * tw + u % tw) * pb + o % pb)) % 256
            (stored = true →
              let dst (r : Nat) : Nat := w 4 + (r / 2 ^ 12 % 2 ^ 12 * tx + r % 2 ^ 12) * tb
              (∀ r ∈ recs, writable (dst r) len) → Prepared .gsxCommand die slot c 0 recs.length s fun t _ =>
                MemBut die x (recs.map fun r => (dst r, len)) s t ∧
                  ∀ (i r o b : Nat), recs[i]? = some r → o < len → s.engineEntry die x (dst r + o) .write = some b →
                    (∀ i' r' o', recs[i']? = some r' → o' < len → i < i' ∨ i = i' ∧ o < o' → s.engineEntry die x (dst r' + o') .write ≠ some b) →
                    t.homeRead (some (s.ctx x).part) b 1 = image r o) ∧
            (stored = false →
              let m := w 4 / 2 ^ 22
              let dst (i : Nat) : Nat := w 4 % 2 ^ 22 + i * tb
              (2 ^ 22 < dst recs.length → bad .gsxCommand slot 5) ∧
              (dst recs.length ≤ 2 ^ 22 → (∀ i : Nat, dst 0 ≤ i → i < dst recs.length → roleOf (s.core m).roles (i / 2 ^ 16) = 5) →
                Prepared .gsxCommand die slot c 0 recs.length s fun t _ => MemSame s t ∧ (∀ k, k ≠ m → t.core k = s.core k) ∧
                  (∀ i r o, recs[i]? = some r → o < len → poolByte (t.core m) (dst i + o) = image r o) ∧
                  ∀ q : Nat, q < 2 ^ 22 → (∀ i, i < recs.length → q < dst i ∨ dst i + len ≤ q) → poolByte (t.core m) q = poolByte (s.core m) q))

/-- O53. With an empty agenda the current stream takes its turn, else the agenda's first act happens and leaves it: a turn, one
that only issues, one that takes some steps of its instruction alone, one whose effects on others stay pending, the arrival
of such an effect, an event, or time. Where the stream may run and the frame of its PC stands at the front of its queue,
with its slot in use, the step is exec of the instruction that decodes from the slot's word (or from the record), at
the state in which that stream is the current one and that word is recorded; where its queue is empty and it fetches
privately, the frame is first read from its executable page at its home, and a page that is not executable for it traps
FETCH_DENIED; a slot that does not exist traps BAD_TARGET. A stream that may not run rests. A word that decodes to
nothing is refused by name, and a core that does not exist is a fault. An event is executed with its operands, after
every live context that has no slice bound and whose record is sound has taken the policy words of its record; so is the next
append of the device that waits; and elapsed time passes. (The agenda and the acts are the model's own: log entries 1, 2 and 40; the refusal of a word that no
rule gives a meaning is log entry 11, and the fault for a core, or an encoded instruction in an event's place, that does not
exist is log entry 10.) (R14, R16, R31, R40, R41,
R53, R227, R322, R328.) -/
def Obligations.StepRunsTheDecodedInstruction : Prop :=
  ∀ s : State,
    let begun (rest : List Act) (core : Nat) (k : StreamId) (only : Bool) (steps : Option (List Nat)) (late : Bool) : State :=
      { s with
        agenda := rest, curCore := core, curK := k, issueOnly := only, chosen := steps, late := late, expanding := false
        expanded := false }
    let word (f : FrameRec) (slot : Nat) : Nat := if isRecord f.words then fld (f.words.getD 0 0) 47 8 else f.words.getD (slot + 1) 0
    let inUse (f : FrameRec) (slot : Nat) : Prop := if isRecord f.words then slot = 0 else slot < headerCount (f.words.getD 0 0)
    (∀ core k only steps late rest,
      (s.agenda = [] ∧ rest = [] ∧ core = s.curCore ∧ k = s.curK ∧ only = false ∧ steps = none ∧ late = false ∨
        s.agenda = .turn core k :: rest ∧ only = false ∧ steps = none ∧ late = false ∨
        s.agenda = .issue core k :: rest ∧ only = true ∧ steps = none ∧ late = false ∨
        (∃ l, s.agenda = .part core k l :: rest ∧ only = false ∧ steps = some l ∧ late = false) ∨
        s.agenda = .late core k :: rest ∧ only = false ∧ steps = none ∧ late = true) →
      let st := s.stream core k
      let pc := st.pc.toNat
      let u := begun rest core k only steps late
      let part := some (s.ctx (s.ctxOf core)).part
      (192 ≤ core → Machine.step s = .fault .noSuchAgent) ∧
      (core < 192 → s.canRun core k = false → Machine.step s = .next u) ∧
      (∀ f q, core < 192 → s.canRun core k = true → st.iq = f :: q → f.addr = pc - pc % 64 →
        (inUse f (pc % 8) →
          (∀ i, frameInstr f.words (pc % 8) = .ok i → Machine.step s = Machine.exec i { u with word := word f (pc % 8) }) ∧
          ∀ r, frameInstr f.words (pc % 8) = .error r → Machine.step s = .refused (.undecodable r.code)) ∧
        (¬ inUse f (pc % 8) → OrdinaryAt core s → ∃ t, Machine.step s = .next t ∧ (t.stream core k).iq = [] ∧
          TrapsAt core k .badTarget (some pc) 0 id u t)) ∧
      (core < 192 → s.canRun core k = true → st.iq = [] → s.fetchGroup core k = none →
        (∀ e, s.translate core (s.ctxOf core) (pc - pc % 64) = some e →
          let pa := e.phys (pc - pc % 64)
          e.x = true → e.xs = k.num → e.cls = 0 → tblFind s.scanned (pa / 4096) = some k.num → s.homeBad part (pa / 128) = false →
            let f : FrameRec :=
              { addr := pc - pc % 64, pa := pa, words := (List.range 8).map fun j => s.homeRead part (pa + 8 * j) 8 }
            ∀ i, inUse f (pc % 8) → frameInstr f.words (pc % 8) = .ok i →
              Machine.step s = Machine.exec i { (u.setStream core k { st with iq := [f] }) with word := word f (pc % 8) }) ∧
        ((∀ e, s.translate core (s.ctxOf core) (pc - pc % 64) = some e → e.x = true → e.xs = k.num → e.cls = 0 →
            tblFind s.scanned (e.phys (pc - pc % 64) / 4096) ≠ some k.num) → OrdinaryAt core s →
          ∃ t, Machine.step s = .next t ∧
            TrapsAt core k .fetchDenied (some pc) 2 id u t))) ∧
    (∀ rest, ∃ u : State, { u with ctxs := [] } = ({ s with agenda := rest, ctxs := [] } : State) ∧
      (∀ x, let c := s.ctx x
        let bound := ∃ e ∈ s.slices, e.2.ctx = x
        let w6 := s.homeRead none (c.record + 48) 8
        let w7 := s.homeRead none (c.record + 56) 8
        (c.live = true → ¬ bound → s.homeBad none (c.record / 128) = false →
          u.ctx x = { c with ue := w6.testBit 63, root := w6 / 2 ^ 32 % 2 ^ 28, stops := w6 % 2 ^ 32, hatom := w7.testBit 63 }) ∧
        (c.live = false ∨ bound ∨ s.homeBad none (c.record / 128) = true → u.ctx x = c)) ∧
      (∀ i a, s.agenda = .event i a :: rest → encode i = [] → Machine.step s = Machine.exec i { u with ev := a }) ∧
      (s.agenda = .append :: rest → Machine.step s = .next u.serveAppend)) ∧
    (∀ i a rest, s.agenda = .event i a :: rest → encode i ≠ [] → Machine.step s = .fault .noSuchAgent) ∧
    (∀ core n rest, s.agenda = .land core n :: rest → Machine.step s = .next (State.land { s with agenda := rest } core n)) ∧
    ∀ ns rest, s.agenda = .elapse ns :: rest → Machine.step s = .next (State.pass { s with agenda := rest } ns)

/-- O54. The encodings given in the chapters' examples decode to their instructions with the operands named there: addi,
vadd with its token bits and guard, bfx.s, bc with a displacement of -3, loop, vshape, ld, vld from the pool, mmul,
pool.scr, rwaitf, amo, acas of a raw pair, dsync, join, enq, dep.dec, dump, tmark, ntfy, and the loop-nest record of
the frames chapter (its word 5 as the table's fields place the two bases: log entry 12). (02_frames_and_encoding.md,
R57, R171, R195, R206, R242, R262, R312, R389.) -/
def Obligations.WordsOfTheSpecDecode : Prop :=
  (∀ e ∈ ([(0x0200294000000080, .addi ⟨0, 0⟩ 5 5 128), (0x4392040A09000BE0, .vadd ⟨0b1001, 2⟩ 8 40 72 .f16 7 false),
      (0x1F00398100000204, .bfxS ⟨0, 0⟩ 7 6 8 4), (0x250031E03FFFFFEA, .bc ⟨0, 0⟩ 6 7 4 (-3) 2), (0x2800000140000002, .loop ⟨0, 0⟩ 5 0 2),
      (0x40000000406000E0, .vshape ⟨0, 0⟩ 1 3 0 0),
      (0xA000049018000040, .ld ⟨0, 0⟩ 9 4 0 .i32 0 0x40), (0xA200038001280000, .vld ⟨0, 0⟩ 7 0 0 1 0x280000),
      (0x80000180080089A0, .mmul ⟨0, 0⟩ 0 6 0 16 false 0 true 4 .e4m3 0 false), (0xAB00314005000004, .poolReshape ⟨0, 0⟩ 6 5 5 false 4),
      (0xB200380C03000064, .rwaitf ⟨0, 0⟩ 7 6 3 100), (0xC600298FE0000009, .amo ⟨0, 0⟩ 5 6 7 30 0 2 1),
      (0xE600220C0200000E, .pamoCas ⟨0, 0⟩ 4 8 6 3 2), (0xC20000001100040F, .dsync ⟨0, 0⟩ 1 1 4 0b1111),
      (0xC100000001001003, .join ⟨0, 0⟩ 16 3), (0xE300298000000025, .enq ⟨0, 0⟩ 5 6 37), (0xE40038005000000C, .depDec ⟨0, 0⟩ 7 5 12),
      (0xEA00298E00000001, .dump ⟨0, 0⟩ 5 6 7 1), (0xE70001C000000051, .tmark ⟨0, 0⟩ 7 0x51), (0xEB00024000000005, .ntfy ⟨0, 0⟩ 9 5)] :
      List (Nat × Instr)), decode [e.1] = .ok e.2) ∧
  decode [0x20A180002F800000, 0x0001000100020004, 0x100001, 0x100001, 0, 0x28000008, 0x48, 0] =
    .ok (.loopNestRecord ⟨0, 0⟩ (LnRec.mk 0x43 0x2F800000 0x0001000100020004 0x100001 0x100001 0 8 0x28 0x48))

/-- O55. For every instruction of the opcode table whose operands pass the checks of its encoding, with every operand at
every value that the encoding admits (and for a loop-nest record that passes its own checks), decode of encode is the
instruction. (R42, R43, R44, R45, R46, R47, R48, R49, R50, R53, R54.) -/
def Obligations.EncodedInstructionsDecodeToThemselves : Prop :=
  ∀ i : Instr, i.encodable = true → decode (encode i) = .ok i

/-- O56. For every 64-bit word that the decoder accepts, the instruction that it stands for passes the checks of its
encoding, and encoding it gives back exactly that word: no two words decode to one instruction, and no reserved bit is
dropped. For eight words that it accepts, they stand for a loop-nest record that passes its checks, and the record's words
for the stream that their tag names are exactly these; where that is the lowest stream that may hold the opcode, encoding
gives them back. (R42, R43, R44, R45, R46, R47, R48, R49, R50, R53, R54, R60.) -/
def Obligations.DecodedWordsEncodeToThemselves : Prop :=
  (∀ (w : Nat) (i : Instr), w < 2 ^ 64 → decode [w] = .ok i → i.encodable = true ∧ encode i = [w]) ∧
    ∀ (ws : List Nat) (i : Instr), ws.length = 8 → (∀ w ∈ ws, w < 2 ^ 64) → decode ws = .ok i →
      i.encodable = true ∧ ∃ st h r, i = .loopNestRecord h r ∧ st.num = ws.getD 0 0 / 2 ^ 55 % 4 ∧ encodeRecord st h r = ws ∧
        (st = streamFor r.op.toNat → encode i = ws)

/-- O57. For every state whose memory lists its bytes at strictly rising addresses and lists no byte that equals what an
unlisted address reads as, a step that answers a next state leaves memory in that form, whichever instruction or event
of the module it executes. (The form and the value of unlisted bytes are the model's: log entry 5.) (R2, R253, R326,
R327.) -/
def Obligations.EveryStepKeepsMemoryCanonical : Prop :=
  ∀ s t : State, Memory.wf s.mem → Machine.step s = .next t → Memory.wf t.mem

/-- O58. After reset DEV memory lists no byte, and so is in the canonical form that every step keeps. R376 leaves the contents
of HBM undefined: that they read zero after reset is the model's choice (log entries 5 and 27). (R326, R376.) -/
def Obligations.ResetMemoryIsCanonical : Prop :=
  State.reset.mem = [] ∧ Memory.wf State.reset.mem

/-- O59. After reset no context is live, no slice is bound and every stream is IDLE, with PC 0 and retire count 0 (which R18
gives at binding alone: before it they are the model's choice, log entry 4); the token limit register of each stream holds
0x0100_0000; every queue is disabled; the seed of each die is 1; each regulator is at 400 mV, 900 MHz
with limit 2,400 and no change in progress; cluster 24d + c draws on regulator 2d + c div 12 with budget and balance
1,500, temperature 0 and hours to end of life all ones; each stack has 16 spare lanes and no retraining; the
disturbance radius is 1 and its threshold 1,024; the ballast is on; the completion timeout is code 3 and device time
is not in step. The 16 spare lanes and the hours to end of life are log entry 4 too. (R27, R31, R293, R294, R300, R364, R366, R367, R368, R369, R371, R392.) -/
def Obligations.ResetLeavesTheStatedValues : Prop :=
  (∀ x, (State.reset.ctx x).live = false) ∧ (∀ n, State.reset.slice n = none) ∧
    (∀ c k, (State.reset.core c).slice = none ∧ (State.reset.stream c k).mode = .idle ∧
      (State.reset.stream c k).tlim = 0x01000000 ∧ (State.reset.stream c k).rc = 0 ∧ (State.reset.stream c k).pc = 0) ∧
    (∀ q, (State.reset.queue q).en = false) ∧ (∀ d, (State.reset.die d).seed = 1 ∧ (State.reset.die d).split = false) ∧
    (∀ g, let r := State.reset.regulator g
      r.mv = 400 ∧ r.fmhz = 900 ∧ r.ilim = 2400 ∧ r.busy = false ∧ r.err = false) ∧
    (∀ d c, d < 2 → c < 24 → let k := State.reset.cluster (24 * d + c)
      k.reg = 2 * d + c / 12 ∧ k.budget = 1500 ∧ k.bal = 1500 ∧ k.temp = 0 ∧ k.tstate = 0 ∧ k.eol = 0xFFFFFFFF) ∧
    (∀ j, let k := State.reset.stack j
      k.spare = 16 ∧ k.retrains = 0 ∧ k.busy = false ∧ ∀ m, (k.sentinel m).ien = true ∧ (k.sentinel m).below = false) ∧
    State.reset.pack.distRadius = 1 ∧ State.reset.pack.distThr = 1024 ∧ State.reset.pack.ballastEn = true ∧
    State.reset.fabric.ctmo = 3 ∧ State.reset.fabric.tsync = false

/-- O60. For a core's engine that executes an accepted command with nothing done yet, MATRIX_COMMAND_COMPLETE completes it:
it leaves the engine, counts as done, signals its semaphore where it asks for that, raises its flags, and changes
nothing but what follows. mmul, mmulz, mmulg, mconv, mdwc and mmuls, whose operand bytes, weight bytes and accumulator
rows may be read and are sound, leave in each element i < M, j < N of their accumulators the old element (0 for mmulz)
to which the groups of products are added in order, the positions of A and the weights being those of the layouts; all
else in every pool stays. An illegal metadata word raises SPARSE_META for the engine, at the pool address of the first
such word, and changes no pool. mdrain writes the converted epilogue of each element to row i of its operand, and the
other bytes stay. mwld, mwstr (from sound DEV pages, plain or by byte masks, on a core without a cache) and mtr leave
their rows in TILE; macc adds a register to an accumulator, mcpy copies one to the other; mqst writes %mstat and clears
its flags; mscl and mbias take their registers' values or switch off; mact, mmeta and mfmt take their word; msem and
mwwait only complete. (R164, R173, R174, R175, R178, R179, R180, R181, R182, R184, R185, R186.) -/
def Obligations.MatrixCommandsLeaveTheirResults : Prop :=
  ∀ (s : State) (c : MCmd),
    let k := s.ev.core
    let e := (s.core k).matrix
    let raised (fl : FlagSet) : BitVec 5 := e.flags ||| (fl.setWidth 5 &&& 0x17)
    let union (l : List FlagSet) : FlagSet := l.foldl (· ||| ·) 0
    let m := c.rows
    let n := c.cols
    let w := c.w
    let live (t : State) : Prop := (t.core k).vlive = (s.core k).vlive
    let pools (t : State) (p : Nat → Nat → Nat → Prop) : Prop :=
      ∀ u b x, b < 64 → x < 512 → ¬ p u b x → (t.core u).poolRow b x = (s.core u).poolRow b x
    Executes s k c →
    (c.isProduct = true →
      let size := if w ≤ 8 then 32 else 16
      let at' (i j q : Nat) : Nat :=
        if c.op = 0x8F ∨ c.op = 0x90 then
          let u := if c.op = 0x90 then q / c.kw else q / (c.kw * c.chans)
          let v := if c.op = 0x90 then q % c.kw else q / c.chans % c.kw
          let ch := if c.op = 0x90 then j else q % c.chans
          (i / c.wo * c.stride + u) * 1024 * c.pitch + ((i % c.wo * c.stride + v) * c.chans + ch) * w
        else (128 * q + i) * w
      let group (i : Nat) : Nat := if c.op = 0x82 then (groupOf c.counts 0 i).getD 0 else 0
      let wat (i j q : Nat) : Nat := 1024 * (c.trow + group i * (c.kk * w / 4)) + 256 * w * q + w * j
      let tile := tileByte s k c
      let word (u j : Nat) : Nat := fieldOf tile (1024 * e.metaRow.toNat + 8192 * u + 32 * j) 32
      let a (i j q : Nat) : Nat := fieldOf (opByte s k c) (at' i j q) w
      let b (i j q : Nat) : Nat := fieldOf tile (wat i j q) w
      let terms (i j u : Nat) : List (Nat × Nat) :=
        let k0 := u * size
        let p := min size (c.kk - k0)
        if c.op = 0x81 then
          (List.range (p / 4)).flatMap fun h =>
            [(a i j (k0 + 4 * h + metaFirst (word u j) h), b i j (k0 / 2 + 2 * h)),
              (a i j (k0 + 4 * h + metaSecond (word u j) h), b i j (k0 / 2 + 2 * h + 1))]
        else (List.range p).map fun q => (a i j (k0 + q), b i j (k0 + q))
      let units := (c.kk + size - 1) / size
      let blocks := (c.kk + 31) / 32
      let legal (u j : Nat) : Prop := ∀ h, h < 8 → 32 * u + 4 * h < c.kk → metaFirst (word u j) h < metaSecond (word u j) h
      let ready :=
        (∀ i j q, i < m → j < n → q < c.kk → OpReady s k c (at' i j q / 8) ∧ OpReady s k c ((at' i j q + w - 1) / 8)) ∧
        (∀ i j q, i < m → j < n → q < (if c.op = 0x81 then c.kk / 2 else c.kk) →
          TileReady s k c (wat i j q / 8) ∧ TileReady s k c ((wat i j q + w - 1) / 8)) ∧
        (c.op = 0x81 → ∀ u j, u < blocks → j < n → TileReady s k c (128 * e.metaRow.toNat + 1024 * u + 4 * j)) ∧
        ∀ i, i < m → ArrayReady (s.core k) (2 * c.acc + i)
      let r (i j : Nat) : Nat × FlagSet :=
        sums c.ety (terms i j) units (if c.op = 0x83 then 0 else arrayAt (s.core k) (2 * c.acc + i) j)
      (ready → (c.op = 0x81 → ∀ u j, u < blocks → j < n → legal u j) →
        CommandEnds k c (raised (union ((List.range m).flatMap fun i => (List.range n).map fun j => (r i j).2))) id id s fun t =>
          (∀ i j, i < 128 → j < 256 → arrayAt (t.core k) i j =
            if 2 * c.acc ≤ i ∧ i < 2 * c.acc + m ∧ j < n then (r (i - 2 * c.acc) j).1 else arrayAt (s.core k) i j) ∧
          live t ∧ pools t fun u b _ => u = k ∧ (b = 10 ∨ b = 11)) ∧
      (c.op = 0x81 → ready → ∀ u j h v, u < blocks → j < n → h < 8 → 32 * u + 4 * h < c.kk →
        metaSecond (word u j) h ≤ metaFirst (word u j) h → (∀ h', h' < h → metaFirst (word u j) h' < metaSecond (word u j) h') →
        (∀ u' j', u' < blocks → j' < n → u' < u ∨ u' = u ∧ j' < j → legal u' j') →
        s.sliceOf k = some v → v.handler = false → (s.ctx v.ctx).halt = none →
          let x := 128 * e.metaRow.toNat + 1024 * u + 4 * j
          let tr : Trap := { code := .sparseMeta, faddr := BitVec.ofNat 64 (tileBank c.t (x / 128) * 2 ^ 16 + x / 128 % 512 * 128 + x % 128) }
          ∃ t, Machine.exec .matrixCommandComplete s = .next t ∧ (t.core k).matrix.trap = some tr ∧ (t.core k).matrix.trapNum = c.num ∧
            (t.core k).matrix.group = h ∧ (t.core k).matrix.done = e.done ∧ (t.core k).matrix.queue = e.queue ∧
            (t.core k).pool = (s.core k).pool ∧ (∀ o, o ≠ k → t.core o = s.core o) ∧
            (t.ctx v.ctx).halt = some s.time ∧ (t.ctx v.ctx).cause = some (.matrix k, tr))) ∧
    (c.op = 0x84 →
      let old (i j : Nat) : Nat × FlagSet := e.epilogue i j (arrayAt (s.core k) (2 * c.acc + i) j)
      let v (i j : Nat) : Nat × FlagSet :=
        let z := convert .f32 c.ety (([.rne, .rz, .rmi, .rpi] : List Mode).getD (e.fmt.toNat % 4) .rne) (e.fmt.getLsbD 2) (old i j).1
        (z.1, z.2 ||| (old i j).2)
      let bytes := (n * w + 7) / 8
      let under (u b x y : Nat) : Prop := ∃ i o, i < m ∧ o < bytes ∧ u = opCore k c ∧ b = opBank c (128 * c.pitch * i + o) ∧
        x = (c.start + 128 * c.pitch * i + o) / 128 % 512 ∧ y = (c.start + 128 * c.pitch * i + o) % 128
      let top := (c.start + 128 * c.pitch * (m - 1) + bytes - 1) / 2048 + 1
      let max' := e.fmt.getLsbD 3 && isNarrowFloat c.ety
      let A := ((List.range m).flatMap fun i => (List.range n).map fun j => f32Fmt.value (old i j).1).foldl (fun z u => amaxUpdate z u) (0 : W64)
      (∀ i, i < m → ArrayReady (s.core k) (2 * c.acc + i)) → (∀ i o, i < m → o < bytes → OpThere s k c (128 * c.pitch * i + o)) →
        n * w ≤ 1024 * c.pitch →
          CommandEnds k c (raised (union ((List.range m).flatMap fun i => (List.range n).map fun j => (v i j).2))) id
            (fun z => { z with amax := 0 }) s fun t =>
            (∀ i j, i < m → j < n → fieldOf (opByte t k c) (1024 * c.pitch * i + w * j) w = (v i j).1 % 2 ^ w) ∧
            (∀ i, i < m → n * w % 8 ≠ 0 →
              opByte t k c (128 * c.pitch * i + bytes - 1) / 16 = opByte s k c (128 * c.pitch * i + bytes - 1) / 16) ∧
            (∀ u b x y, b < 64 → x < 512 → y < 128 → ¬ under u b x y →
              (t.core u).poolRow b x / 2 ^ (8 * y) % 256 = (s.core u).poolRow b x / 2 ^ (8 * y) % 256) ∧
            (c.isScr = true → live t) ∧ (c.isScr = false → (t.core k).vlive.toNat = max (s.core k).vlive.toNat top) ∧
            (max' = false → (t.core k).amax = (s.core k).amax) ∧
            (max' = true → (t.core k).amax.toNat % 2 ^ 31 = max ((s.core k).amax.toNat % 2 ^ 31) (A.toNat % 2 ^ 31))) ∧
    (let row (t : State) (q y : Nat) : Nat := tileByte t k c (128 * q + y)
      let put (q0 count : Nat) (f : Nat → Nat → Nat) (core : Core → Core) : Prop :=
        (∀ q, q < count → TileThere s k c (128 * (q0 + q))) →
          CommandEnds k c (raised 0) id core s fun t =>
            (∀ q y, q < count → y < 128 → row t (q0 + q) y = f q y) ∧ live t ∧
              pools t fun u b x => u = k ∧ ∃ q, q < count ∧ b = tileBank c.t (q0 + q) ∧ x = (q0 + q) % 512
      let src := fun va b => s.homeRead (some (s.ctx (s.ctxOf k)).part) (va + b) 1
      (c.op = 0x88 → (∀ o, o < 128 * c.count → OpReady s k c o) →
        put (c.trow + c.v) c.count (fun q y => opByte s k c (128 * q + y)) id) ∧
      (c.op = 0x89 → (s.core k).ways = [] → (s.core k).banksOf 3 = [] → (s.core k).pending = [] → ∀ pa,
        (c.wb.getLsbD 32 = false → DevSpan s k (c.wa.toNat + 128 * c.v) (128 * c.count) pa →
          put (c.trow + c.v) c.count (fun q y => src pa (128 * q + y)) id) ∧
        (c.wb.getLsbD 32 = true → ∀ pos : Nat → Nat,
          let mask (q : Nat) : Nat := numOf (fun b => src pa (pos q + b)) 16
          let ones (q y : Nat) : Nat := (List.range y).countP fun b => (mask q).testBit b
          pos 0 = 0 → (∀ q, q < c.count → pos (q + 1) = pos q + 16 + ones q 128) → DevSpan s k c.wa.toNat (pos c.count) pa →
            put (c.trow + c.v) c.count (fun q y => if (mask q).testBit y then src pa (pos q + 16 + ones q y) else 0) id)) ∧
      (c.op = 0x91 → (∀ i o, i < n → o < (c.kk * w + 7) / 8 → OpReady s k c (128 * c.pitch * i + o)) →
        (∀ q, q < c.kk * w / 4 → TileThere s k c (128 * (c.trow + q))) →
          CommandEnds k c (raised 0) id id s fun t =>
            (∀ p i, p < c.kk → i < 256 → fieldOf (tileByte t k c) (1024 * c.trow + 256 * w * p + w * i) w =
              if i < n then fieldOf (opByte s k c) (1024 * c.pitch * i + w * p) w else 0) ∧ live t ∧
            pools t fun u b x => u = k ∧ ∃ q, q < c.kk * w / 4 ∧ b = tileBank c.t (c.trow + q) ∧ x = (c.trow + q) % 512)) ∧
    (let z := 320 + c.acc
      let regs (p : Nat → Prop) : Prop := (∀ q, p q → q < 384 ∧ (q < 320 → q < 32 * (s.core k).vb)) ∧
        ∀ q, p q → ∀ j, j < 16 → (s.core k).poolUe.contains (regBank q * 512 + (regRow q + j)) = false
      let both (q : Nat) : Prop := q = z ∨ q = c.v
      let rest (t : State) (q : Nat) : Prop := pools t fun u b x => u = k ∧ b = regBank q ∧ regRow q ≤ x ∧ x < regRow q + 16
      let lives (t : State) (q : Nat) : Prop :=
        (t.core k).vlive.toNat = if q < 320 then max (s.core k).vlive.toNat (q + 1) else (s.core k).vlive.toNat
      (c.op = 0x92 → regs both →
        let r (i : Nat) : Nat × FlagSet := add32 (elem 32 ((s.core k).image z) i) (elem 32 ((s.core k).image c.v) i)
        CommandEnds k c (raised (union ((List.range 512).map fun i => (r i).2))) id id s fun t =>
          (∀ i, i < 512 → elem 32 ((t.core k).image z) i = (r i).1) ∧ live t ∧ rest t z) ∧
      (c.op = 0x93 → regs both →
        let into := if c.mod then z else c.v
        CommandEnds k c (raised 0) id id s fun t =>
          (t.core k).image into = (s.core k).image (if c.mod then c.v else z) ∧ lives t into ∧ rest t into) ∧
      (c.op = 0x8E → regs (· = c.v) → c.v < 320 → CommandEnds k c 0 id id s fun t =>
        (t.core k).image c.v = setBits ((s.core k).image c.v) 0 64 e.mstat.toNat ∧ lives t c.v ∧ rest t c.v)) ∧
    (let floats (off count : Nat) : List (BitVec 32) := (List.range count).map fun i => BitVec.ofNat 32 (numOf (fun b => opByte s k c (off + 4 * i + b)) 4)
      let there (off count : Nat) : Prop := ∀ o, off ≤ o → o < off + 4 * count → OpReady s k c o
      let sets (f : Matrix → Matrix) : Prop := CommandEnds k c (raised 0) f id s fun t => live t ∧ pools t fun _ _ _ => False
      (c.op = 0x85 → (c.ty ≠ 0 → there 0 (if c.mod then 256 else 128)) →
        sets fun m => if c.mod then { m with colScale := if c.ty = 0 then none else some (floats 0 256) }
          else { m with rowScale := if c.ty = 0 then none else some (floats 0 128) }) ∧
      (c.op = 0x86 → c.ty = 0 → sets fun m => { m with bias := none, biasGrp := none }) ∧
      (c.op = 0x86 → c.ty ≠ 0 → c.mod = false → there 0 256 → sets fun m => { m with bias := some (floats 0 256), biasGrp := none }) ∧
      (c.op = 0x86 → c.ty ≠ 0 → c.mod = true → (∀ g, g < 8 → c.counts.getD g 0 ≠ 0 → there (1024 * g) 256) →
        sets fun m => { m with
          biasGrp := some c.wa
          bias := some ((List.range 8).flatMap fun g => if c.counts.getD g 0 = 0 then List.replicate 256 0 else floats (1024 * g) 256) }) ∧
      (c.op = 0x87 → sets fun m => { m with act := c.wa }) ∧ (c.op = 0x8B → sets fun m => { m with metaRow := c.wa.setWidth 13 }) ∧
      (c.op = 0x8C → sets fun m => { m with fmt := c.wa.setWidth 4 }) ∧ (c.op = 0x8A ∨ c.op = 0x94 → sets id))

end
end

