-- ==== Sys2Proof/Laws/Encoding.lean ====
section
/-! SUPPORT. Fields packed side by side: their bound, and what a field reads back. -/

namespace Sys2Proof

/-- The bits that a list of fields takes. -/
def packWidth (l : List (Nat × Nat)) : Nat := (l.map Prod.fst).sum

theorem pack_lt (l : List (Nat × Nat)) : pack l < 2 ^ packWidth l := by
  induction l with
  | nil => simp [pack, packWidth]
  | cons e rest ih =>
    obtain ⟨w, v⟩ := e
    have hv : v % 2 ^ w < 2 ^ w := Nat.mod_lt _ (by positivity)
    have : packWidth ((w, v) :: rest) = w + packWidth rest := by simp [packWidth]
    rw [this, pow_add]
    simp only [pack]
    have h1 : pack rest + 1 ≤ 2 ^ packWidth rest := ih
    nlinarith [Nat.mul_le_mul_left (2 ^ w) h1]

/-- The first field reads back. -/
theorem fld_pack_head (w v : Nat) (rest : List (Nat × Nat)) : fld (pack ((w, v) :: rest)) 0 w = v % 2 ^ w := by
  simp [fld, pack, Nat.add_mul_mod_self_left]

/-- A field past the first one reads as it reads in the rest. -/
theorem fld_pack_tail (w v lo n : Nat) (rest : List (Nat × Nat)) :
    fld (pack ((w, v) :: rest)) (w + lo) n = fld (pack rest) lo n := by
  have hv : v % 2 ^ w < 2 ^ w := Nat.mod_lt _ (by positivity)
  have hd : (v % 2 ^ w + 2 ^ w * pack rest) / 2 ^ w = pack rest := by
    rw [Nat.add_mul_div_left _ _ (by positivity), Nat.div_eq_of_lt hv, Nat.zero_add]
  simp only [fld, pack, pow_add, ← Nat.div_div_eq_div_mul, hd]

/-- A field of a word that lies below the opcode does not depend on the opcode. -/
theorem fld_below (p q lo n : Nat) (h : lo + n ≤ 56) : fld (p + 2 ^ 56 * q) lo n = fld p lo n := by
  have e : (2 : Nat) ^ 56 = 2 ^ lo * (2 ^ n * 2 ^ (56 - lo - n)) := by
    rw [← pow_add, ← pow_add]; congr 1; omega
  simp only [fld]
  rw [e, Nat.mul_assoc, Nat.add_mul_div_left _ _ (by positivity), Nat.mul_assoc, Nat.add_mul_mod_self_left]

/-- The opcode of a word reads back. -/
theorem opcode_above (p q : Nat) (h : p < 2 ^ 56) : (p + 2 ^ 56 * q) / 2 ^ 56 = q := by
  omega

end Sys2Proof
end

