-- ==== Sys2Proof/Laws/Tables.lean ====
section
/-! SUPPORT. Tables and DEV memory: what a read gives after a write, and that every operation keeps the canonical form. -/

namespace Sys2Proof.Machine

/-! ### Reading a table -/

@[simp] theorem tblGet_tblSet_same {α : Type} (d : α) (t : Tbl α) (k : Nat) (v : α) : tblGet d (tblSet t k v) k = v := by
  fun_induction tblSet t k v <;> simp_all [tblGet]
  omega

theorem tblGet_tblSet_other {α : Type} (d : α) (t : Tbl α) {k j : Nat} (v : α) (h : j ≠ k) :
    tblGet d (tblSet t k v) j = tblGet d t j := by
  fun_induction tblSet t k v <;> simp_all [tblGet, Ne.symm h]

@[simp] theorem tblFind_tblSet_same {α : Type} (t : Tbl α) (k : Nat) (v : α) : tblFind (tblSet t k v) k = some v := by
  fun_induction tblSet t k v <;> simp_all [tblFind]
  omega

@[simp] theorem tblGet_tblDel_same {α : Type} (d : α) (t : Tbl α) (k : Nat) : tblGet d (tblDel t k) k = d := by
  induction t <;> simp_all [tblDel, tblGet, List.filter_cons]
  split <;> simp_all [tblGet]

theorem tblGet_tblDel_other {α : Type} (d : α) (t : Tbl α) {k j : Nat} (h : j ≠ k) :
    tblGet d (tblDel t k) j = tblGet d t j := by
  fun_induction tblGet d t j <;> simp_all [tblDel, tblGet, List.filter_cons]
  split <;> simp_all [tblGet]

@[simp] theorem tblGet_tblPut_same {α : Type} [DecidableEq α] (d : α) (t : Tbl α) (k : Nat) (v : α) :
    tblGet d (tblPut d t k v) k = v := by
  unfold tblPut; split <;> simp_all

theorem tblGet_tblPut_other {α : Type} [DecidableEq α] (d : α) (t : Tbl α) {k j : Nat} (v : α) (h : j ≠ k) :
    tblGet d (tblPut d t k v) j = tblGet d t j := by
  unfold tblPut; split
  · exact tblGet_tblDel_other d t h
  · exact tblGet_tblSet_other d t v h

/-- A second write of a key replaces the first. -/
@[simp] theorem tblSet_tblSet {α : Type} (t : Tbl α) (k : Nat) (v w : α) : tblSet (tblSet t k v) k w = tblSet t k w := by
  fun_induction tblSet t k v <;> simp_all [tblSet]
  rw [if_neg (by omega), if_neg (by omega)]

/-! ### The canonical form -/

theorem mem_tblSet {α : Type} {t : Tbl α} {k : Nat} {v : α} {e : Nat × α} (h : e ∈ tblSet t k v) : e = (k, v) ∨ e ∈ t := by
  fun_induction tblSet t k v <;> simp_all <;> tauto

theorem pairwise_tblSet {α : Type} (t : Tbl α) (k : Nat) (v : α) (h : t.Pairwise fun a b => a.1 < b.1) :
    (tblSet t k v).Pairwise fun a b => a.1 < b.1 := by
  fun_induction tblSet t k v with
  | case1 => simp
  | case2 j w rest k v hk =>
    refine .cons (fun e he => ?_) h
    rcases List.mem_cons.1 he with rfl | he
    · exact hk
    · exact hk.trans (List.rel_of_pairwise_cons h he)
  | case3 => exact .cons (fun _ => List.rel_of_pairwise_cons h) h.of_cons
  | case4 j w rest k v h1 h2 ih =>
    refine .cons (fun e he => ?_) (ih h.of_cons)
    rcases mem_tblSet he with rfl | he
    · show j < k; omega
    · exact List.rel_of_pairwise_cons h he

theorem tblWf_tblPut {α : Type} [DecidableEq α] (d : α) (t : Tbl α) (k : Nat) (v : α) (h : tblWf d t = true) :
    tblWf d (tblPut d t k v) = true := by
  simp only [tblWf, Bool.and_eq_true, decide_eq_true_eq, List.all_eq_true] at h ⊢
  unfold tblPut
  split
  · exact ⟨h.1.sublist List.filter_sublist, fun e he => h.2 e (List.mem_of_mem_filter he)⟩
  · rename_i hv
    refine ⟨pairwise_tblSet t k v h.1, fun e he => ?_⟩
    rcases mem_tblSet he with he | he
    · subst he; exact hv
    · exact h.2 e he

/-! ### DEV memory -/

@[simp] theorem memRead_memWrite_same (m : List Host.Cell) (a : Nat) (b : Byte) : memRead (memWrite m a b) a = b := by
  simp [memRead, memWrite]

theorem memRead_memWrite_other (m : List Host.Cell) {a c : Nat} (b : Byte) (h : c ≠ a) :
    memRead (memWrite m a b) c = memRead m c := tblGet_tblPut_other _ _ _ h

/-- Writing a byte keeps the canonical form. -/
theorem memWrite_wf {m : List Host.Cell} (h : Memory.wf m) (a : Nat) (b : Byte) : Memory.wf (memWrite m a b) :=
  tblWf_tblPut _ _ _ _ h

/-- Writing several bytes keeps the canonical form. -/
theorem memWriteN_wf {m : List Host.Cell} (h : Memory.wf m) (a n v : Nat) : Memory.wf (memWriteN m a n v) := by
  induction n generalizing m a v with
  | zero => exact h
  | succ n ih => exact ih (memWrite_wf h a _) _ _

/-- Writing bytes under a mask keeps the canonical form. -/
theorem memWriteMasked_wf {m : List Host.Cell} (h : Memory.wf m) (a n v mask : Nat) :
    Memory.wf (memWriteMasked m a n v mask) := by
  induction n generalizing m a v mask with
  | zero => exact h
  | succ n ih =>
    simp only [memWriteMasked]
    split
    · exact ih (memWrite_wf h a _) _ _ _
    · exact ih h _ _ _

/-- Bytes outside a span that is written keep their values. -/
theorem memRead_memWriteN_other (m : List Host.Cell) {a n v c : Nat} (h : c < a ∨ a + n ≤ c) :
    memRead (memWriteN m a n v) c = memRead m c := by
  induction n generalizing m a v with
  | zero => rfl
  | succ n ih =>
    simp only [memWriteN]
    rw [ih _ (by omega), memRead_memWrite_other _ _ (by omega)]

/-- Bytes outside a span, and bytes whose mask bit is clear, keep their values. -/
theorem memRead_memWriteMasked_other (m : List Host.Cell) {a n v mask c : Nat}
    (h : c < a ∨ a + n ≤ c ∨ mask.testBit (c - a) = false) :
    memRead (memWriteMasked m a n v mask) c = memRead m c := by
  induction n generalizing m a v mask with
  | zero => rfl
  | succ n ih =>
    simp only [memWriteMasked]
    have hrec : c < a + 1 ∨ a + 1 + n ≤ c ∨ (mask / 2).testBit (c - (a + 1)) = false := by
      rcases h with h | h | h
      · omega
      · omega
      · by_cases hc : c ≤ a
        · omega
        · right; right
          rw [← Nat.testBit_add_one]
          have : c - (a + 1) + 1 = c - a := by omega
          rw [this]; exact h
    rw [ih _ hrec]
    split
    · rename_i hm
      refine memRead_memWrite_other _ _ ?_
      rintro rfl
      rcases h with h | h | h
      · omega
      · omega
      · simp [hm] at h
    · rfl

/-- The memory after reset is in its canonical form. -/
theorem reset_mem_wf : Memory.wf State.reset.mem := by decide

end Sys2Proof.Machine
end

