-- ==== Sys2Proof/Laws/State.lean ====
section
/-! SUPPORT. What each update of a part of the state leaves unchanged, field by field, and what a read gives after it. -/

namespace Sys2Proof.Machine

/-! ### The fields of the state after an update of one of its parts -/

section Parts

variable (s : State) (n : Nat) (k : StreamId) (c : Core) (st : Stream) (u : Cluster) (d : Die) (x : Ctx) (p : Part) (q : Queue)
  (v : Slice)

@[simp] theorem State.setCore_agenda : (s.setCore n c).agenda = s.agenda := rfl
@[simp] theorem State.setCur_agenda : (s.setCur c).agenda = s.agenda := rfl
@[simp] theorem State.setStream_agenda : (s.setStream n k st).agenda = s.agenda := rfl
@[simp] theorem State.setCluster_agenda : (s.setCluster n u).agenda = s.agenda := rfl
@[simp] theorem State.setSt_agenda : (s.setSt st).agenda = s.agenda := rfl
@[simp] theorem State.setDie_agenda : (s.setDie n d).agenda = s.agenda := rfl
@[simp] theorem State.setCtx_agenda : (s.setCtx n x).agenda = s.agenda := rfl
@[simp] theorem State.setPart_agenda : (s.setPart n p).agenda = s.agenda := rfl
@[simp] theorem State.setQueue_agenda : (s.setQueue n q).agenda = s.agenda := rfl
@[simp] theorem State.setSlice_agenda : (s.setSlice n v).agenda = s.agenda := rfl

@[simp] theorem State.setCore_ev : (s.setCore n c).ev = s.ev := rfl
@[simp] theorem State.setCur_ev : (s.setCur c).ev = s.ev := rfl
@[simp] theorem State.setStream_ev : (s.setStream n k st).ev = s.ev := rfl
@[simp] theorem State.setCluster_ev : (s.setCluster n u).ev = s.ev := rfl
@[simp] theorem State.setSt_ev : (s.setSt st).ev = s.ev := rfl
@[simp] theorem State.setDie_ev : (s.setDie n d).ev = s.ev := rfl
@[simp] theorem State.setCtx_ev : (s.setCtx n x).ev = s.ev := rfl
@[simp] theorem State.setPart_ev : (s.setPart n p).ev = s.ev := rfl
@[simp] theorem State.setQueue_ev : (s.setQueue n q).ev = s.ev := rfl
@[simp] theorem State.setSlice_ev : (s.setSlice n v).ev = s.ev := rfl

@[simp] theorem State.setCore_curCore : (s.setCore n c).curCore = s.curCore := rfl
@[simp] theorem State.setCur_curCore : (s.setCur c).curCore = s.curCore := rfl
@[simp] theorem State.setStream_curCore : (s.setStream n k st).curCore = s.curCore := rfl
@[simp] theorem State.setCluster_curCore : (s.setCluster n u).curCore = s.curCore := rfl
@[simp] theorem State.setSt_curCore : (s.setSt st).curCore = s.curCore := rfl
@[simp] theorem State.setDie_curCore : (s.setDie n d).curCore = s.curCore := rfl
@[simp] theorem State.setCtx_curCore : (s.setCtx n x).curCore = s.curCore := rfl
@[simp] theorem State.setPart_curCore : (s.setPart n p).curCore = s.curCore := rfl
@[simp] theorem State.setQueue_curCore : (s.setQueue n q).curCore = s.curCore := rfl
@[simp] theorem State.setSlice_curCore : (s.setSlice n v).curCore = s.curCore := rfl

@[simp] theorem State.setCore_curK : (s.setCore n c).curK = s.curK := rfl
@[simp] theorem State.setCur_curK : (s.setCur c).curK = s.curK := rfl
@[simp] theorem State.setStream_curK : (s.setStream n k st).curK = s.curK := rfl
@[simp] theorem State.setCluster_curK : (s.setCluster n u).curK = s.curK := rfl
@[simp] theorem State.setSt_curK : (s.setSt st).curK = s.curK := rfl
@[simp] theorem State.setDie_curK : (s.setDie n d).curK = s.curK := rfl
@[simp] theorem State.setCtx_curK : (s.setCtx n x).curK = s.curK := rfl
@[simp] theorem State.setPart_curK : (s.setPart n p).curK = s.curK := rfl
@[simp] theorem State.setQueue_curK : (s.setQueue n q).curK = s.curK := rfl
@[simp] theorem State.setSlice_curK : (s.setSlice n v).curK = s.curK := rfl

@[simp] theorem State.setCore_word : (s.setCore n c).word = s.word := rfl
@[simp] theorem State.setCur_word : (s.setCur c).word = s.word := rfl
@[simp] theorem State.setStream_word : (s.setStream n k st).word = s.word := rfl
@[simp] theorem State.setCluster_word : (s.setCluster n u).word = s.word := rfl
@[simp] theorem State.setSt_word : (s.setSt st).word = s.word := rfl
@[simp] theorem State.setDie_word : (s.setDie n d).word = s.word := rfl
@[simp] theorem State.setCtx_word : (s.setCtx n x).word = s.word := rfl
@[simp] theorem State.setPart_word : (s.setPart n p).word = s.word := rfl
@[simp] theorem State.setQueue_word : (s.setQueue n q).word = s.word := rfl
@[simp] theorem State.setSlice_word : (s.setSlice n v).word = s.word := rfl

@[simp] theorem State.setCore_issueOnly : (s.setCore n c).issueOnly = s.issueOnly := rfl
@[simp] theorem State.setCur_issueOnly : (s.setCur c).issueOnly = s.issueOnly := rfl
@[simp] theorem State.setStream_issueOnly : (s.setStream n k st).issueOnly = s.issueOnly := rfl
@[simp] theorem State.setCluster_issueOnly : (s.setCluster n u).issueOnly = s.issueOnly := rfl
@[simp] theorem State.setSt_issueOnly : (s.setSt st).issueOnly = s.issueOnly := rfl
@[simp] theorem State.setDie_issueOnly : (s.setDie n d).issueOnly = s.issueOnly := rfl
@[simp] theorem State.setCtx_issueOnly : (s.setCtx n x).issueOnly = s.issueOnly := rfl
@[simp] theorem State.setPart_issueOnly : (s.setPart n p).issueOnly = s.issueOnly := rfl
@[simp] theorem State.setQueue_issueOnly : (s.setQueue n q).issueOnly = s.issueOnly := rfl
@[simp] theorem State.setSlice_issueOnly : (s.setSlice n v).issueOnly = s.issueOnly := rfl

@[simp] theorem State.setCore_chosen : (s.setCore n c).chosen = s.chosen := rfl
@[simp] theorem State.setCur_chosen : (s.setCur c).chosen = s.chosen := rfl
@[simp] theorem State.setStream_chosen : (s.setStream n k st).chosen = s.chosen := rfl
@[simp] theorem State.setCluster_chosen : (s.setCluster n u).chosen = s.chosen := rfl
@[simp] theorem State.setSt_chosen : (s.setSt st).chosen = s.chosen := rfl
@[simp] theorem State.setDie_chosen : (s.setDie n d).chosen = s.chosen := rfl
@[simp] theorem State.setCtx_chosen : (s.setCtx n x).chosen = s.chosen := rfl
@[simp] theorem State.setPart_chosen : (s.setPart n p).chosen = s.chosen := rfl
@[simp] theorem State.setQueue_chosen : (s.setQueue n q).chosen = s.chosen := rfl
@[simp] theorem State.setSlice_chosen : (s.setSlice n v).chosen = s.chosen := rfl

@[simp] theorem State.setCore_late : (s.setCore n c).late = s.late := rfl
@[simp] theorem State.setCur_late : (s.setCur c).late = s.late := rfl
@[simp] theorem State.setStream_late : (s.setStream n k st).late = s.late := rfl
@[simp] theorem State.setCluster_late : (s.setCluster n u).late = s.late := rfl
@[simp] theorem State.setSt_late : (s.setSt st).late = s.late := rfl
@[simp] theorem State.setDie_late : (s.setDie n d).late = s.late := rfl
@[simp] theorem State.setCtx_late : (s.setCtx n x).late = s.late := rfl
@[simp] theorem State.setPart_late : (s.setPart n p).late = s.late := rfl
@[simp] theorem State.setQueue_late : (s.setQueue n q).late = s.late := rfl
@[simp] theorem State.setSlice_late : (s.setSlice n v).late = s.late := rfl

@[simp] theorem State.setCore_expanding : (s.setCore n c).expanding = s.expanding := rfl
@[simp] theorem State.setCur_expanding : (s.setCur c).expanding = s.expanding := rfl
@[simp] theorem State.setStream_expanding : (s.setStream n k st).expanding = s.expanding := rfl
@[simp] theorem State.setCluster_expanding : (s.setCluster n u).expanding = s.expanding := rfl
@[simp] theorem State.setSt_expanding : (s.setSt st).expanding = s.expanding := rfl
@[simp] theorem State.setDie_expanding : (s.setDie n d).expanding = s.expanding := rfl
@[simp] theorem State.setCtx_expanding : (s.setCtx n x).expanding = s.expanding := rfl
@[simp] theorem State.setPart_expanding : (s.setPart n p).expanding = s.expanding := rfl
@[simp] theorem State.setQueue_expanding : (s.setQueue n q).expanding = s.expanding := rfl
@[simp] theorem State.setSlice_expanding : (s.setSlice n v).expanding = s.expanding := rfl

@[simp] theorem State.setCore_expanded : (s.setCore n c).expanded = s.expanded := rfl
@[simp] theorem State.setCur_expanded : (s.setCur c).expanded = s.expanded := rfl
@[simp] theorem State.setStream_expanded : (s.setStream n k st).expanded = s.expanded := rfl
@[simp] theorem State.setCluster_expanded : (s.setCluster n u).expanded = s.expanded := rfl
@[simp] theorem State.setSt_expanded : (s.setSt st).expanded = s.expanded := rfl
@[simp] theorem State.setDie_expanded : (s.setDie n d).expanded = s.expanded := rfl
@[simp] theorem State.setCtx_expanded : (s.setCtx n x).expanded = s.expanded := rfl
@[simp] theorem State.setPart_expanded : (s.setPart n p).expanded = s.expanded := rfl
@[simp] theorem State.setQueue_expanded : (s.setQueue n q).expanded = s.expanded := rfl
@[simp] theorem State.setSlice_expanded : (s.setSlice n v).expanded = s.expanded := rfl

@[simp] theorem State.setCore_time : (s.setCore n c).time = s.time := rfl
@[simp] theorem State.setCur_time : (s.setCur c).time = s.time := rfl
@[simp] theorem State.setStream_time : (s.setStream n k st).time = s.time := rfl
@[simp] theorem State.setCluster_time : (s.setCluster n u).time = s.time := rfl
@[simp] theorem State.setSt_time : (s.setSt st).time = s.time := rfl
@[simp] theorem State.setDie_time : (s.setDie n d).time = s.time := rfl
@[simp] theorem State.setCtx_time : (s.setCtx n x).time = s.time := rfl
@[simp] theorem State.setPart_time : (s.setPart n p).time = s.time := rfl
@[simp] theorem State.setQueue_time : (s.setQueue n q).time = s.time := rfl
@[simp] theorem State.setSlice_time : (s.setSlice n v).time = s.time := rfl

@[simp] theorem State.setCore_free : (s.setCore n c).free = s.free := rfl
@[simp] theorem State.setCur_free : (s.setCur c).free = s.free := rfl
@[simp] theorem State.setStream_free : (s.setStream n k st).free = s.free := rfl
@[simp] theorem State.setCluster_free : (s.setCluster n u).free = s.free := rfl
@[simp] theorem State.setSt_free : (s.setSt st).free = s.free := rfl
@[simp] theorem State.setDie_free : (s.setDie n d).free = s.free := rfl
@[simp] theorem State.setCtx_free : (s.setCtx n x).free = s.free := rfl
@[simp] theorem State.setPart_free : (s.setPart n p).free = s.free := rfl
@[simp] theorem State.setQueue_free : (s.setQueue n q).free = s.free := rfl
@[simp] theorem State.setSlice_free : (s.setSlice n v).free = s.free := rfl

@[simp] theorem State.setCluster_cores : (s.setCluster n u).cores = s.cores := rfl
@[simp] theorem State.setDie_cores : (s.setDie n d).cores = s.cores := rfl
@[simp] theorem State.setCtx_cores : (s.setCtx n x).cores = s.cores := rfl
@[simp] theorem State.setPart_cores : (s.setPart n p).cores = s.cores := rfl
@[simp] theorem State.setQueue_cores : (s.setQueue n q).cores = s.cores := rfl
@[simp] theorem State.setSlice_cores : (s.setSlice n v).cores = s.cores := rfl

@[simp] theorem State.setCore_clusters : (s.setCore n c).clusters = s.clusters := rfl
@[simp] theorem State.setCur_clusters : (s.setCur c).clusters = s.clusters := rfl
@[simp] theorem State.setStream_clusters : (s.setStream n k st).clusters = s.clusters := rfl
@[simp] theorem State.setSt_clusters : (s.setSt st).clusters = s.clusters := rfl
@[simp] theorem State.setDie_clusters : (s.setDie n d).clusters = s.clusters := rfl
@[simp] theorem State.setCtx_clusters : (s.setCtx n x).clusters = s.clusters := rfl
@[simp] theorem State.setPart_clusters : (s.setPart n p).clusters = s.clusters := rfl
@[simp] theorem State.setQueue_clusters : (s.setQueue n q).clusters = s.clusters := rfl
@[simp] theorem State.setSlice_clusters : (s.setSlice n v).clusters = s.clusters := rfl

@[simp] theorem State.setCore_dies : (s.setCore n c).dies = s.dies := rfl
@[simp] theorem State.setCur_dies : (s.setCur c).dies = s.dies := rfl
@[simp] theorem State.setStream_dies : (s.setStream n k st).dies = s.dies := rfl
@[simp] theorem State.setCluster_dies : (s.setCluster n u).dies = s.dies := rfl
@[simp] theorem State.setSt_dies : (s.setSt st).dies = s.dies := rfl
@[simp] theorem State.setCtx_dies : (s.setCtx n x).dies = s.dies := rfl
@[simp] theorem State.setPart_dies : (s.setPart n p).dies = s.dies := rfl
@[simp] theorem State.setQueue_dies : (s.setQueue n q).dies = s.dies := rfl
@[simp] theorem State.setSlice_dies : (s.setSlice n v).dies = s.dies := rfl

@[simp] theorem State.setCore_ctxs : (s.setCore n c).ctxs = s.ctxs := rfl
@[simp] theorem State.setCur_ctxs : (s.setCur c).ctxs = s.ctxs := rfl
@[simp] theorem State.setStream_ctxs : (s.setStream n k st).ctxs = s.ctxs := rfl
@[simp] theorem State.setCluster_ctxs : (s.setCluster n u).ctxs = s.ctxs := rfl
@[simp] theorem State.setSt_ctxs : (s.setSt st).ctxs = s.ctxs := rfl
@[simp] theorem State.setDie_ctxs : (s.setDie n d).ctxs = s.ctxs := rfl
@[simp] theorem State.setPart_ctxs : (s.setPart n p).ctxs = s.ctxs := rfl
@[simp] theorem State.setQueue_ctxs : (s.setQueue n q).ctxs = s.ctxs := rfl
@[simp] theorem State.setSlice_ctxs : (s.setSlice n v).ctxs = s.ctxs := rfl

@[simp] theorem State.setCore_parts : (s.setCore n c).parts = s.parts := rfl
@[simp] theorem State.setCur_parts : (s.setCur c).parts = s.parts := rfl
@[simp] theorem State.setStream_parts : (s.setStream n k st).parts = s.parts := rfl
@[simp] theorem State.setCluster_parts : (s.setCluster n u).parts = s.parts := rfl
@[simp] theorem State.setSt_parts : (s.setSt st).parts = s.parts := rfl
@[simp] theorem State.setDie_parts : (s.setDie n d).parts = s.parts := rfl
@[simp] theorem State.setCtx_parts : (s.setCtx n x).parts = s.parts := rfl
@[simp] theorem State.setQueue_parts : (s.setQueue n q).parts = s.parts := rfl
@[simp] theorem State.setSlice_parts : (s.setSlice n v).parts = s.parts := rfl

@[simp] theorem State.setCore_queues : (s.setCore n c).queues = s.queues := rfl
@[simp] theorem State.setCur_queues : (s.setCur c).queues = s.queues := rfl
@[simp] theorem State.setStream_queues : (s.setStream n k st).queues = s.queues := rfl
@[simp] theorem State.setCluster_queues : (s.setCluster n u).queues = s.queues := rfl
@[simp] theorem State.setSt_queues : (s.setSt st).queues = s.queues := rfl
@[simp] theorem State.setDie_queues : (s.setDie n d).queues = s.queues := rfl
@[simp] theorem State.setCtx_queues : (s.setCtx n x).queues = s.queues := rfl
@[simp] theorem State.setPart_queues : (s.setPart n p).queues = s.queues := rfl
@[simp] theorem State.setSlice_queues : (s.setSlice n v).queues = s.queues := rfl

@[simp] theorem State.setCore_slices : (s.setCore n c).slices = s.slices := rfl
@[simp] theorem State.setCur_slices : (s.setCur c).slices = s.slices := rfl
@[simp] theorem State.setStream_slices : (s.setStream n k st).slices = s.slices := rfl
@[simp] theorem State.setCluster_slices : (s.setCluster n u).slices = s.slices := rfl
@[simp] theorem State.setSt_slices : (s.setSt st).slices = s.slices := rfl
@[simp] theorem State.setDie_slices : (s.setDie n d).slices = s.slices := rfl
@[simp] theorem State.setCtx_slices : (s.setCtx n x).slices = s.slices := rfl
@[simp] theorem State.setPart_slices : (s.setPart n p).slices = s.slices := rfl
@[simp] theorem State.setQueue_slices : (s.setQueue n q).slices = s.slices := rfl

@[simp] theorem State.setCore_nextSlice : (s.setCore n c).nextSlice = s.nextSlice := rfl
@[simp] theorem State.setCur_nextSlice : (s.setCur c).nextSlice = s.nextSlice := rfl
@[simp] theorem State.setStream_nextSlice : (s.setStream n k st).nextSlice = s.nextSlice := rfl
@[simp] theorem State.setCluster_nextSlice : (s.setCluster n u).nextSlice = s.nextSlice := rfl
@[simp] theorem State.setSt_nextSlice : (s.setSt st).nextSlice = s.nextSlice := rfl
@[simp] theorem State.setDie_nextSlice : (s.setDie n d).nextSlice = s.nextSlice := rfl
@[simp] theorem State.setCtx_nextSlice : (s.setCtx n x).nextSlice = s.nextSlice := rfl
@[simp] theorem State.setPart_nextSlice : (s.setPart n p).nextSlice = s.nextSlice := rfl
@[simp] theorem State.setQueue_nextSlice : (s.setQueue n q).nextSlice = s.nextSlice := rfl
@[simp] theorem State.setSlice_nextSlice : (s.setSlice n v).nextSlice = s.nextSlice := rfl

@[simp] theorem State.setCore_mem : (s.setCore n c).mem = s.mem := rfl
@[simp] theorem State.setCur_mem : (s.setCur c).mem = s.mem := rfl
@[simp] theorem State.setStream_mem : (s.setStream n k st).mem = s.mem := rfl
@[simp] theorem State.setCluster_mem : (s.setCluster n u).mem = s.mem := rfl
@[simp] theorem State.setSt_mem : (s.setSt st).mem = s.mem := rfl
@[simp] theorem State.setDie_mem : (s.setDie n d).mem = s.mem := rfl
@[simp] theorem State.setCtx_mem : (s.setCtx n x).mem = s.mem := rfl
@[simp] theorem State.setPart_mem : (s.setPart n p).mem = s.mem := rfl
@[simp] theorem State.setQueue_mem : (s.setQueue n q).mem = s.mem := rfl
@[simp] theorem State.setSlice_mem : (s.setSlice n v).mem = s.mem := rfl

@[simp] theorem State.setCore_scanned : (s.setCore n c).scanned = s.scanned := rfl
@[simp] theorem State.setCur_scanned : (s.setCur c).scanned = s.scanned := rfl
@[simp] theorem State.setStream_scanned : (s.setStream n k st).scanned = s.scanned := rfl
@[simp] theorem State.setCluster_scanned : (s.setCluster n u).scanned = s.scanned := rfl
@[simp] theorem State.setSt_scanned : (s.setSt st).scanned = s.scanned := rfl
@[simp] theorem State.setDie_scanned : (s.setDie n d).scanned = s.scanned := rfl
@[simp] theorem State.setCtx_scanned : (s.setCtx n x).scanned = s.scanned := rfl
@[simp] theorem State.setPart_scanned : (s.setPart n p).scanned = s.scanned := rfl
@[simp] theorem State.setQueue_scanned : (s.setQueue n q).scanned = s.scanned := rfl
@[simp] theorem State.setSlice_scanned : (s.setSlice n v).scanned = s.scanned := rfl

@[simp] theorem State.setCore_heldAppends : (s.setCore n c).heldAppends = s.heldAppends := rfl
@[simp] theorem State.setCur_heldAppends : (s.setCur c).heldAppends = s.heldAppends := rfl
@[simp] theorem State.setStream_heldAppends : (s.setStream n k st).heldAppends = s.heldAppends := rfl
@[simp] theorem State.setCluster_heldAppends : (s.setCluster n u).heldAppends = s.heldAppends := rfl
@[simp] theorem State.setSt_heldAppends : (s.setSt st).heldAppends = s.heldAppends := rfl
@[simp] theorem State.setDie_heldAppends : (s.setDie n d).heldAppends = s.heldAppends := rfl
@[simp] theorem State.setCtx_heldAppends : (s.setCtx n x).heldAppends = s.heldAppends := rfl
@[simp] theorem State.setPart_heldAppends : (s.setPart n p).heldAppends = s.heldAppends := rfl
@[simp] theorem State.setQueue_heldAppends : (s.setQueue n q).heldAppends = s.heldAppends := rfl
@[simp] theorem State.setSlice_heldAppends : (s.setSlice n v).heldAppends = s.heldAppends := rfl

@[simp] theorem State.setCore_ue : (s.setCore n c).ue = s.ue := rfl
@[simp] theorem State.setCur_ue : (s.setCur c).ue = s.ue := rfl
@[simp] theorem State.setStream_ue : (s.setStream n k st).ue = s.ue := rfl
@[simp] theorem State.setCluster_ue : (s.setCluster n u).ue = s.ue := rfl
@[simp] theorem State.setSt_ue : (s.setSt st).ue = s.ue := rfl
@[simp] theorem State.setDie_ue : (s.setDie n d).ue = s.ue := rfl
@[simp] theorem State.setCtx_ue : (s.setCtx n x).ue = s.ue := rfl
@[simp] theorem State.setPart_ue : (s.setPart n p).ue = s.ue := rfl
@[simp] theorem State.setQueue_ue : (s.setQueue n q).ue = s.ue := rfl
@[simp] theorem State.setSlice_ue : (s.setSlice n v).ue = s.ue := rfl

@[simp] theorem State.setCore_intervals : (s.setCore n c).intervals = s.intervals := rfl
@[simp] theorem State.setCur_intervals : (s.setCur c).intervals = s.intervals := rfl
@[simp] theorem State.setStream_intervals : (s.setStream n k st).intervals = s.intervals := rfl
@[simp] theorem State.setCluster_intervals : (s.setCluster n u).intervals = s.intervals := rfl
@[simp] theorem State.setSt_intervals : (s.setSt st).intervals = s.intervals := rfl
@[simp] theorem State.setDie_intervals : (s.setDie n d).intervals = s.intervals := rfl
@[simp] theorem State.setCtx_intervals : (s.setCtx n x).intervals = s.intervals := rfl
@[simp] theorem State.setPart_intervals : (s.setPart n p).intervals = s.intervals := rfl
@[simp] theorem State.setQueue_intervals : (s.setQueue n q).intervals = s.intervals := rfl
@[simp] theorem State.setSlice_intervals : (s.setSlice n v).intervals = s.intervals := rfl

@[simp] theorem State.setCore_pack : (s.setCore n c).pack = s.pack := rfl
@[simp] theorem State.setCur_pack : (s.setCur c).pack = s.pack := rfl
@[simp] theorem State.setStream_pack : (s.setStream n k st).pack = s.pack := rfl
@[simp] theorem State.setCluster_pack : (s.setCluster n u).pack = s.pack := rfl
@[simp] theorem State.setSt_pack : (s.setSt st).pack = s.pack := rfl
@[simp] theorem State.setDie_pack : (s.setDie n d).pack = s.pack := rfl
@[simp] theorem State.setCtx_pack : (s.setCtx n x).pack = s.pack := rfl
@[simp] theorem State.setPart_pack : (s.setPart n p).pack = s.pack := rfl
@[simp] theorem State.setQueue_pack : (s.setQueue n q).pack = s.pack := rfl
@[simp] theorem State.setSlice_pack : (s.setSlice n v).pack = s.pack := rfl

@[simp] theorem State.setCore_fabric : (s.setCore n c).fabric = s.fabric := rfl
@[simp] theorem State.setCur_fabric : (s.setCur c).fabric = s.fabric := rfl
@[simp] theorem State.setStream_fabric : (s.setStream n k st).fabric = s.fabric := rfl
@[simp] theorem State.setCluster_fabric : (s.setCluster n u).fabric = s.fabric := rfl
@[simp] theorem State.setSt_fabric : (s.setSt st).fabric = s.fabric := rfl
@[simp] theorem State.setDie_fabric : (s.setDie n d).fabric = s.fabric := rfl
@[simp] theorem State.setCtx_fabric : (s.setCtx n x).fabric = s.fabric := rfl
@[simp] theorem State.setPart_fabric : (s.setPart n p).fabric = s.fabric := rfl
@[simp] theorem State.setQueue_fabric : (s.setQueue n q).fabric = s.fabric := rfl
@[simp] theorem State.setSlice_fabric : (s.setSlice n v).fabric = s.fabric := rfl

@[simp] theorem State.setCore_control : (s.setCore n c).control = s.control := rfl
@[simp] theorem State.setCur_control : (s.setCur c).control = s.control := rfl
@[simp] theorem State.setStream_control : (s.setStream n k st).control = s.control := rfl
@[simp] theorem State.setCluster_control : (s.setCluster n u).control = s.control := rfl
@[simp] theorem State.setSt_control : (s.setSt st).control = s.control := rfl
@[simp] theorem State.setDie_control : (s.setDie n d).control = s.control := rfl
@[simp] theorem State.setCtx_control : (s.setCtx n x).control = s.control := rfl
@[simp] theorem State.setPart_control : (s.setPart n p).control = s.control := rfl
@[simp] theorem State.setQueue_control : (s.setQueue n q).control = s.control := rfl
@[simp] theorem State.setSlice_control : (s.setSlice n v).control = s.control := rfl

end Parts

/-! ### The fields of a core after an update of a stream or a token queue -/

section Cores

variable (c : Core) (k : StreamId) (st : Stream) (q n : Nat)

@[simp] theorem Core.addTokens_l : (c.addTokens q n).l = c.l := rfl
@[simp] theorem Core.takeTokens_l : (c.takeTokens q n).l = c.l := rfl
@[simp] theorem Core.addTokens_xs : (c.addTokens q n).xs = c.xs := rfl
@[simp] theorem Core.takeTokens_xs : (c.takeTokens q n).xs = c.xs := rfl
@[simp] theorem Core.addTokens_s : (c.addTokens q n).s = c.s := rfl
@[simp] theorem Core.takeTokens_s : (c.takeTokens q n).s = c.s := rfl
@[simp] theorem Core.addTokens_k : (c.addTokens q n).k = c.k := rfl
@[simp] theorem Core.takeTokens_k : (c.takeTokens q n).k = c.k := rfl
@[simp] theorem Core.setStream_slice : (c.setStream k st).slice = c.slice := by cases k <;> rfl
@[simp] theorem Core.addTokens_slice : (c.addTokens q n).slice = c.slice := rfl
@[simp] theorem Core.takeTokens_slice : (c.takeTokens q n).slice = c.slice := rfl
@[simp] theorem Core.setStream_grant : (c.setStream k st).grant = c.grant := by cases k <;> rfl
@[simp] theorem Core.addTokens_grant : (c.addTokens q n).grant = c.grant := rfl
@[simp] theorem Core.takeTokens_grant : (c.takeTokens q n).grant = c.grant := rfl
@[simp] theorem Core.setStream_preds : (c.setStream k st).preds = c.preds := by cases k <;> rfl
@[simp] theorem Core.addTokens_preds : (c.addTokens q n).preds = c.preds := rfl
@[simp] theorem Core.takeTokens_preds : (c.takeTokens q n).preds = c.preds := rfl
@[simp] theorem Core.setStream_tokq : (c.setStream k st).tokq = c.tokq := by cases k <;> rfl
@[simp] theorem Core.setStream_sems : (c.setStream k st).sems = c.sems := by cases k <;> rfl
@[simp] theorem Core.addTokens_sems : (c.addTokens q n).sems = c.sems := rfl
@[simp] theorem Core.takeTokens_sems : (c.takeTokens q n).sems = c.sems := rfl
@[simp] theorem Core.setStream_rings : (c.setStream k st).rings = c.rings := by cases k <;> rfl
@[simp] theorem Core.addTokens_rings : (c.addTokens q n).rings = c.rings := rfl
@[simp] theorem Core.takeTokens_rings : (c.takeTokens q n).rings = c.rings := rfl
@[simp] theorem Core.setStream_pool : (c.setStream k st).pool = c.pool := by cases k <;> rfl
@[simp] theorem Core.addTokens_pool : (c.addTokens q n).pool = c.pool := rfl
@[simp] theorem Core.takeTokens_pool : (c.takeTokens q n).pool = c.pool := rfl
@[simp] theorem Core.setStream_roles : (c.setStream k st).roles = c.roles := by cases k <;> rfl
@[simp] theorem Core.addTokens_roles : (c.addTokens q n).roles = c.roles := rfl
@[simp] theorem Core.takeTokens_roles : (c.takeTokens q n).roles = c.roles := rfl
@[simp] theorem Core.setStream_pins : (c.setStream k st).pins = c.pins := by cases k <;> rfl
@[simp] theorem Core.addTokens_pins : (c.addTokens q n).pins = c.pins := rfl
@[simp] theorem Core.takeTokens_pins : (c.takeTokens q n).pins = c.pins := rfl
@[simp] theorem Core.setStream_vlive : (c.setStream k st).vlive = c.vlive := by cases k <;> rfl
@[simp] theorem Core.addTokens_vlive : (c.addTokens q n).vlive = c.vlive := rfl
@[simp] theorem Core.takeTokens_vlive : (c.takeTokens q n).vlive = c.vlive := rfl
@[simp] theorem Core.setStream_poolStatus : (c.setStream k st).poolStatus = c.poolStatus := by cases k <;> rfl
@[simp] theorem Core.addTokens_poolStatus : (c.addTokens q n).poolStatus = c.poolStatus := rfl
@[simp] theorem Core.takeTokens_poolStatus : (c.takeTokens q n).poolStatus = c.poolStatus := rfl
@[simp] theorem Core.setStream_poolBusy : (c.setStream k st).poolBusy = c.poolBusy := by cases k <;> rfl
@[simp] theorem Core.addTokens_poolBusy : (c.addTokens q n).poolBusy = c.poolBusy := rfl
@[simp] theorem Core.takeTokens_poolBusy : (c.takeTokens q n).poolBusy = c.poolBusy := rfl
@[simp] theorem Core.setStream_poolUe : (c.setStream k st).poolUe = c.poolUe := by cases k <;> rfl
@[simp] theorem Core.addTokens_poolUe : (c.addTokens q n).poolUe = c.poolUe := rfl
@[simp] theorem Core.takeTokens_poolUe : (c.takeTokens q n).poolUe = c.poolUe := rfl
@[simp] theorem Core.setStream_retired : (c.setStream k st).retired = c.retired := by cases k <;> rfl
@[simp] theorem Core.addTokens_retired : (c.addTokens q n).retired = c.retired := rfl
@[simp] theorem Core.takeTokens_retired : (c.takeTokens q n).retired = c.retired := rfl
@[simp] theorem Core.setStream_failed : (c.setStream k st).failed = c.failed := by cases k <;> rfl
@[simp] theorem Core.addTokens_failed : (c.addTokens q n).failed = c.failed := rfl
@[simp] theorem Core.takeTokens_failed : (c.takeTokens q n).failed = c.failed := rfl
@[simp] theorem Core.setStream_ways : (c.setStream k st).ways = c.ways := by cases k <;> rfl
@[simp] theorem Core.addTokens_ways : (c.addTokens q n).ways = c.ways := rfl
@[simp] theorem Core.takeTokens_ways : (c.takeTokens q n).ways = c.ways := rfl
@[simp] theorem Core.setStream_wayClock : (c.setStream k st).wayClock = c.wayClock := by cases k <;> rfl
@[simp] theorem Core.addTokens_wayClock : (c.addTokens q n).wayClock = c.wayClock := rfl
@[simp] theorem Core.takeTokens_wayClock : (c.takeTokens q n).wayClock = c.wayClock := rfl
@[simp] theorem Core.setStream_hostSent : (c.setStream k st).hostSent = c.hostSent := by cases k <;> rfl
@[simp] theorem Core.addTokens_hostSent : (c.addTokens q n).hostSent = c.hostSent := rfl
@[simp] theorem Core.takeTokens_hostSent : (c.takeTokens q n).hostSent = c.hostSent := rfl
@[simp] theorem Core.setStream_hostFlushed : (c.setStream k st).hostFlushed = c.hostFlushed := by cases k <;> rfl
@[simp] theorem Core.addTokens_hostFlushed : (c.addTokens q n).hostFlushed = c.hostFlushed := rfl
@[simp] theorem Core.takeTokens_hostFlushed : (c.takeTokens q n).hostFlushed = c.hostFlushed := rfl
@[simp] theorem Core.setStream_peerSent : (c.setStream k st).peerSent = c.peerSent := by cases k <;> rfl
@[simp] theorem Core.addTokens_peerSent : (c.addTokens q n).peerSent = c.peerSent := rfl
@[simp] theorem Core.takeTokens_peerSent : (c.takeTokens q n).peerSent = c.peerSent := rfl
@[simp] theorem Core.setStream_peerFlushed : (c.setStream k st).peerFlushed = c.peerFlushed := by cases k <;> rfl
@[simp] theorem Core.addTokens_peerFlushed : (c.addTokens q n).peerFlushed = c.peerFlushed := rfl
@[simp] theorem Core.takeTokens_peerFlushed : (c.takeTokens q n).peerFlushed = c.peerFlushed := rfl
@[simp] theorem Core.setStream_tlb : (c.setStream k st).tlb = c.tlb := by cases k <;> rfl
@[simp] theorem Core.addTokens_tlb : (c.addTokens q n).tlb = c.tlb := rfl
@[simp] theorem Core.takeTokens_tlb : (c.takeTokens q n).tlb = c.tlb := rfl
@[simp] theorem Core.setStream_reshape : (c.setStream k st).reshape = c.reshape := by cases k <;> rfl
@[simp] theorem Core.addTokens_reshape : (c.addTokens q n).reshape = c.reshape := rfl
@[simp] theorem Core.takeTokens_reshape : (c.takeTokens q n).reshape = c.reshape := rfl
@[simp] theorem Core.setStream_pending : (c.setStream k st).pending = c.pending := by cases k <;> rfl
@[simp] theorem Core.addTokens_pending : (c.addTokens q n).pending = c.pending := rfl
@[simp] theorem Core.takeTokens_pending : (c.takeTokens q n).pending = c.pending := rfl
@[simp] theorem Core.setStream_windows : (c.setStream k st).windows = c.windows := by cases k <;> rfl
@[simp] theorem Core.addTokens_windows : (c.addTokens q n).windows = c.windows := rfl
@[simp] theorem Core.takeTokens_windows : (c.takeTokens q n).windows = c.windows := rfl
@[simp] theorem Core.setStream_matrix : (c.setStream k st).matrix = c.matrix := by cases k <;> rfl
@[simp] theorem Core.addTokens_matrix : (c.addTokens q n).matrix = c.matrix := rfl
@[simp] theorem Core.takeTokens_matrix : (c.takeTokens q n).matrix = c.matrix := rfl
@[simp] theorem Core.setStream_amax : (c.setStream k st).amax = c.amax := by cases k <;> rfl
@[simp] theorem Core.addTokens_amax : (c.addTokens q n).amax = c.amax := rfl
@[simp] theorem Core.takeTokens_amax : (c.takeTokens q n).amax = c.amax := rfl
@[simp] theorem Core.setStream_srkey : (c.setStream k st).srkey = c.srkey := by cases k <;> rfl
@[simp] theorem Core.addTokens_srkey : (c.addTokens q n).srkey = c.srkey := rfl
@[simp] theorem Core.takeTokens_srkey : (c.takeTokens q n).srkey = c.srkey := rfl
@[simp] theorem Core.setStream_srctr : (c.setStream k st).srctr = c.srctr := by cases k <;> rfl
@[simp] theorem Core.addTokens_srctr : (c.addTokens q n).srctr = c.srctr := rfl
@[simp] theorem Core.takeTokens_srctr : (c.takeTokens q n).srctr = c.srctr := rfl
@[simp] theorem Core.setStream_vrkey : (c.setStream k st).vrkey = c.vrkey := by cases k <;> rfl
@[simp] theorem Core.addTokens_vrkey : (c.addTokens q n).vrkey = c.vrkey := rfl
@[simp] theorem Core.takeTokens_vrkey : (c.takeTokens q n).vrkey = c.vrkey := rfl
@[simp] theorem Core.setStream_vrctr : (c.setStream k st).vrctr = c.vrctr := by cases k <;> rfl
@[simp] theorem Core.addTokens_vrctr : (c.addTokens q n).vrctr = c.vrctr := rfl
@[simp] theorem Core.takeTokens_vrctr : (c.takeTokens q n).vrctr = c.vrctr := rfl
@[simp] theorem Core.setStream_dphs : (c.setStream k st).dphs = c.dphs := by cases k <;> rfl
@[simp] theorem Core.addTokens_dphs : (c.addTokens q n).dphs = c.dphs := rfl
@[simp] theorem Core.takeTokens_dphs : (c.takeTokens q n).dphs = c.dphs := rfl
@[simp] theorem Core.setStream_dom : (c.setStream k st).dom = c.dom := by cases k <;> rfl
@[simp] theorem Core.addTokens_dom : (c.addTokens q n).dom = c.dom := rfl
@[simp] theorem Core.takeTokens_dom : (c.takeTokens q n).dom = c.dom := rfl
@[simp] theorem Core.setStream_shdr : (c.setStream k st).shdr = c.shdr := by cases k <;> rfl
@[simp] theorem Core.addTokens_shdr : (c.addTokens q n).shdr = c.shdr := rfl
@[simp] theorem Core.takeTokens_shdr : (c.takeTokens q n).shdr = c.shdr := rfl

end Cores

/-! ### Reads after writes -/

@[simp] theorem Core.stream_setStream_same (c : Core) (k : StreamId) (v : Stream) : (c.setStream k v).stream k = v := by
  cases k <;> rfl
theorem Core.stream_setStream_other (c : Core) {k j : StreamId} (v : Stream) (h : j ≠ k) :
    (c.setStream k v).stream j = c.stream j := by
  cases k <;> cases j <;> first | rfl | exact absurd rfl h
@[simp] theorem Core.setStream_setStream (c : Core) (k : StreamId) (v w : Stream) :
    (c.setStream k v).setStream k w = c.setStream k w := by
  cases k <;> rfl

@[simp] theorem State.core_setCore_same (s : State) (c : Nat) (v : Core) : (s.setCore c v).core c = v := by
  simp [State.core, State.setCore]
theorem State.core_setCore_other (s : State) {c d : Nat} (v : Core) (h : d ≠ c) : (s.setCore c v).core d = s.core d :=
  tblGet_tblSet_other _ _ _ h
@[simp] theorem State.setCore_setCore (s : State) (c : Nat) (v w : Core) : (s.setCore c v).setCore c w = s.setCore c w := by
  simp [State.setCore]
@[simp] theorem State.cluster_setCluster_same (s : State) (c : Nat) (v : Cluster) : (s.setCluster c v).cluster c = v := by
  simp [State.cluster, State.setCluster]
@[simp] theorem State.ctx_setCtx_same (s : State) (x : Nat) (v : Ctx) : (s.setCtx x v).ctx x = v := by
  simp [State.ctx, State.setCtx]
theorem State.ctx_setCtx_other (s : State) {x y : Nat} (v : Ctx) (h : y ≠ x) : (s.setCtx x v).ctx y = s.ctx y :=
  tblGet_tblSet_other _ _ _ h
@[simp] theorem State.part_setPart_same (s : State) (p : Nat) (v : Part) : (s.setPart p v).part p = v := by
  simp [State.part, State.setPart]
@[simp] theorem State.queue_setQueue_same (s : State) (q : Nat) (v : Queue) : (s.setQueue q v).queue q = v := by
  simp [State.queue, State.setQueue]
@[simp] theorem State.die_setDie_same (s : State) (d : Nat) (v : Die) : (s.setDie d v).die d = v := by
  simp [State.die, State.setDie]
@[simp] theorem State.slice_setSlice_same (s : State) (n : Nat) (v : Slice) : (s.setSlice n v).slice n = some v := by
  simp [State.slice, State.setSlice]

@[simp] theorem State.cur_setCur (s : State) (v : Core) : (s.setCur v).cur = v := by
  simp [State.cur, State.setCur]
@[simp] theorem State.setCur_setCur (s : State) (v w : Core) : (s.setCur v).setCur w = s.setCur w := by
  simp [State.setCur, State.setCore]
@[simp] theorem State.st_setSt (s : State) (v : Stream) : (s.setSt v).st = v := by
  simp [State.st, State.setSt]
@[simp] theorem State.setSt_setSt (s : State) (v w : Stream) : (s.setSt v).setSt w = s.setSt w := by
  simp [State.setSt]
@[simp] theorem State.cur_setSt (s : State) (v : Stream) : (s.setSt v).cur = s.cur.setStream s.curK v := by
  simp [State.setSt]
@[simp] theorem State.st_setCur (s : State) (v : Core) : (s.setCur v).st = v.stream s.curK := by
  simp [State.st]

/-- Writing a register gives its value, and leaves every other register; x0 reads zero whatever is written (R17). -/
theorem Stream.reg_setReg (st : Stream) (r q : Reg) (v : W64) :
    (st.setReg r v).reg q = if q = r then (if r = 0 then 0 else v) else st.reg q := by
  by_cases hr : r = 0
  · subst hr
    have h : st.setReg 0 v = st := if_pos rfl
    rw [h]
    by_cases hq : q = 0
    · subst hq; rw [if_pos rfl, if_pos rfl]; exact if_pos rfl
    · rw [if_neg hq]
  · have h : st.setReg r v = { st with x := tblPut 0 st.x r.toNat v } := if_neg hr
    rw [h, if_neg hr]
    by_cases hq : q = r
    · subst hq; rw [if_pos rfl]; exact (if_neg hr).trans (tblGet_tblPut_same _ _ _ _)
    · have hn : q.toNat ≠ r.toNat := fun h => hq (BitVec.eq_of_toNat_eq h)
      rw [if_neg hq]
      unfold Stream.reg
      by_cases h0 : q = 0
      · rw [if_pos h0, if_pos h0]
      · rw [if_neg h0, if_neg h0]; exact tblGet_tblPut_other _ _ _ hn

theorem State.rx_wx (s : State) (r q : Reg) (v : W64) :
    (s.wx r v).rx q = if q = r then (if r = 0 then 0 else v) else s.rx q := by
  simp [State.rx, State.wx, Stream.reg_setReg]

@[simp] theorem State.rx_zero (s : State) : s.rx 0 = 0 := by simp [State.rx, Stream.reg]

/-- Writing a predicate register; p0 reads all ones whatever is written (R19). -/
theorem Core.pred_setPred (c : Core) (p q : PReg) (v : BitVec 2048) :
    (c.setPred p v).pred q = if q = p then (if p = 0 then predOnes else v) else c.pred q := by
  by_cases hr : p = 0
  · subst hr
    have h : c.setPred 0 v = c := if_pos rfl
    rw [h]
    by_cases hq : q = 0
    · subst hq; rw [if_pos rfl, if_pos rfl]; exact if_pos rfl
    · rw [if_neg hq]
  · have h : c.setPred p v = { c with preds := tblPut 0 c.preds p.toNat v } := if_neg hr
    rw [h, if_neg hr]
    by_cases hq : q = p
    · subst hq; rw [if_pos rfl]; exact (if_neg hr).trans (tblGet_tblPut_same _ _ _ _)
    · have hn : q.toNat ≠ p.toNat := fun h => hq (BitVec.eq_of_toNat_eq h)
      rw [if_neg hq]
      unfold Core.pred
      by_cases h0 : q = 0
      · rw [if_pos h0, if_pos h0]
      · rw [if_neg h0, if_neg h0]; exact tblGet_tblPut_other _ _ _ hn

end Sys2Proof.Machine
end

