-- ==== Sys2Proof/Laws/Issue.lean ====
section
/-! SUPPORT. What issuing and retiring a head do, once for all instructions. -/

namespace Sys2Proof.Machine

open Sys2Proof.Safety

/-! ### Parts -/

@[simp] theorem Core.stream_setStream (c : Core) (k : StreamId) (v : Stream) : (c.setStream k v).stream k = v := by
  cases k <;> rfl

theorem State.core_setCur_other (s : State) {d : Nat} (v : Core) (h : d ≠ s.curCore) : (s.setCur v).core d = s.core d :=
  s.core_setCore_other v h

theorem State.core_setSt_other (s : State) {d : Nat} (v : Stream) (h : d ≠ s.curCore) : (s.setSt v).core d = s.core d :=
  s.core_setCore_other _ h

theorem State.offCores_setCur (s : State) (v : Core) : { s.setCur v with cores := [] } = { s with cores := [] } := rfl
theorem State.offCores_setSt (s : State) (v : Stream) : { s.setSt v with cores := [] } = { s with cores := [] } := rfl

/-! ### Tokens -/

/-- Taking and adding tokens on a list of queues changes the token queues alone. -/
theorem takeAll_eq (qs : List Nat) (n : Nat) (c : Core) :
    ∃ t, qs.foldl (fun c q => c.takeTokens q n) c = { c with tokq := t } := by
  induction qs generalizing c with
  | nil => exact ⟨c.tokq, rfl⟩
  | cons q qs ih =>
    obtain ⟨t, e⟩ := ih (c.takeTokens q n)
    exact ⟨t, e.trans rfl⟩

theorem addAll_eq (qs : List Nat) (n : Nat) (c : Core) :
    ∃ t, qs.foldl (fun c q => c.addTokens q n) c = { c with tokq := t } := by
  induction qs generalizing c with
  | nil => exact ⟨c.tokq, rfl⟩
  | cons q qs ih =>
    obtain ⟨t, e⟩ := ih (c.addTokens q n)
    exact ⟨t, e.trans rfl⟩

/-! ### Issue -/

theorem State.traceWait_none (s : State) (h : s.st.cls = 0) : s.traceWait = s := by
  have : (s.stream s.curCore s.curK).cls = 0 := h
  simp [State.traceWait, State.traceWaitOf, this, isWaitClass]

theorem State.setClass_none (s : State) (h : s.st.cls = 0) : s.setClass 0 = s := by
  have : (s.stream s.curCore s.curK).cls = 0 := h
  simp [State.setClass, State.setClassOf, this]

theorem State.checkpoint_none (s : State) (h : s.atCheckpoint = false) : s.checkpoint = (s, none) := by
  simp [State.checkpoint, h]

/-- Issuing a head changes the executing core alone: the token queues, whether a `pool` is under way, and the head's own
record. -/
theorem State.issueHead_eq (s : State) (h : Head) (f : Form) : ∃ t keys, s.issueHead h f =
    (s.setCur { s.cur with tokq := t, poolBusy := s.cur.poolBusy || (f.kind == .pool && s.guardBit h) }).setSt
      { s.st with
        issued := true, issuedNow := true, wait := none, guardOn := s.guardBit h, lanes := s.laneMask h, issuedAt := s.cyc
        kind := f.kind, keys := keys
        popped := (if h.tok.getLsbD 3 then f.n else 0, if h.tok.getLsbD 2 then f.n else 0)
        pushes := (pushQueues s.curK h).flatMap (List.replicate f.n) } := by
  obtain ⟨t, e⟩ := takeAll_eq (popQueues s.curK h) f.n s.cur
  refine ⟨t, (({ s.cur with tokq := t, poolBusy := s.cur.poolBusy || (f.kind == .pool && s.guardBit h) } : Core).seenBy
    s.curK).randKeys, ?_⟩
  have hs : ∀ b, ({ s.cur with tokq := t, poolBusy := b } : Core).stream s.curK = s.cur.stream s.curK := by
    intro b; cases s.curK <;> rfl
  simp only [State.issueHead, e, State.st_setCur, hs, State.guardBit, State.laneMask, State.cur_setCur, Core.pred]
  rfl

/-- A whole turn is as good for an instruction that retires at its issue. -/
theorem State.now_eq {s : State} (w : s.issueOnly = false) (c : s.chosen = none) (b : Bool) :
    (if b then { s with issueOnly := false, chosen := none } else s) = s := by
  cases b
  · rfl
  · cases s; cases w; cases c; rfl

/-- A head that can issue and whose guard lets it run takes its effect from the issued state. -/
theorem runTok_ready {h : Head} {f : Form} {pc : PcWord} {s : State} (r : CanIssue h f.n pc s) (eff : Op Flow)
    (g : f.lanes = true ∨ s.guardBit h = true) : runTok h f eff s = .next ((s.issueHead h f).finishHead h f eff) := by
  obtain ⟨t, keys, e⟩ := s.issueHead_eq h f
  have hs : ((s.issueHead h f).st.skipping || !(f.lanes || (s.issueHead h f).st.guardOn)) = false := by
    rw [e]; simp only [State.st_setSt, r.unskipped]; rcases g with g | g <;> simp [g]
  have hi : (s.issueHead h f).issueOnly = false := by rw [e]; exact r.whole.1
  have hp : s.cur.crowded [] (pushQueues s.curK h) f.n = [] := r.waiting.2.2.1 ▸ r.pushes
  have hb : (opBind (opPure ()) fun _ => eff) = eff := rfl
  unfold runTok runForm
  rw [State.now_eq r.whole.1 r.whole.2.1 f.now]
  simp only [r.single, r.runs, r.waiting, r.unheld, r.pops, hp, r.unskipped, r.settled.2.2, noHold,
    State.checkpoint_none s r.unlogged, State.setClass_none s r.free.2, hi, hb, hs, Bool.false_eq_true, if_false,
    Bool.not_true, ne_eq, not_true_eq_false, or_self]

/-- The effect of a head that goes on at the next PC, and retires. -/
theorem finishHead_next {h : Head} {f : Form} {pc : PcWord} {s t : State} {eff : Op Flow} (p : s.nextPc = some pc)
    (tr : f.transfer = false) (e : Op.attempt eff s = .ok t .next) (w : t.st.cls = 0) :
    s.finishHead h f eff = t.retire h f.n pc false := by
  simp [State.finishHead, e, p, tr, State.traceWait_none t w]

end Sys2Proof.Machine
end

