-- ==== Sys2Proof/Laws/PerInstr.lean ====
section
/-! SUPPORT. For each instruction: its word, if it has one, is of 64 bits (R42, R53). -/

namespace Sys2Proof.Laws.WordRange

/-- The word of an instruction that is encoded in one word is of 64 bits, with an opcode of 8. -/
def Statement (i : Instr) : Prop := ∀ op body, encodeParts i = some (op, body) → op < 2 ^ 8 ∧ body < 2 ^ 56

theorem of_pack {i : Instr} {op : Nat} {l : List (Nat × Nat)} (h : encodeParts i = some (op, pack l)) (ho : op < 2 ^ 8)
    (hw : packWidth l = 56) : Statement i := by
  intro o b e
  rw [h] at e
  obtain ⟨rfl, rfl⟩ := Prod.mk.inj (Option.some.inj e)
  exact ⟨ho, hw ▸ pack_lt l⟩

theorem of_none {i : Instr} (h : encodeParts i = none) : Statement i := by
  intro o b e
  rw [h] at e
  cases e

theorem nop (h : Head) : Statement (.nop h) := of_pack rfl (by decide) rfl
theorem add (h : Head) (rd : Reg) (ra : Reg) (rb : Reg) : Statement (.add h rd ra rb) := of_pack rfl (by decide) rfl
theorem addi (h : Head) (rd : Reg) (ra : Reg) (imm : BitVec 32) : Statement (.addi h rd ra imm) := of_pack rfl (by decide) rfl
theorem sub (h : Head) (rd : Reg) (ra : Reg) (rb : Reg) : Statement (.sub h rd ra rb) := of_pack rfl (by decide) rfl
theorem mul (h : Head) (rd : Reg) (ra : Reg) (rb : Reg) : Statement (.mul h rd ra rb) := of_pack rfl (by decide) rfl
theorem mulh (h : Head) (rd : Reg) (ra : Reg) (rb : Reg) : Statement (.mulh h rd ra rb) := of_pack rfl (by decide) rfl
theorem mulhn (h : Head) (rd : Reg) (ra : Reg) (rb : Reg) : Statement (.mulhn h rd ra rb) := of_pack rfl (by decide) rfl
theorem div (h : Head) (rd : Reg) (ra : Reg) (rb : Reg) : Statement (.div h rd ra rb) := of_pack rfl (by decide) rfl
theorem divn (h : Head) (rd : Reg) (ra : Reg) (rb : Reg) : Statement (.divn h rd ra rb) := of_pack rfl (by decide) rfl
theorem rem (h : Head) (rd : Reg) (ra : Reg) (rb : Reg) : Statement (.rem h rd ra rb) := of_pack rfl (by decide) rfl
theorem remn (h : Head) (rd : Reg) (ra : Reg) (rb : Reg) : Statement (.remn h rd ra rb) := of_pack rfl (by decide) rfl
theorem land (h : Head) (rd : Reg) (ra : Reg) (rb : Reg) : Statement (.land h rd ra rb) := of_pack rfl (by decide) rfl
theorem andi (h : Head) (rd : Reg) (ra : Reg) (imm : BitVec 32) : Statement (.andi h rd ra imm) := of_pack rfl (by decide) rfl
theorem lor (h : Head) (rd : Reg) (ra : Reg) (rb : Reg) : Statement (.lor h rd ra rb) := of_pack rfl (by decide) rfl
theorem ori (h : Head) (rd : Reg) (ra : Reg) (imm : BitVec 32) : Statement (.ori h rd ra imm) := of_pack rfl (by decide) rfl
theorem lxor (h : Head) (rd : Reg) (ra : Reg) (rb : Reg) : Statement (.lxor h rd ra rb) := of_pack rfl (by decide) rfl
theorem xori (h : Head) (rd : Reg) (ra : Reg) (imm : BitVec 32) : Statement (.xori h rd ra imm) := of_pack rfl (by decide) rfl
theorem shl (h : Head) (rd : Reg) (ra : Reg) (rb : Reg) : Statement (.shl h rd ra rb) := of_pack rfl (by decide) rfl
theorem shr (h : Head) (rd : Reg) (ra : Reg) (rb : Reg) : Statement (.shr h rd ra rb) := of_pack rfl (by decide) rfl
theorem sha (h : Head) (rd : Reg) (ra : Reg) (rb : Reg) : Statement (.sha h rd ra rb) := of_pack rfl (by decide) rfl
theorem shiL (h : Head) (rd : Reg) (ra : Reg) (n : BitVec 6) : Statement (.shiL h rd ra n) := of_pack rfl (by decide) rfl
theorem shiR (h : Head) (rd : Reg) (ra : Reg) (n : BitVec 6) : Statement (.shiR h rd ra n) := of_pack rfl (by decide) rfl
theorem shiA (h : Head) (rd : Reg) (ra : Reg) (n : BitVec 6) : Statement (.shiA h rd ra n) := of_pack rfl (by decide) rfl
theorem min (h : Head) (rd : Reg) (ra : Reg) (rb : Reg) : Statement (.min h rd ra rb) := of_pack rfl (by decide) rfl
theorem max (h : Head) (rd : Reg) (ra : Reg) (rb : Reg) : Statement (.max h rd ra rb) := of_pack rfl (by decide) rfl
theorem minn (h : Head) (rd : Reg) (ra : Reg) (rb : Reg) : Statement (.minn h rd ra rb) := of_pack rfl (by decide) rfl
theorem maxn (h : Head) (rd : Reg) (ra : Reg) (rb : Reg) : Statement (.maxn h rd ra rb) := of_pack rfl (by decide) rfl
theorem seq (h : Head) (rd : Reg) (ra : Reg) (rb : Reg) : Statement (.seq h rd ra rb) := of_pack rfl (by decide) rfl
theorem slt (h : Head) (rd : Reg) (ra : Reg) (rb : Reg) : Statement (.slt h rd ra rb) := of_pack rfl (by decide) rfl
theorem sltn (h : Head) (rd : Reg) (ra : Reg) (rb : Reg) : Statement (.sltn h rd ra rb) := of_pack rfl (by decide) rfl
theorem li (h : Head) (rd : Reg) (imm : BitVec 32) : Statement (.li h rd imm) := of_pack rfl (by decide) rfl
theorem lih (h : Head) (rd : Reg) (ra : Reg) (imm : BitVec 32) : Statement (.lih h rd ra imm) := of_pack rfl (by decide) rfl
theorem madd (h : Head) (rd : Reg) (ra : Reg) (rb : Reg) (rc : Reg) : Statement (.madd h rd ra rb rc) := of_pack rfl (by decide) rfl
theorem bfx (h : Head) (rd : Reg) (ra : Reg) (w : BitVec 7) (pos : BitVec 6) : Statement (.bfx h rd ra w pos) := of_pack rfl (by decide) rfl
theorem bfxS (h : Head) (rd : Reg) (ra : Reg) (w : BitVec 7) (pos : BitVec 6) : Statement (.bfxS h rd ra w pos) := of_pack rfl (by decide) rfl
theorem bfi (h : Head) (rd : Reg) (ra : Reg) (w : BitVec 7) (pos : BitVec 6) : Statement (.bfi h rd ra w pos) := of_pack rfl (by decide) rfl
theorem clz (h : Head) (rd : Reg) (ra : Reg) : Statement (.clz h rd ra) := of_pack rfl (by decide) rfl
theorem popc (h : Head) (rd : Reg) (ra : Reg) : Statement (.popc h rd ra) := of_pack rfl (by decide) rfl
theorem sel (h : Head) (rd : Reg) (ra : Reg) (rb : Reg) (rc : Reg) : Statement (.sel h rd ra rb rc) := of_pack rfl (by decide) rfl
theorem b (h : Head) (disp : BitVec 27) (slot : BitVec 3) : Statement (.b h disp slot) := of_pack rfl (by decide) rfl
theorem bc (h : Head) (ra : Reg) (rb : Reg) (cond : BitVec 3) (disp : BitVec 27) (slot : BitVec 3) : Statement (.bc h ra rb cond disp slot) := of_pack rfl (by decide) rfl
theorem call (h : Head) (rl : Reg) (disp : BitVec 27) (slot : BitVec 3) : Statement (.call h rl disp slot) := of_pack rfl (by decide) rfl
theorem jr (h : Head) (rd : Reg) (ra : Reg) : Statement (.jr h rd ra) := of_pack rfl (by decide) rfl
theorem loop (h : Head) (rl : Reg) (disp : BitVec 27) (slot : BitVec 3) : Statement (.loop h rl disp slot) := of_pack rfl (by decide) rfl
theorem tok (h : Head) (n : BitVec 4) : Statement (.tok h n) := of_pack rfl (by decide) rfl
theorem mfs (h : Head) (rd : Reg) (sr : BitVec 12) : Statement (.mfs h rd sr) := of_pack rfl (by decide) rfl
theorem mts (h : Head) (ra : Reg) (sr : BitVec 12) : Statement (.mts h ra sr) := of_pack rfl (by decide) rfl
theorem yieldI (h : Head) : Statement (.yieldI h) := of_pack rfl (by decide) rfl
theorem budgGet (h : Head) (rd : Reg) : Statement (.budgGet h rd) := of_pack rfl (by decide) rfl
theorem budgChk (h : Head) (rd : Reg) (imm : BitVec 32) : Statement (.budgChk h rd imm) := of_pack rfl (by decide) rfl
theorem trapI (h : Head) (imm : BitVec 32) : Statement (.trapI h imm) := of_pack rfl (by decide) rfl
theorem tretResume (h : Head) : Statement (.tretResume h) := of_pack rfl (by decide) rfl
theorem tretSkip (h : Head) : Statement (.tretSkip h) := of_pack rfl (by decide) rfl
theorem tretRestart (h : Head) : Statement (.tretRestart h) := of_pack rfl (by decide) rfl
theorem tretKill (h : Head) : Statement (.tretKill h) := of_pack rfl (by decide) rfl
theorem hash (h : Head) (rd : Reg) (ra : Reg) (rb : Reg) : Statement (.hash h rd ra rb) := of_pack rfl (by decide) rfl
theorem idleCyc (h : Head) (imm : BitVec 32) : Statement (.idleCyc h imm) := of_pack rfl (by decide) rfl
theorem idleUntil (h : Head) (ra : Reg) (imm : BitVec 32) : Statement (.idleUntil h ra imm) := of_pack rfl (by decide) rfl
theorem haltI (h : Head) (ra : Reg) : Statement (.haltI h ra) := of_pack rfl (by decide) rfl
theorem brk (h : Head) (imm : BitVec 32) : Statement (.brk h imm) := of_pack rfl (by decide) rfl
theorem loopNestRecord (h : Head) (rec : LnRec) : Statement (.loopNestRecord h rec) := of_none rfl
theorem vshape (h : Head) (rowsLo : BitVec 9) (colsLo : BitVec 9) (colsHi : BitVec 2) (rowsHi : BitVec 2) : Statement (.vshape h rowsLo colsLo colsHi rowsHi) := of_pack rfl (by decide) rfl
theorem vmov (h : Head) (vd : VReg) (va : VReg) (ty : ElemTy) : Statement (.vmov h vd va ty) := of_pack rfl (by decide) rfl
theorem vsplat (h : Head) (vd : VReg) (va : Reg) (ty : ElemTy) : Statement (.vsplat h vd va ty) := of_pack rfl (by decide) rfl
theorem vadd (h : Head) (vd : VReg) (va : VReg) (vb : VReg) (ty : ElemTy) (rm : Rm) (sat : Bool) : Statement (.vadd h vd va vb ty rm sat) := of_pack rfl (by decide) rfl
theorem vsub (h : Head) (vd : VReg) (va : VReg) (vb : VReg) (ty : ElemTy) (rm : Rm) (sat : Bool) : Statement (.vsub h vd va vb ty rm sat) := of_pack rfl (by decide) rfl
theorem vmul (h : Head) (vd : VReg) (va : VReg) (vb : VReg) (ty : ElemTy) (rm : Rm) (sat : Bool) : Statement (.vmul h vd va vb ty rm sat) := of_pack rfl (by decide) rfl
theorem vfma (h : Head) (vd : VReg) (va : VReg) (vb : VReg) (vc : VReg) (ty : ElemTy) (rm : Rm) (sat : Bool) : Statement (.vfma h vd va vb vc ty rm sat) := of_pack rfl (by decide) rfl
theorem vfms (h : Head) (vd : VReg) (va : VReg) (vb : VReg) (vc : VReg) (ty : ElemTy) (rm : Rm) (sat : Bool) : Statement (.vfms h vd va vb vc ty rm sat) := of_pack rfl (by decide) rfl
theorem vdiv (h : Head) (vd : VReg) (va : VReg) (vb : VReg) (ty : ElemTy) (rm : Rm) (sat : Bool) : Statement (.vdiv h vd va vb ty rm sat) := of_pack rfl (by decide) rfl
theorem vsqrt (h : Head) (vd : VReg) (va : VReg) (ty : ElemTy) (rm : Rm) (sat : Bool) : Statement (.vsqrt h vd va ty rm sat) := of_pack rfl (by decide) rfl
theorem vrsqrt (h : Head) (vd : VReg) (va : VReg) (ty : ElemTy) (rm : Rm) (sat : Bool) : Statement (.vrsqrt h vd va ty rm sat) := of_pack rfl (by decide) rfl
theorem vrcp (h : Head) (vd : VReg) (va : VReg) (ty : ElemTy) (rm : Rm) (sat : Bool) : Statement (.vrcp h vd va ty rm sat) := of_pack rfl (by decide) rfl
theorem vexp (h : Head) (vd : VReg) (va : VReg) (ty : ElemTy) (rm : Rm) (sat : Bool) : Statement (.vexp h vd va ty rm sat) := of_pack rfl (by decide) rfl
theorem vexp2 (h : Head) (vd : VReg) (va : VReg) (ty : ElemTy) (rm : Rm) (sat : Bool) : Statement (.vexp2 h vd va ty rm sat) := of_pack rfl (by decide) rfl
theorem vlog2 (h : Head) (vd : VReg) (va : VReg) (ty : ElemTy) (rm : Rm) (sat : Bool) : Statement (.vlog2 h vd va ty rm sat) := of_pack rfl (by decide) rfl
theorem vtanh (h : Head) (vd : VReg) (va : VReg) (ty : ElemTy) (rm : Rm) (sat : Bool) : Statement (.vtanh h vd va ty rm sat) := of_pack rfl (by decide) rfl
theorem vsigm (h : Head) (vd : VReg) (va : VReg) (ty : ElemTy) (rm : Rm) (sat : Bool) : Statement (.vsigm h vd va ty rm sat) := of_pack rfl (by decide) rfl
theorem vgelu (h : Head) (vd : VReg) (va : VReg) (ty : ElemTy) (rm : Rm) (sat : Bool) : Statement (.vgelu h vd va ty rm sat) := of_pack rfl (by decide) rfl
theorem vmin (h : Head) (vd : VReg) (va : VReg) (vb : VReg) (ty : ElemTy) : Statement (.vmin h vd va vb ty) := of_pack rfl (by decide) rfl
theorem vmax (h : Head) (vd : VReg) (va : VReg) (vb : VReg) (ty : ElemTy) : Statement (.vmax h vd va vb ty) := of_pack rfl (by decide) rfl
theorem vminn (h : Head) (vd : VReg) (va : VReg) (vb : VReg) (ty : ElemTy) : Statement (.vminn h vd va vb ty) := of_pack rfl (by decide) rfl
theorem vmaxn (h : Head) (vd : VReg) (va : VReg) (vb : VReg) (ty : ElemTy) : Statement (.vmaxn h vd va vb ty) := of_pack rfl (by decide) rfl
theorem vabs (h : Head) (vd : VReg) (va : VReg) (ty : ElemTy) (sat : Bool) : Statement (.vabs h vd va ty sat) := of_pack rfl (by decide) rfl
theorem vneg (h : Head) (vd : VReg) (va : VReg) (ty : ElemTy) (sat : Bool) : Statement (.vneg h vd va ty sat) := of_pack rfl (by decide) rfl
theorem vand (h : Head) (vd : VReg) (va : VReg) (vb : VReg) (ty : ElemTy) : Statement (.vand h vd va vb ty) := of_pack rfl (by decide) rfl
theorem vor (h : Head) (vd : VReg) (va : VReg) (vb : VReg) (ty : ElemTy) : Statement (.vor h vd va vb ty) := of_pack rfl (by decide) rfl
theorem vxor (h : Head) (vd : VReg) (va : VReg) (vb : VReg) (ty : ElemTy) : Statement (.vxor h vd va vb ty) := of_pack rfl (by decide) rfl
theorem vshl (h : Head) (vd : VReg) (va : VReg) (vb : VReg) (ty : ElemTy) : Statement (.vshl h vd va vb ty) := of_pack rfl (by decide) rfl
theorem vshr (h : Head) (vd : VReg) (va : VReg) (vb : VReg) (ty : ElemTy) : Statement (.vshr h vd va vb ty) := of_pack rfl (by decide) rfl
theorem vcmp (h : Head) (vd : PReg) (va : VReg) (vb : VReg) (ty : ElemTy) (cond : BitVec 3) : Statement (.vcmp h vd va vb ty cond) := of_pack rfl (by decide) rfl
theorem vsel (h : Head) (vd : VReg) (va : VReg) (vb : VReg) (vc : PReg) (ty : ElemTy) : Statement (.vsel h vd va vb vc ty) := of_pack rfl (by decide) rfl
theorem vcvt (h : Head) (vd : VReg) (va : VReg) (src : ElemTy) (ty : ElemTy) (rm : Rm) (amax : Bool) (sat : Bool) : Statement (.vcvt h vd va src ty rm amax sat) := of_pack rfl (by decide) rfl
theorem vscale (h : Head) (vd : VReg) (va : VReg) (vb : VReg) (ty : ElemTy) (rm : Rm) (col : Bool) (sat : Bool) : Statement (.vscale h vd va vb ty rm col sat) := of_pack rfl (by decide) rfl
theorem vrsum (h : Head) (vd : VReg) (va : VReg) (ty : ElemTy) (rm : Rm) : Statement (.vrsum h vd va ty rm) := of_pack rfl (by decide) rfl
theorem vrmax (h : Head) (vd : VReg) (va : VReg) (ty : ElemTy) : Statement (.vrmax h vd va ty) := of_pack rfl (by decide) rfl
theorem vrmin (h : Head) (vd : VReg) (va : VReg) (ty : ElemTy) : Statement (.vrmin h vd va ty) := of_pack rfl (by decide) rfl
theorem vcsum (h : Head) (vd : VReg) (va : VReg) (ty : ElemTy) (rm : Rm) : Statement (.vcsum h vd va ty rm) := of_pack rfl (by decide) rfl
theorem vscan (h : Head) (vd : VReg) (va : VReg) (ty : ElemTy) (rm : Rm) (excl : Bool) : Statement (.vscan h vd va ty rm excl) := of_pack rfl (by decide) rfl
theorem vsortk (h : Head) (vd : VReg) (va : VReg) (vb : VReg) (km1 : BitVec 9) (ty : ElemTy) : Statement (.vsortk h vd va vb km1 ty) := of_pack rfl (by decide) rfl
theorem vtrans (h : Head) (vd : VReg) (va : VReg) (ty : ElemTy) : Statement (.vtrans h vd va ty) := of_pack rfl (by decide) rfl
theorem vperm (h : Head) (vd : VReg) (va : VReg) (vb : VReg) (ty : ElemTy) (row : Bool) : Statement (.vperm h vd va vb ty row) := of_pack rfl (by decide) rfl
theorem vrmrg (h : Head) (vd : VReg) (va : VReg) (vb : VReg) (sh : BitVec 9) (ty : ElemTy) : Statement (.vrmrg h vd va vb sh ty) := of_pack rfl (by decide) rfl
theorem vrand (h : Head) (vd : VReg) (ty : ElemTy) : Statement (.vrand h vd ty) := of_pack rfl (by decide) rfl
theorem vdrop (h : Head) (vd : PReg) (va : Reg) : Statement (.vdrop h vd va) := of_pack rfl (by decide) rfl
theorem vpush (h : Head) (vd : VReg) (va : VReg) (vb : VReg) (ty : ElemTy) : Statement (.vpush h vd va vb ty) := of_pack rfl (by decide) rfl
theorem vpop (h : Head) (vd : VReg) (va : VReg) (vb : VReg) (ty : ElemTy) : Statement (.vpop h vd va vb ty) := of_pack rfl (by decide) rfl
theorem vidx (h : Head) (vd : VReg) (ty : ElemTy) (rm : Rm) (form : BitVec 2) : Statement (.vidx h vd ty rm form) := of_pack rfl (by decide) rfl
theorem vlut (h : Head) (vd : VReg) (va : VReg) (vb : VReg) (ty : ElemTy) : Statement (.vlut h vd va vb ty) := of_pack rfl (by decide) rfl
theorem vpand (h : Head) (vd : PReg) (va : PReg) (vb : PReg) : Statement (.vpand h vd va vb) := of_pack rfl (by decide) rfl
theorem vpor (h : Head) (vd : PReg) (va : PReg) (vb : PReg) : Statement (.vpor h vd va vb) := of_pack rfl (by decide) rfl
theorem vpnot (h : Head) (vd : PReg) (va : PReg) : Statement (.vpnot h vd va) := of_pack rfl (by decide) rfl
theorem vpcnt (h : Head) (vd : Reg) (va : PReg) : Statement (.vpcnt h vd va) := of_pack rfl (by decide) rfl
theorem vpfirst (h : Head) (vd : Reg) (va : PReg) : Statement (.vpfirst h vd va) := of_pack rfl (by decide) rfl
theorem vextr (h : Head) (vd : Reg) (va : VReg) (vb : Reg) (ty : ElemTy) : Statement (.vextr h vd va vb ty) := of_pack rfl (by decide) rfl
theorem vins (h : Head) (vd : VReg) (va : Reg) (vb : Reg) (ty : ElemTy) : Statement (.vins h vd va vb ty) := of_pack rfl (by decide) rfl
theorem vclamp (h : Head) (vd : VReg) (va : VReg) (vb : VReg) (vc : VReg) (ty : ElemTy) : Statement (.vclamp h vd va vb vc ty) := of_pack rfl (by decide) rfl
theorem vround (h : Head) (vd : VReg) (va : VReg) (ty : ElemTy) (rm : Rm) : Statement (.vround h vd va ty rm) := of_pack rfl (by decide) rfl
theorem vmuls (h : Head) (vd : VReg) (va : VReg) (vb : Reg) (ty : ElemTy) (rm : Rm) (sat : Bool) : Statement (.vmuls h vd va vb ty rm sat) := of_pack rfl (by decide) rfl
theorem vaddacc (h : Head) (vd : Acc) (va : VReg) (ty : ElemTy) (rm : Rm) : Statement (.vaddacc h vd va ty rm) := of_pack rfl (by decide) rfl
theorem vrdacc (h : Head) (vd : VReg) (va : Acc) (ty : ElemTy) (rm : Rm) (amax : Bool) (sat : Bool) : Statement (.vrdacc h vd va ty rm amax sat) := of_pack rfl (by decide) rfl
theorem vzacc (h : Head) (vd : Acc) : Statement (.vzacc h vd) := of_pack rfl (by decide) rfl
theorem vlive (h : Head) (vd : VReg) : Statement (.vlive h vd) := of_pack rfl (by decide) rfl
theorem vliveNone (h : Head) : Statement (.vliveNone h) := of_pack rfl (by decide) rfl
theorem mmul (h : Head) (ra : Reg) (rb : Reg) (acc : Acc) (v : VReg) (swen : Bool) (semw : BitVec 6) (ssen : Bool) (sems : BitVec 6) (ty : ElemTy) (rot : BitVec 4) (sp : Bool) : Statement (.mmul h ra rb acc v swen semw ssen sems ty rot sp) := of_pack rfl (by decide) rfl
theorem mmuls (h : Head) (ra : Reg) (rb : Reg) (acc : Acc) (v : VReg) (swen : Bool) (semw : BitVec 6) (ssen : Bool) (sems : BitVec 6) (ty : ElemTy) (rot : BitVec 4) (sp : Bool) : Statement (.mmuls h ra rb acc v swen semw ssen sems ty rot sp) := of_pack rfl (by decide) rfl
theorem mmulg (h : Head) (ra : Reg) (rb : Reg) (acc : Acc) (v : VReg) (swen : Bool) (semw : BitVec 6) (ssen : Bool) (sems : BitVec 6) (ty : ElemTy) : Statement (.mmulg h ra rb acc v swen semw ssen sems ty) := of_pack rfl (by decide) rfl
theorem mmulz (h : Head) (ra : Reg) (rb : Reg) (acc : Acc) (v : VReg) (swen : Bool) (semw : BitVec 6) (ssen : Bool) (sems : BitVec 6) (ty : ElemTy) (rot : BitVec 4) (sp : Bool) : Statement (.mmulz h ra rb acc v swen semw ssen sems ty rot sp) := of_pack rfl (by decide) rfl
theorem mdrain (h : Head) (ra : Reg) (rb : Reg) (acc : Acc) (v : VReg) (swen : Bool) (semw : BitVec 6) (ssen : Bool) (sems : BitVec 6) (ty : ElemTy) (rot : BitVec 4) (sp : Bool) : Statement (.mdrain h ra rb acc v swen semw ssen sems ty rot sp) := of_pack rfl (by decide) rfl
theorem mscl (h : Head) (v : VReg) (swen : Bool) (semw : BitVec 6) (ssen : Bool) (sems : BitVec 6) (col : Bool) : Statement (.mscl h v swen semw ssen sems col) := of_pack rfl (by decide) rfl
theorem msclOff (h : Head) (swen : Bool) (semw : BitVec 6) (ssen : Bool) (sems : BitVec 6) (col : Bool) : Statement (.msclOff h swen semw ssen sems col) := of_pack rfl (by decide) rfl
theorem mbias (h : Head) (ra : Reg) (v : VReg) (swen : Bool) (semw : BitVec 6) (ssen : Bool) (sems : BitVec 6) (grp : Bool) : Statement (.mbias h ra v swen semw ssen sems grp) := of_pack rfl (by decide) rfl
theorem mbiasOff (h : Head) (swen : Bool) (semw : BitVec 6) (ssen : Bool) (sems : BitVec 6) : Statement (.mbiasOff h swen semw ssen sems) := of_pack rfl (by decide) rfl
theorem mact (h : Head) (ra : Reg) (swen : Bool) (semw : BitVec 6) (ssen : Bool) (sems : BitVec 6) : Statement (.mact h ra swen semw ssen sems) := of_pack rfl (by decide) rfl
theorem mwld (h : Head) (ra : Reg) (rb : Reg) (v : VReg) (swen : Bool) (semw : BitVec 6) (ssen : Bool) (sems : BitVec 6) (rot : BitVec 4) : Statement (.mwld h ra rb v swen semw ssen sems rot) := of_pack rfl (by decide) rfl
theorem mwstr (h : Head) (ra : Reg) (rb : Reg) (v : VReg) (swen : Bool) (semw : BitVec 6) (ssen : Bool) (sems : BitVec 6) : Statement (.mwstr h ra rb v swen semw ssen sems) := of_pack rfl (by decide) rfl
theorem mwwait (h : Head) (swen : Bool) (semw : BitVec 6) (ssen : Bool) (sems : BitVec 6) : Statement (.mwwait h swen semw ssen sems) := of_pack rfl (by decide) rfl
theorem mmeta (h : Head) (ra : Reg) (swen : Bool) (semw : BitVec 6) (ssen : Bool) (sems : BitVec 6) : Statement (.mmeta h ra swen semw ssen sems) := of_pack rfl (by decide) rfl
theorem mfmt (h : Head) (ra : Reg) (swen : Bool) (semw : BitVec 6) (ssen : Bool) (sems : BitVec 6) : Statement (.mfmt h ra swen semw ssen sems) := of_pack rfl (by decide) rfl
theorem msync (h : Head) : Statement (.msync h) := of_pack rfl (by decide) rfl
theorem mqst (h : Head) (v : VReg) (swen : Bool) (semw : BitVec 6) (ssen : Bool) (sems : BitVec 6) : Statement (.mqst h v swen semw ssen sems) := of_pack rfl (by decide) rfl
theorem mconv (h : Head) (ra : Reg) (rb : Reg) (acc : Acc) (v : VReg) (swen : Bool) (semw : BitVec 6) (ssen : Bool) (sems : BitVec 6) (ty : ElemTy) (rot : BitVec 4) : Statement (.mconv h ra rb acc v swen semw ssen sems ty rot) := of_pack rfl (by decide) rfl
theorem mdwc (h : Head) (ra : Reg) (rb : Reg) (acc : Acc) (v : VReg) (swen : Bool) (semw : BitVec 6) (ssen : Bool) (sems : BitVec 6) (ty : ElemTy) (rot : BitVec 4) : Statement (.mdwc h ra rb acc v swen semw ssen sems ty rot) := of_pack rfl (by decide) rfl
theorem mtr (h : Head) (ra : Reg) (rb : Reg) (v : VReg) (swen : Bool) (semw : BitVec 6) (ssen : Bool) (sems : BitVec 6) (ty : ElemTy) (rot : BitVec 4) : Statement (.mtr h ra rb v swen semw ssen sems ty rot) := of_pack rfl (by decide) rfl
theorem macc (h : Head) (acc : Acc) (v : VReg) (swen : Bool) (semw : BitVec 6) (ssen : Bool) (sems : BitVec 6) : Statement (.macc h acc v swen semw ssen sems) := of_pack rfl (by decide) rfl
theorem mcpyOut (h : Head) (acc : Acc) (v : VReg) (swen : Bool) (semw : BitVec 6) (ssen : Bool) (sems : BitVec 6) : Statement (.mcpyOut h acc v swen semw ssen sems) := of_pack rfl (by decide) rfl
theorem mcpyIn (h : Head) (acc : Acc) (v : VReg) (swen : Bool) (semw : BitVec 6) (ssen : Bool) (sems : BitVec 6) : Statement (.mcpyIn h acc v swen semw ssen sems) := of_pack rfl (by decide) rfl
theorem msem (h : Head) (swen : Bool) (semw : BitVec 6) (ssen : Bool) (sems : BitVec 6) : Statement (.msem h swen semw ssen sems) := of_pack rfl (by decide) rfl
theorem mabort (h : Head) : Statement (.mabort h) := of_pack rfl (by decide) rfl
theorem ld (h : Head) (reg : Reg) (ra : Reg) (rot : BitVec 4) (ty : ElemTy) (space : BitVec 2) (off : BitVec 24) : Statement (.ld h reg ra rot ty space off) := of_pack rfl (by decide) rfl
theorem st (h : Head) (reg : Reg) (ra : Reg) (rot : BitVec 4) (ty : ElemTy) (space : BitVec 2) (off : BitVec 24) : Statement (.st h reg ra rot ty space off) := of_pack rfl (by decide) rfl
theorem vld (h : Head) (reg : VReg) (ra : Reg) (rot : BitVec 4) (space : BitVec 2) (off : BitVec 24) : Statement (.vld h reg ra rot space off) := of_pack rfl (by decide) rfl
theorem vst (h : Head) (reg : VReg) (ra : Reg) (rot : BitVec 4) (space : BitVec 2) (off : BitVec 24) : Statement (.vst h reg ra rot space off) := of_pack rfl (by decide) rfl
theorem vlds (h : Head) (reg : VReg) (ra : Reg) (rot : BitVec 4) (space : BitVec 2) (off : BitVec 24) : Statement (.vlds h reg ra rot space off) := of_pack rfl (by decide) rfl
theorem vsts (h : Head) (reg : VReg) (ra : Reg) (rot : BitVec 4) (space : BitVec 2) (off : BitVec 24) : Statement (.vsts h reg ra rot space off) := of_pack rfl (by decide) rfl
theorem vldx (h : Head) (reg : VReg) (ra : Reg) (rot : BitVec 4) (space : BitVec 2) (off : BitVec 24) : Statement (.vldx h reg ra rot space off) := of_pack rfl (by decide) rfl
theorem vstx (h : Head) (reg : VReg) (ra : Reg) (rot : BitVec 4) (space : BitVec 2) (off : BitVec 24) : Statement (.vstx h reg ra rot space off) := of_pack rfl (by decide) rfl
theorem touchR (h : Head) (rd : Reg) (ra : Reg) (rb : Reg) : Statement (.touchR h rd ra rb) := of_pack rfl (by decide) rfl
theorem touchW (h : Head) (rd : Reg) (ra : Reg) (rb : Reg) : Statement (.touchW h rd ra rb) := of_pack rfl (by decide) rfl
theorem cpy (h : Head) (reg : Reg) (ra : Reg) (rot : BitVec 4) (space : BitVec 2) (off : BitVec 24) : Statement (.cpy h reg ra rot space off) := of_pack rfl (by decide) rfl
theorem cpyw (h : Head) (reg : Reg) (ra : Reg) (rot : BitVec 4) (space : BitVec 2) (off : BitVec 24) : Statement (.cpyw h reg ra rot space off) := of_pack rfl (by decide) rfl
theorem pfet (h : Head) (rowsM1 : BitVec 5) (ra : Reg) (off : BitVec 24) : Statement (.pfet h rowsM1 ra off) := of_pack rfl (by decide) rfl
theorem poolReshape (h : Head) (rd : Reg) (ra : Reg) (role : BitVec 4) (rel : Bool) (limit : BitVec 10) : Statement (.poolReshape h rd ra role rel limit) := of_pack rfl (by decide) rfl
theorem poolPin (h : Head) (rd : Reg) (ra : Reg) : Statement (.poolPin h rd ra) := of_pack rfl (by decide) rfl
theorem poolUnpin (h : Head) (rd : Reg) (ra : Reg) : Statement (.poolUnpin h rd ra) := of_pack rfl (by decide) rfl
theorem pstat (h : Head) (rd : Reg) (which : BitVec 4) : Statement (.pstat h rd which) := of_pack rfl (by decide) rfl
theorem wbinvAll (h : Head) (rd : Reg) (keep : Bool) : Statement (.wbinvAll h rd keep) := of_pack rfl (by decide) rfl
theorem wbinvRng (h : Head) (rd : Reg) (ra : Reg) (rb : Reg) (keep : Bool) : Statement (.wbinvRng h rd ra rb keep) := of_pack rfl (by decide) rfl
theorem rset (h : Head) (rd : Reg) (ra : Reg) (rb : Reg) (ring : BitVec 4) : Statement (.rset h rd ra rb ring) := of_pack rfl (by decide) rfl
theorem rsetClr (h : Head) (rd : Reg) (ring : BitVec 4) : Statement (.rsetClr h rd ring) := of_pack rfl (by decide) rfl
theorem rput (h : Head) (rd : Reg) (ra : Reg) (rb : Reg) (ring : BitVec 4) (limit : BitVec 24) : Statement (.rput h rd ra rb ring limit) := of_pack rfl (by decide) rfl
theorem rget (h : Head) (rd : Reg) (ring : BitVec 4) (limit : BitVec 24) : Statement (.rget h rd ring limit) := of_pack rfl (by decide) rfl
theorem rclaim (h : Head) (rd : Reg) (rb : Reg) (ring : BitVec 4) (n : BitVec 8) : Statement (.rclaim h rd rb ring n) := of_pack rfl (by decide) rfl
theorem rclaimRel (h : Head) (rd : Reg) (ring : BitVec 4) (n : BitVec 8) : Statement (.rclaimRel h rd ring n) := of_pack rfl (by decide) rfl
theorem rwaitf (h : Head) (rd : Reg) (rb : Reg) (ring : BitVec 4) (limit : BitVec 24) : Statement (.rwaitf h rd rb ring limit) := of_pack rfl (by decide) rfl
theorem rwaite (h : Head) (rd : Reg) (rb : Reg) (ring : BitVec 4) (limit : BitVec 24) : Statement (.rwaite h rd rb ring limit) := of_pack rfl (by decide) rfl
theorem rstatPos (h : Head) (rd : Reg) (ring : BitVec 4) : Statement (.rstatPos h rd ring) := of_pack rfl (by decide) rfl
theorem rstatSpill (h : Head) (rd : Reg) (ring : BitVec 4) : Statement (.rstatSpill h rd ring) := of_pack rfl (by decide) rfl
theorem wenq (h : Head) (rd : Reg) (ra : Reg) (rb : Reg) (scope : BitVec 5) (limit : BitVec 17) (n : BitVec 7) : Statement (.wenq h rd ra rb scope limit n) := of_pack rfl (by decide) rfl
theorem semi (h : Head) (rd : Reg) (ra : Reg) (sem : BitVec 6) : Statement (.semi h rd ra sem) := of_pack rfl (by decide) rfl
theorem semw (h : Head) (rd : Reg) (limit : BitVec 12) (k : BitVec 6) (sem : BitVec 6) : Statement (.semw h rd limit k sem) := of_pack rfl (by decide) rfl
theorem semwTry (h : Head) (rd : Reg) (k : BitVec 6) (sem : BitVec 6) : Statement (.semwTry h rd k sem) := of_pack rfl (by decide) rfl
theorem sems (h : Head) (rd : Reg) (k : BitVec 6) (sem : BitVec 6) : Statement (.sems h rd k sem) := of_pack rfl (by decide) rfl
theorem mark (h : Head) : Statement (.mark h) := of_pack rfl (by decide) rfl
theorem fenceRel (h : Head) (scope : BitVec 5) : Statement (.fenceRel h scope) := of_pack rfl (by decide) rfl
theorem fenceAcq (h : Head) (scope : BitVec 5) : Statement (.fenceAcq h scope) := of_pack rfl (by decide) rfl
theorem fenceFull (h : Head) (scope : BitVec 5) : Statement (.fenceFull h scope) := of_pack rfl (by decide) rfl
theorem epush (h : Head) (rd : Reg) (ra : Reg) (rb : Reg) (scope : BitVec 5) : Statement (.epush h rd ra rb scope) := of_pack rfl (by decide) rfl
theorem epop (h : Head) (rd : Reg) (ra : Reg) (limit : BitVec 24) : Statement (.epop h rd ra limit) := of_pack rfl (by decide) rfl
theorem detach (h : Head) : Statement (.detach h) := of_pack rfl (by decide) rfl
theorem joinOpen (h : Head) (rd : Reg) (id : BitVec 8) : Statement (.joinOpen h rd id) := of_pack rfl (by decide) rfl
theorem join (h : Head) (limit : BitVec 16) (id : BitVec 8) : Statement (.join h limit id) := of_pack rfl (by decide) rfl
theorem dsync (h : Head) (scope : BitVec 5) (level : BitVec 4) (limit : BitVec 16) (smask : BitVec 4) : Statement (.dsync h scope level limit smask) := of_pack rfl (by decide) rfl
theorem dphaseComp (h : Head) : Statement (.dphaseComp h) := of_pack rfl (by decide) rfl
theorem dphaseComm (h : Head) : Statement (.dphaseComm h) := of_pack rfl (by decide) rfl
theorem cbcast (h : Head) (rd : Reg) (ra : Reg) (limit : BitVec 16) (src : BitVec 2) : Statement (.cbcast h rd ra limit src) := of_pack rfl (by decide) rfl
theorem dinfo (h : Head) (rd : Reg) (level : BitVec 4) (which : BitVec 2) : Statement (.dinfo h rd level which) := of_pack rfl (by decide) rfl
theorem xsemI (h : Head) (rd : Reg) (ra : Reg) (sem : BitVec 4) : Statement (.xsemI h rd ra sem) := of_pack rfl (by decide) rfl
theorem xsemW (h : Head) (rd : Reg) (limit : BitVec 12) (k : BitVec 6) (sem : BitVec 4) : Statement (.xsemW h rd limit k sem) := of_pack rfl (by decide) rfl
theorem xsemTry (h : Head) (rd : Reg) (k : BitVec 6) (sem : BitVec 4) : Statement (.xsemTry h rd k sem) := of_pack rfl (by decide) rfl
theorem xsemS (h : Head) (rd : Reg) (k : BitVec 6) (sem : BitVec 4) : Statement (.xsemS h rd k sem) := of_pack rfl (by decide) rfl
theorem scset (h : Head) (rd : Reg) (ra : Reg) (scope : BitVec 5) : Statement (.scset h rd ra scope) := of_pack rfl (by decide) rfl
theorem scget (h : Head) (rd : Reg) (scope : BitVec 5) (w : BitVec 4) : Statement (.scget h rd scope w) := of_pack rfl (by decide) rfl
theorem amo (h : Head) (rd : Reg) (ra : Reg) (rb : Reg) (scope : BitVec 5) (op : BitVec 4) (ord : BitVec 2) (ty : BitVec 2) : Statement (.amo h rd ra rb scope op ord ty) := of_pack rfl (by decide) rfl
theorem amon (h : Head) (ra : Reg) (rb : Reg) (scope : BitVec 5) (op : BitVec 4) (ord : BitVec 2) (ty : BitVec 2) : Statement (.amon h ra rb scope op ord ty) := of_pack rfl (by decide) rfl
theorem acas (h : Head) (rd : Reg) (ra : Reg) (rb : Reg) (scope : BitVec 5) (ord : BitVec 2) (ty : BitVec 2) : Statement (.acas h rd ra rb scope ord ty) := of_pack rfl (by decide) rfl
theorem marm (h : Head) (rd : Reg) (ra : Reg) : Statement (.marm h rd ra) := of_pack rfl (by decide) rfl
theorem mwait (h : Head) (rd : Reg) (limit : BitVec 24) : Statement (.mwait h rd limit) := of_pack rfl (by decide) rfl
theorem vdec (h : Head) (rd : Reg) (ra : Reg) (rb : Reg) (scope : BitVec 5) : Statement (.vdec h rd ra rb scope) := of_pack rfl (by decide) rfl
theorem mask (h : Head) (rd : Reg) (ra : Reg) (rb : Reg) (scope : BitVec 5) : Statement (.mask h rd ra rb scope) := of_pack rfl (by decide) rfl
theorem gsx (h : Head) (rd : Reg) (ra : Reg) (rb : Reg) (scope : BitVec 5) : Statement (.gsx h rd ra rb scope) := of_pack rfl (by decide) rfl
theorem rfshLayer (h : Head) (rd : Reg) (ra : Reg) (scope : BitVec 5) (die : BitVec 1) : Statement (.rfshLayer h rd ra scope die) := of_pack rfl (by decide) rfl
theorem rfshTile (h : Head) (rd : Reg) (ra : Reg) (rb : Reg) (scope : BitVec 5) (die : BitVec 1) : Statement (.rfshTile h rd ra rb scope die) := of_pack rfl (by decide) rfl
theorem mthrThr (h : Head) (rd : Reg) (ra : Reg) (rb : Reg) (scope : BitVec 5) (die : BitVec 1) : Statement (.mthrThr h rd ra rb scope die) := of_pack rfl (by decide) rfl
theorem mthrLim (h : Head) (rd : Reg) (ra : Reg) (rb : Reg) (scope : BitVec 5) (die : BitVec 1) : Statement (.mthrLim h rd ra rb scope die) := of_pack rfl (by decide) rfl
theorem mthrNref (h : Head) (rd : Reg) (ra : Reg) (rb : Reg) (scope : BitVec 5) (die : BitVec 1) : Statement (.mthrNref h rd ra rb scope die) := of_pack rfl (by decide) rfl
theorem enq (h : Head) (rd : Reg) (ra : Reg) (q : BitVec 10) : Statement (.enq h rd ra q) := of_pack rfl (by decide) rfl
theorem enqR (h : Head) (rd : Reg) (ra : Reg) (rb : Reg) : Statement (.enqR h rd ra rb) := of_pack rfl (by decide) rfl
theorem depDec (h : Head) (rd : Reg) (scope : BitVec 5) (idx : BitVec 16) : Statement (.depDec h rd scope idx) := of_pack rfl (by decide) rfl
theorem depDecr (h : Head) (rd : Reg) (ra : Reg) (scope : BitVec 5) : Statement (.depDecr h rd ra scope) := of_pack rfl (by decide) rfl
theorem depArm (h : Head) (rd : Reg) (ra : Reg) (scope : BitVec 5) (idx : BitVec 16) : Statement (.depArm h rd ra scope idx) := of_pack rfl (by decide) rfl
theorem pwr (h : Head) (ra : Reg) (rb : Reg) (dw : BitVec 4) : Statement (.pwr h ra rb dw) := of_pack rfl (by decide) rfl
theorem pamoAdd (h : Head) (rd : Reg) (ra : Reg) (rb : Reg) (ord : BitVec 2) (ty : BitVec 2) : Statement (.pamoAdd h rd ra rb ord ty) := of_pack rfl (by decide) rfl
theorem pamoSwap (h : Head) (rd : Reg) (ra : Reg) (rb : Reg) (ord : BitVec 2) (ty : BitVec 2) : Statement (.pamoSwap h rd ra rb ord ty) := of_pack rfl (by decide) rfl
theorem pamoCas (h : Head) (rd : Reg) (ra : Reg) (rb : Reg) (ord : BitVec 2) (ty : BitVec 2) : Statement (.pamoCas h rd ra rb ord ty) := of_pack rfl (by decide) rfl
theorem tmark (h : Head) (ra : Reg) (tag : BitVec 16) : Statement (.tmark h ra tag) := of_pack rfl (by decide) rfl
theorem dump (h : Head) (rd : Reg) (ra : Reg) (rb : Reg) (which : BitVec 4) : Statement (.dump h rd ra rb which) := of_pack rfl (by decide) rfl
theorem ntfy (h : Head) (ra : Reg) (v : BitVec 8) : Statement (.ntfy h ra v) := of_pack rfl (by decide) rfl
theorem idleWake : Statement (.idleWake) := of_none rfl
theorem matrixCommandStart : Statement (.matrixCommandStart) := of_none rfl
theorem matrixCommandComplete : Statement (.matrixCommandComplete) := of_none rfl
theorem matrixSemExpired : Statement (.matrixSemExpired) := of_none rfl
theorem touchWindowExpiry : Statement (.touchWindowExpiry) := of_none rfl
theorem tileBusy : Statement (.tileBusy) := of_none rfl
theorem ringWaitExpired : Statement (.ringWaitExpired) := of_none rfl
theorem spillMove : Statement (.spillMove) := of_none rfl
theorem semWaitExpired : Statement (.semWaitExpired) := of_none rfl
theorem markWaitExpired : Statement (.markWaitExpired) := of_none rfl
theorem engineWaitExpired : Statement (.engineWaitExpired) := of_none rfl
theorem joinExpired : Statement (.joinExpired) := of_none rfl
theorem domExpired : Statement (.domExpired) := of_none rfl
theorem monitorEviction : Statement (.monitorEviction) := of_none rfl
theorem spuriousEvent : Statement (.spuriousEvent) := of_none rfl
theorem mwaitExpired : Statement (.mwaitExpired) := of_none rfl
theorem openStream : Statement (.openStream) := of_none rfl
theorem decodeUnit : Statement (.decodeUnit) := of_none rfl
theorem closeStream : Statement (.closeStream) := of_none rfl
theorem maskCommand : Statement (.maskCommand) := of_none rfl
theorem gsxCommand : Statement (.gsxCommand) := of_none rfl
theorem rfshCommand : Statement (.rfshCommand) := of_none rfl
theorem mthrCommand : Statement (.mthrCommand) := of_none rfl
theorem heldEnqueueEntry : Statement (.heldEnqueueEntry) := of_none rfl
theorem tokenWaitExpired : Statement (.tokenWaitExpired) := of_none rfl
theorem frameFetch : Statement (.frameFetch) := of_none rfl
theorem driftRelease : Statement (.driftRelease) := of_none rfl
theorem pageWalk : Statement (.pageWalk) := of_none rfl
theorem tinvWrite : Statement (.tinvWrite) := of_none rfl
theorem invalidationComplete : Statement (.invalidationComplete) := of_none rfl
theorem xscanWrite : Statement (.xscanWrite) := of_none rfl
theorem scanComplete : Statement (.scanComplete) := of_none rfl
theorem seedWrite : Statement (.seedWrite) := of_none rfl
theorem bgrantWrite : Statement (.bgrantWrite) := of_none rfl
theorem stopatWrite : Statement (.stopatWrite) := of_none rfl
theorem hostStopAt : Statement (.hostStopAt) := of_none rfl
theorem selectionRound : Statement (.selectionRound) := of_none rfl
theorem controlIntervalStart : Statement (.controlIntervalStart) := of_none rfl
theorem reserve : Statement (.reserve) := of_none rfl
theorem reservationRetry : Statement (.reservationRetry) := of_none rfl
theorem grantLapse : Statement (.grantLapse) := of_none rfl
theorem bind : Statement (.bind) := of_none rfl
theorem budgetExhausted : Statement (.budgetExhausted) := of_none rfl
theorem sliceEnd : Statement (.sliceEnd) := of_none rfl
theorem currentReturn : Statement (.currentReturn) := of_none rfl
theorem contextStopped : Statement (.contextStopped) := of_none rfl
theorem handlerSliceBind : Statement (.handlerSliceBind) := of_none rfl
theorem handlerSliceEnd : Statement (.handlerSliceEnd) := of_none rfl
theorem traceFrameTimeout : Statement (.traceFrameTimeout) := of_none rfl
theorem replayStarved : Statement (.replayStarved) := of_none rfl
theorem registerWrite : Statement (.registerWrite) := of_none rfl
theorem queueControlWrite : Statement (.queueControlWrite) := of_none rfl
theorem hostEnqueue : Statement (.hostEnqueue) := of_none rfl
theorem partitionWrite : Statement (.partitionWrite) := of_none rfl
theorem l2ModeWrite : Statement (.l2ModeWrite) := of_none rfl
theorem l2ModeSwitch : Statement (.l2ModeSwitch) := of_none rfl
theorem contextInstall : Statement (.contextInstall) := of_none rfl
theorem hostStop : Statement (.hostStop) := of_none rfl
theorem scopeCommand : Statement (.scopeCommand) := of_none rfl
theorem eventWordClear : Statement (.eventWordClear) := of_none rfl
theorem resetContext : Statement (.resetContext) := of_none rfl
theorem resetPartition : Statement (.resetPartition) := of_none rfl
theorem resetModule : Statement (.resetModule) := of_none rfl
theorem functionLevelReset : Statement (.functionLevelReset) := of_none rfl
theorem hotReset : Statement (.hotReset) := of_none rfl
theorem coldBoot : Statement (.coldBoot) := of_none rfl
theorem recoveryBlock : Statement (.recoveryBlock) := of_none rfl
theorem recoveryCommit : Statement (.recoveryCommit) := of_none rfl
theorem getVersion : Statement (.getVersion) := of_none rfl
theorem getCapabilities : Statement (.getCapabilities) := of_none rfl
theorem negotiateAlgorithms : Statement (.negotiateAlgorithms) := of_none rfl
theorem getDigests : Statement (.getDigests) := of_none rfl
theorem getCertificate : Statement (.getCertificate) := of_none rfl
theorem challenge : Statement (.challenge) := of_none rfl
theorem getMeasurements : Statement (.getMeasurements) := of_none rfl
theorem spdmUnsupported : Statement (.spdmUnsupported) := of_none rfl
theorem incomingPostedWrite : Statement (.incomingPostedWrite) := of_none rfl
theorem incomingRead : Statement (.incomingRead) := of_none rfl
theorem incomingAtomicOp : Statement (.incomingAtomicOp) := of_none rfl
theorem outboundCompletion : Statement (.outboundCompletion) := of_none rfl
theorem completionTimeout : Statement (.completionTimeout) := of_none rfl
theorem ptmDialogue : Statement (.ptmDialogue) := of_none rfl
theorem miosorFlitRetry : Statement (.miosorFlitRetry) := of_none rfl
theorem retrain : Statement (.retrain) := of_none rfl
theorem laneRepair : Statement (.laneRepair) := of_none rfl
theorem stackPauseEnd : Statement (.stackPauseEnd) := of_none rfl
theorem sentinelUpdate : Statement (.sentinelUpdate) := of_none rfl
theorem rowActivation : Statement (.rowActivation) := of_none rfl
theorem refreshWindowStart : Statement (.refreshWindowStart) := of_none rfl
theorem regulatorWrite : Statement (.regulatorWrite) := of_none rfl
theorem regulatorChangeDone : Statement (.regulatorChangeDone) := of_none rfl
theorem clusterPowerWrite : Statement (.clusterPowerWrite) := of_none rfl
theorem regulatorSwitch : Statement (.regulatorSwitch) := of_none rfl
theorem thermal : Statement (.thermal) := of_none rfl
theorem eolUpdate : Statement (.eolUpdate) := of_none rfl
theorem measurementUpdate : Statement (.measurementUpdate) := of_none rfl
theorem ceLasting : Statement (.ceLasting) := of_none rfl
theorem poolRowRetire : Statement (.poolRowRetire) := of_none rfl
theorem instructionRetire : Statement (.instructionRetire) := of_none rfl
theorem videoCommandCompletion : Statement (.videoCommandCompletion) := of_none rfl
theorem portLinkChange : Statement (.portLinkChange) := of_none rfl

end Sys2Proof.Laws.WordRange
end

