-- ==== Sys2Proof/Laws/Retire.lean ====
section
/-! SUPPORT. An instruction whose effect goes on at the next PC completes: what its retirement leaves. -/

namespace Sys2Proof.Machine

open Sys2Proof.Safety


theorem tokens_take (qs : List Nat) (n q : Nat) (c : Core) (hq : qs.Nodup) (he : ∀ q ∈ qs, n ≤ c.tokens q) :
    (qs.foldl (fun c q => c.takeTokens q n) c).tokens q + n * qs.count q = c.tokens q := by
  induction qs generalizing c with
  | nil => simp
  | cons a qs ih =>
    obtain ⟨ha, hn⟩ := List.nodup_cons.1 hq
    have hs : (c.takeTokens a n).tokens a = c.tokens a - n := by simp [Core.takeTokens, Core.tokens]
    have ho : ∀ b, b ≠ a → (c.takeTokens a n).tokens b = c.tokens b := fun b hb => by
      simp only [Core.takeTokens, Core.tokens]; exact tblGet_tblPut_other _ _ _ hb
    have := ih (c.takeTokens a n) hn fun b hb => by
      rw [ho b (fun e => ha (e ▸ hb))]; exact he b (List.mem_cons_of_mem _ hb)
    simp only [List.foldl_cons]
    by_cases e : q = a
    · subst e
      rw [hs, List.count_eq_zero.2 ha] at this
      rw [List.count_cons_self, List.count_eq_zero.2 ha]
      have := he q (by simp)
      omega
    · rw [ho q e] at this
      rw [List.count_cons_of_ne (Ne.symm e)]; exact this

theorem tokens_add (qs : List Nat) (n q : Nat) (c : Core) :
    (qs.foldl (fun c q => c.addTokens q n) c).tokens q = c.tokens q + n * qs.count q := by
  induction qs generalizing c with
  | nil => simp
  | cons a qs ih =>
    rw [List.foldl_cons, ih]
    by_cases e : q = a
    · subst e
      have hs : (c.addTokens q n).tokens q = c.tokens q + n := by simp [Core.addTokens, Core.tokens]
      rw [hs, List.count_cons_self]; ring
    · have ho : (c.addTokens a n).tokens q = c.tokens q := by
        simp only [Core.addTokens, Core.tokens]; exact tblGet_tblPut_other _ _ _ e
      rw [ho, List.count_cons_of_ne (Ne.symm e)]

theorem popQueues_nodup (k : StreamId) (h : Head) : (popQueues k h).Nodup := by
  cases k <;> simp only [popQueues, tokBit, popPrevQ, popNextQ] <;> split <;> split <;> simp

/-- The state in which an issued head takes its effect. -/
def State.issued (s : State) (h : Head) (f : Form) : State :=
  (s.issueHead h f).setSt { (s.issueHead h f).st with noteIdx := 0 }

theorem State.issued_eq (s : State) (h : Head) (f : Form) : ∃ t keys, s.issued h f =
    (s.setCur { s.cur with tokq := t, poolBusy := s.cur.poolBusy || (f.kind == .pool && s.guardBit h) }).setSt
      { s.st with
        issued := true, issuedNow := true, wait := none, guardOn := s.guardBit h, lanes := s.laneMask h, issuedAt := s.cyc
        kind := f.kind, keys := keys
        popped := (if h.tok.getLsbD 3 then f.n else 0, if h.tok.getLsbD 2 then f.n else 0)
        pushes := (pushQueues s.curK h).flatMap (List.replicate f.n), noteIdx := 0 } := by
  obtain ⟨t, keys, e⟩ := s.issueHead_eq h f
  refine ⟨t, keys, ?_⟩
  rw [State.issued, e]
  simp

theorem Stream.goto_rest (st : Stream) (pc : PcWord) (x : Bool) : 
    Safety.streamRest (st.goto pc x) = Safety.streamRest st ∧ (st.goto pc x).x = st.x ∧ (st.goto pc x).pc = pc ∧
      (st.goto pc x).rc = st.rc ∧ (st.goto pc x).ahead = st.ahead := by
  simp only [Stream.goto]; split <;> [exact ⟨rfl, rfl, rfl, rfl, rfl⟩; (split <;> exact ⟨rfl, rfl, rfl, rfl, rfl⟩)]

/-- The retirement of a head that has nothing pending, pairs with nothing, reads no bad data as zeros, and is no `pool`. -/
theorem State.retire_eq (u : State) (h : Head) (n : Nat) (pc : PcWord) (p : u.cur.pending = [])
    (k : u.st.kind = .plain ∨ u.st.kind = .access) (d : u.st.poisonDue = false) :
    u.retire h n pc false = (u.setCur ((pushQueues u.curK h).foldl (fun c q => c.addTokens q n) u.cur)).setSt
      { (u.st.goto pc false).clearHead u.cyc with rc := u.st.rc + 1 } := by
  have hp : u.pushHead h n = u.setCur ((pushQueues u.curK h).foldl (fun c q => c.addTokens q n) u.cur) ∨
      u.pushHead h n = u ∧ pushQueues u.curK h = [] := by
    unfold State.pushHead State.landSr
    have hl : (u.core u.curCore).pending.isEmpty = true := by
      have : (u.core u.curCore).pending = [] := p
      rw [this]; rfl
    rw [hl]
    split
    · next e => exact .inr ⟨rfl, e⟩
    · exact .inl rfl
  have hk : u.st.kind ≠ .pool := by rcases k with k | k <;> rw [k] <;> decide
  have hc : u.st.poison.countPair = u.st := by
    unfold Stream.poison Stream.countPair
    rcases k with k | k <;> simp [d, k]
  have hr : (u.st.goto pc false).rc = u.st.rc := (Stream.goto_rest _ _ _).2.2.2.1
  rcases hp with e | ⟨e, q⟩
  · obtain ⟨t, et⟩ := addAll_eq (pushQueues u.curK h) n u.cur
    have hs : ({ u.cur with tokq := t } : Core).stream u.curK = u.cur.stream u.curK := by cases u.curK <;> rfl
    have h2 : (u.setCur { u.cur with tokq := t }).st = u.st := by rw [State.st_setCur]; exact hs
    rw [et] at e
    simp only [State.retire, Bool.false_eq_true, if_false, e, h2, hk, hc, et]
    rw [show ((u.st.goto pc false).clearHead (u.setCur { u.cur with tokq := t }).cyc).rc = u.st.rc from hr]
    rfl
  · simp only [State.retire, Bool.false_eq_true, if_false, e, hk, hc, q, List.foldl_nil]
    rw [show ((u.st.goto pc false).clearHead u.cyc).rc = u.st.rc from hr]
    simp [State.setSt]

/-- An instruction whose effect goes on at the next PC completes: it retires, and what its effect left stays. -/
theorem completes {h : Head} {f : Form} {pc : PcWord} {s u : State} {eff : Op Flow}
    (r : CanIssue h f.n pc s) (g : f.lanes = true ∨ s.guardBit h = true) (tr : f.transfer = false)
    (e : eff (s.issued h f) = .ok u .next) (c : u.curCore = s.curCore) (k : u.curK = s.curK)
    (q : u.cur.tokq = (s.issued h f).cur.tokq) (p : u.cur.pending = []) (rc : u.st.rc = s.st.rc)
    (kind : u.st.kind = .plain ∨ u.st.kind = .access) (cls : u.st.cls = 0) (due : u.st.poisonDue = false) (ah : u.st.ahead = []) :
    ∃ t, runTok h f eff s = .next t ∧ Retired h f.n pc s t ∧
      { t with cores := [] } = { u with cores := [] } ∧ (∀ d, d ≠ s.curCore → t.core d = u.core d) ∧
      coreRest s.curK t.cur = coreRest s.curK u.cur ∧ streamRest t.st = streamRest u.st ∧ t.st.x = u.st.x := by
  obtain ⟨t, et⟩ := addAll_eq (pushQueues u.curK h) f.n u.cur
  have eq := u.retire_eq h f.n pc p kind due
  have hst : (u.retire h f.n pc false).st = { (u.st.goto pc false).clearHead u.cyc with rc := u.st.rc + 1 } := by
    rw [eq, State.st_setSt]
  have hcur : (u.retire h f.n pc false).cur = ((pushQueues u.curK h).foldl (fun c q => c.addTokens q f.n) u.cur).setStream
      u.curK { (u.st.goto pc false).clearHead u.cyc with rc := u.st.rc + 1 } := by
    rw [eq]; simp
  have hg := Stream.goto_rest u.st pc false
  have hn : (s.issueHead h f).nextPc = some pc := by
    obtain ⟨t, keys, e⟩ := s.issueHead_eq h f
    rw [e]; simpa [State.nextPc] using r.nextPc
  refine ⟨u.retire h f.n pc false, ?_, ⟨?_, ?_, ?_, ?_, ?_, ?_, ?_⟩, ?_, ?_, ?_, ?_, ?_⟩
  · rw [runTok_ready r eff g, finishHead_next hn tr e cls]
  · rw [eq]; exact c
  · rw [eq]; exact k
  · rw [hst]; exact hg.2.2.1
  · rw [hst, rc]
  · rw [hst]
    show (!(u.st.goto pc false).ahead.isEmpty) = false
    rw [hg.2.2.2.2, ah]; rfl
  · rw [hst]; rfl
  · intro q'
    rw [hcur]
    have : ∀ (c : Core) (k : StreamId) (v : Stream), (c.setStream k v).tokens q' = c.tokens q' := by
      intro c k v; simp [Core.tokens]
    rw [this, tokens_add]
    have h1 : u.cur.tokens q' = (s.issued h f).cur.tokens q' := by simp only [Core.tokens, q]
    have h2 : (s.issued h f).cur.tokens q' = ((popQueues s.curK h).foldl (fun c q => c.takeTokens q f.n) s.cur).tokens q' := by
      simp [State.issued, State.issueHead, State.setSt, Core.tokens]
    have h3 := tokens_take (popQueues s.curK h) f.n q' s.cur (popQueues_nodup _ _) (fun q hq => by
      have := r.pops
      simp only [Core.lacking, List.filter_eq_nil_iff] at this
      have := this q hq
      simpa using this)
    rw [h1, h2, k]; omega
  · rw [eq]; rfl
  · intro d hd
    rw [← c] at hd
    rw [eq, State.core_setSt_other _ _ (by simpa using hd), State.core_setCur_other _ _ hd]
  · rw [hcur, et, k]
    simp only [coreRest]
    cases s.curK <;> rfl
  · rw [hst, ← hg.1]; rfl
  · rw [hst]; exact hg.2.1

/-! ### The issued state -/

theorem State.issued_st (s : State) (h : Head) (f : Form) :
    streamRest (s.issued h f).st = streamRest s.st ∧ (s.issued h f).st.x = s.st.x ∧ (s.issued h f).st.rc = s.st.rc ∧
      (s.issued h f).st.kind = f.kind ∧ (s.issued h f).st.cls = s.st.cls ∧ (s.issued h f).st.poisonDue = s.st.poisonDue ∧
      (s.issued h f).st.ahead = s.st.ahead := by
  obtain ⟨t, keys, e⟩ := s.issued_eq h f
  rw [e, State.st_setSt]
  exact ⟨rfl, rfl, rfl, rfl, rfl, rfl, rfl⟩

@[simp] theorem State.issued_rx (s : State) (h : Head) (f : Form) (r : Reg) : (s.issued h f).rx r = s.rx r := by
  have := (s.issued_st h f).2.1
  simp only [State.rx, Stream.reg, this]

theorem State.issued_dev (s : State) (h : Head) (f : Form) : { s.issued h f with cores := [] } = { s with cores := [] } := by
  obtain ⟨t, keys, e⟩ := s.issued_eq h f
  rw [e]; rfl

/-- An instruction other than a `pool` issues without an effect on the core but for the tokens and its own head. -/
theorem State.issued_core (s : State) (h : Head) {f : Form} (k : f.kind ≠ .pool) :
    coreRest s.curK (s.issued h f).cur = coreRest s.curK s.cur ∧ ∀ d, d ≠ s.curCore → (s.issued h f).core d = s.core d := by
  obtain ⟨t, keys, e⟩ := s.issued_eq h f
  have hk : (f.kind == .pool) = false := by simpa using k
  rw [e, hk, Bool.false_and, Bool.or_false]
  constructor
  · simp only [State.cur_setSt, State.cur_setCur, State.setCur_curK, coreRest]
    cases s.curK <;> rfl
  · intro d hd
    rw [State.core_setSt_other _ _ (by simpa using hd), State.core_setCur_other _ _ hd]

@[simp] theorem State.issued_pending (s : State) (h : Head) (f : Form) : (s.issued h f).cur.pending = s.cur.pending := by
  obtain ⟨t, keys, e⟩ := s.issued_eq h f
  rw [e]; simp
@[simp] theorem State.issued_curCore (s : State) (h : Head) (f : Form) : (s.issued h f).curCore = s.curCore := rfl
@[simp] theorem State.issued_curK (s : State) (h : Head) (f : Form) : (s.issued h f).curK = s.curK := rfl

/-! ### One scalar register -/

theorem Stream.setReg_rest (st : Stream) (r : Reg) (v : W64) :
    streamRest (st.setReg r v) = streamRest st ∧ (st.setReg r v).rc = st.rc ∧ (st.setReg r v).kind = st.kind ∧
      (st.setReg r v).cls = st.cls ∧ (st.setReg r v).poisonDue = st.poisonDue ∧ (st.setReg r v).ahead = st.ahead := by
  unfold Stream.setReg; split <;> exact ⟨rfl, rfl, rfl, rfl, rfl, rfl⟩

/-- An instruction whose effect is the write of one scalar register sets it, and changes nothing else. -/
theorem sets {i : Instr} {h : Head} {f : Form} {pc : PcWord} {s : State} {eff : Op Flow} {rd : Reg} {v : W64}
    (i' : exec i s = runTok h f eff s) (r : CanIssue h f.n pc s) (g : f.lanes = true ∨ s.guardBit h = true)
    (tr : f.transfer = false) (k : f.kind = .plain ∨ f.kind = .access)
    (e : eff (s.issued h f) = .ok ((s.issued h f).wx rd v) .next) : Sets i h f.n pc rd v s := by
  obtain ⟨hst, hx, hrc, hk, hcl, hp, ha⟩ := s.issued_st h f
  obtain ⟨hc, ho⟩ := s.issued_core h (f := f) (by rcases k with k | k <;> rw [k] <;> decide)
  obtain ⟨s1, s2, s3, s4, s5, s6⟩ := (s.issued h f).st.setReg_rest rd v
  have hu : ((s.issued h f).wx rd v).st = (s.issued h f).st.setReg rd v := by simp [State.wx]
  have hcur : ((s.issued h f).wx rd v).cur = (s.issued h f).cur.setStream s.curK ((s.issued h f).st.setReg rd v) := by
    simp [State.wx]
  obtain ⟨t, e1, ret, dev, oth, core, st, x⟩ := completes (u := (s.issued h f).wx rd v) r g tr e rfl rfl
    (by rw [hcur]; exact Core.setStream_tokq _ _ _) (by rw [hcur]; simp [r.settled]) (by rw [hu, s2, hrc])
    (by rw [hu, s3, hk]; exact k) (by rw [hu, s4, hcl, r.free.2]) (by rw [hu, s5, hp, r.untaken.2.2.2.2])
    (by rw [hu, s6, ha, r.waiting.2.2.2])
  have hrx : ∀ q, t.rx q = if q = rd then (if rd = 0 then 0 else v) else s.rx q := by
    intro q
    have : t.rx q = ((s.issued h f).wx rd v).rx q := by simp only [State.rx, Stream.reg, x]
    rw [this, State.rx_wx, State.issued_rx]
  have hc' : t.core s.curCore = t.cur := by rw [State.cur, ret.core]
  refine ⟨t, i'.trans e1, ret, ?_, ⟨?_, ?_, ?_, ?_⟩, ?_, ?_⟩
  · rw [hrx, if_pos rfl]
  · exact dev.trans (s.issued_dev h f)
  · intro d hd
    rw [oth d hd]
    exact (State.core_setSt_other _ _ (by simpa using hd)).trans (ho d hd)
  · refine (congrArg (coreRest s.curK) hc').trans (core.trans (Eq.trans ?_ hc))
    rw [hcur]
    simp only [coreRest]
    cases s.curK <;> rfl
  · have : t.stream s.curCore s.curK = t.st := by rw [State.stream, hc', State.st, ret.stream]
    rw [id, id, this, st, hu, s1, hst]; rfl
  · intro q hq
    rw [hrx, if_neg hq]
  · intro a
    have hm : ({ t with cores := [] } : State).mem = ({ s with cores := [] } : State).mem := by
      rw [dev.trans (s.issued_dev h f)]
    exact congrArg (memRead · a) hm

end Sys2Proof.Machine
end

