-- ==== Sys2Proof/Tests/Slice0.lean ====
section
/-! SUPPORT. Our own tests: decoding of words written out from the spec, ill-formed terms, single steps, and for the
statements a state that meets their hypotheses. -/

section

open Sys2Proof Sys2Proof.Machine Sys2Proof.Safety

set_option Elab.async false

namespace Sys2Proof.Tests

/-! ## Words written out from the encodings of the spec, and what they decode to -/

/-- R46, R95: 0x02 in [63:56], rd 5 in [47:43], ra 5 in [42:38], 128 in [31:0]. -/
theorem test_decode_addi : decode [0x0200294000000080] = .ok (.addi ⟨0, 0⟩ 5 5 128) := by decide

/-- R46: rb in [37:33]. -/
theorem test_decode_add : decode [0x0100318A00000000] = .ok (.add ⟨0, 0⟩ 6 6 5) := by decide

/-- R96: the example of `bfx.s`. -/
theorem test_decode_bfxS : decode [0x1F00398100000204] = .ok (.bfxS ⟨0, 0⟩ 7 6 8 4) := by decide

theorem test_decode_li : decode [0x1C0028000000000A] = .ok (.li ⟨0, 0⟩ 5 10) := by decide

/-- R47, R98: a displacement of −3 frames and slot 2. -/
theorem test_decode_bc : decode [0x250031E03FFFFFEA] = .ok (.bc ⟨0, 0⟩ 6 7 4 (-3) 2) := by decide

theorem test_decode_loop : decode [0x2800000140000002] = .ok (.loop ⟨0, 0⟩ 5 0 2) := by decide

theorem test_decode_yield : decode [0x2C00000000000000] = .ok (.yieldI ⟨0, 0⟩) := by decide

/-- R49, R137: the vector example, with tokens and a guard. -/
theorem test_decode_vadd :
    decode [0x4392040A09000BE0] = .ok (.vadd ⟨0b1001, 2⟩ 8 40 72 .f16 7 false) := by decide

theorem test_decode_vshape : decode [0x40000000406000E0] = .ok (.vshape ⟨0, 0⟩ 1 3 0 0) := by decide

theorem test_decode_vlive : decode [0x7D001F80000000E0] = .ok (.vlive ⟨0, 0⟩ 63) := by decide

/-- R50, R171. -/
theorem test_decode_mmul :
    decode [0x80000180080089A0] = .ok (.mmul ⟨0, 0⟩ 0 6 0 16 false 0 true 4 .e4m3 0 false) := by decide

/-- R51, R195. -/
theorem test_decode_ld : decode [0xA000049018000040] = .ok (.ld ⟨0, 0⟩ 9 4 0 .i32 0 0x40) := by decide

theorem test_decode_vld : decode [0xA200038001280000] = .ok (.vld ⟨0, 0⟩ 7 0 0 1 0x280000) := by decide

/-- R52, R118. -/
theorem test_decode_poolScr : decode [0xAB00314005000004] = .ok (.poolReshape ⟨0, 0⟩ 6 5 5 false 4) := by decide

theorem test_decode_rwaitf : decode [0xB200380C03000064] = .ok (.rwaitf ⟨0, 0⟩ 7 6 3 100) := by decide

theorem test_decode_fences :
    decode [0xBA000001E0000000] = .ok (.fenceRel ⟨0, 0⟩ 30) ∧ decode [0xBA000001F1000000] = .ok (.fenceAcq ⟨0, 0⟩ 31) := by decide

theorem test_decode_cluster :
    decode [0xC000000000000000] = .ok (.detach ⟨0, 0⟩) ∧ decode [0xC100000001001003] = .ok (.join ⟨0, 0⟩ 16 3) ∧
      decode [0xC20000001100040F] = .ok (.dsync ⟨0, 0⟩ 1 1 4 15) := by decide

theorem test_decode_scopes_and_atomics :
    decode [0xC400298050000000] = .ok (.scset ⟨0, 0⟩ 5 6 5) ∧
      decode [0xC600298FE0000009] = .ok (.amo ⟨0, 0⟩ 5 6 7 30 0 2 1) ∧
      decode [0xCA0022C000000000] = .ok (.marm ⟨0, 0⟩ 4 11) ∧ decode [0xC900300000000400] = .ok (.mwait ⟨0, 0⟩ 6 1024) := by decide

theorem test_decode_video_and_scheduling :
    decode [0xE100298FE0000000] = .ok (.mask ⟨0, 0⟩ 5 6 7 30) ∧ decode [0xE300298000000025] = .ok (.enq ⟨0, 0⟩ 5 6 37) ∧
      decode [0xE40038005000000C] = .ok (.depDec ⟨0, 0⟩ 7 5 12) := by decide

theorem test_decode_debug_and_fabric :
    decode [0xEA00298E00000001] = .ok (.dump ⟨0, 0⟩ 5 6 7 1) ∧ decode [0xE70001C000000051] = .ok (.tmark ⟨0, 0⟩ 7 0x51) ∧
      decode [0xE500018E00000000] = .ok (.pwr ⟨0, 0⟩ 6 7 0) ∧ decode [0xE600220C0200000E] = .ok (.pamoCas ⟨0, 0⟩ 4 8 6 3 2) ∧
      decode [0xEB00024000000005] = .ok (.ntfy ⟨0, 0⟩ 9 5) := by decide

/-- R57's record, with word 5 laid out as R54's table gives it. -/
theorem test_decode_loopNest :
    decode [0x20A180002F800000, 0x0001000100020004, 0x100001, 0x100001, 0, 0x28000008, 0x48, 0] =
      .ok (.loopNestRecord ⟨0, 0⟩
        (LnRec.mk 0x43 0x2F800000 0x0001000100020004 0x100001 0x100001 0 8 0x28 0x48)) := by decide

/-- R59: an unassigned opcode is refused as such. -/
theorem test_decode_unassigned : (match decode [0xFF00000000000000] with | .ok _ => false | .error _ => true) = true := by decide

/-- R60: a bit that no field of `add` uses is refused. -/
theorem test_decode_stray_bit : (match decode [0x0100318A00000001] with | .ok _ => false | .error _ => true) = true := by decide

/-! ## Ill-formed terms: one for each check of `Instr.wf` -/

/-- The scanner takes none of these (R43 to R57, R60). -/
theorem test_ill_formed_scalar :
    ∀ i ∈ ([.nop ⟨1, 0⟩, .bfx ⟨0, 0⟩ 1 2 0 0, .bfx ⟨0, 0⟩ 1 2 33 32, .bc ⟨0, 0⟩ 1 2 6 0 0, .loop ⟨0, 0⟩ 0 0 0, .tok ⟨0, 0⟩ 0,
        .tok ⟨1, 1⟩ 0, .mfs ⟨0, 0⟩ 1 0x042, .mts ⟨0, 0⟩ 1 0x010,
        .loopNestRecord ⟨0, 0⟩ (LnRec.mk 0x43 1 0 0 0 0 0 0 0), .loopNestRecord ⟨0, 0⟩ (LnRec.mk 0x80 0 0 0 0 1 0 0 0)] : List Instr),
      i.wf = false := by decide

theorem test_ill_formed_vector :
    ∀ i ∈ ([.vshape ⟨0, 0⟩ 63 63 0 0, .vmov ⟨0, 0⟩ 320 1 .i8, .vmov ⟨0, 0⟩ 1 320 .i8, .vmov ⟨0, 0⟩ 1 2 .i64,
        .vadd ⟨0, 0⟩ 1 2 3 .e4m3 0 false, .vadd ⟨0, 0⟩ 1 2 3 .f32 4 false, .vdiv ⟨0, 0⟩ 1 2 3 .i8 0 false, .vabs ⟨0, 0⟩ 1 2 .f16 true,
        .vshl ⟨0, 0⟩ 1 2 3 .f32, .vcmp ⟨0, 0⟩ 1 2 3 .i8 6, .vcmp ⟨0, 0⟩ 1 2 3 .f32 7, .vcvt ⟨0, 0⟩ 1 2 .f16 .f32 4 false false,
        .vcvt ⟨0, 0⟩ 1 2 .f32 .f16 0 true false, .vcvt ⟨0, 0⟩ 1 2 .f32 .f16 5 false false, .vrmrg ⟨0, 0⟩ 1 2 3 0 .i8,
        .vrmrg ⟨0, 0⟩ 1 2 3 128 .n8, .vidx ⟨0, 0⟩ 1 .i32 0 3, .vrdacc ⟨0, 0⟩ 1 2 .f32 0 true false,
        .vaddacc ⟨0, 0⟩ 1 2 .i8 0, .vlive ⟨0, 0⟩ 320] : List Instr),
      i.wf = false := by decide

theorem test_ill_formed_matrix :
    ∀ i ∈ ([.mmul ⟨0, 0⟩ 1 2 0 0 false 0 false 0 .i8 0 false, .mmul ⟨0, 0⟩ 0 2 0 0 false 0 false 0 .f32 0 false,
        .mmul ⟨0, 0⟩ 0 2 0 0 false 0 false 0 .i8 7 true, .mmul ⟨0, 0⟩ 0 2 0 320 false 0 false 0 .i8 0 true,
        .mmuls ⟨0, 0⟩ 0 2 0 0 false 0 false 0 .f16 0 true, .mdrain ⟨0, 0⟩ 0 2 0 0 false 0 false 0 .i4 0 true,
        .mbias ⟨0, 0⟩ 1 2 false 0 false 0 false] : List Instr),
      i.wf = false := by decide

theorem test_ill_formed_memory :
    ∀ i ∈ ([.ld ⟨0, 0⟩ 1 2 0 .i8 3 0, .ld ⟨0, 0⟩ 1 2 0 .f32 0 0, .ld ⟨0, 0⟩ 1 2 0 .i8 1 0, .ld ⟨0, 0⟩ 1 2 1 .i8 0 0,
        .ld ⟨0, 0⟩ 1 0 15 .i8 1 0, .ld ⟨0, 0⟩ 1 0 0 .i8 1 0x400000, .vld ⟨0, 0⟩ 384 0 0 0 0, .cpy ⟨0, 0⟩ 1 0 0 0 0,
        .poolReshape ⟨0, 0⟩ 1 2 6 false 0, .pstat ⟨0, 0⟩ 1 9, .rget ⟨0, 0⟩ 1 2 0, .rclaim ⟨0, 0⟩ 1 2 3 0, .rwaitf ⟨0, 0⟩ 1 2 3 0,
        .semw ⟨0, 0⟩ 1 1 0 0, .semw ⟨0, 0⟩ 1 0 1 0, .sems ⟨0, 0⟩ 1 0 0, .epop ⟨0, 0⟩ 1 2 0] : List Instr),
      i.wf = false := by decide

theorem test_ill_formed_cluster_and_fabric :
    ∀ i ∈ ([.join ⟨0, 0⟩ 0 1, .dsync ⟨0, 0⟩ 1 4 1 0, .dsync ⟨0, 0⟩ 1 0 0 0, .cbcast ⟨0, 0⟩ 1 2 0 0, .dinfo ⟨0, 0⟩ 1 4 0,
        .xsemW ⟨0, 0⟩ 1 1 0 0, .xsemS ⟨0, 0⟩ 1 0 0, .scset ⟨0, 0⟩ 1 2 30, .scget ⟨0, 0⟩ 1 2 5, .amo ⟨0, 0⟩ 1 2 3 0 10 0 0,
        .amo ⟨0, 0⟩ 1 2 3 0 9 0 0, .amo ⟨0, 0⟩ 1 2 3 0 0 0 3, .acas ⟨0, 0⟩ 1 2 3 0 0 2, .mwait ⟨0, 0⟩ 1 0,
        .pwr ⟨0, 0⟩ 1 2 2, .pamoAdd ⟨0, 0⟩ 1 2 3 0 2, .pamoCas ⟨0, 0⟩ 1 2 3 0 2, .ntfy ⟨0, 0⟩ 1 0] : List Instr),
      i.wf = false := by decide


/-! ## States on which the statements speak

For each statement with hypotheses, a state and operands that meet them. -/

/-- A packet of seven slots. -/
def packet : FrameRec := { addr := 0x1000, pa := 0x1000, words := [0x1E00000000000000, 0, 0, 0, 0, 0, 0, 0] }

def header : Header := { addr := 0, words := [0, 0, 0, 0, 0, 0, 0, placePool] }

/-- A device whose core 0 runs stream `k` at the first slot of the packet, in an ordinary slice or a handler slice. -/
def on (k : StreamId) (st : Stream := {}) (c : Core := {}) (x : Ctx := {}) (handler : Bool := false) : State :=
  { State.reset with
    curK := k
    cores := [(0, ({ c with slice := some 0 } : Core).setStream k
      { st with mode := .run, pc := 0x1000, iq := [packet], attached := false })]
    slices := [(0, { ctx := 0, handler := handler, queue := 0, hdr := header, cores := [0], budget := 100 })]
    ctxs := [(0, { x with live := true, mode := if handler then .stopped else .run })] }

/-- Registers of a stream. -/
def regs (vs : List (Nat × W64)) : Stream := { x := vs }

/-- One REG bank of vectors, both accumulator banks, one SCR bank and a RING bank. -/
def vcore : Core := { roles := [(0, 1), (10, 1), (11, 1), (12, 5), (13, 4)] }

/-- A false guard: the inverse of p0. -/
def no : Head := ⟨0, 8⟩

theorem ok_of {ε α : Type} {x : Except ε α} {a : α} (h : x.toOption = some a) : x = .ok a := by
  cases x <;> simp_all [Except.toOption]

theorem some_of {α : Type} {o : Option α} (h : o.isSome = true) : o = some (o.get h) := by
  cases o <;> simp_all

theorem error_of {ε α : Type} {x : Except ε α} (h : x.toOption = none) : ∃ e, x = .error e := by
  cases x <;> simp_all [Except.toOption]

/-- The premises of `CanIssue` and of `CanFinish`, as one decision. -/
def issuable (h : Head) (n : Nat) (pc : PcWord) (s : State) : Bool :=
  decide (s.canRun s.curCore s.curK = true ∧ (s.issueOnly = false ∧ s.chosen = none ∧ s.late = false) ∧ s.expanding = false ∧
    (s.st.issued = false ∧ s.st.popped = (0, 0) ∧ s.st.pushes = [] ∧ s.st.ahead = []) ∧ (s.st.wait = none ∧ s.st.cls = 0) ∧ s.st.skipping = false ∧
    (s.st.notes = [] ∧ s.st.outs = [] ∧ s.st.capt = none ∧ s.st.captScope = none ∧ s.st.poisonDue = false) ∧
    (s.cur.pending = [] ∧ s.cur.reshape = none ∧ s.st.lateTrap = none) ∧ s.stopAtHolds s.curCore s.curK = false ∧ s.atCheckpoint = false ∧
    s.nextPc = some pc ∧ s.cur.lacking (popQueues s.curK h) n = [] ∧ s.cur.crowded s.st.pushes (pushQueues s.curK h) n = [])

theorem canIssue_of {h : Head} {n : Nat} {pc : PcWord} {s : State} (e : issuable h n pc s = true) : CanIssue h n pc s := by
  obtain ⟨a, b, c, d, f, g, i, j, k, l, m, o, p⟩ := of_decide_eq_true e
  exact ⟨⟨a, b, c, d, f, g, i, j, k, l, m⟩, o, p⟩

def finishable (pc : PcWord) (s : State) : Bool :=
  decide (s.canRun s.curCore s.curK = true ∧ (s.issueOnly = false ∧ s.chosen = none ∧ s.late = false) ∧ s.expanding = false ∧
    s.st.issued = true ∧ s.st.guardOn = true ∧ s.st.skipping = false ∧ (s.ctx s.curCtx).traceEn = false ∧
    (s.st.poisonDue = false ∧ (s.st.kind = .plain ∨ s.st.kind = .access)) ∧ s.cur.pending = [] ∧ s.nextPc = some pc)

theorem canFinish_of {pc : PcWord} {s : State} (e : finishable pc s = true) : CanFinish pc s := by
  obtain ⟨a, b, c, d, f, g, i, ⟨j, k⟩, l, m⟩ := of_decide_eq_true e
  exact ⟨a, b, c, d, f, g, Or.inl i, ⟨j, by rcases k with k | k <;> simp [k]⟩, l, m⟩

theorem test_canIssue : ∀ k, CanIssue ⟨0, 0⟩ 1 0x1001 (on k) := by
  intro k; cases k <;> exact canIssue_of (by decide +kernel)

theorem test_guardBit : ∀ k, (on k).guardBit ⟨0, 0⟩ = true := by
  intro k; cases k <;> decide +kernel

theorem test_ordinary : ∀ k, Ordinary (on k) := by
  intro k; cases k <;> exact ⟨_, rfl, rfl, rfl⟩


/-- ScalarArithmetic: the corner of the signed division, and the fields at both ends of a word. -/
theorem test_hyp_scalarArithmetic :
    let s := on .S (regs [(1, 0x8000000000000000), (2, 0xFFFFFFFFFFFFFFFF)]);
    CanIssue ⟨0, 0⟩ 1 0x1001 s ∧ s.guardBit ⟨0, 0⟩ = true ∧ s.rx 1 = 0x8000000000000000#64 ∧ s.rx 2 = 0xFFFFFFFFFFFFFFFF#64 ∧
      s.rx 3 = 0 ∧ (s.rx 1).getLsbD (63 - 0) = true ∧ 63 + (1 : BitVec 7).toNat ≤ 64 ∧ 0 + (64 : BitVec 7).toNat ≤ 64 := by
  refine ⟨?_, by decide +kernel⟩; exact canIssue_of (by decide +kernel)

/-- NopTokFalseGuardsAndMissingTokens: a full count, a false guard, a queue without tokens, and one without room. -/
theorem test_hyp_tokens :
    (let s := on .X {} { tokq := [(0, 16), (1, 15)] };
      CanIssue ⟨0b1010, 0⟩ 1 0x1001 s ∧ s.guardBit ⟨0b1010, 0⟩ = true ∧ CanIssue ⟨0b1000, 0⟩ 16 0x1001 s) ∧
    (CanIssue no 1 0x1001 (on .K) ∧ (on .K).guardBit no = false) ∧
    (let s := on .X;
      s.canRun 0 .X = true ∧ s.expanding = false ∧ s.st.issued = false ∧ s.st.wait = none ∧ s.stopAtHolds 0 .X = false ∧
        ∃ q ∈ popQueues .X ⟨0b1000, 0⟩, s.cur.tokens q < 1) ∧
    let s := on .X {} { tokq := [(1, 16)] };
    s.canRun 0 .X = true ∧ s.st.issued = false ∧ ∃ q ∈ pushQueues .X ⟨0b0010, 0⟩, 16 < s.cur.tokens q + 1 := by
  refine ⟨⟨?_, by decide +kernel, ?_⟩, ⟨?_, by decide +kernel⟩, by decide +kernel, by decide +kernel⟩ <;> exact canIssue_of (by decide +kernel)

/-- TransfersReachTheirTargetOrTrap: targets at the least and the greatest frame, and one below and above them. -/
theorem test_hyp_transfers :
    let s := on .L (regs [(1, 5), (2, 1), (3, 0x1007)]);
    CanIssue ⟨0, 0⟩ 1 0x1001 s ∧ s.guardBit ⟨0, 0⟩ = true ∧ Ordinary s ∧
      (let f (disp : BitVec 27) : Int := ((s.st.pc.toNat - s.st.pc.toNat % 64 : Nat) : Int) + disp.toInt * 64;
        f (-64) = 0 ∧ f (-65) < 0 ∧ f 0 ≤ 0xFFFFFFFFFFFFC0) ∧
      s.rx 1 - 1 ≠ 0 ∧ s.rx 2 = 1 ∧ (s.rx 3).toNat % 8 = 7 ∧ (s.rx 1).toNat < 2 ^ 56 ∧ (s.rx 1).toNat / 8 % 8 = 0 := by
  refine ⟨?_, by decide +kernel, ⟨_, rfl, rfl, rfl⟩, by decide +kernel⟩; exact canIssue_of (by decide +kernel)

/-- SoftwareTrapsEnterTheHaltLine: breakpoints on and off, and a handler slice. -/
theorem test_hyp_softwareTraps :
    (CanIssue ⟨0, 0⟩ 1 0x1001 (on .S) ∧ (on .S).guardBit ⟨0, 0⟩ = true ∧ Ordinary (on .S) ∧ ((on .S).ctx (on .S).curCtx).brken = true) ∧
    (let s := on .S {} {} { brken := false };
      CanIssue ⟨0, 0⟩ 1 0x1001 s ∧ s.guardBit ⟨0, 0⟩ = true ∧ (s.ctx s.curCtx).brken = false) ∧
    let s := on .K {} {} {} true;
    CanIssue ⟨0, 0⟩ 1 0x1001 s ∧ s.guardBit ⟨0, 0⟩ = true ∧ s.isHandler = true := by
  refine ⟨⟨test_canIssue .S, by decide +kernel, ⟨_, rfl, rfl, rfl⟩, by decide +kernel⟩, ⟨?_, by decide +kernel⟩, ?_, by decide +kernel⟩ <;> exact canIssue_of (by decide +kernel)

/-- SpecialRegisterReads and SpecialRegisterWrites: an ordinary slice, and a handler slice that redirects nothing. -/
theorem test_hyp_specialRegisters :
    (CanIssue ⟨0, 0⟩ 1 0x1001 (on .X) ∧ (on .X).guardBit ⟨0, 0⟩ = true ∧ Undirected (on .X)) ∧
    let s := on .K {} {} {} true;
    CanIssue ⟨0, 0⟩ 1 0x1001 s ∧ s.guardBit ⟨0, 0⟩ = true ∧ Undirected s ∧ s.isHandler = true := by
  refine ⟨⟨test_canIssue .X, by decide +kernel, by unfold Undirected; decide⟩, ?_, by decide +kernel, by unfold Undirected; decide, by decide +kernel⟩
  exact canIssue_of (by decide +kernel)

/-- HandlersYieldAndPrivilege: an ordinary slice, a handler slice, and the K stream in the base layout and out of it. -/
theorem test_hyp_handlersAndYield :
    (CanIssue ⟨0, 0⟩ 1 0x1001 (on .K) ∧ (on .K).guardBit ⟨0, 0⟩ = true ∧ Ordinary (on .K) ∧
      (on .K).cur.poolIsBase header.poolWord = false) ∧
    (let s := on .K {} {} {} true;
      CanIssue ⟨0, 0⟩ 1 0x1001 s ∧ s.guardBit ⟨0, 0⟩ = true ∧ s.isHandler = true ∧ Undirected s ∧
        s.cur.postedHost = false ∧ s.cur.postedPeer = false) ∧
    let s := on .K {} { roles := (List.range 64).map fun b => (b, canonicalRole placePool b) };
    CanIssue ⟨0, 0⟩ 1 0x1001 s ∧ s.guardBit ⟨0, 0⟩ = true ∧ (∃ v, s.sliceOf s.curCore = some v ∧ s.cur.poolIsBase v.hdr.poolWord = true) ∧
      s.cur.postedHost = false ∧ s.cur.postedPeer = false := by
  refine ⟨⟨test_canIssue .K, by decide +kernel, ⟨_, rfl, rfl, rfl⟩, by decide +kernel⟩, ⟨?_, by decide +kernel, by decide +kernel, by unfold Undirected; decide, by decide +kernel⟩,
    ?_, by decide +kernel, ⟨_, rfl, by decide +kernel⟩, by decide +kernel⟩ <;> exact canIssue_of (by decide +kernel)

/-- BudgetAndIdle: a budget that suffices and one that does not, times that have come and have not, and an `idle.cyc` that
has issued. -/
theorem test_hyp_budgetAndIdle :
    (CanIssue ⟨0, 0⟩ 1 0x1001 (on .L) ∧ (on .L).guardBit ⟨0, 0⟩ = true ∧ Ordinary (on .L) ∧
      (∃ v, (on .L).sliceOf (on .L).curCore = some v ∧ (100 : BitVec 32) ≤ v.budget ∧ v.budget < 101) ∧
      ((on .L).rx 1).toNat ≤ (on .L).time ∧ (on .L).time < ((on .L).rx 1 + 1).toNat) ∧
    let s := on .L { issued := true, guardOn := true };
    CanFinish 0x1001 s ∧ s.st.issuedAt + 0 ≤ s.cyc := by
  refine ⟨⟨test_canIssue .L, by decide +kernel, ⟨_, rfl, rfl, rfl⟩, ⟨_, rfl, by decide +kernel⟩, by decide +kernel⟩, ?_, by decide +kernel⟩
  exact canFinish_of (by decide +kernel)

/-- LoopNestIndicesRunInnermostFirst: a nest in its first issue, and one with a trip count of 0. -/
theorem test_hyp_loopNest :
    lnFinished (LnRec.mk 0x43 0 0x0001000100020004 0 0 0 0 0 0) 0 = false ∧ CanIssue ⟨0, 0⟩ 1 0x1001 (on .X) ∧
      ∃ l, l < 4 ∧ (LnRec.mk 0x43 0 0x0001000100000004 0 0 0 0 0 0).trip l = 0 :=
  ⟨by decide +kernel, test_canIssue .X, 1, by decide +kernel⟩

/-- A stream X with REG banks, a tile of 2 by 4, and registers 1 to 4 ready. -/
def vs : State := on .X { vshapeRows := 2, vshapeCols := 4, x := [(1, 3)] } vcore

theorem test_canIssue_vector : CanIssue ⟨0, 0⟩ 1 0x1001 vs := by exact canIssue_of (by decide +kernel)

theorem test_shapeReady : ShapeReady [32, 16] vs ∧ ShapeReady [32] vs := by
  constructor <;> (constructor <;> decide +kernel)

theorem test_regsReady : RegsReady [1, 4] [2, 3] vs ∧ RegsReady [] [accReg 63, 31] vs := by
  constructor <;> (constructor <;> decide +kernel)

/-- LoopNestIndicesRunInnermostFirst: a nest whose first issue is a `vadd` that retires. -/
theorem test_hyp_loopNestIssue :
    let r := LnRec.mk 0x43 0x2F800000 0x0001000100020004 0x100001 0x100001 0 1 8 16;
    CanIssue ⟨0, 0⟩ 1 0x1001 vs ∧ lnReason ⟨0, 0⟩ r = none ∧ lnFinished r vs.st.lnpos = false ∧
      (match decodeWord (lnIssueWord r 0 0 0 0 0) with
        | .ok i => (match Machine.exec i vs with | .next u => u.st.rc == vs.st.rc + 1 | _ => false)
        | .error _ => false) = true :=
  ⟨test_canIssue_vector, by decide +kernel, by decide +kernel, by decide +kernel⟩

/-- VectorMovesLogicAndShifts, VectorArithmeticOnIntegersAndFloats, VectorFunctionsAndMinimaComplete, ReductionsAndScans: an
integer and a floating type. -/
theorem test_hyp_vector :
    CanIssue ⟨0, 0⟩ 1 0x1001 vs ∧ ShapeReady [ElemTy.i32.width] vs ∧ ShapeReady [ElemTy.f32.width] vs ∧ RegsReady [1] [2, 3, 4] vs ∧
      fmtOf .i32 = none ∧ fmtOf .f32 ≠ none := by
  refine ⟨test_canIssue_vector, test_shapeReady.2, test_shapeReady.2, ?_, by decide +kernel⟩
  (constructor <;> decide +kernel)

/-- ConversionsAndAccumulators: no matrix command names the accumulator. -/
theorem test_hyp_conversions :
    CanIssue ⟨0, 0⟩ 1 0x1001 vs ∧ ShapeReady [ElemTy.f16.width, ElemTy.f32.width] vs ∧ RegsReady [1] [2] vs ∧
      vs.cur.matrix.namesAcc 63 = false ∧ RegsReady [1] [accReg 63] vs ∧ RegsReady [] [accReg 63, 2] vs ∧ vs.guardBit ⟨0, 0⟩ = true := by
  refine ⟨test_canIssue_vector, ?_, ?_, by decide +kernel, ?_, ?_, by decide +kernel⟩ <;> (constructor <;> decide +kernel)

/-- PredicateInstructions, with the tile ready and sources in REG banks. -/
theorem test_hyp_predicates : CanIssue ⟨0, 0⟩ 1 0x1001 vs ∧ ShapeReady [ElemTy.i8.width] vs ∧ RegsReady [] [2, 3] vs := by
  refine ⟨test_canIssue_vector, ?_, ?_⟩ <;> (constructor <;> decide +kernel)

/-- PermutesSortsAndGenerators: two different destinations, and a shift of 128. -/
theorem test_hyp_permutes :
    CanIssue ⟨0, 0⟩ 1 0x1001 vs ∧ ShapeReady [ElemTy.i32.width, 16] vs ∧ RegsReady [1] [2, 3] vs ∧ RegsReady [1, 4] [2] vs ∧
      vs.guardBit ⟨0, 0⟩ = true ∧ (128 : BitVec 9).toNat ≤ 128 ∧ (1 : VReg) ≠ 4 := by
  refine ⟨test_canIssue_vector, test_shapeReady.1, ?_, ?_, by decide +kernel⟩ <;> (constructor <;> decide +kernel)

/-- ConditionalStreamsAndSingleElements. -/
theorem test_hyp_streams :
    CanIssue ⟨0, 0⟩ 1 0x1001 vs ∧ ShapeReady [ElemTy.i32.width] vs ∧ RegsReady [1, 4] [2] vs ∧ (1 : VReg) ≠ 4 ∧ RegsReady [1] [2, 3] vs ∧
      RegsReady [] [2] vs ∧ RegsReady [1] [] vs ∧ vs.guardBit ⟨0, 0⟩ = true := by
  refine ⟨test_canIssue_vector, test_shapeReady.2, ?_, by decide +kernel, ?_, ?_, ?_, by decide +kernel⟩ <;> (constructor <;> decide +kernel)


/-- MatrixCommandsEnterTheQueue: an empty engine that takes `msem`, one that refuses a `mmul` with K = 0, and a full one. -/
theorem test_hyp_matrixQueue :
    let s := on .X (regs [(2, 0x4000000)]) vcore;
    let full := on .X {} { matrix := { queue := List.replicate 16 { seq := 0, op := 0x94 } } };
    CanIssue ⟨0, 0⟩ 1 0x1001 s ∧ s.guardBit ⟨0, 0⟩ = true ∧ s.cur.matrix.qlen < 16 ∧ Ordinary s ∧
      (mcmd 0x94 0 0 ⟨false, 0, false, 0⟩ 0 0 false).refusal = none ∧
      (mcmd 0x80 0 0 ⟨false, 0, false, 0⟩ 0xA 0 false).refusal ≠ none ∧
      CanIssue ⟨0, 0⟩ 1 0x1001 full ∧ 16 ≤ full.cur.matrix.qlen := by
  refine ⟨?_, by decide +kernel, by decide +kernel, ⟨_, rfl, rfl, rfl⟩, by decide +kernel, by decide +kernel, ?_, by decide +kernel⟩ <;>
    exact canIssue_of (by decide +kernel)

/-- MatrixCommandsEnterTheQueue: a count of rows that fits exactly, and counts of groups that do not. -/
theorem test_hyp_matrixChecks :
    ({ seq := 0, op := 0x80, ty := 2, acc := 0, wb := 0x7F00010000, t := 1 } : MCmd).refusal = none ∧
      128 < ((List.range 8).map fun g => (129 : W64).toNat / 2 ^ (8 * g) % 256).sum := by decide +kernel

/-- A device whose core 0 holds a matrix engine. -/
def withEngine (m : Matrix) (sems : Tbl Sem := []) (ev : EvArgs := {}) : State :=
  { on .X {} { matrix := m, sems := sems } with ev := ev, clusters := [(0, { cycles := 100 })] }

/-- MatrixEngineStartsCompletesAndExpires: a head that needs no semaphore, one that takes one, one whose semaphore is empty. -/
theorem test_hyp_matrixStart :
    (let c : MCmd := { seq := 0, op := 0x94 };
      let s := withEngine { queue := [c] };
      (s.core 0).matrix.queue = c :: [] ∧ s.engineRuns 0 = true ∧ (s.core 0).matrix.mayStart c = true ∧ c.swen = false) ∧
    let c : MCmd := { seq := 0, op := 0x94, swen := true, semw := 63 };
    let s := withEngine { queue := [c] } [(63, { value := 1 })];
    let e := withEngine { queue := [c] };
    s.engineRuns 0 = true ∧ (s.core 0).matrix.mayStart c = true ∧ c.semTaken = false ∧ ((s.core 0).sem 63).waiters = [] ∧
      0 < ((s.core 0).sem 63).value.toNat ∧ e.engineRuns 0 = true ∧ ((e.core 0).sem 63).value = 0 := by decide +kernel

/-- MatrixEngineStartsCompletesAndExpires: an executing `msem`, a head whose wait is late, an empty engine and a busy one. -/
theorem test_hyp_matrixCompletes :
    (let c : MCmd := { seq := 0, op := 0x94, ssen := true, sems := 1 };
      let s := withEngine { running := some c };
      (s.core 0).matrix.running = some c ∧ c.seq = s.ev.n ∧ c.progress = 0 ∧ s.engineRuns 0 = true ∧
        ((s.core 0).sem 1).value.toNat < 0xFFFF) ∧
    (let c : MCmd := { seq := 0, op := 0x94, swen := true, waitSince := some (0, 99) };
      let s := withEngine { queue := [c] };
      s.engineRuns 0 = true ∧ 99 < s.cyclesOf 0 - 0 ∧ (∃ v, s.sliceOf 0 = some v ∧ v.handler = false ∧ (s.ctx v.ctx).halt = none)) ∧
    CanIssue ⟨0, 0⟩ 1 0x1001 (withEngine {}) ∧ (withEngine {}).st.capt = none ∧ (withEngine {}).cur.matrix.qlen = 0 ∧
      CanIssue ⟨0, 0⟩ 1 0x1001 (withEngine { queue := [{ seq := 0, op := 0x94 }] }) ∧
      0 < (withEngine { queue := [{ seq := 0, op := 0x94 }] }).cur.matrix.qlen := by
  refine ⟨by decide +kernel, ⟨by decide +kernel, by decide +kernel, ⟨_, rfl, rfl, rfl⟩⟩, ?_, by decide +kernel, by decide +kernel, ?_,
    by decide +kernel⟩ <;> exact canIssue_of (by decide +kernel)

/-- Translations of a page of DEV, HOST and PEER memory. -/
def page (cls : Nat) : TlbEntry :=
  { va := 0x100000 * (cls + 1), size := 4096, pa := if cls = 0 then 0x100000 else 0x800000000000, cls := cls, r := true, w := true, x := false, xs := 0 }

/-- Core 0 with its SCR bank 12, and a context whose buffers hold the three pages. -/
def mems (k : StreamId) (st : Stream) (c : Core := vcore) : State :=
  on k st { c with tlb := [(0, page 0), (0, page 1), (0, page 2)] }

theorem sound_of {s : State} {row : Nat} (h : tblFind s.cur.ways row = none) (b : s.homeBad (some s.curPart) row = false) :
    Sound s row := by
  unfold Sound; rw [h]; exact b

/-- ScalarLoads, ScalarStores: a DEV page, a HOST page, a page that nothing maps, an SCR bank and one that is none. -/
theorem test_hyp_loadsAndStores :
    let s := mems .S (regs [(1, 0x100008), (2, 0x200000), (3, 0x7000)]);
    (CanIssue ⟨0, 0⟩ 1 0x1001 s ∧ s.guardBit ⟨0, 0⟩ = true ∧ Ordinary s) ∧
    (s.accessEntry 0x100008 8 .read = .ok (page 0) ∧ s.accessEntry 0x100008 8 .write = .ok (page 0) ∧
      s.homeBad (some s.curPart) ((page 0).phys 0x100008 / 128) = false ∧
      tblFind s.cur.ways ((page 0).phys 0x100008 / 128) = none ∧ Sound s ((page 0).phys 0x100008 / 128)) ∧
    (s.accessEntry 0x200000 1 .read = .ok (page 1) ∧ (page 1).cls ≠ 0 ∧ s.accessEntry 0x300000 1 .write = .ok (page 2) ∧ (page 2).cls = 2) ∧
    (∃ tr, s.accessEntry 0x7000 4 .read = .error tr) ∧ (∃ tr, s.accessEntry 0x7000 4 .write = .error tr) ∧
    (Reaches s 1 0xC0000 0 ∧ tblGet 0 (s.core 0).roles (scrBank 0 0xC0000) = 5 ∧
      (s.core 0).poolUe.contains (scrBank 0 0xC0000 * 512 + scrRow 0xC0000) = false ∧ tblGet 0 (s.core 0).roles (scrBank 0 0xD0000) ≠ 5) ∧
    Reaches s 2 0xC0000 0 := by
  refine ⟨⟨?_, by decide +kernel, ⟨_, rfl, rfl, rfl⟩⟩, ⟨ok_of (by decide +kernel), ok_of (by decide +kernel), by decide +kernel, by decide +kernel, sound_of (by decide +kernel) (by decide +kernel)⟩,
    ⟨ok_of (by decide +kernel), by decide +kernel, ok_of (by decide +kernel), by decide +kernel⟩, error_of (by decide +kernel),
    error_of (by decide +kernel), ⟨.inl ⟨rfl, rfl⟩, by decide +kernel⟩, .inr ⟨rfl, by decide +kernel⟩⟩
  exact canIssue_of (by decide +kernel)

/-- RowLoads, RowStores: rows on one page, under a guard that enables rows 0 to 15, and rows of an SCR bank. -/
theorem test_hyp_rows :
    let s := mems .L (regs [(1, 0x100000)]);
    let va (j : Nat) : Nat := ((((((s.rx 1).toNat + (0 : BitVec 24).toInt) % 2 ^ 56).toNat : Int) + 128 * (j : Int)) / 128 * 128 % 2 ^ 56).toNat;
    CanIssue ⟨0, 0⟩ 1 0x1001 s ∧ RegsReady [1] [1] s ∧ tblGet 0 s.cur.roles (regBank 1) = 1 ∧ Fresh s ∧ s.st.lsxIreg.toNat < 320 ∧
      RegsReady [s.st.lsxIreg] [s.st.lsxIreg] s ∧
      (∀ j ∈ rowsOn ⟨0, 0⟩ s, Steady s (va j) 128 .read (page 0) ∧ Steady s (va j) 128 .write (page 0) ∧ (page 0).cls = 0 ∧
        tblFind s.cur.ways ((page 0).phys (va j) / 128) = none ∧
        s.homeBad (some s.curPart) ((page 0).phys (va j) / 128) = false ∧ (page 0).phys (va j) % 128 = 0) ∧
      Reaches s 1 0xC0000 0 ∧
      (∀ j ∈ rowsOn ⟨0, 0⟩ s, tblGet 0 (s.core 0).roles (scrBank 0 (0xC0000 + 128 * j)) = 5) ∧
      0x3FFFFF < (((0x3FFFFF : BitVec 24).toNat % 2 ^ 22 : Nat) : Int) / 128 * 128 + 128 := by
  refine ⟨?_, ?_, by decide +kernel, fun r l h => (by cases h), by decide +kernel, ?_,
    fun j hj => ⟨.inr ?_, .inr ?_, ?_⟩, .inl ⟨rfl, rfl⟩, by decide +kernel, by decide +kernel⟩
  · exact canIssue_of (by decide +kernel)
  · constructor <;> decide +kernel
  · constructor <;> decide +kernel
  all_goals revert j; decide +kernel

/-- TouchOpensAWindowAndPfetOnlyFills: one page, the greatest length and one beyond it, and a page that nothing maps. -/
theorem test_hyp_touch :
    let s := mems .L (regs [(1, 0x100000), (2, 4096), (3, 0x1000001), (4, 0x7000)]);
    CanIssue ⟨0, 0⟩ 1 0x1001 s ∧ s.guardBit ⟨0, 0⟩ = true ∧ Ordinary s ∧ 2 ^ 24 < (s.rx 3).toNat ∧
      s.touchPages true (4096 / 4096 + 2) 0x100000 4096 [] = .ok [page 0] ∧
      (∃ tr, s.touchPages false (4096 / 4096 + 2) 0x7000 4096 [] = .error tr) ∧
      s.translate s.curCore s.curCtx 0x100000 = some (page 0) ∧ (page 0).r = true ∧ (page 0).w = true := by
  refine ⟨?_, by decide +kernel, ⟨_, rfl, rfl, rfl⟩, by decide +kernel, ok_of (by decide +kernel),
    error_of (by decide +kernel), by decide +kernel⟩
  exact canIssue_of (by decide +kernel)


/-- A copy of two elements of four bytes at 0x100080, a zero count at 0x100100, a field that must be zero at 0x100180. -/
def copyMem : List Host.Cell :=
  [(0x100081, 0x08), (0x100082, 0x10), (0x100088, 2), (0x100090, 2), (0x1000A0, 4), (0x1000C0, 4), (0x100188, 8)]

/-- TensorCopies: the three descriptors, a box within an SCR bank and one beyond the pool. -/
theorem test_hyp_tensorCopies :
    let s : State := { mems .S (regs [(1, 0x100080), (2, 0x100100), (3, 0x100180), (4, 0x100084)]) with mem := copyMem };
    let d : CopyDesc := ⟨0x100800, 4, [(2, 4, 4)]⟩;
    let img (a : Nat) : Nat := s.homeRow (some s.curPart) ((page 0).phys a / 128);
    CanIssue ⟨0, 0⟩ 1 0x1001 s ∧ Ordinary s ∧ s.guardBit ⟨0, 0⟩ = true ∧ s.cur.ways = [] ∧ s.cur.banksOf 3 = [] ∧ Reaches s 1 0xC0000 0 ∧
      (s.rx 4).toNat % 128 ≠ 0 ∧ Steady s 0x100080 128 .read (page 0) ∧ (page 0).phys 0x100080 % 128 = 0 ∧
      s.homeBad (some s.curPart) ((page 0).phys 0x100080 / 128) = false ∧ parseCopy (img 0x100080) = some d ∧ d.total = 2 ∧
      (parseCopy (img 0x100100)).map CopyDesc.total = some 0 ∧ parseCopy (img 0x100180) = none ∧
      0x3FFFFF < ((0x3FFFFC : Nat) : Int) + d.poolMax + d.esz - 1 ∧
      (∀ i, i < 2 → ∀ o, o < 4 → tblGet 0 (s.core 0).roles (scrBank 0 (0xC0000 + 4 * i + o)) = 5) ∧
      ∀ i, i < 2 → copyUnits 4 (0x100800 + 4 * i) (0xC0000 + 4 * i) = ([0], 4) ∧ Steady s (0x100800 + 4 * i) 4 .read (page 0) ∧
        Steady s (0x100800 + 4 * i) 4 .write (page 0) ∧ (page 0).phys (0x100800 + 4 * i) % 4 = 0 ∧
        s.homeBad (some s.curPart) ((page 0).phys (0x100800 + 4 * i) / 128) = false ∧ (s.die (homeDie ((page 0).phys (0x100800 + 4 * i) / 128 * 128))).split = false := by
  refine ⟨?_, ⟨_, rfl, rfl, rfl⟩, by decide +kernel, by decide +kernel, by decide +kernel, .inl ⟨rfl, rfl⟩, by decide +kernel,
    .inr (by decide +kernel), by decide +kernel, by decide +kernel, ?_, by decide +kernel, by decide +kernel, ?_, by decide +kernel,
    by decide +kernel, fun i hi => ⟨?_, .inr ?_, .inr ?_, ?_⟩⟩
  · exact canIssue_of (by decide +kernel)
  · decide +kernel
  · exact Option.isNone_iff_eq_none.mp (by decide +kernel)
  all_goals revert i; decide +kernel

/-- FencesActOnTheLocationsOfTheirScope: the widest entry, one that the context has set, and one that it has not. -/
theorem test_hyp_fences :
    let s := on .S {} {} { scopes := [(2, { valid := true, cores := 3 })] };
    CanIssue ⟨0, 0⟩ 1 0x1001 s ∧ s.guardBit ⟨0, 0⟩ = true ∧ Ordinary s ∧ (s.scopeEntry s.curCtx 31 0).valid = true ∧
      s.cur.postedHost = false ∧ s.cur.postedPeer = false ∧ (s.scopeEntry s.curCtx 31 0).namesOther 31 0 = true ∧
      (s.scopeEntry s.curCtx 2 0).valid = true ∧ (s.scopeEntry s.curCtx 3 0).valid = false := by
  refine ⟨?_, by decide +kernel, ⟨_, rfl, rfl, rfl⟩, by decide +kernel⟩
  exact canIssue_of (by decide +kernel)

/-- PoolReshapesPinsAndReports: ranges that are malformed, too long for TILE, and one bank; released banks that the matrix
engine names, that hold live registers, a pin, and a ring with records. -/
theorem test_hyp_poolRefusals :
    let c : Core := { vcore with
      vlive := 33, pins := 0x1000, rings := [(0, { enabled := true, base := 0xD0000, tail := 1 })]
      matrix := { running := some { seq := 0, op := 0x80, ty := 2, wb := 0x7F00010000, t := 1 } } };
    let s := on .K (regs [(1, 0x2000), (2, 47 + 64 * 17)]) { c with roles := [(0, 1), (1, 1), (10, 1), (11, 1), (12, 5), (13, 4), (63, 2)] };
    CanIssue ⟨0, 0⟩ 1 0x1001 s ∧ s.guardBit ⟨0, 0⟩ = true ∧ (s.rx 1).toNat / 2 ^ 13 ≠ 0 ∧
      (placementOk (setRoles vcore.roles ((List.range 17).map (47 + ·)) 2) = true ∧
        16 < (roleBanks (setRoles vcore.roles ((List.range 17).map (47 + ·)) 2) 2).length) ∧
      (63 ∈ s.cur.matrix.tileBanks ∧ roleOf s.cur.roles 63 = 2 ∧ placementOk (setRoles s.cur.roles [63] 5) = true) ∧
      (roleOf s.cur.roles 1 = 1 ∧ 32 * ((roleBanks (setRoles s.cur.roles [1] 5) 1).length - 2) < s.cur.vlive.toNat ∧
        placementOk (setRoles s.cur.roles [1] 5) = true) ∧
      (s.cur.pins.getLsbD 12 = true ∧ roleOf s.cur.roles 12 = 5 ∧ placementOk (setRoles s.cur.roles [12] 4) = true) ∧
      0 ∈ s.cur.ringsIn [13] ∧ (s.cur.ring 0).used ≠ 0 ∧ placementOk (setRoles s.cur.roles [13] 5) = true := by
  refine ⟨?_, by decide +kernel⟩
  exact canIssue_of (by decide +kernel)

/-- PoolReshapesPinsAndReports: one SCR bank, without pins, becomes RING, or is pinned. -/
theorem test_hyp_poolSucceeds :
    let s := on .K (regs [(1, 12 + 64)]) vcore;
    CanIssue ⟨0, 0⟩ 1 0x1001 s ∧ s.guardBit ⟨0, 0⟩ = true ∧ (s.rx 1).toNat / 2 ^ 13 = 0 ∧ (s.rx 1).toNat % 64 = 12 ∧
      (s.rx 1).toNat / 64 % 128 = 1 ∧ placementOk (setRoles s.cur.roles [12] 4) = true ∧ s.cur.matrix.tileBanks = [] ∧
      s.cur.pins.getLsbD 12 = false ∧ s.cur.ways = [] ∧ s.cur.ringsIn [] = [] ∧
      placeRings s.cur (setRoles s.cur.roles [12] 4) [] [] = some [] ∧ roleOf s.cur.roles 12 = 5 := by
  refine ⟨?_, by decide +kernel⟩
  exact canIssue_of (by decide +kernel)

/-- PoolReshapesPinsAndReports: an access that another stream has issued, and a ring with records that finds a new place. -/
theorem test_hyp_poolOrderAndMoves :
    (let s := on .K (regs [(1, 12 + 64)]) { vcore with l := { issued := true, kind := .access } };
      CanIssue ⟨0, 0⟩ 1 0x1001 s ∧ s.cur.matrix.tileBanks = [] ∧ s.cur.issuedAccesses 0 ≠ []) ∧
    let c : Core := { vcore with rings := [(0, { enabled := true, base := 0xD0000, tail := 1 })] };
    let s := on .K (regs [(1, 13 + 64)]) { c with roles := vcore.roles ++ [(14, 4)] };
    CanIssue ⟨0, 0⟩ 1 0x1001 s ∧ s.cur.issuedAccesses 0 = [] ∧ placementOk (setRoles s.cur.roles [13] 5) = true ∧ s.cur.ringsIn [13] = [0] ∧
      placeRings s.cur (setRoles s.cur.roles [13] 5) [0] [] = some [(0, 14 * 512)] := by
  refine ⟨⟨?_, by decide +kernel⟩, ?_, by decide +kernel⟩ <;> exact canIssue_of (by decide +kernel)

theorem freeRun_none {roles : Tbl Nat} {used : List Nat} {n : Nat} (h : ∀ b, b < 64 → roleOf roles b ≠ 4) (hn : 0 < n) :
    freeRun roles used n = none := by
  unfold freeRun
  rw [List.find?_eq_none]
  intro q hq
  simp only [List.mem_range] at hq
  simp only [Bool.and_eq_true, List.all_eq_true, not_and]
  intro _ hall
  have h0 := (hall 0 (List.mem_range.mpr hn)).1
  exact h (q / 512) (by omega) (by simpa using h0)

theorem placeRings_none {c : Core} {roles : Tbl Nat} {n : Nat} {rest used : List Nat}
    (h : freeRun roles used (c.ring n).rows.length = none) : placeRings c roles (n :: rest) used = none := by
  unfold placeRings
  generalize freeRun roles used (c.ring n).rows.length = o at h ⊢
  subst h
  rfl

/-- PoolReshapesPinsAndReports: a ring with records that finds no new place. -/
theorem test_hyp_poolNoPlace :
    let c : Core := { vcore with rings := [(0, { enabled := true, base := 0xD0000, tail := 1 })] };
    CanIssue ⟨0, 0⟩ 1 0x1001 (on .K (regs [(1, 13 + 64)]) c) ∧ placementOk (setRoles c.roles [13] 5) = true ∧ c.ringsIn [13] = [0] ∧
      placeRings c (setRoles c.roles [13] 5) [0] [] = none := by
  exact ⟨canIssue_of (by decide +kernel), by decide +kernel, by decide +kernel,
    placeRings_none (freeRun_none (by decide +kernel) (by decide +kernel))⟩

/-- WriteBackCountsAndCleans: a dirty line. -/
theorem test_hyp_writeBack :
    let s := on .S {} { ways := [(0x2000, { bank := 20, data := 1, dirty := 1, used := 0 })] };
    CanIssue ⟨0, 0⟩ 1 0x1001 s ∧ s.guardBit ⟨0, 0⟩ = true ∧ (s.cur.ways.filter fun e => e.2.dirty != 0).length = 1 := by
  refine ⟨?_, by decide +kernel⟩
  exact canIssue_of (by decide +kernel)

/-- SemaphoresAndMarks: values at both ends, a waiter, a semaphore of a sibling's slice, and marks that have and have not come. -/
theorem test_hyp_semaphores :
    let x := regs [(1, 0xFFFF), (2, 0x10000)];
    let s := on .S x { sems := [(1, { value := 63 }), (2, { value := 0xFFFF }), (3, { waiters := [(.matrix 0, 0)] })] };
    let late : State := { s with clusters := [(0, { cycles := 1 })] };
    CanIssue ⟨0, 0⟩ 1 0x1001 s ∧ s.guardBit ⟨0, 0⟩ = true ∧ Ordinary s ∧ (s.rx 1).toNat ≤ 0xFFFF ∧ 0xFFFF < (s.rx 2).toNat ∧
      (s.cur.sem 1).waiters = [] ∧ (63 : BitVec 6).toNat ≤ (s.cur.sem 1).value.toNat ∧ (s.cur.sem 0).value.toNat < (1 : BitVec 6).toNat ∧
      0xFFFF < (s.cur.sem 2).value.toNat + (1 : BitVec 6).toNat ∧ CanIssue ⟨0, 0⟩ 1 0x1001 late ∧ (late.cur.sem 3).waiters ≠ [] ∧
      (∀ e ∈ (late.cur.sem 3).waiters, e.1 ≠ .stream late.curCore late.curK ∧ e.2 < late.cyc) ∧
      (s.core (0 / 4 * 4 + 3 / 4)).slice = s.cur.slice ∧ (s.core (0 / 4 * 4 + 4 / 4)).slice ≠ s.cur.slice := by
  and_intros <;> first | exact canIssue_of (by decide +kernel) | exact ⟨_, rfl, rfl, rfl⟩ | decide +kernel

theorem test_hyp_marks :
    (CanIssue ⟨0, 0⟩ 1 0x1001 (on .L) ∧ (on .L).curK = .L ∧ ((on .L).cur.stream .S).marksIssued < (on .L).st.marks + 1) ∧
    let s := on .L {} { s := { marks := 1 } };
    CanIssue ⟨0, 0⟩ 1 0x1001 s ∧ s.guardBit ⟨0, 0⟩ = true ∧ s.st.marks + 1 ≤ (s.cur.stream .S).marksIssued := by
  refine ⟨⟨test_canIssue .L, by decide +kernel⟩, ?_, by decide +kernel⟩
  exact canIssue_of (by decide +kernel)

/-- A ring of two records of 16 bytes in the RING bank 13. -/
def ring : Ring := { enabled := true, z := 1, k := 1, base := 0xD0000 }

/-- RingSetUpAndReading: a good word, a bad one, an empty ring, a busy one, and counts at and above the capacity. -/
theorem test_hyp_ringSetUp :
    let s := on .K (regs [(1, 0x110D0000), (2, 1), (3, 3), (4, 2)]) { vcore with rings := [(1, { ring with tail := 1 }), (2, ring)] };
    let w := (s.rx 1).toNat;
    CanIssue ⟨0, 0⟩ 1 0x1001 s ∧ s.guardBit ⟨0, 0⟩ = true ∧ Ordinary s ∧
      (w / 2 ^ 40 = 0 ∧ w / 2 ^ 33 % 8 = 0 ∧ w / 2 ^ 27 % 2 = 0 ∧ w / 2 ^ 22 % 4 = 0 ∧ w / 2 ^ 24 % 8 = 1 ∧ w % 128 = 0 ∧ w / 2 ^ 32 % 2 = 0) ∧
      w % 2 ^ 22 = 0xD0000 ∧ w / 2 ^ 28 % 16 = 1 ∧ (∀ i, i < 32 → roleOf s.cur.roles ((0xD0000 + i) / 2 ^ 16) = 4) ∧
      (s.rx 2).toNat % 128 ≠ 0 ∧ (s.cur.ring 1).head ≠ (s.cur.ring 1).tail ∧ (s.cur.ring 2).head = (s.cur.ring 2).tail ∧
      (s.cur.ring 1).enabled = true ∧ (s.cur.ring 3).enabled = false ∧
      (s.rx 2).toNat ≤ ((s.cur.ring 1).tail.toNat + 2 ^ 32 - (s.cur.ring 1).claimed.toNat) % 2 ^ 32 ∧
      ((s.cur.ring 1).tail.toNat + 2 ^ 32 - (s.cur.ring 1).claimed.toNat) % 2 ^ 32 < (s.rx 4).toNat ∧ (s.rx 4).toNat ≤ 2 ^ (s.cur.ring 1).k ∧
      2 ^ (s.cur.ring 1).k < (s.rx 3).toNat := by
  refine ⟨?_, by decide +kernel, ⟨_, rfl, rfl, rfl⟩, by decide +kernel⟩
  exact canIssue_of (by decide +kernel)

/-- RingSetUpAndReading: a good word whose storage no other enabled ring shares. -/
theorem test_hyp_ringAlone :
    let s := on .K (regs [(1, 0x110D0000)]) vcore;
    CanIssue ⟨0, 0⟩ 1 0x1001 s ∧ ∀ q, q < 16 → (s.cur.ring q).enabled = false := by
  refine ⟨?_, by decide +kernel⟩
  exact canIssue_of (by decide +kernel)

/-- RingTakesClaimsAndAppends: room, a full ring with spill space and without, records to take, open claims. -/
theorem test_hyp_rings :
    let s := on .S (regs [(2, 0xC0000)])
      { vcore with
        rings := [(1, { ring with tail := 1 }), (2, { ring with tail := 2, sp := true, ks := 3 }), (3, { ring with tail := 2 }),
          (4, { ring with tail := 2, claimed := 1 })] }
      { spillq := 16 };
    CanIssue ⟨0, 0⟩ 1 0x1001 s ∧ s.guardBit ⟨0, 0⟩ = true ∧ Ordinary s ∧ (s.cur.ring 1).base % 128 = 0 ∧ 1 ≤ (s.cur.ring 1).free ∧
      ((s.cur.ring 2).free = 0 ∧ (s.cur.ring 2).spill.length < 2 ^ (s.cur.ring 2).ks ∧ 16 ≤ (s.ctx s.curCtx).spillq.toNat) ∧
      ((s.cur.ring 3).free = 0 ∧ (s.cur.ring 3).sp = false) ∧
      ((s.cur.ring 1).head = (s.cur.ring 1).claimed ∧ (s.cur.ring 1).claimed ≠ (s.cur.ring 1).tail ∧
        s.cur.poolUe.contains (13 * 512) = false) ∧
      (s.cur.ring 4).head ≠ (s.cur.ring 4).claimed ∧ (1 : BitVec 8).toNat ≤ ((s.cur.ring 4).claimed - (s.cur.ring 4).head).toNat ∧
      ((s.cur.ring 4).claimed - (s.cur.ring 4).head).toNat < (2 : BitVec 8).toNat ∧
      (s.rx 2).toNat + 1 * 16 ≤ 2 ^ 22 ∧ (∀ i, i < 16 → roleOf s.cur.roles (((s.rx 2).toNat + i) / 2 ^ 16) = 5) ∧
      roleOf s.cur.roles (0xD0000 / 2 ^ 16) = 4 := by
  refine ⟨?_, by decide +kernel, ⟨_, rfl, rfl, rfl⟩, by decide +kernel⟩
  exact canIssue_of (by decide +kernel)

/-- A memory ring's descriptor at 0x100000 (16-byte records, two of them, base 0x100400), and a full one at 0x100040. -/
def ringMem : List Host.Cell :=
  [(0x100001, 4), (0x100002, 0x10), (0x100008, 0x11), (0x100041, 4), (0x100042, 0x10), (0x100048, 0x11), (0x100050, 2)]

/-- WriteWithEnqueue: a ring of the own core with room and a full one, one that is not enabled, and memory rings with room
and without. -/
theorem test_hyp_wenq :
    let s : State :=
      { mems .S (regs [(1, 0x100), (2, 0xC0000), (3, 0x300), (4, 0x8000000000100000), (5, 0x8000000000100001), (6, 0x200)])
          { vcore with rings := [(1, ring), (2, { ring with tail := 2 })] } with mem := ringMem };
    let words (a : Nat) : List Nat := (List.range 8).map fun j => s.homeRead (some s.curPart) ((page 0).phys a + 8 * j) 8;
    CanIssue ⟨0, 0⟩ 1 0x1001 s ∧ s.guardBit ⟨0, 0⟩ = true ∧ Ordinary s ∧ ScopeReady s 31 ∧ (s.ctx s.curCtx).replayMode = 0 ∧
      ((s.rx 1).toNat / 2 ^ 12 = 0 ∧ (∃ v, s.sliceOf 0 = some v ∧ v.ctx = s.curCtx) ∧ ((s.core 0).ring 1).enabled = true ∧
        ((s.core 0).ring 3).enabled = false ∧ 1 ≤ ((s.core 0).ring 1).free) ∧
      PayloadReady s (s.rx 2) 16 ∧ ((s.core 0).ring 2).free < 1 ∧ ((s.core 0).ring 2).sp = false ∧
      (2 ^ 63 ≤ (s.rx 4).toNat ∧ (s.rx 4).toNat / 2 ^ 56 % 2 ^ 7 = 0 ∧ (s.rx 4).toNat % 2 ^ 56 % 64 = 0 ∧ (s.rx 5).toNat % 2 ^ 56 % 64 ≠ 0) ∧
      Steady s 0x100000 64 .read (page 0) ∧ s.homeBad (some s.curPart) ((page 0).phys 0x100000 / 128) = false ∧
      descFields (s.homeRead (some s.curPart) ((page 0).phys 0x100000) 64) = some (0x100400, 1, 1) ∧ ((words 0x100000).getD 2 0 = 0 ∧ (words 0x100000).getD 3 0 = 0) ∧
      Steady s 0x100400 16 .write (page 0) ∧ (page 0).phys 0x100400 % 16 = 0 ∧ Steady s (0x100000 + 16) 8 .write (page 0) ∧
      s.appending ((page 0).phys 0x100000) = false ∧
      descFields (s.homeRead (some s.curPart) ((page 0).phys 0x100040) 64) = some (0x100400, 1, 1) ∧ (words 0x100040).getD 2 0 = 2 := by
  refine ⟨?_, by decide +kernel, ⟨_, rfl, rfl, rfl⟩, by unfold ScopeReady; decide +kernel, by decide +kernel,
    ⟨by decide +kernel, ⟨_, rfl, by decide +kernel⟩, by decide +kernel⟩, by unfold PayloadReady; decide +kernel, by decide +kernel,
    by decide +kernel, by decide +kernel, .inr (by decide +kernel), by decide +kernel, by decide +kernel, by decide +kernel,
    .inr (by decide +kernel), by decide +kernel, .inr (by decide +kernel), by decide +kernel⟩
  exact canIssue_of (by decide +kernel)

/-- CommandsEnterTheEngineFifos: an empty FIFO, a full one, an element to take, a handle of no engine, and an engine that the
entry does not name. -/
theorem test_hyp_engineFifos :
    let cmd : VCmd := { die := 1, ctx := 0, core := 0, slice := 0, seq := 0, src := .block 0, scope := none };
    let s : State :=
      { on .K (regs [(1, 0), (2, 0x100000), (3, 128), (4, 0x40)]) {} { scopes := [(2, { valid := true, engines := 1 })] } with
        dies := [(1, { engines := [(0, { fifo := List.replicate 8 cmd, results := [(0, [5])] })] })] };
    CanIssue ⟨0, 0⟩ 1 0x1001 s ∧ s.guardBit ⟨0, 0⟩ = true ∧ Ordinary s ∧ ScopeReady s 31 ∧ (s.rx 2).toNat % 64 = 0 ∧
      engineSlot 0 = some (0, 0) ∧ (s.scopeEntry 0 31 0).engines.getLsbD 0 = true ∧ (s.engine 0 0).occupancy 0 < 8 ∧
      engineSlot 0x40 = some (1, 0) ∧ (s.scopeEntry 0 31 0).engines.getLsbD 8 = true ∧ 8 ≤ (s.engine 1 0).occupancy 0 ∧
      (s.rx 3).toNat ≥ 128 ∧ (s.scopeEntry 0 2 0).valid = true ∧ (s.scopeEntry 0 2 0).engines.getLsbD 8 = false ∧
      (s.engine 1 0).elements 0 = [5] ∧ (s.engine 0 0).elements 0 = [] := by
  refine ⟨?_, by decide +kernel, ⟨_, rfl, rfl, rfl⟩, by unfold ScopeReady; decide +kernel, by decide +kernel⟩
  exact canIssue_of (by decide +kernel)


/-- Cores 0 and 1 in one gang and one domain: core 0 runs a stream, and that of core 1 waits where given. -/
def pair (k : StreamId) (wait : Option WaitKind) (capt : Nat := 0) (x : Ctx := {}) : State :=
  let s := on k (regs [(1, 7)]) { dom := 0x00020202 } x;
  let st : Stream :=
    { mode := .run, pc := 0x1000, iq := [packet], attached := false, issued := true, capt := some capt
      wait := wait.map fun w => { kind := w, since := 0, limit := 0 } };
  { s with
    cores := s.cores ++ [(1, ({ slice := some 0, dom := 0x01020202 } : Core).setStream k st)]
    slices := [(0, { ctx := 0, handler := false, queue := 0, hdr := header, cores := [0, 1], budget := 100 })] }

/-- A join entry of the slice that expects cores 0 and 1. -/
def entry (arrived : BitVec 4) : JoinEntry := { slice := 0, kind := .X, id := 5, expected := 3, arrived := arrived, expiry := none }

def withJoins (s : State) (js : List JoinEntry) : State := { s with clusters := [(0, { joins := js, nextGroup := 4 })] }

/-- DetachmentJoinsAndPhases: a full table, an empty one, an entry that lacks arrivals, one that the own arrival completes,
and one that does not expect the core. -/
theorem test_hyp_joins :
    let s := withJoins (pair .X (some (.join 5))) [entry 2];
    let full := withJoins (on .X) (List.replicate 8 { entry 0 with id := 9 });
    let early := withJoins (pair .X none) [entry 0];
    let find (s : State) : Option JoinEntry :=
      (s.cluster 0).joins.find? fun e => e.slice == s.cur.slice.getD 0 && e.kind == s.curK && e.id == 5;
    (CanIssue ⟨0, 0⟩ 1 0x1001 s ∧ s.guardBit ⟨0, 0⟩ = true ∧ (s.ctx s.curCtx).traceEn = false ∧ Ordinary s ∧ find s = some (entry 2) ∧
      (entry 2).arrived ||| 1 = (entry 2).expected ∧ ((s.core 1).stream .X).arrived (.join 5) = true ∧
      ∀ p, p < 2 → (s.core p).slice = s.cur.slice ∧ s.nextPcOf p .X = some 0x1001) ∧
    (CanIssue ⟨0, 0⟩ 1 0x1001 full ∧ find full = none ∧ 8 ≤ (full.cluster 0).joins.length) ∧
    (CanIssue ⟨0, 0⟩ 1 0x1001 early ∧ find early = some (entry 0) ∧ (entry 0).arrived ||| 1 ≠ (entry 0).expected) ∧
    (find (on .X) = none ∧ ((on .X).cluster 0).joins.length < 8) ∧
    (find (withJoins (on .X) [{ entry 0 with expected := 2 }])).map (fun e => e.expected &&& 1) = some 0 := by
  refine ⟨⟨?_, by decide +kernel, by decide +kernel, ⟨_, rfl, rfl, rfl⟩, by decide +kernel⟩, ⟨?_, by decide +kernel⟩,
    ⟨?_, by decide +kernel⟩, by decide +kernel⟩ <;> exact canIssue_of (by decide +kernel)

/-- DomainsSynchroniseAndBroadcast: a consistent domain with its members arrived and not arrived, members that name other
masks, and a domain that is not consistent. -/
theorem test_hyp_domains :
    let s := pair .X (some (.dsync 1)) 2;
    let early := pair .X none;
    let b := pair .X (some .cbcast) (2 ^ 64 + 9);
    let bad := on .X {} { dom := 0x00030201 };
    let good (s : State) : Prop :=
      s.cur.dom.toNat / 2 ^ 24 < s.cur.dom.toNat / 2 ^ 16 % 2 ^ 8 ∧ 0 < s.cur.dom.toNat % 2 ^ 8 ∧
        s.cur.dom.toNat / 2 ^ 8 % 2 ^ 8 % (s.cur.dom.toNat % 2 ^ 8) = 0 ∧ s.cur.dom.toNat / 2 ^ 16 % 2 ^ 8 = s.gang.length;
    (CanIssue ⟨0, 0⟩ 1 0x1001 s ∧ s.guardBit ⟨0, 0⟩ = true ∧ (s.ctx s.curCtx).traceEn = false ∧ Ordinary s ∧ good s ∧ ScopeReady s 1) ∧
    (s.domMembers 1 = [0, 1] ∧ (s.stream 1 .X).arrivedAt (.dsync 1) 1 0 = true ∧ (s.stream 1 .X).capt.getD 0 = 2 + s.cur.dphs.toNat * 16 ∧
      (s.nextPcOf 1 .X).isSome = true ∧ (streamsOf 2 = [.X])) ∧
    (CanIssue ⟨0, 0⟩ 1 0x1001 early ∧ good early ∧ (early.stream 1 .X).arrived (.dsync 1) = false ∧ early.cur.ways = []) ∧
    (good b ∧ (b.stream 1 .X).arrivedAt .cbcast 4 0 = true ∧ (b.stream 1 .X).capt.getD 0 / 2 ^ 64 = (1 : BitVec 2).toNat ∧
      (b.core 1).slice = b.cur.slice ∧ (b.nextPcOf 1 .X).isSome = true ∧ CanIssue ⟨0, 0⟩ 1 0x1001 b) ∧
    (CanIssue ⟨0, 0⟩ 1 0x1001 bad ∧ Ordinary bad ∧ ¬ good bad) := by
  refine ⟨⟨?_, by decide +kernel, by decide +kernel, ⟨_, rfl, rfl, rfl⟩, by decide +kernel, by unfold ScopeReady; decide +kernel⟩,
    by decide +kernel, ⟨?_, by decide +kernel, by decide +kernel, by decide +kernel⟩,
    ⟨by decide +kernel, by decide +kernel, by decide +kernel, by decide +kernel, by decide +kernel, ?_⟩,
    ?_, ⟨_, rfl, rfl, rfl⟩, by decide +kernel⟩ <;> exact canIssue_of (by decide +kernel)

/-- DomainsSynchroniseAndBroadcast: paired arrivals with another mask and with another phase, and a `cbcast` that names another
rank. -/
theorem test_hyp_domainTraps :
    let n (s : State) : Nat := tblGet 0 s.st.pairs 1;
    let paired (s : State) (mask : Nat) : Nat := s.pairedMask 1 (n s) (s.domMembers 1) 4 mask;
    (let s := pair .X (some (.dsync 1)) 6;
      CanIssue ⟨0, 0⟩ 1 0x1001 s ∧ Ordinary s ∧ AllClean s ∧ paired s 4 = 6 ∧ (s.stream 1 .X).capt.getD 0 % 16 ≠ 4) ∧
    (let s := pair .X (some (.dsync 1)) 18;
      CanIssue ⟨0, 0⟩ 1 0x1001 s ∧ paired s 2 = 2 ∧ (s.stream 1 .X).capt.getD 0 % 16 = 2 ∧
        ((s.stream 1 .X).capt.getD 0 / 16 % 2 == 1) ≠ s.cur.dphs) ∧
    let s := pair .X (some .cbcast) 9;
    CanIssue ⟨0, 0⟩ 1 0x1001 s ∧ (s.stream 1 .X).arrivedAt .cbcast 4 0 = true ∧ (s.stream 1 .X).capt.getD 0 / 2 ^ 64 ≠ (1 : BitVec 2).toNat := by
  refine ⟨⟨?_, ⟨_, rfl, rfl, rfl⟩, by unfold AllClean; decide +kernel, by decide +kernel⟩, ⟨?_, by decide +kernel⟩, ?_, by decide +kernel⟩ <;>
    exact canIssue_of (by decide +kernel)

/-- ScopeEntriesAreReadAndInstalled: an image that is good (empty), one that is bad, one that names a foreign core, and a
capture that is held. -/
theorem test_hyp_scopes :
    let s := on .K (regs [(1, 0x100000)]) { tlb := [(0, page 0)] } {} true;
    let held : State := { s with cores := [(0, s.cur), (1, ({ slice := some 0 } : Core).setStream .L { captScope := some (2, 0) })] };
    CanIssue ⟨0, 0⟩ 1 0x1001 s ∧ s.guardBit ⟨0, 0⟩ = true ∧ s.isHandler = true ∧ s.accessEntry 0x100000 64 .read = .ok (page 0) ∧
      s.homeBad (some s.curPart) ((page 0).phys 0x100000 / 128) = false ∧ badImage 0 = false ∧ s.foreignImage 0 0 = false ∧ s.scopeHeld 0 2 0 = false ∧
      badImage (2 ^ 288) = true ∧ badImage (2 ^ 288 + 2 ^ 272 + 1) = false ∧ s.foreignImage 0 (2 ^ 288 + 2 ^ 272 + 1) = true ∧
      CanIssue ⟨0, 0⟩ 1 0x1001 held ∧ held.scopeHeld 0 2 0 = true ∧ CanIssue ⟨0, 0⟩ 1 0x1001 (on .X) ∧ (on .X).isHandler = false ∧
      Ordinary (on .X) := by
  and_intros <;> first | decide +kernel | exact canIssue_of (by decide +kernel) | exact ok_of (by decide +kernel) | exact ⟨_, rfl, rfl, rfl⟩

/-- AtomicsActOnceAtTheHome: a DEV unit, a HOST unit, a page that nothing maps, and an entry that is not valid. -/
theorem test_hyp_atomics :
    let s := mems .S (regs [(1, 0x100008)]);
    CanIssue ⟨0, 0⟩ 1 0x1001 s ∧ s.guardBit ⟨0, 0⟩ = true ∧ Ordinary s ∧ ScopeReady s 31 ∧
      s.accessEntry 0x100008 8 .atomic = .ok (page 0) ∧ (page 0).phys 0x100008 % 8 = 0 ∧ s.homeBad (some s.curPart) ((page 0).phys 0x100008 / 128) = false ∧
      s.accessEntry 0x200000 4 .atomic = .ok (page 1) ∧ (page 1).cls ≠ 0 ∧ (∃ tr, s.accessEntry 0x7000 4 .atomic = .error tr) ∧
      (s.scopeEntry s.curCtx 31 0).valid = true ∧ (s.scopeEntry s.curCtx 2 0).valid = false := by
  refine ⟨?_, by decide +kernel, ⟨_, rfl, rfl, rfl⟩, by unfold ScopeReady; decide +kernel, ok_of (by decide +kernel), by decide +kernel,
    by decide +kernel, ok_of (by decide +kernel), by decide +kernel, error_of (by decide +kernel), by decide +kernel⟩
  exact canIssue_of (by decide +kernel)

/-- MonitorsWatchOneRow: a full table, an empty one, an own monitor without and with an event, and a page that is not DEV. -/
theorem test_hyp_monitors :
    let s := mems .X {};
    let m (e : Option Nat) : Monitor := { core := 0, k := .X, row := 0x2000, event := e };
    let with' (ms : List Monitor) : State := { s with clusters := [(0, { monitors := ms })] };
    let own (m : Monitor) : Bool := m.core == 0 && m.k == .X;
    CanIssue ⟨0, 0⟩ 1 0x1001 s ∧ s.guardBit ⟨0, 0⟩ = true ∧ s.accessEntry 0x100000 1 .read = .ok (page 0) ∧ Clean s ((page 0).phys 0x100000 / 128) ∧
      s.accessEntry 0x200000 1 .read = .ok (page 1) ∧ (page 1).cls ≠ 0 ∧ (s.cluster 0).monitors.find? own = none ∧
      16 ≤ (((with' (List.replicate 16 { m none with core := 1 })).cluster 0).monitors.filter fun m => !own m).length ∧
      CanIssue ⟨0, 0⟩ 1 0x1001 (with' [m none]) ∧ ((with' [m none]).cluster 0).monitors.find? own = some (m none) ∧
      ((with' [m (some 2)]).cluster 0).monitors.find? own = some (m (some 2)) := by
  refine ⟨?_, by decide +kernel, ok_of (by decide +kernel), fun l h => (by cases h), ok_of (by decide +kernel), by decide +kernel,
    by decide +kernel, by decide +kernel, ?_, by decide +kernel⟩ <;> exact canIssue_of (by decide +kernel)

/-- EnqueuesAndDependenceCounters: a queue of the context with room, one that is full, one of another context, a bad address, and
a held enqueue. -/
theorem test_hyp_enqueues :
    let q (n : Nat) (x : BitVec 6) : Queue := { ctx := x, entries := List.replicate n (0x1000, 0), head := some header };
    let s : State :=
      { on .K (regs [(1, 0x1040), (2, 3), (3, 1024)]) with
        queues := [(0, q 63 0), (1, q 64 0), (2, q 0 5)]
        dies := [(0, { holds := [(1, 0x2000), (0, 0x2040)] })]
        ev := { q := 0, v := 0x1040 } };
    CanIssue ⟨0, 0⟩ 1 0x1001 s ∧ s.guardBit ⟨0, 0⟩ = true ∧ Ordinary s ∧ (s.rx 2).toNat % 64 ≠ 0 ∧ (s.rx 1).toNat % 64 = 0 ∧
      1024 ≤ (s.rx 3).toNat ∧ ((s.queue 2).ctx.toNat ≠ s.curCtx) ∧ ((s.queue 1).ctx.toNat = s.curCtx ∧ 64 ≤ (s.queue 1).entries.length) ∧
      ((s.queue 0).entries.length < 64 ∧ (s.queue 0).head.isSome = true) ∧
      (s.die s.ev.die).holds = [(1, 0x2000)] ++ (0, 0x2040) :: [] ∧ (∀ e ∈ [(1, 0x2000)], 64 ≤ (s.queue e.1).entries.length) ∧
      s.ev.q < 1024 ∧ s.ev.v.toNat % 64 = 0 ∧ (s.ctx 0).live = true ∧ (s.ctx 0).mode ≠ .dead ∧ (s.ctx (s.queue 2).ctx.toNat).live = false := by
  refine ⟨?_, by decide +kernel, ⟨_, rfl, rfl, rfl⟩, by decide +kernel⟩
  exact canIssue_of (by decide +kernel)

/-- EnqueuesAndDependenceCounters: entries of the dependence table with counters 0, 1 and 2, and the last index and one beyond. -/
theorem test_hyp_dependence :
    let s : State :=
      { on .K {} { vcore with tlb := [(0, page 0)] } { dtab := 0x100000, dn := 3 } with
        mem := [(0x100020, 1), (0x100028, 0x40), (0x100040, 2)]
        queues := [(0, { head := some header })] };
    let word (i j : Nat) : Nat := s.homeRead (some s.curPart) ((page 0).phys (0x100000 + 32 * i) + 8 * j) 8;
    CanIssue ⟨0, 0⟩ 1 0x1001 s ∧ s.guardBit ⟨0, 0⟩ = true ∧ Ordinary s ∧ ScopeReady s 31 ∧ AllClean s ∧ 2 < (s.ctx s.curCtx).dn ∧
      (s.ctx s.curCtx).dn ≤ 3 ∧ (∀ i, i < 3 → Steady s (0x100000 + 32 * i) 32 .atomic (page 0) ∧ (page 0).phys (0x100000 + 32 * i) % 32 = 0 ∧
        s.homeBad (some s.curPart) ((page 0).phys (0x100000 + 32 * i) / 128) = false) ∧
      word 0 0 = 0 ∧ word 1 0 = 1 ∧ word 1 2 = 0 ∧ word 2 0 = 2 ∧ (s.queue 0).ctx.toNat = s.curCtx ∧ (s.queue 0).entries.length < 64 ∧
      (s.die 0).holds = [] := by
  refine ⟨?_, by decide +kernel, ⟨_, rfl, rfl, rfl⟩, by unfold ScopeReady; decide +kernel, by unfold AllClean; decide +kernel, by decide +kernel,
    by decide +kernel, fun i hi => ⟨.inr ?_, ?_⟩, by decide +kernel⟩
  · exact canIssue_of (by decide +kernel)
  all_goals revert i; decide +kernel

/-- EnqueuesAndDependenceCounters: an empty queue, a header in memory that passes the checks, and one that cannot be read. -/
theorem test_hyp_enqueueToEmpty :
    let s : State :=
      { on .K (regs [(1, 0x100000), (2, 0x7000)]) with
        mem := [(0x100008, 0xFF), (0x100009, 0xFF), (0x100016, 0xFF), (0x100017, 0xFF), (0x100038, 0x0A), (0x100039, 0x89), (0x10003A, 0x80),
          (0x10003B, 2)]
        parts := [(0, { clusters := 1 })]
        dies := [(0, { tlb := [(0, page 0)] })] };
    CanIssue ⟨0, 0⟩ 1 0x1001 s ∧ AllClean s ∧ ¬ Full s 0 ∧ (s.queue 0).head = none ∧ (s.queue 0).entries = [] ∧
      (s.queue 0).ctx.toNat = s.curCtx ∧
      (∃ x, s.readHeader 0 s.curCtx 0x100000 = some x ∧ headerOk x (s.ctx s.curCtx).dn = true ∧
        s.gangPlacements s.curPart x.gang (queueDies 0 (s.queue 0).dies) ≠ []) ∧
      s.readHeader 0 s.curCtx 0x7000 = none := by
  refine ⟨canIssue_of (by decide +kernel), by unfold AllClean; decide +kernel, ?_, by decide +kernel, by decide +kernel, by decide +kernel,
    ⟨_, some_of (by decide +kernel), by decide +kernel, by decide +kernel⟩, by decide +kernel⟩
  intro h
  rcases h with h | ⟨a, h⟩
  · revert h; decide +kernel
  · cases h

/-- EnqueuesAndDependenceCounters: a full queue, with room in the hold list of its die and without. -/
theorem test_hyp_holdList :
    let q : Queue := { entries := List.replicate 64 (0x1000, 0), head := some header };
    let s (holds : List (Nat × Nat)) : State := { on .K with queues := [(0, q)], dies := [(0, { holds := holds })] };
    Full (s []) 0 ∧ ((s []).die (0 / 512 % 2)).holds.length < 2048 ∧ Full (s (List.replicate 2048 (0, 0))) 0 ∧
      2048 ≤ ((s (List.replicate 2048 (0, 0))).die (0 / 512 % 2)).holds.length :=
  ⟨.inl (by decide +kernel), by decide +kernel, .inl (by decide +kernel), by decide +kernel⟩

/-- A stream whose head has sent one AtomicOp and has its completion. -/
def answered (notes : Tbl Note) : Stream :=
  { issued := true, guardOn := true, atomicOut := true, kind := .access, captScope := some (31, 0), notes := notes, x := [(1, 0x5008)] }

/-- RawAccessesAndNotifications: a range that allows writes and atomics, an address outside every range, and a `pamo` that has
its completion. -/
theorem test_hyp_rawAccesses :
    let s : State :=
      { on .S (regs [(1, 0x5008), (2, 0x9000)]) with parts := [(0, { raw := [(0, (5, 5, true, true, true))], masked := [3] })] };
    let done (c : Completion) : State := { on .S (answered [(0, .num 0), (6, .answer c)]) with parts := s.parts };
    CanIssue ⟨0, 0⟩ 1 0x1001 s ∧ s.guardBit ⟨0, 0⟩ = true ∧ Ordinary s ∧ s.cur.postedHost = false ∧ s.cur.postedPeer = false ∧
      Allowed s false 0x5008 8 0 ∧ Allowed s true 0x5000 16 0 ∧ (∀ r, r < 4 → ¬ Allowed s true 0x9000 8 r) ∧
      (s.part s.curPart).masked.contains 3 = true ∧ (s.part s.curPart).masked.contains 2 = false ∧
      (∀ c ∈ ([.data 1, .refused, .poisoned] : List Completion), CanFinish 0x1001 (done c) ∧ Ordinary (done c) ∧ ((done c).ctx (done c).curCtx).replayMode = 0 ∧
        (tblFind (done c).st.notes 0).isSome = true ∧ tblFind (done c).st.notes 4 = none ∧ tblFind (done c).st.notes 6 = some (.answer c)) ∧
      ((done .refused).ctx 0).hatom = false ∧ ((done .poisoned).ctx 0).ue = false := by
  refine ⟨canIssue_of (by decide +kernel), by decide +kernel, ⟨_, rfl, rfl, rfl⟩, by decide +kernel, by decide +kernel,
    by unfold Allowed; decide +kernel, by unfold Allowed; decide +kernel, by unfold Allowed; decide +kernel, by decide +kernel,
    by decide +kernel, fun c hc => ⟨canFinish_of (?_ : finishable _ _ = true), ⟨_, rfl, rfl, rfl⟩, rfl, rfl, rfl, rfl⟩, by decide +kernel,
    by decide +kernel⟩
  revert c; decide +kernel

/-- AtomicsActOnceAtTheHome: an `amo` with ordering 0 on a HOST page that has its completion, under both policies. -/
theorem test_hyp_atomicsAnswered :
    ∀ c ∈ ([.data 1, .refused, .poisoned] : List Completion), ∀ status : Bool,
      let s := on .S (answered [(0, .num 0), (1, .page (page 1)), (6, .answer c)]) {} { hatom := status };
      CanFinish 0x1001 s ∧ Ordinary s ∧ (s.ctx s.curCtx).replayMode = 0 ∧ (s.scopeEntry s.curCtx 31 0).valid = true ∧
        (tblFind s.st.notes 0).isSome = true ∧ tblFind s.st.notes 1 = some (.page (page 1)) ∧ (page 1).cls ≠ 0 ∧
        tblFind s.st.notes 4 = none ∧ tblFind s.st.notes 6 = some (.answer c) ∧ (s.ctx s.curCtx).hatom = status := by
  intro c hc status
  refine ⟨canFinish_of (?_ : finishable _ _ = true), ⟨_, rfl, rfl, rfl⟩, rfl, rfl, rfl, rfl, by decide, rfl, rfl, rfl⟩
  revert status c; decide +kernel

/-- RawAccessesAndNotifications: an outstanding request, past the timeout. -/
theorem test_hyp_completions :
    let s : State :=
      { on .L { outs := [{ peer := false, bus := 0, len := 8, va := 0 }] } with time := 50000001, ev := { k := .L, part := 7, n := 0 } };
    (∃ o, (s.stream s.ev.core s.ev.k).outs[s.ev.n]? = some o ∧
        o.sent + ([50000, 1000000, 10000000, 50000000] : List Nat).getD s.fabric.ctmo.toNat 0 < s.time) ∧
      s.ev.part < 8 ∧ s.ev.n < 256 := ⟨⟨_, rfl, by decide +kernel⟩, by decide +kernel⟩


/-- TraceRecordsDumpsAndStarvedReplay: a traced context with five records open, one whose frame is due, a frame that has timed
out, a stream that has starved, and an engine that has. -/
theorem test_hyp_trace :
    (let s := on .X {} {} { traceEn := true, traceCls := 1, trace := [(1, { recs := List.replicate 5 (0, 1, 0) })] };
      CanIssue ⟨0, 0⟩ 1 0x1001 s ∧ s.guardBit ⟨0, 0⟩ = true ∧ s.curCore < 192 ∧ (s.ctx s.curCtx).traceEn = true ∧
        (s.ctx s.curCtx).traceCls.getLsbD 0 = true ∧ (tblGet {} (s.ctx s.curCtx).trace 1 : TraceSrc).recs = List.replicate 5 (0, 1, 0) ∧
        s.time < 0 + 10000 ∧ s.time ≤ 0 + 65535) ∧
    (let s : State := { on .X {} {} { traceEn := true, traceCls := 1, trace := [(1, { recs := [(0, 1, 0)] })] } with time := 10000 };
      CanIssue ⟨0, 0⟩ 1 0x1001 s ∧ (tblGet {} (s.ctx s.curCtx).trace 1 : TraceSrc).recs.head? = some (0, 1, 0) ∧ 0 + 10000 ≤ s.time) ∧
    (CanIssue ⟨0, 0⟩ 1 0x1001 (on .X) ∧ ((on .X).ctx (on .X).curCtx).traceEn = false) ∧
    (let s : State := { on .X {} {} { trace := [(0, { recs := [(5, 1, 0)] })] } with time := 10005 };
      ∃ r rest, (tblGet {} (s.ctx s.ev.ctx).trace s.ev.n : TraceSrc).recs = r :: rest ∧ r.1 + 10000 ≤ s.time ∧ rest.length < 6) ∧
    (let s : State :=
        { on .L { wait := some { kind := .forced, since := 0, limit := 0 } } {} { replayMode := 2 } with clusters := [(0, { cycles := 16777217 })] };
      s.ev.flag = false ∧ s.canRun 0 .L = true ∧
        (∃ v, s.sliceOf 0 = some v ∧ v.handler = false ∧ (s.ctx v.ctx).replayMode = 2 ∧ (s.ctx v.ctx).halt = none) ∧
        16777216 < s.cyclesOf 0 - 0) ∧
    let k : VCommit := { cmd := { ctx := 0, core := 0, slice := 0, seq := 0, src := .block 0, scope := none }, code := 0x10, heldSince := some 0 };
    let s : State :=
      { on .K {} {} { replayMode := 2 } with
        time := 18641354, dies := [(0, { engines := [(0, { commit := some k })] })], ev := { flag := true } };
    s.ev.flag = true ∧ (s.engine (s.ev.die % 2) s.ev.n).commit = some k ∧ (s.engine (s.ev.die % 2) s.ev.n).trap = none ∧
      16777216 < (s.time - 0) * 9 / 10 ∧ (s.ctx 0).replayMode = 2 ∧ s.engineServes k.cmd = true ∧
      (∃ v, s.slice k.cmd.slice = some v ∧ v.handler = false) ∧ (s.ctx 0).mode = .run ∧ (s.ctx 0).halt = none := by
  and_intros <;>
    first
    | exact canIssue_of (by decide +kernel)
    | exact ⟨_, rfl, by decide +kernel⟩
    | exact ⟨_, _, rfl, by decide +kernel⟩
    | decide +kernel

/-- A handler's buffer of 64 bytes on a DEV page, of a context whose stop concerns the given slices. -/
def dumping (stopped : Tbl Slice := []) : State :=
  let s := on .K (regs [(1, 0x100000), (2, 64), (3, 0x100008)]) { tlb := [(0, page 0)] } {} true
  { s with slices := s.slices ++ stopped }

/-- TraceRecordsDumpsAndStarvedReplay: a stop without records, which fits, one with a record that does not, a buffer that no page
maps, one that is misaligned, and a slice that serves no stop. -/
theorem test_hyp_dump :
    (let s := dumping;
      CanIssue ⟨0, 0⟩ 1 0x1001 s ∧ s.guardBit ⟨0, 0⟩ = true ∧ (∃ v, s.sliceOf s.curCore = some v ∧ v.handler = true) ∧
        (s.ctx s.curCtx).mode = .stopped ∧ (s.rx 1).toNat % 64 = 0 ∧ 64 ≤ (s.rx 2).toNat ∧ (s.rx 3).toNat % 64 ≠ 0 ∧
        s.stopCores 0 = [] ∧ s.stopEngines 0 = [] ∧ s.cur.postedHost = false ∧ s.cur.postedPeer = false ∧
        (∀ a m, 0x100000 ≤ a → a + m ≤ 0x100000 + 64 → Steady s a m .write (page 0)) ∧ (page 0).phys 0x100000 % 128 = 0 ∧
        (∀ a, a < 64 → s.homeBad (some s.curPart) ((0x100000 + a) / 128) = false ∧ tblFind s.cur.ways ((0x100000 + a) / 128) = none) ∧
        (∃ tr, s.accessEntry 0x7000 64 .write = .error tr)) ∧
    (let s := dumping [(1, { ctx := 0, handler := false, queue := 0, hdr := header, cores := [1], budget := 0 })];
      CanIssue ⟨0, 0⟩ 1 0x1001 s ∧ ascending (s.stopCores 0) = [1]) ∧
    ∀ v, (on .K).sliceOf (on .K).curCore = some v → v.handler = false := by
  and_intros
  all_goals
    first
    | exact canIssue_of (by decide +kernel)
    | exact ⟨_, rfl, rfl⟩
    | exact error_of (by decide +kernel)
    | exact fun v h => by cases h; rfl
    | refine fun a m h1 h2 => .inr ⟨rfl, rfl, ?_⟩
    | decide +kernel
  · have all : ∀ i, i < 65 → dumping.buffered 0 0 (0x100000 + i) = some (page 0) := by decide +kernel
    have h := all (a - 0x100000) (by omega)
    rwa [Nat.add_sub_cancel' h1] at h

/-- A waiting stream of core 0 in a cluster at cycle 1,000. -/
def waiting (k : StreamId) (w : WaitKind) (limit : Nat) (c : Core := {}) : State :=
  { on k { issued := true, wait := some { kind := w, since := 0, limit := limit } } c with
    clusters := [(0, { cycles := 1000, joins := [{ entry 1 with kind := k, expiry := some 1000 }] })]
    ev := { core := 0, k := k, n := 5, who := .stream 0 k } }

/-- WaitingHeadsWakeOrExpire: an idle whose cycles have passed, waits just past their limit, for tokens that have and have not
come, and a join that has expired. -/
theorem test_hyp_waits :
    let s := waiting .X (.sem 1 2) 999;
    (let i := waiting .X (.idleCyc 1000) 0;
      i.st.wait.isSome = true ∧ i.st.issuedAt + 1000 ≤ i.cyclesOf 0 ∧ i.canRun 0 .X = true ∧ i.nextPcOf 0 .X = some 0x1001 ∧
        (i.ctx (i.ctxOf 0)).traceEn = false) ∧
    ((s.stream 0 .X).wait = some { kind := .sem 1 2, since := 0, limit := 999 } ∧ 999 < s.cyclesOf 0 - 0 ∧ (s.stream 0 .X).trap = none ∧
      (s.stream 0 .X).stopped = false ∧ OrdinaryAt 0 s) ∧
    (let t := waiting .X (.token 1 2 1) 999 { tokq := [(1, 16)] };
      (t.core 0).lackMask 1 1 ≠ 0 ∧ (t.core 0).fullMask 2 1 ≠ 0 ∧ (s.core 0).lackMask 0 1 = 0 ∧ (s.core 0).fullMask 2 1 = 0) ∧
    (let j := waiting .X (.join 5) 0;
      (j.cluster 0).joins = [] ++ { entry 1 with kind := .X, expiry := some 1000 } :: [] ∧ 1000 ≤ (j.cluster 0).cycles ∧
        (j.core 0).slice = some 0 ∧ ((j.core 0).stream .X).arrived (.join 5) = true ∧ OrdinaryAt 0 j) := by
  and_intros <;> first | exact ⟨_, rfl, rfl, rfl⟩ | decide +kernel

/-- WaitingHeadsWakeOrExpire: an `mwait` of 64 cycles that is late, a ring with a spilled record and room, and an open and a
closed touch window, with an access that still needs the closed one. -/
theorem test_hyp_waitsOnMemory :
    let ring' : Ring := { ring with spill := [[1]], sp := true };
    (let f : FrameRec := { packet with words := [0x1E00000000000000, 0xC900000000000001, 0, 0, 0, 0, 0, 0] };
      let m := waiting .X (.mon 7) 0;
      let m := m.setStream 0 .X { m.stream 0 .X with iq := [f] };
      (∃ h rd limit, ({ m with curCore := 0, curK := .X } : State).headInstr = some (.mwait h rd limit) ∧
        limit.toNat * 64 < m.cyclesOf 0 - 0) ∧ m.canRun 0 .X = true) ∧
    let r := waiting .S (.mark 1) 0 { rings := [(5, ring')], windows := [⟨0, 0, 1, false, 0, 999, []⟩, ⟨0, 0, 1, false, 0, 1000, []⟩] };
    ((r.core 0).ring 5).spill = [1] :: [] ∧ ((r.core 0).ring 5).used < 2 ^ ((r.core 0).ring 5).k ∧ (r.core 0).slice.isSome = true ∧
      (r.core 0).windows.any (fun w => decide (r.cyclesOf 0 ≤ w.expiry)) = true ∧
      (let a := on .L { issued := true, kind := .access };
        (a.stream 0 .L).issued = true ∧ (a.stream 0 .L).kind = .access ∧ (a.stream 0 .L).trap = none ∧ (a.stream 0 .L).issuedAt ≤ 999) := by
  refine ⟨⟨⟨_, _, _, rfl, by decide +kernel⟩, by decide +kernel⟩, by decide +kernel⟩

/-- SlicesAreSelectedBoundAndEnded: a reserved placement of a granted core, one that may reserve, grants that lapse, with and
without a reservation. -/
theorem test_hyp_placements :
    let p : Placement := { queue := 0, hdr := header, pri := 0, tko := 0, candidates := [[0]], reserved := true };
    let s (p : Placement) (g : Option (Nat × Nat × Nat)) : State :=
      { State.reset with
        dies := [(0, { placements := [(0, p)] })], queues := [(0, { en := true, entries := [(0, 0)], head := some header })]
        ctxs := [(0, { live := true })], parts := [(0, { clusters := 1, hcore := 3 })], cores := [(0, { grant := g })]
        clusters := [(0, { cycles := 257 })] };
    (let s := s p (some (0, 0, 1));
      tblFind (s.die 0).placements s.ev.n = some p ∧ (s.queue 0).en = true ∧ (s.ctx 0).mode = .run ∧
        (s.core 0).grant = some (0, 0, 1) ∧ s.cyclesOf 0 - 1 ≤ 256 ∧ s.placeAllowed p [0] = true ∧ (s.queue 0).entries = [(0, 0)]) ∧
    (let q := { p with reserved := false };
      let s := s q none;
      s.placeAllowed q [0] = true ∧ (∀ c ∈ [0], s.coreFree c = true) ∧ s.admits q.hdr [0] = true ∧ (State.coreFree (s.setCore 0 { grant := some (1, 0, 0) }) 0) = false) ∧
    (let s := s p (some (0, 0, 0));
      (s.core s.ev.core).grant = some (0, 0, 0) ∧ 256 < s.cyclesOf s.ev.core - 0 ∧ tblFind (s.die 0).placements 0 = some p ∧ p.reserved = true) ∧
    tblFind ((s { p with reserved := false } (some (0, 0, 0))).die 0).placements 0 = some { p with reserved := false } := by decide +kernel

/-- SlicesAreSelectedBoundAndEnded: an exhausted budget, before a halt and in its skid, and a halted context. -/
theorem test_hyp_budgets :
    (∀ h ∈ [none, some 0],
      let s : State := { on .K {} {} { halt := h } with slices := [(0, { ctx := 0, handler := false, queue := 0, hdr := header, cores := [0], budget := 0 })] };
      (∃ v, s.slice s.ev.n = some v ∧ v.cores = 0 :: [] ∧ v.handler = false ∧ v.budget = 0) ∧ (s.core 0).slice = some 0 ∧
        (s.stream 0 .K).mode ≠ .yielded ∧ (s.stream 0 .K).trap = none ∧ (s.ctx 0).mode = .run ∧ s.skidOver 0 = false) ∧
    (let s := on .K {} {} { halt := some 0 };
      (s.ctx s.ev.ctx).live = true ∧ (s.ctx 0).mode = .run ∧ (s.ctx 0).halt.isSome = true ∧ s.ev.nums = [] ∧ s.stopCores 0 = [0] ∧
        ∀ k ∈ allStreams, (s.stream 0 k).atomicOut = false ∧ (s.stream 0 k).firm = false ∧ (s.core 0).overfull k = false) := by
  refine ⟨fun h hh => ⟨⟨_, rfl, ?_⟩, ?_⟩, by decide +kernel⟩ <;> revert h <;> decide +kernel

/-- A slice of core 0 whose streams have yielded, and whose successor field names none. -/
def ended (handler : Bool) (x : Ctx) : State :=
  let y : Stream := { mode := .yielded };
  { on .K with
    cores := [(0, { slice := some 0, l := y, xs := y, s := y, k := y })]
    slices := [(0, { ctx := 0, handler := handler, queue := 0, hdr := placeHeader, cores := [0], budget := 1 })]
    ctxs := [(0, { x with live := true })]
    dies := [(0, { tlb := [(0, page 0)] })], mem := ringMem ++ [(0x1000C1, 4), (0x1000C2, 0x10), (0x1000C8, 0x12)] }

/-- SlicesAreSelectedBoundAndEnded: a slice whose streams have yielded, whose completion ring has room, a handler's slice with an
action, and without, and a context that waits for its handler. -/
theorem test_hyp_slicesEnd :
    (let s := ended false { cring := 0x1000C0 };
      ∃ v, s.slice s.ev.n = some v ∧ v.handler = false ∧ (∀ c ∈ v.cores, ∀ k, (s.stream c k).mode = .yielded) ∧ (s.ctx v.ctx).mode = .run ∧
        v.hdr.succ = 0xFFFF ∧ (∀ c ∈ v.cores, (s.core c).ways = [] ∧ (s.core c).pending = []) ∧ (s.ctx v.ctx).traceEn = false ∧
        s.ringDesc (some (0, 0)) (some (s.ctx 0).part) (s.ctx 0).cring = some (0x100400, 2, 1, 0, 0)) ∧
    (∀ a ∈ [none, some TretAction.resume, some .kill],
      let s := ended true { mode := .stopped, action := a };
      ∃ v, (s.slices.find? fun e => e.2.handler && (s.ctx e.2.ctx).part == s.ev.part) = some (0, v) ∧ s.slice 0 = some v ∧
        (∀ c ∈ v.cores, ∀ k, (s.stream c k).mode = .yielded) ∧ v.hdr.succ = 0xFFFF ∧
        (∀ j ∈ [0], ∀ w, s.slice j = some w → w.ctx = v.ctx → w.handler = true)) ∧
    let s : State :=
      { on .K with
        cores := [], slices := [], parts := [(0, { handlerQueue := [0] })], ctxs := [(0, { live := true, mode := .stopped, hslice := 0x100000 })]
        mem := [(0x100008, 0xFF), (0x100009, 0xFF), (0x100016, 0xFF), (0x100017, 0xFF), (0x100038, 0x0A), (0x100039, 0x89), (0x10003A, 0x80),
          (0x10003B, 2)]
        dies := [(0, { tlb := [(0, page 0)] })] };
    (s.part 0).handlerQueue = 0 :: [] ∧ s.coreFree (s.part 0).hcore.toNat = true ∧ (s.die 0).modeBusy = false ∧
      ∃ h, s.readHeader 0 0 (s.ctx 0).hslice = some h ∧ headerOk h (s.ctx 0).dn = true ∧ h.gang = 0 := by
  refine ⟨⟨_, rfl, rfl, ?_, rfl, by decide +kernel, by decide +kernel, rfl, by decide +kernel⟩, fun a ha => ⟨_, rfl, rfl, ?_, by decide +kernel, ?_⟩,
    by decide +kernel, by decide +kernel, by decide +kernel, _, some_of (by decide +kernel), by decide +kernel, by decide +kernel⟩
  · intro c hc k
    revert c
    cases k <;> decide +kernel
  · intro c hc k
    obtain rfl : c = 0 := by simpa using hc
    cases k <;> rfl
  · intro j hj w hw _
    obtain rfl : j = 0 := by simpa using hj
    cases hw
    rfl

/-- A device with one enabled queue, whose head is captured. -/
def selecting : State :=
  { State.reset with
    queues := [(0, { en := true, entries := [(0, 0)], head := some header, dies := 1, tko := 5 })]
    ctxs := [(0, { live := true })]
    parts := [(0, { valid := true, clusters := 1, hcore := 3 })] }

/-- SlicesAreSelectedBoundAndEnded: one head that may be selected, with tickets, and a core on which it fits; nothing has been
selected before, and nothing has changed after. -/
theorem test_hyp_selection :
    (match selecting.selectable 0 with | [c] => decide (0 < c.tickets) | _ => false) = true ∧ (selecting.die 0).idleSlot.isSome = true ∧
      (∀ e ∈ selecting.ctxs, e.2.replayMode = 0) ∧ selecting.gangPlacements 0 header.gang (queueDies 0 1) ≠ [] ∧
      selecting.placeFree [0] = true ∧ selecting.admits header [0] = true ∧ (selecting.die 0).lastRound ≠ some (selecting.roundView 0) ∧
      selecting.time / 10000 + 1 - ({ selecting with intervals := 0 } : State).intervals ≠ 0 := by decide +kernel


/-- TranslationsScansAndFetches: a walk that a die's buffer answers and one that nothing does, an invalidation that nothing holds, and
what holds one. -/
theorem test_hyp_translations :
    (let s : State := { on .X with dies := [(0, { tlb := [(0, page 0)] })], ev := { off := 0x100000 } };
      s.buffered 0 0 0x100000 = some (page 0) ∧ tlbFind (s.core 0).tlb 0 0x100000 = none ∧ tlbFind (s.cluster 0).tlb 0 0x100000 = none ∧
        s.buffered 0 0 0x7000 = none ∧ s.walk 0 0x7000 = none) ∧
    (let held (c : Core) : State :=
        { on .X { notes := [(0, .page (page 1))], kind := .access, issued := true } c { tinv := [⟨false, 0x100000, 4096⟩] } with
          dies := [(1, { engines := [(0, { commit := some { cmd := { ctx := 0, core := 0, slice := 0, seq := 0, src := .block 0, scope := none }, code := 0x10 } })] })] };
      let s := held { windows := [⟨0, 0x100000, 1, false, 0, 5, [page 0]⟩], rings := [(0, { ring with sp := true, spillVa := 0x100000 })] };
      let r : InvReq := ⟨false, 0x100000, 4096⟩;
      (s.ctx s.ev.ctx).tinv = r :: [] ∧ (s.core 0).slice.isSome = true ∧ s.ctxOf 0 = 0 ∧ s.cyclesOf 0 ≤ 5 ∧
        (page 0).va < r.va + r.len ∧ ((s.core 0).ring 0).enabled = true ∧ ((s.core 0).ring 0).sp = true ∧
        ((s.core 0).ring 0).spillVa < r.va + r.len ∧ (s.stream 0 .X).trap = none ∧ (0, Note.page (page 1)) ∈ (s.stream 0 .X).notes ∧
        tblFind (s.stream 0 .X).notes 2 = none ∧ (∃ k, (s.engine 1 0).commit = some k ∧ k.cmd.ctx = 0) ∧
        (on .X {} {} { tinv := [⟨true, 0, 0⟩] }).invalHeld 0 ⟨true, 0, 0⟩ = false) := by
  and_intros <;> first | exact ⟨_, rfl, by decide +kernel⟩ | decide +kernel

/-- TranslationsScansAndFetches: scans that have and have not seen a write, a page ready to fetch from, a member of a group whose
frame is withheld, and a group with one withheld for 4,096 cycles. -/
theorem test_hyp_fetches :
    (let s := on .X {} {} { scans := [{ status := 0, report := 0, frames := [(7, 1)] }, { status := 0, report := 0, frames := [(7, 1)], changed := some 0 }] };
      (s.ctx 0).scans.map ScanReq.changed = [none, some 0]) ∧
    (let f : TlbEntry := { page 0 with x := true, xs := 1 };
      let s : State :=
        { on .X with
          cores := [(0, ({ slice := some 0, tlb := [(0, f)] } : Core).setStream .X { mode := .run, pc := 0x100000, attached := false })]
          scanned := [(0x100, 1)], ev := { k := .X } };
      s.canRun 0 .X = true ∧ (s.stream 0 .X).attached = false ∧ (s.stream 0 .X).nextFetch = some 0x100000 ∧
        s.translate 0 (s.ctxOf 0) 0x100000 = some f ∧ tblFind s.scanned (f.phys 0x100000 / 4096) = some 1 ∧
        s.homeBad (some (s.ctx (s.ctxOf 0)).part) (f.phys 0x100000 / 128) = false) ∧
    let g : FetchGroup := { id := 0, slice := 0, kind := .X };
    let st (n : Nat) (t : Option Nat) : Stream := { mode := .run, pc := 0x1000, iq := [packet], consumed := n, stalled := t };
    let s : State :=
      { on .X with
        cores := [(0, ({ slice := some 0 } : Core).setStream .X (st 32 (some 0))), (1, ({ slice := some 0 } : Core).setStream .X (st 0 none))]
        clusters := [(0, { cycles := 4096, groups := [g] })], ev := { k := .X } };
    s.canRun 0 .X = true ∧ s.fetchGroup 0 .X = some g ∧ (s.stream 0 .X).nextFetch = some 0x1040 ∧
      s.leastConsumed 0 g + 32 < (s.stream 0 .X).consumed + (s.stream 0 .X).iq.length + 1 ∧
      (s.cluster s.ev.cluster).groups = [] ++ g :: [] ∧ 0 ∈ s.groupMembers 0 g ∧ (s.stream 0 .X).stalled = some 0 ∧
      4096 ≤ (s.cluster 0).cycles - 0 ∧ (s.stream 1 .X).consumedCount = s.leastConsumed 0 g := by
  decide +kernel

/-- ControlWindowWritesTakeTheirEffect: a partition word that breaks no rule and one that does, an L2 mode that may change and one
that is barred, contexts to install and to stop, and an armed `%stopat`. -/
theorem test_hyp_controlWindow :
    let s : State := { State.reset with parts := [(1, { valid := true, clusters := 2, hcore := 4 })], ev := { v := 0x8000000000000001 } };
    (∀ q, q < 8 → q ≠ 0 → (s.part q).clusters &&& 1 = 0) ∧ (s.part 0).clusters ≠ 1 ∧ (∀ m, m < 192 → (s.core m).slice = none) ∧
      (s.part 1).clusters &&& 2 ≠ 0 ∧ (s.die 0).modeBusy = false ∧ s.ev.v.getLsbD 0 ≠ (s.die 0).split ∧
      (s.part 1).valid = true ∧ (s.part 1).smap 0 = 0 ∧ (∀ q, q < 8 → (State.reset.part q).valid = false) ∧
      s.ev.v.getLsbD 63 = true ∧ (s.ctx 0).live = false ∧ s.pack.shutdown = false ∧ s.pack.linkFault = false ∧
      s.ev.v.toNat / 64 % 2 ^ 50 * 64 + 64 ≤ devTop ∧ s.homeBad none (s.ev.v.toNat / 64 % 2 ^ 50 * 64 / 128) = false ∧
      ((on .X).ctx 0).live = true ∧ ((on .X).ctx 0).halt = none ∧
      (let t := on .L {} {} { stopatEn := true };
        (∃ u, t.sliceOf 0 = some u ∧ u.ctx = 0 ∧ u.handler = false) ∧ (t.ctx 0).stopatEn = true ∧
          (t.ctx 0).stopatRc.toNat ≤ (t.stream 0 .L).rc.toNat ∧ (t.stream 0 .L).issued = false ∧ t.canRun 0 .L = true ∧ (t.ctx 0).halt = none) ∧
      badImage 0 = false ∧ s.foreignImage 0 0 = false ∧ s.scopeHeld 0 2 0 = false ∧ badImage (2 ^ 288) = true ∧
      (let b : State := { State.reset with ev := { flag2 := true, part := 3, v := 512 } };
        b.ev.flag = false ∧ b.ev.flag2 = true ∧ ∃ i, i < 10 ∧ b.ev.v.toNat = 2 ^ i) := by
  and_intros <;> first | exact ⟨_, rfl, rfl, rfl⟩ | decide +kernel

/-- ResetsClearWhatTheyName: a live context with a slice, in a partition. -/
theorem test_hyp_resets : ((on .X).ctx 0).live = true ∧ ((on .X).slice 0).isSome = true ∧ (on .X).ev.ctx < 64 ∧ (on .X).ev.part < 8 ∧
    ((on .X).ctx 0).part = (on .X).ev.part ∧ 8 ≤ ({ part := 8 } : EvArgs).part := by decide +kernel

/-- ControllerRecoversAndAttests: a controller in recovery with a whole block, and one that has negotiated. -/
theorem test_hyp_controller :
    let s : State := { State.reset with control := { recovery := true, version := true, caps := true, algs := true }, ev := { bytes := List.replicate 4096 0 } };
    s.control.recovery = true ∧ s.ev.bytes.length = 4096 ∧ s.control.version = true ∧ s.control.caps = true ∧ s.control.algs = true ∧ s.ev.n = 0 ∧
      State.reset.control.version = false := by decide +kernel

/-- StacksLinkAndErrorsAreMaintained: the last retry, an idle stack and one at the end of its pause, a full tracker, a pool row that
is lasting, a line of L2, and an event ring with room. -/
theorem test_hyp_stacks :
    let full : List (Nat × Nat) := [(1, 1), (2, 1), (3, 1), (4, 1), (5, 1), (6, 1), (7, 1), (8, 1)];
    let s : State :=
      { State.reset with
        pack := { State.reset.pack with
          trackers := [(16, full)], evDesc := 0x100000
          ecc := [{ loc := .pool 0 16 0, times := [], lasting := true }] }
        mem := [(0x100001, 0x10), (0x100002, 0x10), (0x100008, 0x12)], ev := { n := 16 } };
    let u : State := { s with pack := { s.pack with hbm := [(1, { busy := true, act := 2 })] } };
    16 ≤ s.ev.n ∧ (s.stack 0).busy = false ∧ (u.stack 1).busy = true ∧ (u.stack 1).act = 2 ∧
      ((tblGet [] s.pack.trackers 16).map Prod.fst).Nodup ∧ (∀ e ∈ tblGet [] s.pack.trackers 16, e.2 ≠ 0) ∧ (tblGet [] s.pack.trackers 16).length = 8 ∧
      (∃ r ∈ s.pack.ecc, r.loc = .pool 0 16 s.ev.row ∧ r.lasting = true) ∧ tblGet 0 (s.core 0).retired 16 < 8 ∧
      s.ringDesc none none s.pack.evDesc.toNat = some (0x101000, 2, 1, 0, 0) ∧ 0x101000 + 32 * 2 ^ 1 ≤ devTop ∧
      s.pack.evDesc.toNat + 64 ≤ 0x101000 ∧ ({ loc := .l2 0 1 7, flag := true } : EvArgs).loc = .l2 0 1 7 := by decide +kernel

/-- RegulatorsClustersAndTemperature: set points at the ends of their range, a change in progress, a cluster that may begin to
switch, and one at the end of its stop. -/
theorem test_hyp_regulators :
    let good (mv f : Nat) : Prop := 340 ≤ mv ∧ mv ≤ 520 ∧ 300 ≤ f ∧ f ≤ 1000 ∧ f % 25 = 0 ∧ 340 + (f - 600) / 5 ≤ mv;
    let s : State :=
      { State.reset with
        pack := { State.reset.pack with regs := [(1, { busy := true, change := some (420, 1000), doneAt := 0 })] }
        clusters := [(0, { switchTo := some 1 }), (1, { switchTo := some 1, switching := true })] };
    good 340 300 ∧ good 420 1000 ∧ good 520 600 ∧ ¬ good 419 1000 ∧ ¬ good 400 310 ∧ (s.regulator 0).busy = false ∧ (s.regulator 1).busy = true ∧
      (s.regulator 1).change = some (420, 1000) ∧ (s.regulator 1).doneAt ≤ s.time ∧ (s.regulator 1).fmhz < 1000 ∧ (s.regulator 1).mv ≠ 420 ∧
      (s.cluster 0).switchTo = some 1 ∧ (s.cluster 0).switching = false ∧
      (∀ m, m < 4 → (s.core (4 * 0 + m)).slice = none ∧ (s.core (4 * 0 + m)).grant = none) ∧ (s.cluster 0).currentUntil ≤ s.time ∧
      (s.cluster 1).switching = true ∧ (s.cluster 1).clockStop ≤ s.time := by decide +kernel

/-- IncomingRequestsReachTheirHomes: the last bytes of a window of 1 GiB and of a BAR of that size, an uncorrectable row, and an event
word. -/
theorem test_hyp_incoming :
    let s : State :=
      { State.reset with
        parts := [(0, { winEn := true, wsize := 1 })], ev := { off := 2 ^ 30 - 8, bytes := List.replicate 8 1, len := 8, n := 2 }
        ue := [2 ^ 23 - 1], fabric := { State.reset.fabric with bars := [(0, 1)] } };
    s.ev.flag = false ∧ (s.part 0).winEn = true ∧ s.ev.off + s.ev.bytes.length ≤ (s.part 0).wsize.toNat * 2 ^ 30 ∧
      s.ev.off + 8 ≤ tblGet 512 s.fabric.bars 0 * 2 ^ 30 ∧
      (s.part 0).wbase.toNat * 2 ^ 30 + s.ev.off + 8 ≤ devTop ∧ s.ev.off % s.ev.len = 0 ∧ s.ev.n ≤ 2 ∧ 0x1000 + 8 * 255 < 0x2000 ∧
      s.homeBad (some 0) (s.ev.off / 128) = true ∧ State.reset.homeBad (some 0) (s.ev.off / 128) = false := by
  decide +kernel


/-- A DEV page of 2 MiB at its own address. -/
def wide : TlbEntry := { page 0 with size := 0x200000 }

theorem engineEntry_wide {s : State} {a : Nat} {k : Access} (hs : (s.die 0).tlb = [(0, wide)]) (hk : k ≠ .fetch)
    (h1 : 0x100000 ≤ a) (h2 : a < 0x300000) : s.engineEntry 0 0 a k = some a := by
  have hm : a % 2 ^ 56 = a := Nat.mod_eq_of_lt (by omega)
  have ha : wide.allows k = true := by cases k <;> first | rfl | exact absurd rfl hk
  have hf : tlbFind [(0, wide)] 0 a = some wide := by simp [tlbFind, wide, page]; omega
  have hp : wide.phys a = a := by simp [TlbEntry.phys, wide, page]; omega
  simp only [State.engineEntry, State.translateOn, hs, hm, hf, ha, hp]
  rfl

/-- Spans of the page are writable, and hold what memory lists there. -/
theorem at_wide {s : State} {a n : Nat} {k : Access} (hs : (s.die 0).tlb = [(0, wide)]) (hk : k ≠ .fetch)
    (h1 : 0x100000 ≤ a) (h2 : a + n ≤ 0x300000) : At s 0 0 k a n a :=
  ⟨rfl, fun j hj => engineEntry_wide hs hk (by omega) (by omega)⟩

/-- A span within one row, read at once. -/
def bytesHold (s : State) (a n v : Nat) : Bool :=
  decide ((v < 2 ^ (8 * n) ∧ a % 128 + n ≤ 128) ∧ (0x100000 ≤ a ∧ a + n ≤ 0x300000) ∧
    s.homeBad (some (s.ctx 0).part) (a / 128) = false ∧ s.homeRead (some (s.ctx 0).part) a n = v)

theorem holds_wide {s : State} {a n v : Nat} (hs : (s.die 0).tlb = [(0, wide)]) (h : bytesHold s a n v = true) : Holds s 0 0 a n v := by
  obtain ⟨⟨hv, hr⟩, ⟨h1, h2⟩, hb, hw⟩ := of_decide_eq_true h
  refine ⟨hv, a, at_wide hs (by decide) h1 h2, fun j hj => ?_⟩
  have e : (a + j) / 128 = a / 128 := by omega
  have f : 8 * ((a + j) % 128) = 8 * (a % 128) + 8 * j := by omega
  have g : (2 : Nat) ^ (8 * n) = 2 ^ (8 * j) * 2 ^ (8 * (n - j)) := by rw [← Nat.pow_add]; congr 1; omega
  refine ⟨by rw [e]; exact hb, ?_⟩
  rw [← hw]
  simp only [State.homeRead]
  rw [e, f, Nat.pow_add, ← Nat.div_div_eq_div_mul, g, Nat.mod_mul_right_div_self,
    Nat.mod_mod_of_dvd _ (Nat.pow_dvd_pow 2 (by omega : 8 ≤ 8 * (n - j)))]

/-- An engine of die 0 with one command of context 0, whose operands stand on that page. -/
def video (slot : Nat) (src : VSource) (mem : List Host.Cell) (streams : List VStream := []) (ev : EvArgs := {}) : State :=
  { on .K {} { vcore with rings := [(0, { enabled := true, z := 0, k := 1, base := 0xD0000 })] } with
    dies := [(0, { tlb := [(0, wide)]
                   engines := [(slot, { fifo := [{ ctx := 0, core := 0, slice := 0, seq := 0, src := src, scope := none }], streams := streams })] })]
    mem := mem, ev := ev }

theorem nextCommand_of {s : State} {slot : Nat} {c : VCmd}
    (h : (c.die = 0 ∧ s.layerBusy c = false ∧ (s.engine 0 slot).parked = [] ∧ (s.engine 0 slot).commit = none ∧ (s.engine 0 slot).trap = none) ∧
      (s.engine 0 slot).fifo.find? s.engineServes = some c ∧ (s.ctx c.ctx).traceEn = false) : NextCommand s 0 slot c := by
  obtain ⟨⟨a, b, p, d, e⟩, f, g⟩ := h
  exact ⟨a, b, fun w hw => by simp [p] at hw, d, e, f, .inl g⟩

/-- CodecCommandsArePreparedAndEnd: an OPEN, a DECODE of a frame of the least size, one that shows no frame, one that the engine
does not support, and a CLOSE. -/
theorem test_hyp_codec :
    let c : VCmd := { ctx := 0, core := 0, slice := 0, seq := 0, src := .block 0x100000, scope := none };
    (let s := video 0 c.src [(0x100000, 0x10), (0x10000A, 0x11), (0x100012, 0x12), (0x100019, 1)];
      NextCommand s 0 0 c ∧ Holds s 0 0 0x100000 64 (0x10 + 0x110000 * 2 ^ 64 + 0x120000 * 2 ^ 128 + 0x100 * 2 ^ 192) ∧
        (∃ pa, At s 0 0 .write 0x110000 4096 pa) ∧ ∃ pa, At s 0 0 .write 0x120000 (0x100 / 8 * 8) pa) ∧
    (∀ d ∈ [({ profile := .high, written := true, blocks := [{ concealed := true }, {}] } : Decoded), { profile := .high }, { need := 257 }],
      let st : VStream := { ctx := 0, addr := 0x110000, store := 0x120000, size := 256 };
      let s := video 0 c.src
        [(0x100000, 0x11), (0x10000A, 0x11), (0x100012, 0x13), (0x100018, 8), (0x100022, 0x14), (0x10002A, 0x16), (0x100032, 0x17), (0x130000, 5)]
        [st] { out := d };
      NextCommand s 0 0 c ∧
        Holds s 0 0 0x100000 64
          (0x11 + 0x110000 * 2 ^ 64 + 0x130000 * 2 ^ 128 + 8 * 2 ^ 192 + 0x140000 * 2 ^ 256 + 0x160000 * 2 ^ 320 + 0x170000 * 2 ^ 384) ∧
        Holds s 0 0 0x130000 8 5 ∧ (s.engine 0 0).stream 0 0x110000 = some st ∧ st.unsupported = false ∧ s.ev.out = d ∧
        (∀ e ∈ frameSpans d st 0x140000 0x160000 0x170000 s.free, ∃ pa, At s 0 0 .write e.1 e.2.1 pa)) ∧
    (let s := video 0 c.src [(0x100000, 0x12), (0x10000A, 0x11)] [{ ctx := 0, addr := 0x110000, store := 0x120000, size := 256 }];
      NextCommand s 0 0 c ∧ Holds s 0 0 0x100000 64 (0x12 + 0x110000 * 2 ^ 64) ∧ ((s.engine 0 0).stream 0 0x110000).isSome = true) := by
  refine ⟨⟨nextCommand_of (by decide +kernel), holds_wide rfl (by decide +kernel), ⟨_, at_wide rfl (by decide) (by decide) (by decide)⟩,
    _, at_wide rfl (by decide) (by decide) (by decide)⟩, fun d hd => ⟨nextCommand_of ?_, holds_wide rfl ?_, holds_wide rfl ?_, rfl, rfl, rfl, ?_⟩,
    nextCommand_of (by decide +kernel), holds_wide rfl (by decide +kernel), by decide +kernel⟩
  · revert d; decide +kernel
  · revert d; decide +kernel
  · revert d; decide +kernel
  · intro e he
    refine ⟨e.1, at_wide rfl (by decide) ?_ ?_⟩ <;> revert e d <;> decide +kernel

/-- CodecCommandsArePreparedAndEnd: a command at the end of its commit, with room in the result FIFO of its core and without. -/
theorem test_hyp_codecEnds :
    ∀ n ∈ [0, 16],
      let c : VCmd := { ctx := 0, core := 0, slice := 0, seq := 0, src := .block 0x100000, scope := none };
      let k : VCommit := { cmd := c, code := 0x10, begun := true };
      let s : State := { on .K with dies := [(0, { engines := [(0, { commit := some k, results := [(0, List.replicate n 0)] })] })] };
      (s.engine 0 s.ev.n).commit = some k ∧ (s.engine 0 s.ev.n).trap = none ∧ k.progress = k.appends.length ∧ s.engineServes k.cmd = true ∧
        k.cmd.die = 0 ∧ (s.ctx 0).traceEn = false ∧ (s.ctx 0).replayMode = 0 ∧ (∀ e ∈ k.last, e.core = none) ∧
        (s.core 0).slice = some k.cmd.slice ∧ ((s.engine 0 s.ev.n).elements 0).length = n := by decide +kernel

/-- A layer of one tile at 0x100100, and its record. -/
def layerMem : List Host.Cell :=
  [(0x10010A, 1), (0x10010C, 16), (0x10010D, 16), (0x100110, 1), (0x100111, 0x10), (0x100119, 4), (0x10011A, 0x10)]
def layerWords : Nat := 0x101000010000 * 2 ^ 64 + 0x1001 * 2 ^ 128 + 0x100400 * 2 ^ 192

def block0 : VCmd := { ctx := 0, core := 0, slice := 0, seq := 0, src := .block 0x100000, scope := none }

/-- A MASK of that layer, for a frame of one tile. -/
def masking : State :=
  video 4 block0.src ([(0x100000, 0x20), (0x100009, 1), (0x10000A, 0x10), (0x100010, 0x80), (0x100011, 1), (0x100012, 0x10), (0x100023, 1)] ++
    layerMem ++ [(0x100180, 16), (0x100182, 16), (0x100191, 5), (0x100192, 0x10), (0x100199, 6), (0x10019A, 0x10), (0x1001A0, 32)])

/-- MaskAndGatherCommandsArePrepared: an `rfsh` and an `mthr` of a layer of one tile. -/
theorem test_hyp_layer : ∀ src ∈ [VSource.rfshLayer 0x100100, .rfshTile 0x100100 0, .mthr 1 0x100100 0x10000],
    NextCommand (video 4 src layerMem) 0 4 { ctx := 0, core := 0, slice := 0, seq := 0, src := src, scope := none } ∧
      Holds (video 4 src layerMem) 0 0 0x100100 64 layerWords ∧ Holds (video 4 src layerMem) 0 0 0x100400 8 0 ∧
      ∃ pa, At (video 4 src layerMem) 0 0 .write 0x100400 8 pa := by
  intro src hs
  refine ⟨nextCommand_of ?_, holds_wide rfl ?_, holds_wide rfl ?_, _, at_wide rfl (by decide) (by decide) (by decide)⟩ <;>
    revert src <;> decide +kernel

theorem masking_tlb : (masking.die 0).tlb = [(0, wide)] := rfl

/-- MaskAndGatherCommandsArePrepared: a MASK whose grid fits its frame. -/
theorem test_hyp_mask :
    NextCommand masking 0 4 block0 ∧ Holds masking 0 0 0x100000 64 (0x20 + 0x100100 * 2 ^ 64 + 0x100180 * 2 ^ 128 + 0x1000000 * 2 ^ 256) ∧
      Holds masking 0 0 0x100100 64 layerWords ∧
      (∃ ly, parseLayer ((List.range 8).map fun i => layerWords / 2 ^ (64 * i) % 2 ^ 64) = some ly ∧ ly.tw * 2 ^ ly.ls = 16 ∧
        ly.th * 2 ^ ly.ls = 16 ∧ ly.tx = 1 ∧ ly.ty = 1 ∧ ly.tst = 0x100400) ∧
      masking.maskTarget 0 0 0 = true :=
  ⟨nextCommand_of (by decide +kernel), holds_wide masking_tlb (by decide +kernel), holds_wide masking_tlb (by decide +kernel),
    ⟨_, some_of (by decide +kernel), by decide +kernel⟩, by decide +kernel⟩

/-- Its frame, the tile's state, and the two tensors of the frame. -/
theorem test_hyp_maskFrame :
    Holds masking 0 0 0x100180 128 (0x100010 + 0x100500 * 2 ^ 128 + 0x100600 * 2 ^ 192 + 32 * 2 ^ 256) ∧
      Holds masking 0 0 0x100400 8 0 :=
  ⟨holds_wide masking_tlb (by decide +kernel), holds_wide masking_tlb (by decide +kernel)⟩

theorem test_hyp_maskTensors : Holds masking 0 0 0x100500 128 0 ∧ Holds masking 0 0 0x100600 128 0 :=
  ⟨holds_wide masking_tlb (by decide +kernel), holds_wide masking_tlb (by decide +kernel)⟩

/-- A GSX of one record: in memory, to a store, or both in the pool of core 0. -/
def gathering (pooled : Bool) : State :=
  let s := video 8 block0.src
    ([(0x100000, 0x30)] ++ (if pooled then [(0x100001, 3), (0x10000A, 0xC)] else [(0x100009, 7), (0x10000A, 0x10)]) ++
      [(0x100010, 1), (0x100019, 8), (0x10001A, 0x10)] ++ (if pooled then [(0x100022, 0xC)] else [(0x100021, 9), (0x100022, 0x10)]) ++
      [(0x100028, 1), (0x100029, 0x10), (0x10002B, 1), (0x10002C, 1), (0x10002D, 1), (0x100703, 1)]);
  { s with cores := tblMap s.cores fun c => { c with pool := [(12 * 512, BitVec.ofNat 1024 0x1000000)] } }

theorem gathering_tlb (b : Bool) : ((gathering b).die 0).tlb = [(0, wide)] := rfl

/-- MaskAndGatherCommandsArePrepared: a list of one REUSE record in memory. -/
theorem test_hyp_gather :
    NextCommand (gathering false) 0 8 block0 ∧
      Holds (gathering false) 0 0 0x100000 64
        (0x30 + 0x100700 * 2 ^ 64 + 2 ^ 128 + 0x100800 * 2 ^ 192 + 0x100900 * 2 ^ 256 + 0x10101001001 * 2 ^ 320) ∧
      Holds (gathering false) 0 0 0x100700 8 0x1000000 ∧ Holds (gathering false) 0 0 0x100800 128 0 ∧
      ∃ pa, At (gathering false) 0 0 .write 0x100900 1 pa :=
  ⟨nextCommand_of (by decide +kernel), holds_wide (gathering_tlb _) (by decide +kernel), holds_wide (gathering_tlb _) (by decide +kernel),
    holds_wide (gathering_tlb _) (by decide +kernel), _, at_wide (gathering_tlb _) (by decide) (by decide) (by decide)⟩

/-- MaskAndGatherCommandsArePrepared: a list in the pool, and a destination in the pool. -/
theorem test_hyp_gatherPool :
    NextCommand (gathering true) 0 8 block0 ∧
    Holds (gathering true) 0 0 0x100000 64
      (0x330 + 0xC0000 * 2 ^ 64 + 2 ^ 128 + 0x100800 * 2 ^ 192 + 0xC0000 * 2 ^ 256 + 0x10101001001 * 2 ^ 320) ∧
    (let c := (gathering true).core 0;
      ∀ i, i < 8 → poolByte c (0xC0000 + i) = 0x1000000 / 2 ^ (8 * i) % 256 ∧ roleOf c.roles ((0xC0000 + i) / 2 ^ 16) = 5 ∧
        c.poolUe.contains ((0xC0000 + i) / 128) = false) ∧
    Holds (gathering true) 0 0 0x100800 128 0 ∧ (∃ b, (gathering true).sliceOf 0 = some b ∧ b.ctx = 0) ∧
    ∀ i, i < 128 → roleOf ((gathering true).core 0).roles ((0xC0000 + i) / 2 ^ 16) = 5 :=
  ⟨nextCommand_of (by decide +kernel), holds_wide (gathering_tlb _) (by decide +kernel), by decide +kernel,
    holds_wide (gathering_tlb _) (by decide +kernel), ⟨_, rfl, by decide +kernel⟩, by decide +kernel⟩

/-- StepRunsTheDecodedInstruction: a slot that decodes, one that does not exist, an event, and a stream whose next frame stands on an
executable page, and on none. -/
theorem test_hyp_step :
    (let s := on .X;
      s.agenda = [] ∧ s.curCore < 192 ∧ s.canRun s.curCore s.curK = true ∧ (s.stream 0 .X).iq = [packet] ∧ packet.addr = 0x1000 ∧
        0 < headerCount (packet.words.getD 0 0) ∧ ¬ 7 < headerCount (packet.words.getD 0 0) ∧ encode .idleWake = [] ∧
        encode (.nop ⟨0, 0⟩) ≠ [] ∧ OrdinaryAt 0 s) ∧
    let f : TlbEntry := { page 0 with x := true, xs := 1 };
    let s : State :=
      { on .X with
        cores := [(0, ({ slice := some 0, tlb := [(0, f)] } : Core).setStream .X { mode := .run, pc := 0x100000, attached := false })]
        scanned := [(0x100, 1)], mem := [(0x100007, 0x1E)] };
    let frame : List Nat := (List.range 8).map fun j => s.homeRead (some (s.ctx (s.ctxOf 0)).part) (f.phys 0x100000 + 8 * j) 8;
    s.canRun 0 .X = true ∧ (s.stream 0 .X).iq = [] ∧ s.fetchGroup 0 .X = none ∧ s.translate 0 (s.ctxOf 0) 0x100000 = some f ∧
      tblFind s.scanned (f.phys 0x100000 / 4096) = some 1 ∧ s.homeBad (some (s.ctx (s.ctxOf 0)).part) (f.phys 0x100000 / 128) = false ∧
      0 < headerCount (frame.getD 0 0) ∧ (frameInstr frame 0).toOption = some (.nop ⟨0, 0⟩) ∧ s.translate 0 (s.ctxOf 0) 0x7000 = none := by
  and_intros <;> first | exact ⟨_, rfl, rfl, rfl⟩ | decide +kernel

theorem test_step_decodes : (frameInstr packet.words 0).toOption = some (.nop ⟨0, 0⟩) := by decide +kernel

/-- EveryStepKeepsMemoryCanonical: reset's memory is canonical, and its step answers a next state. -/
theorem test_hyp_canonical :
    Memory.wf State.reset.mem ∧ (match Machine.step State.reset with | .next _ => true | _ => false) = true := by decide +kernel


/-- A core with a TILE bank whose matrix engine executes a command; metadata, where given, stands in TILE row 64. -/
def executing (c : MCmd) (metadata : Nat := 0) (m : Matrix := {}) : State :=
  on .X {}
    { vcore with
      roles := vcore.roles ++ [(63, 2)], pool := [(63 * 512 + 64, BitVec.ofNat 1024 metadata)], tlb := [(0, page 0)]
      matrix := { m with
        metaRow := 64, running := if c.isLoad then none else some c, weights := if c.isLoad then [c] else [] } }

theorem executing_sound (c : MCmd) (w : Nat) (m : Matrix) (j : Nat) : ((executing c w m).core j).poolUe = [] := by
  by_cases h : j = 0
  · subst h; rfl
  · have : (executing c w m).core j = {} := by
      simp [executing, on, State.core, tblGet, Ne.symm h]
    rw [this]

theorem executes_of {s : State} {k : Nat} {c : MCmd}
    (h : ((s.core k).matrix.executing s.ev.n = some c ∧ s.ev.flag = false ∧ s.engineRuns k = true ∧ c.refusal = none) ∧
      (c.progress = 0 ∧ c.seen = [] ∧ c.outs = [] ∧ c.flags = 0 ∧ c.amax = 0 ∧ c.poison = false) ∧ (s.core k).pending = [] ∧ c.ssen = false ∧
        (s.ctx (s.ctxOf k)).traceEn = false) :
    Executes s k c := by
  obtain ⟨⟨a, b, d, e⟩, f, p, g, i⟩ := h
  exact ⟨a, b, d, e, f, fun j v => by rw [p]; exact List.not_mem_nil, fun x => by simp [g] at x, .inl i⟩

theorem opReady_of {s : State} {k : Nat} {c : MCmd} {off : Nat} (hc : c.isScr = false ∨ c.wa.getLsbD 24 = false)
    (h : if c.isScr = true then tblGet 0 (s.core (opCore k c)).roles (opBank c off) = 5
      else (c.start + off) / 2048 < 320 ∧ (c.start + off) / 2048 < 32 * (s.core k).vb)
    (u : (s.core (opCore k c)).poolUe = []) : OpReady s k c off := by
  refine ⟨?_, by rw [u]; rfl⟩
  unfold OpThere
  split at h
  · next hs =>
    rw [if_pos hs]
    exact ⟨h, fun x => absurd (hc.resolve_left (by simp [hs])) (by simp [x])⟩
  · next hs =>
    rw [if_neg hs]
    exact h

theorem tileReady_of {s : State} {k : Nat} {c : MCmd} {a : Nat} (h : tblGet 0 (s.core k).roles (tileBank c.t (a / 128)) = 2)
    (u : (s.core k).poolUe = []) : TileReady s k c a := ⟨h, by rw [u]; rfl⟩

theorem arrayReady_of {c : Core} {r : Nat} (u : c.poolUe = []) : ArrayReady c r := fun j _ => by rw [u]; rfl

/-- A dense product of one row, column and position. -/
def product : MCmd := { seq := 0, op := 0x80, ty := 2, wb := 0x10000, t := 1 }

/-- MatrixCommandsLeaveTheirResults: a product whose operand, weight and accumulator may be read. -/
theorem test_hyp_product :
    Executes (executing product) 0 product ∧ product.isProduct = true ∧ product.rows = 1 ∧ product.cols = 1 ∧ product.kk = 1 ∧
      OpReady (executing product) 0 product 0 ∧ TileReady (executing product) 0 product 0 ∧ ArrayReady ((executing product).core 0) 0 :=
  ⟨executes_of (by decide +kernel), by decide +kernel, by decide +kernel, by decide +kernel, by decide +kernel,
    opReady_of (.inl (by decide +kernel)) (by decide +kernel) rfl, tileReady_of (by decide +kernel) rfl, arrayReady_of rfl⟩

/-- A sparse product of one row and column and 32 positions. -/
def sparse : MCmd := { seq := 0, op := 0x81, ty := 2, wb := 0x200000, t := 1, mrow := 64 }

/-- MatrixCommandsLeaveTheirResults: a sparse product with a legal metadata word, and one whose word is illegal in group 0. -/
theorem test_hyp_sparse :
    (∀ w ∈ [0x44444444, 0], Executes (executing sparse w) 0 sparse) ∧ sparse.rows = 1 ∧ sparse.cols = 1 ∧ sparse.kk = 32 ∧
      (∀ q, q < 32 → OpReady (executing sparse) 0 sparse (128 * q)) ∧ (∀ q, q < 16 → TileReady (executing sparse) 0 sparse (256 * q)) ∧
      TileReady (executing sparse) 0 sparse (128 * 64) ∧
      (let word (m : Nat) : Nat := fieldOf (tileByte (executing sparse m) 0 sparse) (1024 * 64) 32;
        (∀ h, h < 8 → metaFirst (word 0x44444444) h < metaSecond (word 0x44444444) h) ∧ metaSecond (word 0) 0 ≤ metaFirst (word 0) 0) ∧
      OrdinaryAt 0 (executing sparse) := by
  refine ⟨fun w hw => executes_of ?_, by decide +kernel, by decide +kernel, by decide +kernel,
    fun q hq => opReady_of (.inl (by decide +kernel)) ?_ rfl, fun q hq => tileReady_of ?_ rfl, tileReady_of (by decide +kernel) rfl,
    by decide +kernel, ⟨_, rfl, rfl, rfl⟩⟩
  · revert w; decide +kernel
  all_goals revert q; decide +kernel

/-- MatrixCommandsLeaveTheirResults: a grouped product, and both convolutions, of one position. -/
theorem test_hyp_convolutions :
    let conv (op : Nat) : MCmd := { seq := 0, op := op, ty := 2, wa := 0xC0000, wb := 0x12000, t := 1 };
    let grouped : MCmd := { seq := 0, op := 0x82, ty := 2, wa := 1, wb := 0x10000, t := 1 };
    Executes (executing grouped) 0 grouped ∧ ∀ op ∈ [0x8F, 0x90], Executes (executing (conv op)) 0 (conv op) ∧ (conv op).kk = 1 ∧
      OpReady (executing (conv op)) 0 (conv op) 0 ∧ TileReady (executing (conv op)) 0 (conv op) 0 := by
  refine ⟨executes_of (by decide +kernel), fun op h => ⟨executes_of ?_, ?_, opReady_of (.inr (?_ : _ = false)) ?_ (executing_sound _ _ _ _), tileReady_of ?_ rfl⟩⟩ <;>
    revert op <;> decide +kernel

/-- MatrixCommandsLeaveTheirResults: a drain, a weight load from the scratchpad, and a transpose. -/
theorem test_hyp_drainAndLoads :
    let drain : MCmd := { seq := 0, op := 0x84, ty := 2, t := 1 };
    let load : MCmd := { seq := 0, op := 0x88, wa := 0xC0000, wb := 0x10000, t := 1 };
    let turn : MCmd := { seq := 0, op := 0x91, ty := 2, wa := 0xC0000, wb := 0x10000, t := 1 };
    (Executes (executing drain) 0 drain ∧ OpReady (executing drain) 0 drain 0 ∧ ArrayReady ((executing drain).core 0) 0 ∧
      drain.cols * drain.w ≤ 1024 * drain.pitch) ∧
    (Executes (executing load) 0 load ∧ (∀ o, o < 128 → OpReady (executing load) 0 load o) ∧ TileThere (executing load) 0 load 0) ∧
    (Executes (executing turn) 0 turn ∧ OpReady (executing turn) 0 turn 0 ∧ ∀ q, q < 2 → TileThere (executing turn) 0 turn (128 * q)) := by
  refine ⟨⟨executes_of (by decide +kernel), opReady_of (.inl (by decide +kernel)) (by decide +kernel) rfl, arrayReady_of rfl, by decide +kernel⟩,
    ⟨executes_of (by decide +kernel), fun o ho => opReady_of (.inr rfl) ?_ rfl, by unfold TileThere; decide +kernel⟩, executes_of (by decide +kernel),
    opReady_of (.inr rfl) (by decide +kernel) rfl, by unfold TileThere; decide +kernel⟩
  revert o; decide +kernel

theorem entryAt_ok {s : State} {x va n : Nat} {k : Access} {e : TlbEntry} (hc : s.covered s.curCore x va n k = none)
    (ht : s.translate s.curCore s.curCtx va = some e) (ha : e.allows k = true) : s.entryAt x va n k = .ok e := by
  simp only [State.entryAt, hc, ht, ha, if_true]

/-- A load of one row from the DEV page. -/
def streamed (masked : Bool) : MCmd := { seq := 0, op := 0x89, wa := 0x100000, wb := if masked then 0x100010000 else 0x10000, t := 1 }

/-- MatrixCommandsLeaveTheirResults: a streamed load, plain and by byte masks (whose masks are zero: 16 bytes a row). -/
theorem test_hyp_streamedLoads : ∀ b,
    let s := executing (streamed b);
    Executes s 0 (streamed b) ∧ (s.core 0).ways = [] ∧ (s.core 0).banksOf 3 = [] ∧ (s.core 0).pending = [] ∧ TileThere s 0 (streamed b) 0 ∧
      DevSpan s 0 0x100000 128 0x100000 := by
  intro b
  refine ⟨executes_of ?_, rfl, rfl, rfl, ?_, rfl, fun o m hm hn _ => ⟨page 0, ?_, rfl, ?_, ?_⟩⟩
  · revert b; decide +kernel
  · cases b <;> unfold TileThere <;> decide +kernel
  · have hb : ∀ b, ∀ o, o < 128 → ({ executing (streamed b) with curCore := 0, curK := .X } : State).translate 0 0 ((0x100000 + o) % 2 ^ 56) = some (page 0) := by
      decide +kernel
    exact entryAt_ok rfl (hb b o (by omega)) rfl
  · have h : (0x100000 + o) % 2 ^ 56 = 0x100000 + o := Nat.mod_eq_of_lt (by omega)
    rw [h]
    simp [TlbEntry.phys, page]
  · have : ∀ b, ∀ o, o < 128 → (executing (streamed b)).homeBad (some ((executing (streamed b)).ctx ((executing (streamed b)).ctxOf 0)).part)
        ((0x100000 + o) / 128) = false := by decide +kernel
    exact this b o (by omega)

/-- MatrixCommandsLeaveTheirResults: register copies and sums, the epilogue's commands with their registers, and those that only
complete. -/
theorem test_hyp_epilogue :
    (∀ op ∈ [0x92, 0x93, 0x8E, 0x87, 0x8B, 0x8C, 0x8A, 0x94],
      let c : MCmd := { seq := 0, op := op, t := 1 };
      Executes (executing c) 0 c ∧ (0 : Nat) < 32 * ((executing c).core 0).vb) ∧
    ∀ op ∈ [0x85, 0x86], ∀ m ∈ [true, false], ∀ ty ∈ [0, 0xA],
      let c : MCmd := { seq := 0, op := op, ty := ty, mod := m, wa := if op = 0x86 ∧ m = true ∧ ty ≠ 0 then 1 else 0, t := 1 };
      Executes (executing c) 0 c ∧ ∀ o, o < 1024 → OpReady (executing c) 0 c o := by
  refine ⟨fun op h => ⟨executes_of ?_, ?_⟩, fun op h m hm ty ht => ⟨executes_of ?_, fun o ho => opReady_of (.inl ?_) ?_ (executing_sound _ _ _ _)⟩⟩
  · revert op; decide +kernel
  · revert op; decide +kernel
  · revert op m ty; decide +kernel
  · revert op m ty; decide +kernel
  · revert op m ty o; decide +kernel

/-! ### Clauses at the edges of what the statements cover -/

/-- TransfersReachTheirTargetOrTrap: the last slot of the last frame, under a true guard and a false one. -/
theorem test_hyp_lastSlot :
    let u := on .L (regs [(1, 5), (2, 1)]);
    let s := u.setSt { u.st with pc := 0xFFFFFFFFFFFFC6, iq := [packet] };
    CanIssue ⟨0, 0⟩ 1 0x1001 u ∧ CanIssue no 1 0x1001 u ∧ Ordinary u ∧ (0xFFFFFFFFFFFFC6 : PcWord).toNat - 0xFFFFFFFFFFFFC6 % 64 = 0xFFFFFFFFFFFFC0 ∧
      headerCount (packet.words.getD 0 0) ≤ 0xFFFFFFFFFFFFC6 % 8 + 1 ∧ s.guardBit ⟨0, 0⟩ = true ∧ s.guardBit no = false ∧ s.rx 1 ≠ s.rx 2 ∧
      s.rx 2 = 1 := by
  refine ⟨canIssue_of (by decide +kernel), canIssue_of (by decide +kernel), ⟨_, rfl, rfl, rfl⟩, by decide +kernel⟩

/-- TouchOpensAWindowAndPfetOnlyFills: eight open windows, of which two expire first. -/
theorem test_hyp_touchCrowd :
    let win (n : Nat) : Window := ⟨0, 0x100000 + n, 1, false, 0, 5 + n / 2, []⟩;
    let s := mems .L (regs [(1, 0x100000), (2, 4096)]) { vcore with windows := (List.range 8).map win };
    CanIssue ⟨0, 0⟩ 1 0x1001 s ∧ (s.cur.windows.filter fun x => decide (x.opened ≤ s.cyc) && decide (s.cyc < x.expiry)).length = 8 ∧
      ∀ y ∈ s.cur.windows, (win 0).expiry ≤ y.expiry ∧ (win 1).expiry ≤ y.expiry := by
  refine ⟨canIssue_of (by decide +kernel), by decide +kernel⟩

/-- PoolReshapesPinsAndReports: a range that has its role already, while another stream's access has issued. -/
theorem test_hyp_poolUnchanged :
    let s := on .K (regs [(1, 12 + 64)]) { vcore with l := { issued := true, kind := .access } };
    CanIssue ⟨0, 0⟩ 1 0x1001 s ∧ s.cur.issuedAccesses s.curCore ≠ [] ∧ placementOk (setRoles s.cur.roles [12] 5) = true ∧
      [12].filter (fun b => roleOf s.cur.roles b != 5) = [] := by
  refine ⟨canIssue_of (by decide +kernel), by decide +kernel⟩

/-- RingSetUpAndReading: storage outside RING banks, storage that another ring shares, and a spill area on a writable DEV page, on a HOST
page, on none, and misaligned. -/
theorem test_hyp_ringSpill :
    let s := mems .K (regs [(1, 0x110C0000), (2, 0x11110D0000), (3, 0x100400), (4, 0x200000), (5, 0x7000), (6, 0x100401)])
      { vcore with rings := [(2, ring)] };
    let clear := mems .K (regs [(1, 0x110D0000), (2, 0x11110D0000), (3, 0x100400), (4, 0x200000), (5, 0x7000), (6, 0x100401)]);
    CanIssue ⟨0, 0⟩ 1 0x1001 s ∧ CanIssue ⟨0, 0⟩ 1 0x1001 clear ∧ roleOf s.cur.roles (0xC0000 / 2 ^ 16) ≠ 4 ∧
      ((s.cur.ring 2).enabled = true ∧ (s.cur.ring 2).base = (s.rx 2).toNat % 2 ^ 22) ∧ (∀ q, q < 16 → (clear.cur.ring q).enabled = false) ∧
      (let w := (s.rx 2).toNat;
        w / 2 ^ 40 = 0 ∧ w / 2 ^ 33 % 8 = 0 ∧ w / 2 ^ 27 % 2 = 0 ∧ w / 2 ^ 22 % 4 = 0 ∧ w / 2 ^ 24 % 8 = 1 ∧ w % 128 = 0 ∧ w / 2 ^ 32 % 2 = 1 ∧
          w / 2 ^ 36 % 16 = 1 ∧ w / 2 ^ 28 % 16 = 1) ∧
      (∀ i, i < 32 → roleOf clear.cur.roles ((0xD0000 + i) / 2 ^ 16) = 4) ∧
      ((s.rx 3).toNat % 128 = 0 ∧ s.translate s.curCore s.curCtx 0x100400 = some (page 0) ∧ 32 ≤ (page 0).size - (0x100400 - (page 0).va) ∧
        s.spillParts (32 / 4096 + 2) 0x100400 32 = some [((page 0).phys 0x100400, 32)]) ∧
      (s.translate s.curCore s.curCtx 0x200000 = some (page 1) ∧ (page 1).cls ≠ 0) ∧ s.translate s.curCore s.curCtx 0x7000 = none ∧
      (s.rx 6).toNat % 128 ≠ 0 := by
  refine ⟨canIssue_of (by decide +kernel), canIssue_of (by decide +kernel), by decide +kernel⟩

/-- WriteWithEnqueue: full core rings with spill space, without, and with their quota spent, more records than a ring holds, a memory
ring with a malformed descriptor, and one that holds fewer records. -/
theorem test_hyp_wenqEdges :
    let full : Ring := { ring with tail := 2, sp := true, ks := 3, spillVa := 0x100400, spillPages := [(0x100400, 128)] };
    let s : State :=
      { mems .S (regs [(1, 0x100), (2, 0xC0000), (3, 0x200), (4, 0x8000000000100000), (5, 0x8000000000100080)])
          { vcore with rings := [(1, full), (2, { full with ks := 0, spill := [[1]] })] } with
        mem := ringMem ++ [(0x100080, 1)] };
    let rich : State := { s with ctxs := tblMap s.ctxs fun x => { x with spillq := 32 } };
    CanIssue ⟨0, 0⟩ 1 0x1001 rich ∧ CanIssue ⟨0, 0⟩ 1 0x1001 s ∧ AllClean s ∧ AllClean rich ∧ PayloadReady rich (s.rx 2) 32 ∧
      (((rich.core 0).ring 1).free < 2 ∧ ((rich.core 0).ring 1).spill.length + 2 ≤ 2 ^ ((rich.core 0).ring 1).ks ∧
        2 * 16 ≤ (rich.ctx rich.curCtx).spillq.toNat ∧ ∀ e ∈ ((rich.core 0).ring 1).spillPages, e.1 % 16 = 0 ∧ e.2 % 16 = 0) ∧
      ((s.ctx s.curCtx).spillq.toNat < 16 ∧ 2 ^ ((s.core 0).ring 2).ks < ((s.core 0).ring 2).spill.length + 1) ∧
      (2 ^ ring.k < 3 ∧ ring.sp = false) ∧
      descFields (s.homeRead (some s.curPart) ((page 0).phys 0x100080) 64) = none ∧
      descFields (s.homeRead (some s.curPart) ((page 0).phys 0x100000) 64) = some (0x100400, 1, 1) ∧ Steady s 0x100080 64 .read (page 0) := by
  refine ⟨canIssue_of (by decide +kernel), canIssue_of (by decide +kernel), by unfold AllClean; decide +kernel, by unfold AllClean; decide +kernel,
    by unfold PayloadReady; decide +kernel, by decide +kernel, by decide +kernel, by decide +kernel,
    Option.isNone_iff_eq_none.mp (by decide +kernel), by decide +kernel, .inr (by decide +kernel)⟩

/-- DetachmentJoinsAndPhases: an entry whose expiry has come, at which the core has arrived before. -/
theorem test_hyp_joinAgain :
    let s := withJoins (pair .X none) [entry 1];
    CanIssue ⟨0, 0⟩ 1 0x1001 s ∧ (entry 1).arrived &&& 1 ≠ 0 ∧ (entry 1).expiry = none ∧ (entry 1).arrived ||| 1 ≠ (entry 1).expected := by
  refine ⟨canIssue_of (by decide +kernel), by decide +kernel⟩

/-- TraceRecordsDumpsAndStarvedReplay, StacksLinkAndErrorsAreMaintained, WriteWithEnqueue: a ring that already serves an append. -/
theorem test_hyp_ringServes :
    let s : State := { on .S with cores := tblMap (on .S).cores fun c => c };
    let a : DevAppend := { use := .event, space := none, part := none, desc := 0x1000, z := 2, words := [] };
    ({ s with heldAppends := [a] } : State).ringServes a = true ∧ s.ringServes a = false := by decide +kernel

/-- WaitingHeadsWakeOrExpire: a `pool` that waits for the TILE bank 63, past its limit of 256 cycles. -/
theorem test_hyp_tileBusy :
    let f : FrameRec := { packet with words := [0x1E00000000000000, 0xab00104005000001, 0, 0, 0, 0, 0, 0] };
    let m := waiting .K .poolTile 0
      { vcore with
        roles := vcore.roles ++ [(63, 2)], matrix := { running := some { seq := 0, op := 0x80, ty := 2, wb := 0x7F00010000, t := 1 } } };
    let s := m.setStream 0 .K { m.stream 0 .K with iq := [f], kind := .pool, guardOn := true, x := [(1, 127)] };
    let c := s.core 0;
    (∃ w, c.k.wait = some w ∧ w.kind = .poolTile ∧ 1 * 256 ≤ s.cyclesOf 0 - w.since) ∧
      ({ s with curCore := 0, curK := .K } : State).headInstr = some (.poolReshape ⟨0, 0⟩ 2 1 5 false 1) ∧ c.k.issued = true ∧ c.k.guardOn = true ∧
      c.k.skipping = false ∧ c.k.kind = .pool ∧ c.k.poisonDue = false ∧ tblFind c.k.notes 4 = none ∧ c.pending = [] ∧ s.canRun 0 .K = true ∧
      s.nextPcOf 0 .K = some 0x1001 ∧ (s.ctx (s.ctxOf 0)).traceEn = false ∧ (c.k.reg 1).toNat = 63 + 64 ∧
      placementOk (setRoles c.roles [63] 5) = true ∧ 63 ∈ c.matrix.tileBanks ∧ roleOf c.roles 63 = 2 := by
  refine ⟨⟨_, rfl, rfl, by decide +kernel⟩, by decide +kernel⟩

/-- WaitingHeadsWakeOrExpire: a head that has issued, whose effect is complete. -/
theorem test_hyp_retires :
    let s : State := { on .X { issued := true, guardOn := true } with ev := { k := .X } };
    ∃ o, (match ({ s with curCore := 0, curK := .X, issueOnly := false, chosen := none, late := false, expanding := false, expanded := false } : State).ready with
        | .run u (.nop ⟨0, 0⟩) => some u
        | _ => none) = some o ∧ o.canRun 0 .X = true ∧ o.st.issued = true ∧ o.st.skipping = false ∧ o.st.guardOn = true ∧ o.nextPc = some 0x1001 ∧
      ∃ u, (match Op.attempt (opBind (opPure ()) fun _ => effect id) o with | .ok u .next => some u | _ => none) = some u ∧
        u.curCore = 0 ∧ u.curK = .X ∧ ∀ v, Machine.exec (.nop ⟨0, 0⟩) v = runForm ⟨0, 0⟩ {} noHold (opPure ()) (fun _ => effect id) v := by
  refine ⟨_, some_of (by decide +kernel), by decide +kernel, by decide +kernel, by decide +kernel, by decide +kernel, by decide +kernel,
    _, some_of (by decide +kernel), by decide +kernel, by decide +kernel, fun _ => rfl⟩

/-- SlicesAreSelectedBoundAndEnded: an exhausted budget while an AtomicOp of the stream is out. -/
theorem test_hyp_budgetLate :
    let s : State :=
      { on .K { atomicOut := true, issued := true } with
        slices := [(0, { ctx := 0, handler := false, queue := 0, hdr := header, cores := [0], budget := 0 })] };
    (s.stream 0 .K).atomicOut = true ∧ (s.stream 0 .K).trap = none ∧ (s.stream 0 .K).lateTrap = none ∧ (s.stream 0 .K).mode ≠ .yielded ∧
      (s.ctx 0).halt = none ∧ (s.ctx 0).mode = .run ∧ (s.core 0).slice = some 0 := by decide +kernel

/-- TranslationsScansAndFetches: a die without walks and with one of the page, a walk that has ended, and a scan with a page to handle. -/
theorem test_hyp_walksAndScans :
    let w : Walk := { ctx := 0, va := 0x100000, st := .table 3 0 };
    let done : Walk := { w with st := .done 0 none };
    let s : State := { on .X with dies := [(0, { walks := [w] })], ev := { off := 0x100000, flag2 := true, n := 1 } };
    (s.ev.flag2 = true ∧ s.ev.n = 1 ∧ (s.die 0).walks = [w] ∧ w.covers 0 0x100000 = true ∧ w.ended = false ∧ ((on .X).die 0).walks = [] ∧
      done.covers 0 0x100000 = true ∧ done.st = .done 0 none) ∧
    let x : TlbEntry := { page 0 with x := true };
    let s : State :=
      { on .X {} {} { scans := [{ va := 0x100000, left := 1 }, { va := 0x7000, left := 1 }] } with
        ev := { flag := true }, dies := [(0, { tlb := [(0, x)] })], mem := [(0x100007, 0x1E)] };
    s.ev.flag = true ∧ (s.ctx 0).scans.map ScanReq.left = [1, 1] ∧ (s.part 0).hcore.toNat / 96 = 0 ∧ s.translateOn 0 0 0x100000 = some x ∧
      s.translateOn 0 0 0x7000 = none ∧ (∀ i, i < 32 → s.homeBad (some 0) (x.phys 0x100000 / 4096 * 32 + i) = false) ∧
      s.scanFrame4K 0 (x.phys 0x100000) (StreamId.ofNum x.xs) = some (64, 7, 1) := by decide +kernel

/-- StacksLinkAndErrorsAreMaintained, RegulatorsClustersAndTemperature: an event that meets another append, a full event ring, and a
cluster at 115 °C. -/
theorem test_hyp_eventsHeld :
    let s : State :=
      { State.reset with
        pack := { State.reset.pack with evDesc := 0x100000 }
        mem := [(0x100001, 0x10), (0x100002, 0x10), (0x100008, 0x12), (0x100010, 2)], ev := { temp := 920 }
        clusters := [(0, { temp := 920 })] };
    let a : DevAppend := { use := .event, space := none, part := none, desc := 0x100000, z := 2, words := [] };
    s.ringDesc none none 0x100000 = some (0x101000, 2, 1, 2, 0) ∧ s.ringServes a = false ∧
      ({ s with heldAppends := [a] } : State).ringServes a = true ∧ 920 ≤ s.ev.temp ∧ 920 ≤ (s.cluster 0).temp.toInt ∧
      (s.cluster 1).temp.toInt < 920 ∧ State.reset.ringDesc none none 0 = some (0, 0, 0, 0, 0) ∧ s.ringDesc none none 0x100001 = none := by decide +kernel

/-- IncomingRequestsReachTheirHomes: a first dialogue that sets device time back, below the intervals counted. -/
theorem test_hyp_timeBack :
    let s : State := { State.reset with time := 50000, intervals := 6, ev := { ptm := some 10000 } };
    s.ev.ptm = some 10000 ∧ s.fabric.ptmSet = false ∧ (10000 + 9999) / 10000 < s.intervals := by decide +kernel

/-- CodecCommandsArePreparedAndEnd: a unit beyond the profiles, levels, tiers and tools of H.264 and HEVC. -/
theorem test_hyp_codecOutside :
    let p : List Profile := [.high, .constrainedHigh];
    Profile.main10 ∉ p ∧ (52 : Nat) < ({ level := 53 } : Decoded).level ∧ ({ highTier := true } : Decoded).highTier = true ∧
      CodecTool.mbaff ∈ ({ tools := [.mbaff] } : Decoded).tools := by decide +kernel

/-! ### Clauses of the machine at large: time, links, logs, replay, engines -/

theorem tblGet_ne {α : Type} {d v : α} {x y : Nat} (h : y ≠ x) : tblGet d [(x, v)] y = d := by
  simp [tblGet, Ne.symm h]

/-- SoftwareTrapsEnterTheHaltLine: a halted context of one core whose engine has two commands in its queue, in DEV memory. -/
theorem test_hyp_stopRecords :
    let c : MCmd := { seq := 0, op := 0x94 };
    let s := on .K { issued := true } { matrix := { queue := [c, c] } } { halt := some 0 };
    (s.ctx 0).live = true ∧ (s.ctx 0).mode = .run ∧ (s.ctx 0).halt.isSome = true ∧ (s.ctx 0).traceEn = false ∧ s.ev.nums = [] ∧
      s.stopCores 0 = [0] ∧ s.ctxOf 0 = 0 ∧ (s.core 0).pending = [] ∧ (∀ d ∈ (s.core 0).matrix.queue, d.outs = []) ∧
      ∀ k ∈ allStreams, (s.stream 0 k).lateTrap = none ∧ (s.stream 0 k).atomicOut = false ∧ (s.stream 0 k).firm = false ∧
        (s.core 0).overfull k = false := by decide +kernel

/-- BudgetAndIdle: 10 ns in which nothing is due. -/
theorem test_hyp_elapse :
    let s : State :=
      { on .X { issuedNow := true } with agenda := [.elapse 10], clusters := [(0, { cycles := 5 })], intervals := 1 };
    s.agenda = .elapse 10 :: [] ∧ ({ s with agenda := [] } : State).dueEvents = [] ∧
      (∀ x, (s.ctx x).scopeBusy = none ∧ (s.ctx x).traceEn = false) ∧ (tblFind s.clusters 0).isSome = true ∧
      (∃ v, s.slice 0 = some v ∧ v.handler = false ∧ v.ended = none ∧ v.cores.headD 0 = 0) ∧ (s.stream 0 .X).stopped = false ∧
      ∀ j, tblGet 0 (s.stream 0 .X).hc j < 2 ^ 48 := by
  refine ⟨rfl, by decide +kernel, fun x => ?_, by decide +kernel, ⟨_, rfl, rfl, rfl, rfl⟩, by decide +kernel,
    fun j => Nat.zero_lt_succ _⟩
  by_cases h : x = 0
  · subst h; decide +kernel
  · simp [State.ctx, on, tblGet_ne h]

/-- LoopNestIndicesRunInnermostFirst: a record that stands between two of its issues, and one past its last. -/
theorem test_hyp_loopNestLater :
    let r := LnRec.mk 0x43 0x2F800000 0x0001000100020004 0x100001 0x100001 0 1 8 16;
    let at' (p : W64) : State := vs.setSt { vs.st with issued := true, lnpos := p };
    let fresh (s : State) : State := s.setSt { s.st with issued := false, popped := (0, 0), pushes := [] };
    (let s := at' 2;
      s.st.issued = true ∧ s.st.expIssued = false ∧ s.canRun s.curCore s.curK = true ∧ AtHead 0x1001 (fresh s) ∧ lnReason ⟨0, 0⟩ r = none ∧
        lnFinished r s.st.lnpos = false ∧ lnIndex s.st.lnpos 0 = 2 ∧
        (match decodeWord (lnIssueWord r 0 2 0 0 0) with
          | .ok i => (match Machine.exec i (fresh s) with | .next u => u.st.rc == s.st.rc + 1 | _ => false)
          | .error _ => false) = true) ∧
    (let s := at' 4;
      AtHead 0x1001 (fresh s) ∧ s.st.kind = .plain ∧ lnFinished r s.st.lnpos = true) := by
  refine ⟨⟨by decide +kernel, by decide +kernel, by decide +kernel, (canIssue_of (h := ⟨0, 0⟩) (n := 1) (by decide +kernel)).toAtHead, by decide +kernel, by decide +kernel, by decide +kernel,
    by decide +kernel⟩, (canIssue_of (h := ⟨0, 0⟩) (n := 1) (by decide +kernel)).toAtHead, by decide +kernel, by decide +kernel⟩

/-- A stream whose head has issued, on a link page, and whose steps have left the notes. -/
def returned (notes : Tbl Note) (x : Ctx := {}) (c : Core := vcore) : State :=
  on .S { issued := true, guardOn := true, kind := .access, lanes := 3, notes := notes, x := [(1, 0x200000), (2, 0x100080)] } c x

/-- ScalarLoads: a HOST page, whose read is answered by data, by a poisoned completion and by a refusal, in free-run and in record mode,
under both policies. -/
theorem test_hyp_loadsAnswered :
    (let s := mems .S (regs [(1, 0x200000)]);
      CanIssue ⟨0, 0⟩ 1 0x1001 s ∧ s.accessEntry 0x200000 8 .read = .ok (page 1) ∧ (page 1).cls ≠ 0) ∧
    ∀ c ∈ ([.data 0xFF, .refused, .poisoned] : List Completion), ∀ mode ∈ ([0, 1] : List (BitVec 2)), ∀ ue : Bool,
      let s := returned [(1, .page (page 1)), (2, .answer c)] { replayMode := mode, ue := ue };
      CanFinish 0x1001 s ∧ Answered 0 (page 1) c s ∧ Ordinary s ∧ (s.ctx s.curCtx).replayMode = mode ∧ (s.ctx s.curCtx).ue = ue ∧
        s.curCore < 192 ∧ (0xFF : BitVec 1024).toNat < 2 ^ (8 * 1) := by
  refine ⟨⟨canIssue_of (by decide +kernel), ok_of (by decide +kernel), by decide +kernel⟩, fun c hc mode hm ue =>
    ⟨canFinish_of (?_ : finishable _ _ = true), ⟨rfl, rfl, by decide, rfl⟩, ⟨_, rfl, rfl, rfl⟩, rfl, rfl, (by decide : 0 < 192), by decide +kernel⟩⟩
  revert c mode ue; decide +kernel

/-- RowLoads, RowStores: rows of a HOST page; the last of two rows has its completion. -/
theorem test_hyp_rowsOnLinks :
    (let s := mems .L (regs [(1, 0x200000)]);
      CanIssue ⟨0, 0⟩ 1 0x1001 s ∧ RegsReady [1] [1] s ∧ tblGet 0 s.cur.roles (regBank 1) = 1 ∧ (rowsOn ⟨0, 0⟩ s).head? = some 0 ∧
        s.accessEntry 0x200000 128 .read = .ok (page 1) ∧ (∀ j, j < 16 → s.accessEntry (0x200000 + 128 * j) 128 .write = .ok (page 1)) ∧
        (page 1).cls ≠ 0) ∧
    ∀ c ∈ ([.data 7, .refused, .poisoned] : List Completion),
      let s := returned [(0, .num 5), (5, .page (page 1)), (6, .answer c)];
      CanFinish 0x1001 s ∧ RegsReady [1] [] s ∧ s.cur.reshape = none ∧ (s.ctx s.curCtx).replayMode = 0 ∧
        ((List.range 16).filter fun j => s.st.lanes.getLsbD j) = [0, 1] ∧ Answered 1 (page 1) c s ∧ tblFind s.st.notes 0 = some (.num 5) ∧
        (∀ i, 2 ≤ i → tblFind s.st.notes (4 * i) = none) ∧ (s.ctx s.curCtx).ue = false ∧ Ordinary s := by
  refine ⟨⟨canIssue_of (by decide +kernel), by (constructor <;> decide +kernel), by decide +kernel, by decide +kernel, ok_of (by decide +kernel),
    fun j hj => ok_of ?_, by decide⟩, fun c hc => ⟨canFinish_of (?_ : finishable _ _ = true), ?_, rfl, rfl,
    ?_, ⟨rfl, rfl, by decide, rfl⟩, rfl, fun i hi => ?_, rfl, ⟨_, rfl, rfl, rfl⟩⟩⟩
  · revert j; decide +kernel
  · revert c; decide +kernel
  · constructor <;> revert c <;> decide +kernel
  · revert c; decide +kernel
  · have e : (returned [(0, .num 5), (5, .page (page 1)), (6, .answer c)]).st.notes = [(0, .num 5), (5, .page (page 1)), (6, .answer c)] := rfl
    rw [e]
    simp only [tblFind]
    rw [if_neg (by omega), if_neg (by omega), if_neg (by omega)]

/-- TensorCopies: a descriptor on a HOST page, elements on HOST pages, and a `cpy` whose last unit has its answer. -/
theorem test_hyp_copiesOnLinks :
    let d : CopyDesc := ⟨0x200800, 4, [(2, 4, 4)]⟩;
    let img := 0x200800 + 2 * 2 ^ 64 + 2 * 2 ^ 128 + 4 * 2 ^ 256 + 4 * 2 ^ 512;
    (let s := mems .S (regs [(1, 0x200000)]);
      CanIssue ⟨0, 0⟩ 1 0x1001 s ∧ s.accessEntry 0x200000 128 .read = .ok (page 1)) ∧
    (let s : State :=
        { mems .S (regs [(1, 0x100080)]) with
          mem := [(0x100081, 0x08), (0x100082, 0x20), (0x100088, 2), (0x100090, 2), (0x1000A0, 4), (0x1000C0, 4)] };
      CanIssue ⟨0, 0⟩ 1 0x1001 s ∧ parseCopy (s.homeRow (some s.curPart) ((page 0).phys 0x100080 / 128)) = some d ∧ s.cur.ways = [] ∧
        s.cur.banksOf 3 = [] ∧ s.accessEntry 0x200800 4 .read = .ok (page 1) ∧
        ∀ i, i < 2 → copyUnits 4 (0x200800 + 4 * i) (0xC0000 + 4 * i) = ([0], 4) ∧ s.accessEntry (0x200800 + 4 * i) 4 .write = .ok (page 1)) ∧
    let s := returned [(0, .num img), (4, .num 9), (9, .page (page 1)), (10, .answer (.data 5))];
    CanFinish 0x1001 s ∧ s.cur.reshape = none ∧ (s.ctx s.curCtx).replayMode = 0 ∧ (s.rx 2).toNat % 128 = 0 ∧ parseCopy img = some d ∧
      Answered 2 (page 1) (.data 5) s ∧ (tblFind s.st.notes 4).isSome = true ∧ (5 : BitVec 1024).toNat < 2 ^ (8 * 4) ∧
      ∀ i, i < 2 → ∀ o, o < 4 → tblGet 0 (s.core 0).roles (scrBank 0 (0xC0000 + 4 * i + o)) = 5 := by
  refine ⟨⟨canIssue_of (by decide +kernel), ok_of (by decide +kernel)⟩, ⟨canIssue_of (by decide +kernel), ?_, rfl, by decide +kernel,
    ok_of (by decide +kernel), fun i hi => ⟨?_, ok_of ?_⟩⟩, canFinish_of (by decide +kernel), rfl, rfl, by decide +kernel, ?_,
    ⟨rfl, rfl, by decide, rfl⟩, rfl, by decide +kernel, ?_⟩
  · decide +kernel
  · revert i; decide +kernel
  · revert i; decide +kernel
  · decide +kernel
  · decide +kernel

/-- WriteWithEnqueue: a ring of another core of the gang with room, in record mode, and in replay without a record of it and with one
of this agent and of another. -/
theorem test_hyp_wenqReplay :
    let s (x : Ctx) : State :=
      let u := on .S (regs [(1, 0x101), (2, 0xC0000)]) vcore x
      { u with cores := u.cores ++ [(1, { vcore with slice := some 0, rings := [(1, ring)] })] };
    let rec' (agent : Nat) : W64 × W64 := (BitVec.ofNat 64 (2 + 1 * 2 ^ 8 + 1 * 2 ^ 18), BitVec.ofNat 64 agent);
    let next (s : State) := (s.ctx s.curCtx).replayRecs.find? fun e =>
      e.1.toNat % 2 ^ 8 == 2 && e.1.toNat / 2 ^ 8 % 2 ^ 8 == 1 && e.1.toNat / 2 ^ 18 % 2 ^ 4 == 1;
    (∀ x ∈ ([{ replayMode := 1 }, { replayMode := 2 }, { replayMode := 2, replayRecs := [rec' 2] }, { replayMode := 2, replayRecs := [rec' 9] }] :
        List Ctx),
      CanIssue ⟨0, 0⟩ 1 0x1001 (s x) ∧ (s x).guardBit ⟨0, 0⟩ = true ∧ ScopeReady (s x) 31 ∧ AllClean (s x) ∧
        (∀ c ∈ (s x).cores, ∀ r ∈ c.2.rings, r.2.spill = []) ∧ ((s x).rx 1).toNat / 2 ^ 12 = 0 ∧ 1 ≠ (s x).curCore ∧
        (∃ v, (s x).sliceOf 1 = some v ∧ v.ctx = (s x).curCtx) ∧ (((s x).core 1).ring 1).enabled = true ∧
        PayloadReady (s x) ((s x).rx 2) 16 ∧ 1 ≤ (((s x).core 1).ring 1).free) ∧
    next (s { replayMode := 2 }) = none ∧ next (s { replayMode := 2, replayRecs := [rec' 2] }) = some (rec' 2) ∧ (rec' 2).2.toNat = 0 * 4 + StreamId.S.num ∧
      next (s { replayMode := 2, replayRecs := [rec' 9] }) = some (rec' 9) := by
  refine ⟨fun x hx => ⟨canIssue_of ?_, ?_, ?_, ?_, ?_, ?_, ?_, ⟨_, rfl, rfl⟩, ?_, ?_, ?_⟩, by decide +kernel⟩
  all_goals (try unfold ScopeReady); (try unfold AllClean); (try unfold PayloadReady); revert x; decide +kernel

/-- DetachmentJoinsAndPhases: a context that traces its clusters, with room in the open frames. -/
theorem test_hyp_tracedDetach :
    let s := on .X {} {} { traceEn := true, traceCls := 0x10 };
    CanIssue ⟨0, 0⟩ 1 0x1001 s ∧ s.guardBit ⟨0, 0⟩ = true ∧ (s.ctx 0).traceCls.getLsbD 4 = true ∧
      (∀ key ∈ [1, 16384], (tblGet {} (s.ctx 0).trace key : TraceSrc).recs = []) ∧ Untraced s.curCtx 1 s := by
  exact ⟨canIssue_of (by decide +kernel), by decide +kernel, by decide +kernel, by decide +kernel, .inr (by decide +kernel)⟩

/-- WaitingHeadsWakeOrExpire: an idle of a context that traces its waits, whose class has lasted 1,000 cycles. -/
theorem test_hyp_tracedIdle :
    let i := waiting .X (.idleCyc 1000) 0;
    let s : State := { i.setStream 0 .X { i.stream 0 .X with cls := 0x74 } with ctxs := [(0, { live := true, traceEn := true, traceCls := 2 })] };
    (s.stream 0 .X).wait.isSome = true ∧ (s.stream 0 .X).issuedAt + 1000 ≤ s.cyclesOf 0 ∧ s.canRun 0 .X = true ∧
      s.nextPcOf 0 .X = some 0x1001 ∧ 4 ≤ (s.stream 0 .X).cls ∧ (s.stream 0 .X).cls ≤ 0x75 ∧
      256 ≤ s.cyclesOf 0 - (s.stream 0 .X).clsSince ∧ (s.ctx 0).traceCls.getLsbD 1 = true := by decide +kernel

/-- WaitingHeadsWakeOrExpire: an access issued behind the head within a window that has ended since. -/
theorem test_hyp_windowAhead :
    let a : Ahead := { popped := (0, 0), pushes := [], guardOn := true, lanes := 0, issuedAt := 5, kind := .access, keys := {}, consumed := 0 };
    let s := on .L { issued := true, ahead := [a] } { windows := [⟨0, 0x100000, 1, false, 0, 10, []⟩] };
    ∃ b ∈ (s.stream 0 .L).ahead, b.kind = .access ∧ 0 ≤ b.issuedAt ∧ b.issuedAt < 10 ∧ (s.stream 0 .L).trap = none :=
  ⟨_, List.mem_singleton.mpr rfl, by decide +kernel⟩

theorem tblFind_replicate {α : Type} {v : α} {x y n : Nat} (h : x ≠ y) : tblFind (List.replicate n (x, v)) y = none := by
  induction n with
  | zero => rfl
  | succ n ih => rw [List.replicate_succ, tblFind, if_neg h, ih]

/-- MonitorsWatchOneRow: a full L2 in SPLIT mode that misses, and one that is not split. -/
theorem test_hyp_monitorCrowd :
    (let s : State := { State.reset with dies := [(0, { split := true, l2 := List.replicate l2Rows (l2Key 1 2, (0, 0)) })] };
      let d := s.die (homeDie (0 * 128));
      d.split = true ∧ l2Rows ≤ d.l2.length ∧ ∃ q, some 0 = some q ∧ tblFind d.l2 (l2Key q 0) = none) ∧
    (State.reset.die (homeDie (0 * 128))).split = false := by
  refine ⟨⟨rfl, ?_, 0, rfl, ?_⟩, rfl⟩
  · exact (List.length_replicate (n := l2Rows) (a := (l2Key 1 2, ((0 : BitVec 1024), (0 : BitVec 128))))).symm.le
  · exact tblFind_replicate (by decide)

/-- A header at 0x100000 that passes the checks. -/
def headMem : List Host.Cell :=
  [(0x100008, 0xFF), (0x100009, 0xFF), (0x100016, 0xFF), (0x100017, 0xFF), (0x100038, 0x0A), (0x100039, 0x89), (0x10003A, 0x80),
    (0x10003B, 2)]

/-- EnqueuesAndDependenceCounters: a write of the host's port into an empty queue, and a counter of 1 whose header goes there: a
header that is sound, and one that cannot be read; and a context that is DEAD. -/
theorem test_hyp_hostEnqueue :
    let s (v : W64) : State :=
      { on .K {} { tlb := [(0, wide)] } { dtab := 0x100200, dn := 1 } with
        mem := headMem ++ [(0x100200, 1), (0x10020A, 0x10)], parts := [(0, { clusters := 1 })], dies := [(0, { tlb := [(0, wide)] })], ev := { q := 0, v := v } };
    let x := (s 0x100000).ctx 0;
    ((s 0x100000).ev.v.toNat % 64 = 0 ∧ ¬ Full (s 0x100000) 0 ∧ ((s 0x100000).queue 0).head = none ∧ ((s 0x100000).queue 0).entries = [] ∧
      ((s 0x100000).queue 0).displaced = [] ∧ x.live = true ∧ x.mode ≠ .dead) ∧
    (∃ h, (s 0x100000).readHeader 0 0 0x100000 = some h ∧ headerOk h x.dn = true ∧
      (s 0x100000).gangPlacements x.part h.gang (queueDies 0 ((s 0x100000).queue 0).dies) ≠ []) ∧
    (s 0x7000).readHeader 0 0 0x7000 = none ∧
    (let t := s 0x100000;
      CanIssue ⟨0, 0⟩ 1 0x1001 t ∧ ScopeReady t 31 ∧ AllClean t ∧ Steady t 0x100200 32 .atomic wide ∧ wide.phys 0x100200 = 0x100200 ∧
        t.homeRead (some 0) 0x100200 8 = 1 ∧ t.homeRead (some 0) 0x100208 8 % 2 ^ 56 = 0x100000 ∧
        ∀ j, j < 8 → ∃ e, tlbFind (t.die 0).tlb t.curCtx ((0x100000 + 8 * j) % 2 ^ 56) = some e ∧ e.r = true ∧ e.cls = 0 ∧
          e.phys ((0x100000 + 8 * j) % 2 ^ 56) = 0x100000 + 8 * j) ∧
    (let t : State := { s 0x100000 with ctxs := [(0, { live := true, mode := .dead })] };
      (t.ctx 0).mode = .dead) := by
  refine ⟨⟨by decide +kernel, ?_, rfl, rfl, rfl, rfl, by decide +kernel⟩, ⟨_, some_of (by decide +kernel), by decide +kernel, by decide +kernel⟩, by decide +kernel,
    ⟨canIssue_of (by decide +kernel), by unfold ScopeReady; decide +kernel, by unfold AllClean; decide +kernel, .inr (by decide +kernel),
      by decide +kernel, by decide +kernel, by decide +kernel, fun j hj => ⟨wide, ?_, rfl, rfl, ?_⟩⟩, rfl⟩
  · intro h
    rcases h with h | ⟨a, h⟩
    · revert h; decide +kernel
    · cases h
  · revert j; decide +kernel
  · revert j; decide +kernel

/-- RawAccessesAndNotifications: an outstanding request before its timeout. -/
theorem test_hyp_completionInTime :
    let s : State := { on .L { outs := [{ peer := false, bus := 0, len := 8, va := 0 }] } with time := 50000, ev := { k := .L } };
    ∃ o, (s.stream 0 .L).outs[0]? = some o ∧
      ¬ (o.sent + ([50000, 1000000, 10000000, 50000000] : List Nat).getD s.fabric.ctmo.toNat 0 < s.time) := ⟨_, rfl, by decide +kernel⟩

/-- TraceRecordsDumpsAndStarvedReplay: an `addi` at a checkpoint of 256 instructions, in record mode, and in replay without a record of
it, with one that agrees and with one that does not. -/
theorem test_hyp_checkpoints :
    let f : FrameRec := { packet with words := [0x1E00000000000000, 0x0200294000000080, 0, 0, 0, 0, 0, 0] };
    let s (x : Ctx) : State :=
      let u := on .L { rc := 255 } {} { x with replayCpk := 8 }
      { u.setSt { u.st with iq := [f] } with word := 0x0200294000000080 };
    let fp (s : State) : Nat := (counterHash (s.rx 5) (s.st.rc * 256 + BitVec.ofNat 64 (s.word / 2 ^ 56))).toNat / 2 ^ 32;
    let rec' (n : Nat) : W64 × W64 := (1, BitVec.ofNat 64 n);
    let next (s : State) := (s.ctx s.curCtx).replayRecs.find? fun e => e.1.toNat % 2 ^ 8 == 1 && e.1.toNat / 2 ^ 8 % 2 ^ 8 == s.curCore &&
      e.1.toNat / 2 ^ 16 % 4 == s.curK.num;
    (let z := s {};
      z.curCore < 192 ∧ encode (.addi ⟨0, 0⟩ 5 5 128) = [z.word] ∧ (z.st.rc.toNat + 1) % 2 ^ 8 = 0 ∧ z.guardBit ⟨0, 0⟩ = true ∧ Ordinary z) ∧
    (∀ x ∈ ([{ replayMode := 1 }, { replayMode := 2 }, { replayMode := 2, replayRecs := [rec' (fp (s {}))] },
        { replayMode := 2, replayRecs := [rec' (fp (s {}) + 1)] }] : List Ctx),
      CanIssue ⟨0, 0⟩ 1 0x1001 ((s x).setCtx 0 { (s x).ctx 0 with replayMode := 0 })) ∧
    next (s { replayMode := 2 }) = none ∧ next (s { replayMode := 2, replayRecs := [rec' (fp (s {}))] }) = some (rec' (fp (s {}))) ∧
    (rec' (fp (s {}))).2.toNat % 2 ^ 32 = fp (s {}) ∧ (rec' (fp (s {}) + 1)).2.toNat % 2 ^ 32 ≠ fp (s {}) := by
  refine ⟨⟨by decide, by decide +kernel, by decide +kernel, by decide +kernel, ⟨_, rfl, rfl, rfl⟩⟩, fun x hx => canIssue_of ?_, by decide +kernel⟩
  revert x; decide +kernel

/-- SlicesAreSelectedBoundAndEnded: a log that selects core 1 for the queue, which is free. -/
theorem test_hyp_forcedSelection :
    let sel : W64 × W64 := (4, BitVec.ofNat 64 (1 * 2 ^ 10));
    let s : State := { selecting with ctxs := [(0, { live := true, replayMode := 2, replayRecs := [(3, 0), sel] })] };
    (s.die 0).idleSlot.isSome = true ∧ (match s.selectable 0 with | [c] => decide (c.queue = 0) | _ => false) = true ∧ (s.ctx 0).nextRound 0 = some (3, 0) ∧
      (s.ctx 0).selectOf 0 (3, 0) = some sel ∧ (s.ctx 0).openSelects 0 = [] ∧ sel.2.toNat % 2 ^ 10 = 0 ∧ sel.2.toNat / 2 ^ 10 % 2 ^ 8 = 1 ∧
      [1] ∈ s.gangPlacements 0 header.gang (queueDies 0 1) ∧
      (∀ o ∈ s.gangPlacements 0 header.gang (queueDies 0 1), o.headD 0 = 1 → o = [1]) ∧ s.placeFree [1] = true ∧
      s.admits header [1] = true ∧ (∀ e ∈ s.ctxs, e.1 = 0) := by decide +kernel

/-- SlicesAreSelectedBoundAndEnded: a recording context. -/
theorem test_hyp_recordedSelection :
    let s : State := { selecting with ctxs := [(0, { live := true, replayMode := 1 })] };
    (∀ e ∈ s.ctxs, e.2.replayMode ≠ 2) ∧ (s.ctx 0).replayOvf = false ∧ (match s.selectable 0 with | [c] => decide (0 < c.tickets) | _ => false) = true ∧
      Untraced 0 2 s := ⟨by decide +kernel, rfl, by decide +kernel, .inl rfl⟩

/-- TranslationsScansAndFetches: a walk that has failed leaves; one in flight is merged with. -/
theorem test_hyp_walksEnd :
    let w : Walk := { ctx := 0, va := 0x100000, st := .table 3 0 };
    let s (w : Walk) : State := { on .X with dies := [(0, { walks := [w] })], ev := { off := 0x100000, flag2 := true, n := 2 } };
    (let t := s { w with st := .done 0 none };
      1 < t.ev.n ∧ (t.die 0).walks.find? (fun w => w.covers 0 0x100000 && w.ended) = some { w with st := .done 0 none } ∧
        tlbFind (t.core 0).tlb 0 0x100000 = none ∧ tlbFind (t.cluster 0).tlb 0 0x100000 = none ∧ tlbFind (t.die 0).tlb 0 0x100000 = none) ∧
    (∀ v ∈ ((s w).die 0).walks, (v.covers 0 0x100000 && v.ended) = false) ∧
    ((s w).die 0).walks.find? (fun w => w.serves 0 0x100000) = some w := by decide +kernel

/-- ControlWindowWritesTakeTheirEffect: a switch of an L2 that holds dirty bytes of two partitions; slice maps with a switch pending
and without. -/
theorem test_hyp_l2Switch :
    let s : State :=
      { State.reset with
        dies := [(0, { split := true, modeBusy := true, l2 := [(l2Key 0 5, (7, 1)), (l2Key 1 5, (0x900, 2))] })], ev := { off := 0x20, part := 1 } };
    (s.die 0).modeBusy = true ∧ (∀ m, m < 96 → (s.core (96 * 0 + m)).slice = none) ∧ tblFind (s.die 0).l2 (l2Key 0 5) = some (7, 1) ∧
      (1 : BitVec 128).getLsbD 0 = true ∧ (2 : BitVec 128).getLsbD 0 = false ∧ l2Key 0 5 % 2 ^ 48 = 5 ∧ s.ev.part < 8 ∧ s.ev.off = 0x20 ∧
      (State.reset.die 0).modeBusy = false ∧ (State.reset.die 0).split = false := by decide +kernel

/-- ControllerRecoversAndAttests: a request for every measurement, one for the count, and one for a block that there is not. -/
theorem test_hyp_measurements :
    ∀ n ∈ [255, 0, 4, 5], let s : State := { State.reset with control := { algs := true }, ev := { n := n } };
      s.control.algs = true ∧ s.ev.n = n ∧ (n ≠ 5 → n ≤ 4 ∨ n = 255) ∧ (n = 5 → 4 < n ∧ n ≠ 255) := by decide +kernel

/-- IncomingRequestsReachTheirHomes: a PTM dialogue 1 ms after the last, and one too early. -/
theorem test_hyp_dialogues :
    let s (d : Nat) : State := { State.reset with fabric := { State.reset.fabric with sinceDialogue := d }, ev := { ptm := some 5 } };
    1000000 ≤ (s 1000000).fabric.sinceDialogue ∧ (s 999999).fabric.sinceDialogue < 1000000 ∧ (s 1000000).ev.ptm = some 5 := by decide +kernel

/-- StepRunsTheDecodedInstruction: an event while a live context has no slice, and one has. -/
theorem test_hyp_policies :
    let s : State := { on .X with ctxs := [(0, { live := true }), (1, { live := true, record := 0x100000 })], agenda := [.event .idleWake {}] };
    s.agenda = .event .idleWake {} :: [] ∧ encode .idleWake = [] ∧ (s.ctx 1).live = true ∧ (¬ ∃ e ∈ s.slices, e.2.ctx = 1) ∧
      s.homeBad none ((s.ctx 1).record / 128) = false ∧ (∃ e ∈ s.slices, e.2.ctx = 0) ∧
      ({ s with agenda := [.append] } : State).agenda = .append :: [] := by
  refine ⟨rfl, rfl, rfl, by decide +kernel, by decide +kernel, ⟨_, List.mem_singleton.mpr rfl, rfl⟩, rfl⟩

/-- A span whose rows read as zero, and soundly. -/
theorem holds_zero {s : State} {a n : Nat} (hs : (s.die 0).tlb = [(0, wide)]) (h1 : 0x100000 ≤ a) (h2 : a + n ≤ 0x300000)
    (h : ∀ i, i < n / 128 + 1 → s.homeRow (some (s.ctx 0).part) (a / 128 + i) = 0 ∧ s.homeBad (some (s.ctx 0).part) (a / 128 + i) = false)
    (ha : a % 128 = 0) : Holds s 0 0 a n 0 := by
  refine ⟨Nat.two_pow_pos _, a, at_wide hs (by decide) h1 h2, fun j hj => ?_⟩
  obtain ⟨hr, hb⟩ := h (j / 128) (by omega)
  have e : (a + j) / 128 = a / 128 + j / 128 := by omega
  rw [State.homeRead, e, hr, hb]
  simp

/-- CodecCommandsArePreparedAndEnd: the record and the store of an open stream can be read, and hold what the engine has put there; a
stream to which another agent has stored; a unit that the engines decode, and one that they do not. -/
theorem test_hyp_codecStream :
    let st : VStream := { ctx := 0, addr := 0x110000, store := 0x120000, size := 256 };
    let d : Decoded := { profile := .high, written := true, blocks := [{ concealed := true }, {}] };
    (∀ z ∈ [0, 1],
      let s := video 0 (.block 0x100000)
        [(0x100000, 0x11), (0x10000A, 0x11), (0x100012, 0x13), (0x100018, 8), (0x100022, 0x14), (0x10002A, 0x16), (0x100032, 0x17), (0x130000, 5)]
        [{ st with image := z }] { out := d };
      (s.engine 0 0).stream 0 0x110000 = some { st with image := z } ∧ Holds s 0 0 0x110000 4096 0 ∧ Holds s 0 0 0x120000 256 0 ∧
        (z = 0 ∨ z = 1)) ∧
    (d.unsupported = false ∧ d.profile ∈ [Profile.high, .constrainedHigh] ∧ d.level ≤ 52 ∧ d.tools = [] ∧ d.need ≤ st.size ∧ d.depth = 8 ∧
      d.form = .c420 ∧ 64 ≤ d.w.toNat ∧ d.w.toNat ≤ 4096 ∧ 64 ≤ d.ht.toNat ∧ d.ht.toNat ≤ 2304) := by
  refine ⟨fun z hz => ⟨?_, holds_zero rfl (by decide) (by decide) ?_ (by decide), holds_zero rfl (by decide) (by decide) ?_ (by decide), by simpa using hz⟩, by decide +kernel⟩
  · revert z; decide +kernel
  · revert z; decide +kernel
  · revert z; decide +kernel

/-- CodecCommandsArePreparedAndEnd: a command of no code in a traced context, a record that no page holds, and commands that end in a
traced and in a recording context. -/
theorem test_hyp_codecElse :
    (let s : State := (video 0 block0.src [(0x100000, 0x13)]).setCtx 0 { live := true, traceEn := true, traceCls := 8 };
      NextCommand (s.setCtx 0 { s.ctx 0 with traceEn := false }) 0 0 block0 ∧ Holds s 0 0 0x100000 64 0x13 ∧ (s.ctx 0).traceCls.getLsbD 3 = true ∧
        (tblGet {} (s.ctx 0).trace (8192 + engineHandle 0 0 * 4) : TraceSrc).recs = []) ∧
    (let s := video 0 block0.src [(0x100000, 0x12)];
      NextCommand s 0 0 block0 ∧ Holds s 0 0 0x100000 64 0x12 ∧ s.engineEntry 0 0 0 .read = none ∧
        ∃ b, s.slice block0.slice = some b ∧ b.handler = false) ∧
    ∀ x ∈ ([{ live := true, traceEn := true, traceCls := 8 }, { live := true, replayMode := 1 }] : List Ctx),
      let k : VCommit := { cmd := block0, code := 0x10, begun := true };
      let s : State := { on .K with dies := [(0, { engines := [(0, { commit := some k })] })], ctxs := [(0, x)] };
      (s.engine 0 s.ev.n).commit = some k ∧ (s.engine 0 s.ev.n).trap = none ∧ k.progress = k.appends.length ∧ s.engineServes k.cmd = true ∧
        k.last = [] ∧ ((s.engine 0 s.ev.n).elements 0).length < 16 ∧ (x.replayMode = 0 ∨ x.traceEn = false) := by
  refine ⟨⟨nextCommand_of (by decide +kernel), holds_wide rfl (by decide +kernel), rfl, rfl⟩,
    ⟨nextCommand_of (by decide +kernel), holds_wide rfl (by decide +kernel), by decide +kernel, ⟨_, rfl, rfl⟩⟩, by decide +kernel⟩

/-- A GSX of two REUSE records: of different tiles in memory, or of one tile in the pool of core 0. -/
def gatheringTwo (stored : Bool) : State :=
  video 8 block0.src
    ([(0x100000, 0x30)] ++ (if stored then [] else [(0x100001, 2)]) ++ [(0x100009, 7), (0x10000A, 0x10), (0x100010, 2), (0x100019, 8), (0x10001A, 0x10)] ++
      (if stored then [(0x100021, 9), (0x100022, 0x10)] else [(0x100022, 0xC)]) ++
      [(0x100028, 2), (0x100029, 0x10), (0x10002B, 1), (0x10002C, 1), (0x10002D, 1), (0x100703, 1), (0x100708, 1), (0x10070B, 1)])

theorem gatheringTwo_tlb (b : Bool) : ((gatheringTwo b).die 0).tlb = [(0, wide)] := rfl

/-- MaskAndGatherCommandsArePrepared: two records, whose second names the second tile. -/
theorem test_hyp_gatherTwo : ∀ b,
    NextCommand (gatheringTwo b) 0 8 block0 ∧
    Holds (gatheringTwo b) 0 0 0x100000 64
      (0x30 + (if b then 0 else 0x200) + 0x100700 * 2 ^ 64 + 2 * 2 ^ 128 + 0x100800 * 2 ^ 192 + (if b then 0x100900 else 0xC0000) * 2 ^ 256 + 0x10101001002 * 2 ^ 320) ∧
    Holds (gatheringTwo b) 0 0 0x100700 16 (0x1000000 + 0x1000001 * 2 ^ 64) ∧ Holds (gatheringTwo b) 0 0 0x100800 256 0 ∧
    ∀ i, i < 256 → roleOf ((gatheringTwo b).core 0).roles ((0xC0000 + i) / 2 ^ 16) = 5 := by
  intro b
  refine ⟨nextCommand_of ?_, holds_wide (gatheringTwo_tlb _) ?_, holds_wide (gatheringTwo_tlb _) ?_,
    holds_zero (gatheringTwo_tlb _) (by decide) (by decide) ?_ (by decide), ?_⟩ <;> revert b <;> decide +kernel

/-- MaskAndGatherCommandsArePrepared: a layer record that is ill formed. -/
theorem test_hyp_layerIll :
    NextCommand (video 4 (.rfshLayer 0x100100) [(0x100138, 1)]) 0 4 { ctx := 0, core := 0, slice := 0, seq := 0, src := .rfshLayer 0x100100, scope := none } ∧
      Holds (video 4 (.rfshLayer 0x100100) [(0x100138, 1)]) 0 0 0x100100 64 (2 ^ 448) ∧
      parseLayer ((List.range 8).map fun i => 2 ^ 448 / 2 ^ (64 * i) % 2 ^ 64) = none :=
  ⟨nextCommand_of (by decide +kernel), holds_wide rfl (by decide +kernel), Option.isNone_iff_eq_none.mp (by decide +kernel)⟩


end Sys2Proof.Tests

end
end

section
/-! PROOF of O57. Memory is written at two places, `State.l2Evict` and `State.homePut`, and there through `memWriteMasked`, which keeps
its form (`memWriteMasked_wf`); a reset empties it. What remains is that every function between them and `step` keeps the form too:
one lemma for each, `Canon.f` for a function `f` of states and `Keeps.op` for an operation `op`, in the order of the model, each by the
lemmas of the functions that it calls. -/

namespace Sys2Proof.Machine

/-! ### The invariant and the shapes of outcomes that it speaks of -/

/-- DEV memory is in its canonical form. -/
def Canon (s : State) : Prop := Memory.wf s.mem

/-- The state that an outcome of an operation leaves has canonical memory. -/
def CanonRes {α : Type} : Res α → Prop
  | .ok s _ | .trap s _ | .wait s _ _ | .req s _ | .pause s => Canon s

/-- An operation leaves canonical memory canonical, however it ends. -/
def Keeps {α : Type} (m : Op α) : Prop := ∀ s, Canon s → CanonRes (m s)

/-- The next state, where a step answers one, has canonical memory. -/
def CanonNext : Host.Outcome State Fault Refusal → Prop
  | .next t => Canon t
  | _ => True

section
variable {s : State} {d key row mask v n core x : Nat} {p : Option Nat} {k : StreamId}

theorem Canon.ite {a b : State} {c : Prop} [Decidable c] (ha : Canon a) (hb : Canon b) : Canon (if c then a else b) := by
  split
  · exact ha
  · exact hb

theorem CanonNext.ite {r r' : Host.Outcome State Fault Refusal} {c : Prop} [Decidable c] (hr : CanonNext r) (hr' : CanonNext r') :
    CanonNext (if c then r else r') := by
  split
  · exact hr
  · exact hr'

/-- A fold keeps what each of its steps keeps. -/
theorem Canon.foldl {α : Type} {f : State → α → State} {l : List α} (h : Canon s) (hf : ∀ t a, Canon t → Canon (f t a)) :
    Canon (l.foldl f s) := by
  induction l generalizing s with
  | nil => exact h
  | cons a l ih => exact ih (hf s a h)

/-! ### Writes of state tables, which hold no memory -/

theorem Canon.setCore {c : Core} (h : Canon s) : Canon (s.setCore n c) := h
theorem Canon.setStream {st : Stream} (h : Canon s) : Canon (s.setStream core k st) := h
theorem Canon.setMatrix {m : Matrix} (h : Canon s) : Canon (s.setMatrix core m) := h
theorem Canon.setSt {st : Stream} (h : Canon s) : Canon (s.setSt st) := h
theorem Canon.wx {r : Reg} {v : W64} (h : Canon s) : Canon (s.wx r v) := h
theorem Canon.setCluster {c : Cluster} (h : Canon s) : Canon (s.setCluster n c) := h
theorem Canon.setCur {c : Core} (h : Canon s) : Canon (s.setCur c) := h
theorem Canon.setCtx {c : Ctx} (h : Canon s) : Canon (s.setCtx x c) := h
theorem Canon.setPart {c : Part} (h : Canon s) : Canon (s.setPart n c) := h

/-! ### Homes -/

theorem Canon.l2Evict (h : Canon s) : Canon (s.l2Evict d key) := by
  unfold State.l2Evict
  grind -ring -linarith [Canon, State.setDie_mem, State.monitorEvent, memWriteMasked_wf]

theorem Canon.l2EvictAll {f : Nat → Bool} (h : Canon s) : Canon (s.l2EvictAll d f) :=
  Canon.foldl h fun _ _ h => h.l2Evict

theorem Canon.l2Room (h : Canon s) : Canon (s.l2Room d) := by
  unfold State.l2Room
  grind -ring -linarith [Canon, Canon.l2Evict]

theorem Canon.homePut (h : Canon s) : Canon (s.homePut p row v mask) := by
  unfold State.homePut
  grind -ring -linarith [Canon, State.setDie_mem, State.monitorEvent, State.frameWritten, memWriteMasked_wf, Canon.l2Room]

theorem Canon.spoilSpills {own : Option (Nat × Nat)} (h : Canon s) : Canon (s.spoilSpills own row mask) :=
  Canon.foldl h fun _ _ h => Canon.foldl h fun _ _ h => .ite h h

theorem Canon.homeWrite (h : Canon s) : Canon (s.homeWrite p row v mask) := .ite h h.homePut.spoilSpills

theorem Canon.homeStore {pa len : Nat} (h : Canon s) : Canon (s.homeStore p pa len v) := h.homeWrite

theorem Canon.homeAtomic {pa op cmp old : Nat} (h : Canon s) : Canon (s.homeAtomic p pa n op v cmp old) := by
  unfold State.homeAtomic
  split
  · exact h.homeStore
  · exact h

/-! ### The L1 data cache -/

theorem Canon.wayClean (h : Canon s) : Canon (s.wayClean core row) := by
  unfold State.wayClean
  grind -ring -linarith [Canon, State.setCore_mem, Canon.homeWrite]

theorem Canon.wayDrop (h : Canon s) : Canon (s.wayDrop core row) := h

theorem Canon.wayTouch (h : Canon s) : Canon (s.wayTouch core row) := by
  unfold State.wayTouch
  grind -ring -linarith [Canon, State.setCore_mem, Canon.wayClean, Canon.wayDrop]

theorem Canon.coreRow (h : Canon s) : Canon (s.coreRow core row).1 := by
  unfold State.coreRow
  grind -ring -linarith [Canon, Canon.wayTouch]

theorem Canon.coreWrite (h : Canon s) : Canon (s.coreWrite core row v mask) := by
  unfold State.coreWrite
  grind -ring -linarith [Canon, State.setCore_mem, Canon.homeWrite, Canon.wayTouch]

theorem Canon.wayEvict (h : Canon s) : Canon (s.wayEvict core row) := h.wayClean.wayDrop

/-! ### What the device appends to rings in memory -/

theorem Canon.send {peer : Bool} {o : PortOp} (h : Canon s) : Canon (s.send peer o) := .ite h h

theorem Canon.devWrite {space : Option (Nat × Nat)} {a : Nat} {words : List Nat} (h : Canon s) :
    ∀ t, s.devWrite space p a words = some t → Canon t := by
  fun_induction State.devWrite s space p a words with
  | case1 s a => rintro t ⟨⟩; exact h
  | case2 s a w rest pa _ ih => exact ih h.homeStore
  | case3 s a w rest peer bus _ ih => exact ih h.send
  | case4 s a w rest _ => exact fun _ ht => nomatch ht

theorem Canon.devAppend {space : Option (Nat × Nat)} {desc z : Nat} {words : List Nat} (h : Canon s) :
    ∀ t, s.devAppend space p desc z words = some t → Canon t := by
  intro t ht
  unfold State.devAppend at ht
  split at ht
  · cases ht
  · split at ht
    · cases ht
    · split at ht
      · cases ht
      · next u hu => exact (h.devWrite u hu).devWrite t ht

theorem Canon.notify {part vec : Nat} (h : Canon s) : Canon (s.notify part vec v) := .ite h h

theorem Canon.notifyHost {vec : Nat} (h : Canon s) : Canon (s.notifyHost vec) := .ite h h

theorem Canon.endAppend {a : DevAppend} (h : Canon s) : Canon (s.endAppend a) := by
  unfold State.endAppend
  grind -ring -linarith [Canon, State.setPart_mem, State.setCtx_mem, Canon.devAppend, Canon.notify, Canon.notifyHost, Canon.homeStore]

theorem Canon.deviceAppend {a : DevAppend} (h : Canon s) : Canon (s.deviceAppend a) := .ite h h.endAppend

theorem Canon.serveAppend (h : Canon s) : Canon s.serveAppend := by
  unfold State.serveAppend
  grind -ring -linarith [Canon, Canon.endAppend]

theorem Canon.mailbox {part : Nat} {words : List Nat} (h : Canon s) : Canon (s.mailbox part words) := .ite h h.deviceAppend

theorem Canon.poisonRecord {ctx stream va pa : Nat} (h : Canon s) : Canon (s.poisonRecord ctx core stream va pa) := h.mailbox

/-! ### What lands later -/

theorem Canon.landAmon {va pa op : Nat} (h : Canon s) : Canon (s.landAmon core k va pa n op v) := by
  unfold State.landAmon
  grind -ring -linarith [Canon, State.setStream_mem, Canon.homeAtomic, Canon.poisonRecord]

theorem Canon.land (h : Canon s) : Canon (s.land core n) := by
  unfold State.land
  split
  · exact h
  · dsimp only
    split
    · exact h
    · exact Canon.landAmon h

theorem Canon.landIf {f : Pending → Bool} (h : Canon s) : Canon (s.landIf f core n) := by
  fun_induction State.landIf f core n s with
  | case1 => exact h
  | case2 => exact h
  | case3 s n i _ ih => exact ih h.land

theorem Canon.landAll (h : Canon s) : Canon (s.landAll core) := h.landIf
theorem Canon.landSr (h : Canon s) : Canon (s.landSr core k) := .ite h h.landIf
theorem Canon.landReg (h : Canon s) : Canon (s.landReg core n) := .ite h h.landIf
theorem Canon.landOwn (h : Canon s) : Canon (s.landOwn n) := .ite h h.landIf
theorem Canon.landLive (h : Canon s) : Canon (s.landLive core) := h.landReg
theorem Canon.landRow (h : Canon s) : Canon (s.landRow core row) := .ite h h.landIf
theorem Canon.landAmons (h : Canon s) : Canon (s.landAmons core) := .ite h h.landIf

/-! ### Traces, replay logs and the end of a slice -/

theorem Canon.traceFlush {key : Nat} (h : Canon s) : Canon (s.traceFlush x key) := by
  unfold State.traceFlush
  grind -ring -linarith [Canon, State.setCtx_mem, Canon.deviceAppend]

theorem Canon.traceRec {cls ty pay : Nat} (h : Canon s) : Canon (s.traceRec x key cls ty pay) :=
  .ite h (.ite (.traceFlush (.ite h.traceFlush h)) (.ite h.traceFlush h))

theorem Canon.traceFlushAll (h : Canon s) : Canon (s.traceFlushAll x) := Canon.foldl h fun _ _ h => h.traceFlush

theorem Canon.replayLog {ty who stream piece pos data : Nat} (h : Canon s) :
    Canon (s.replayLog x ty who stream piece pos data) := .ite h h.deviceAppend

theorem Canon.replayEnd {source : Nat × Nat} (h : Canon s) : Canon (s.replayEnd x source) := Canon.traceRec h

theorem Canon.replayDrop {r : W64 × W64} (h : Canon s) : Canon (s.replayDrop x r) := .ite h.replayEnd h

theorem Canon.replayUse {ty who stream : Nat} (h : Canon s) : Canon (s.replayUse x ty who stream) := by
  unfold State.replayUse
  split
  · exact h
  · exact h.replayDrop

theorem Canon.releaseCurrent {cur : Tbl Nat} {cores : List Nat} (h : Canon s) : Canon (s.releaseCurrent cur cores) :=
  Canon.foldl (Canon.foldl h fun _ _ h => h) fun _ _ h => .ite h h

theorem Canon.completionRecord {hdr queue cycles restarts tend : Nat} {resid late ext killed bad dfail : Bool} (h : Canon s) :
    Canon (s.completionRecord x hdr queue core cycles restarts tend resid late ext killed bad dfail) := h.deviceAppend

theorem Canon.wayCleanAll (h : Canon s) : Canon (s.wayCleanAll core) := Canon.foldl h.landAll fun _ _ h => h.wayClean

theorem Canon.coreFreed {part : Nat} (h : Canon s) : Canon (s.coreFreed part) := h

theorem Canon.freeSlice {mode : StreamMode} (h : Canon s) : Canon (s.freeSlice n mode) := by
  unfold State.freeSlice
  split
  · exact h
  · exact Canon.releaseCurrent (Canon.foldl h fun _ _ h => h)

theorem Canon.dropCommands {all : Bool} {keep : VCmd → Bool} (h : Canon s) : Canon (s.dropCommands all keep) := h

theorem Canon.takeBalance {hdr : Header} {cores : List Nat} (h : Canon s) : Canon (s.takeBalance hdr cores) :=
  Canon.foldl (Canon.foldl h fun _ _ h => h) fun _ _ h => h

theorem Canon.giveBalance {hdr : Header} {cores : List Nat} (h : Canon s) : Canon (s.giveBalance hdr cores) :=
  Canon.foldl (Canon.foldl h fun _ _ h => h) fun _ _ h => h

theorem Canon.dropGrants {die slot : Nat} {cores : List Nat} (h : Canon s) : Canon (s.dropGrants die slot cores) :=
  Canon.foldl h fun _ _ h => h

theorem Canon.releaseGrants {die slot : Nat} {cores : List Nat} (h : Canon s) : Canon (s.releaseGrants die slot cores) := by
  unfold State.releaseGrants
  dsimp only
  split
  · exact h.dropGrants
  · exact h.dropGrants

theorem Canon.withdraw {die slot : Nat} (h : Canon s) : Canon (s.withdraw die slot) := by
  unfold State.withdraw
  split
  · exact h
  · exact Canon.ite h.giveBalance.releaseGrants h

theorem Canon.withdrawAll {f : Nat → Bool} (h : Canon s) : Canon (s.withdrawAll f) :=
  Canon.foldl h fun _ _ h => Canon.foldl h fun _ _ h => .ite h.withdraw h

theorem Canon.endStopAt {v : Slice} (h : Canon s) : Canon (s.endStopAt x v) := .ite h h

theorem Canon.killContext (h : Canon s) : Canon (s.killContext x) := by
  refine Canon.foldl (Canon.withdrawAll h) fun s n h => ?_
  dsimp only
  split
  · exact h
  · exact Canon.freeSlice (.endStopAt (.ite (.foldl h fun _ _ h => h.wayCleanAll)
      (.completionRecord (.foldl h fun _ _ h => h.wayCleanAll))))

/-! ### Waits, traps and the halt line -/

theorem Canon.leaveSems (h : Canon s) : Canon (s.leaveSems core k) := .ite (.ite h h) (.ite h h)

theorem Canon.handlerFault {stream : Nat} {t : Trap} (h : Canon s) : Canon (s.handlerFault x core stream t) := by
  unfold State.handlerFault
  dsimp only
  split <;> exact h.mailbox.notify.killContext

theorem Canon.raiseHalt {who : CauseBy} {t : Trap} (h : Canon s) : Canon (s.raiseHalt x who t) := by
  unfold State.raiseHalt
  dsimp only
  split
  · exact .ite h h
  · exact h
  · exact h

theorem Canon.raiseTrap {t : Trap} (h : Canon s) : Canon (s.raiseTrap core k t) := by
  unfold State.raiseTrap
  dsimp only
  split
  · exact .ite (.handlerFault (.leaveSems h)) (.raiseHalt (.leaveSems h))
  · exact .leaveSems h

theorem Canon.raiseLate {t : Trap} (h : Canon s) : Canon (s.raiseLate core k t) := Canon.raiseHalt h
theorem Canon.trapCur {t : Trap} (h : Canon s) : Canon (s.trapCur t) := h.raiseTrap
theorem Canon.trapLate {t : Trap} (h : Canon s) : Canon (s.trapLate t) := Canon.trapCur h

/-! ### Fetch groups and checkpoints -/

theorem Canon.traceDetach {cores : List Nat} {release : Bool} (h : Canon s) : Canon (s.traceDetach cores k release) := by
  unfold State.traceDetach
  split
  · exact h
  · exact h.traceRec

theorem Canon.detachOne {release : Bool} (h : Canon s) : Canon (s.detachOne core k release) := .ite h h
theorem Canon.detach {release : Bool} (h : Canon s) : Canon (s.detach core k release) := .ite h.detachOne.traceDetach h

theorem Canon.resolveTransfer {pc : PcWord} (h : Canon s) : Canon (s.resolveTransfer pc) := by
  unfold State.resolveTransfer
  dsimp only
  split
  · exact h
  · split
    · exact h
    · exact .ite h (Canon.detach h)

theorem Canon.checkpoint (h : Canon s) : Canon s.checkpoint.1 := by
  unfold State.checkpoint
  grind -ring -linarith [Canon, Canon.replayLog, Canon.replayUse, Canon.mailbox, Canon.traceRec]

/-! ### Issue and retirement -/

section
variable {hd : Head} {f : Form} {pc : PcWord} {α : Type}

theorem Canon.issueHead (h : Canon s) : Canon (s.issueHead hd f) := h

theorem Canon.pushHead (h : Canon s) : Canon (s.pushHead hd n) := by
  unfold State.pushHead
  split
  · exact h
  · exact h.landSr

theorem Canon.retire {transfer : Bool} (h : Canon s) : Canon (s.retire hd n pc transfer) :=
  Canon.ite (Canon.pushHead (.ite h.resolveTransfer h)) (Canon.pushHead (.ite h.resolveTransfer h))

theorem Canon.gangYield (h : Canon s) : Canon s.gangYield := by
  unfold State.gangYield
  split
  · exact .ite (Canon.releaseCurrent h) h
  · exact h

theorem Canon.retireLast (h : Canon s) : Canon (s.retireLast hd n) := Canon.gangYield h.pushHead
theorem Canon.traceWaitOf (h : Canon s) : Canon (s.traceWaitOf core k) := .ite h h.traceRec
theorem Canon.traceWait (h : Canon s) : Canon s.traceWait := h.traceWaitOf
theorem Canon.setClassOf (h : Canon s) : Canon (s.setClassOf core k n) := .ite h h.traceWaitOf
theorem Canon.setClass (h : Canon s) : Canon (s.setClass n) := h.setClassOf

theorem Canon.waitHead {w : WaitKind} (h : Canon s) : Canon (s.waitHead w n) :=
  .ite (Canon.trapCur (.setClass h)) (.setClass h)

theorem Canon.sendOne {o : Outbound} (h : Canon s) : Canon (s.sendOne o) := .ite h h.send
theorem Canon.sendHead {os : List Outbound} (h : Canon s) : Canon (s.sendHead os) :=
  Canon.waitHead (.foldl h fun _ _ h => h.sendOne)

theorem Keeps.attempt {m : Op α} (hm : Keeps m) : Keeps (Op.attempt m) := fun _ h => hm _ h

theorem Canon.finishHead {eff : Op Flow} (h : Canon s) (he : Keeps eff) : Canon (s.finishHead hd f eff) := by
  have ha := he.attempt s h
  unfold State.finishHead
  generalize Op.attempt eff s = r at ha
  rcases r with ⟨t, flow⟩ | ⟨t, trap⟩ | ⟨t, w, limit⟩ | ⟨t, os⟩ | t
  · cases flow with
    | next =>
      dsimp only
      split
      · exact (Canon.traceWait (.ite (Canon.resolveTransfer ha) ha)).retire
      · exact h.trapCur
    | jump pc => exact .ite h.trapCur (Canon.traceWait ha).retire
    | last =>
      dsimp only
      split
      · exact h.trapLate
      · exact (Canon.traceWait ha).retireLast
    | stay => exact ha
  · exact Canon.trapCur ha
  · exact Canon.waitHead ha
  · exact Canon.sendHead ha
  · exact ha

theorem Canon.captureHead {cap : Op α} (h : Canon s) (hc : Keeps cap) : Canon (s.captureHead cap) := by
  have ha := hc.attempt s h
  unfold State.captureHead
  generalize Op.attempt cap s = r at ha
  rcases r with ⟨t, flow⟩ | ⟨t, trap⟩ | ⟨t, w, limit⟩ | ⟨t, os⟩ | t
  · exact ha
  · exact Canon.trapCur ha
  · exact Canon.waitHead ha
  · exact Canon.sendHead ha
  · exact ha

theorem Canon.expandDone (h : Canon s) : Canon s.expandDone := h.traceWait

/-! ### Operations -/

theorem Keeps.pure {a : α} : Keeps (opPure a) := fun _ h => h

theorem Keeps.bind {β : Type} {m : Op α} {g : α → Op β} (hm : Keeps m) (hg : ∀ a, Keeps (g a)) : Keeps (opBind m g) := by
  intro s h
  have hs := hm s h
  unfold opBind
  generalize m s = r at hs
  cases r with
  | ok t a => exact hg a t hs
  | trap | wait | req | pause => exact hs

theorem CanonRes.bind {β : Type} {m : Op α} {g : α → Op β} (h : Canon s) (hm : Keeps m) (hg : ∀ a, Keeps (g a)) :
    CanonRes (opBind m g s) := hm.bind hg s h

theorem CanonRes.ite {r r' : Res α} {c : Prop} [Decidable c] (hr : CanonRes r) (hr' : CanonRes r') :
    CanonRes (if c then r else r') := by
  split
  · exact hr
  · exact hr'

theorem Canon.runExpanded {hold : State → Option (WaitKind × Nat)} {cap : Op α} {eff : α → Op Flow} (h : Canon s) (hc : Keeps cap)
    (he : ∀ a, Keeps (eff a)) : Canon (s.runExpanded hd f hold cap eff) := by
  unfold State.runExpanded
  split
  · exact h.waitHead
  · extract_lets _ t idle
    have ht : Canon t := .ite h h
    refine .ite (.ite ht (ht.captureHead hc)) (.ite ht.expandDone ?_)
    have ha := (hc.bind he).attempt t ht
    generalize Op.attempt (opBind cap eff) t = r at ha
    cases r with
    | ok => exact Canon.expandDone ha
    | trap => exact Canon.trapCur ha
    | wait => exact Canon.waitHead ha
    | req => exact Canon.sendHead ha
    | pause => exact ha

theorem Canon.hostStopAt (h : Canon s) : Canon (s.hostStopAt core k) := Canon.raiseHalt h

theorem Canon.runForm {hold : State → Option (WaitKind × Nat)} {cap : Op α} {eff : α → Op Flow} (h : Canon s) (hc : Keeps cap)
    (he : ∀ a, Keeps (eff a)) : CanonNext (runForm hd f hold cap eff s) := by
  unfold Machine.runForm
  extract_lets t idle go
  have ht : Canon t := .ite h h
  have hgo : ∀ u, Canon u → Canon (go u) := by
    intro u hu
    refine .ite (.ite hu (hu.captureHead hc)) ?_
    split
    · split
      · exact (Canon.traceWait (.ite hu.resolveTransfer hu)).retire
      · exact hu.trapCur
    · exact hu.finishHead (hc.bind he)
  have hcp : Canon (if t.st.skipping then (t, none) else t.checkpoint : State × Option Trap).1 := by
    split
    · exact ht
    · exact ht.checkpoint
  split
  · exact ht.runExpanded hc he
  split
  · exact ht
  split
  · exact hgo t ht
  split
  · exact ht.hostStopAt
  split
  · exact ht.trapLate
  split
  · exact ht.waitHead
  split
  · exact ht.waitHead
  generalize (if t.st.skipping then (t, none) else t.checkpoint : State × Option Trap) = c at hcp
  obtain ⟨u, bad⟩ := c
  dsimp only
  split
  · exact Canon.trapCur hcp
  · exact hgo _ (Canon.setClass hcp).issueHead

theorem Canon.runTok {eff : Op Flow} (h : Canon s) (he : Keeps eff) : CanonNext (runTok hd f eff s) := h.runForm .pure fun _ => he
theorem Canon.runHead {eff : Op Flow} (h : Canon s) (he : Keeps eff) : CanonNext (runHead hd eff s) := h.runTok he
theorem Canon.runNow {eff : Op Flow} (h : Canon s) (he : Keeps eff) : CanonNext (runNow hd eff s) := h.runTok he
theorem Canon.runBranch {eff : Op Flow} (h : Canon s) (he : Keeps eff) : CanonNext (runBranch hd eff s) := h.runTok he
theorem Canon.runAccess {eff : Op Flow} (h : Canon s) (he : Keeps eff) : CanonNext (runAccess hd eff s) := h.runTok he
theorem Canon.runLanes {eff : Op Flow} (h : Canon s) (he : Keeps eff) : CanonNext (runLanes hd eff s) := h.runTok he
theorem Canon.runCapture {cap : Op α} {eff : α → Op Flow} (h : Canon s) (hc : Keeps cap) (he : ∀ a, Keeps (eff a)) :
    CanonNext (runCapture hd cap eff s) := h.runForm hc he

/-! ### Combinators of operations -/

theorem Keeps.ite {m m' : Op α} {c : Prop} [Decidable c] (hm : Keeps m) (hm' : Keeps m') : Keeps (if c then m else m') := by
  split
  · exact hm
  · exact hm'

theorem Keeps.effect {g : State → State} (hg : ∀ s, Canon s → Canon (g s)) : Keeps (effect g) := hg
theorem Keeps.mod {g : State → State} (hg : ∀ s, Canon s → Canon (g s)) : Keeps (opMod g) := hg
theorem Keeps.get {g : State → α} : Keeps (opGet g) := fun _ h => h
theorem Keeps.trap {t : Trap} : Keeps (opTrap t : Op α) := fun _ h => h

theorem Keeps.each {g : α → Op Unit} {l : List α} (hg : ∀ a, Keeps (g a)) : Keeps (opEach g l) := by
  induction l with
  | nil => exact .pure
  | cons a l ih => exact .bind (hg a) fun _ => ih

theorem Keeps.map {β : Type} {g : α → Op β} {l : List α} (hg : ∀ a, Keeps (g a)) : Keeps (opMap g l) := by
  induction l with
  | nil => exact .pure
  | cons a l ih => exact .bind (hg a) fun _ => .bind ih fun _ => .pure

theorem Keeps.step {m : Op Nat} (hm : Keeps m) : Keeps (opStep m) := by
  intro s h
  unfold opStep
  dsimp only
  split
  · exact h
  · have hs := hm s h
    generalize m s = r at hs
    cases r with
    | ok | trap | wait | req | pause => exact hs

theorem Keeps.once {g : State → State} (hg : ∀ s, Canon s → Canon (g s)) : Keeps (opOnce g) := .bind (.step hg) fun _ => .pure

theorem Keeps.part {m : Op Note} {j : Nat} (hm : Keeps m) : Keeps (opPart j m) := by
  intro s h
  unfold opPart
  dsimp only
  split
  · exact h
  · have hs := hm s h
    generalize m s = r at hs
    cases r with
    | ok | trap | wait | req | pause => exact hs

theorem Keeps.access {m : Op Nat} (hm : Keeps m) : Keeps (opAccess m) := by
  intro s h
  unfold opAccess
  split
  · exact hm.step s h
  · exact h

theorem Keeps.groupRun {l : List (Op Nat)} (hl : ∀ m ∈ l, Keeps m) : Keeps (opGroupRun l) := by
  induction l with
  | nil => exact .pure
  | cons m l ih =>
    have hr := ih fun b hb => hl b (by simp [hb])
    have hskip := hr.bind fun _ => (Keeps.pure : Keeps (opPure false))
    intro s h
    unfold opGroupRun
    dsimp only
    split
    · have hs := (hl m (by simp)).step s h
      generalize opStep m s = r at hs
      cases r with
      | ok t => exact hr t hs
      | pause t => exact hskip _ hs
      | trap | wait | req => exact hs
    · exact hskip _ h

theorem Keeps.group {l : List (Op Nat)} (hl : ∀ m ∈ l, Keeps m) : Keeps (opGroup l) := by
  intro s h
  have hs := Keeps.groupRun hl s h
  unfold opGroup
  generalize opGroupRun l s = r at hs
  cases r with
  | ok t b => cases b <;> exact hs
  | trap | wait | req | pause => exact hs

theorem Keeps.groupMap {g : α → Op Nat} {l : List α} (hg : ∀ a, Keeps (g a)) : Keeps (opGroup (l.map g)) :=
  .group (List.forall_mem_map.2 fun a _ => hg a)

theorem Keeps.firmly {m : Op α} (hm : Keeps m) : Keeps (firmly m) := by
  intro s h
  have hs := hm s h
  unfold Machine.firmly
  generalize m s = r at hs
  cases r with
  | ok | trap | wait | req | pause => exact hs

theorem Keeps.noValue {m : Op Unit} (hm : Keeps m) : Keeps (noValue m) := .bind hm fun _ => .pure
theorem Keeps.unitOf {m : Op Nat} (hm : Keeps m) : Keeps (unitOf m) := .bind hm fun _ => .pure

end

/-! ### Accesses of one unit -/

section
variable {va pa len : Nat} {a : Access} {o : Outbound}

theorem Keeps.uncorrectable : Keeps (uncorrectable va pa a) := by
  intro s h
  unfold Machine.uncorrectable
  split
  · exact Canon.poisonRecord h
  · exact h

theorem Keeps.awaitOut : Keeps (awaitOut o) := by
  intro s h
  unfold Machine.awaitOut
  split <;> exact h

theorem Canon.hostPieces {l : List Nat} (h : Canon s) : Canon (s.hostPieces v l).1 := by
  induction l generalizing s with
  | nil => exact h
  | cons i l ih =>
    unfold State.hostPieces
    grind -ring -linarith [Canon, Canon.replayUse, Canon.replayLog]

theorem Keeps.opHostData : Keeps (opHostData len v) := by
  intro s h
  have hp : Canon (s.hostPieces v (List.range (ceilDiv len 8))).1 := h.hostPieces
  unfold Machine.opHostData
  generalize s.hostPieces v (List.range (ceilDiv len 8)) = p at hp
  exact hp

theorem Keeps.opEntry : Keeps (opEntry va len a) := by
  refine .bind (.part fun s h => ?_) fun v s h => ?_
  · split <;> exact h
  · split <;> exact h

theorem Keeps.readUnit : Keeps (readUnit va len) := by
  refine .bind .opEntry fun e s h => .ite ?_ (.bind h .awaitOut fun c => ?_)
  · exact .ite (Keeps.uncorrectable _ h.landRow.coreRow) h.landRow.coreRow
  · split
    · exact .opHostData
    · exact .uncorrectable

theorem Canon.post {peer : Bool} {bus : Nat} (h : Canon s) : Canon (s.post peer bus len v) :=
  .ite h.send h.send

theorem Keeps.writeUnit : Keeps (writeUnit va len v) := .bind .opEntry fun _ _ h => .ite h.landRow.coreWrite h.post

end
end
end Sys2Proof.Machine
end

section
namespace Sys2Proof.Machine

/-! ### Fetching, scopes and special registers -/

section
variable {s : State} {n core x : Nat} {k : StreamId} {v : W64} {e : ScopeEntry} {rd ra : Reg}

theorem Canon.trapFetch {t : Trap} (h : Canon s) : Canon (s.trapFetch t) := Canon.trapCur h

theorem Keeps.captureScope : Keeps (captureScope n) := by
  intro s h
  unfold Machine.captureScope
  exact .ite h h

theorem Keeps.flushPosted : Keeps flushPosted := by
  refine .bind (.step fun _ h => h) fun host => .bind (.step fun _ h => h) fun peer => .unitOf (.step fun s h => ?_)
  exact .ite h (.bind h (.each fun _ => .unitOf .uncorrectable) fun _ _ h => h)

theorem Keeps.releasePart : Keeps (releasePart n e) :=
  .bind (.once fun _ h => .ite (.foldl h.landAmons fun _ _ h => h.wayClean) h.landAmons) fun _ => .ite .flushPosted .pure

theorem Canon.acquireScope (h : Canon s) : Canon (s.acquireScope n e) := .ite (.foldl h fun _ _ h => h.wayEvict) h

theorem Keeps.acquirePart : Keeps (acquirePart n e) := fun _ h => h.acquireScope
theorem Keeps.releaseFixed : Keeps (releaseFixed n) := fun s h => Keeps.releasePart s h
theorem Keeps.acquireFixed : Keeps (acquireFixed n) := fun s h => Keeps.acquirePart s h

theorem Canon.startInval (h : Canon s) : Canon (s.startInval x v) := .ite h h

theorem Canon.writeSr (h : Canon s) : Canon (s.writeSr n core k v) := by
  unfold State.writeSr
  dsimp only
  split <;> exact h

theorem Keeps.opPredBits {p : PReg} {mask val : Nat} : Keeps (opPredBits p mask val) := by
  intro s h
  exact .ite h (Canon.ite h h)

theorem Keeps.effMfs {sr : BitVec 12} : Keeps (effMfs rd sr) := by
  intro s h
  unfold Machine.effMfs
  refine .ite h ?_
  split
  · exact h
  · exact Canon.ite h h

theorem Canon.lateWrite (h : Canon s) : Canon (s.lateWrite n v) :=
  .ite h.landOwn h.landOwn

theorem Canon.writeOwnSr (h : Canon s) : Canon (s.writeOwnSr n v) := .ite h.lateWrite h.writeSr

theorem Keeps.effMts {sr : BitVec 12} : Keeps (effMts ra sr) := by
  intro s h
  refine .ite h (.ite (.bind h .releaseFixed fun _ _ h => h.startInval) (.ite h ?_))
  split
  · exact h
  · exact .ite h.writeSr (.ite (.bind h .opPredBits fun _ => .pure) h.writeOwnSr)
end

/-! ### Scalar instructions -/

section
variable {rd ra rb : Reg} {disp : BitVec 27} {slot : BitVec 3} {pc : PcWord}

theorem Keeps.opTarget : Keeps (opTarget disp slot) := by
  intro s h
  unfold Machine.opTarget
  split
  · exact h
  · split <;> exact h

theorem Keeps.opLink : Keeps opLink := by
  intro s h
  unfold Machine.opLink
  split <;> exact h

theorem Keeps.effBranch {taken : State → Bool} {g : State → State} (hg : ∀ s, Canon s → Canon (g s)) :
    Keeps (effBranch taken disp slot g) := fun s h => .ite (.bind h .opTarget fun _ => hg) (hg s h)

theorem Keeps.effLink {target : Op PcWord} (ht : Keeps target) : Keeps (effLink target rd) :=
  .bind .opLink fun _ => .bind ht fun _ _ h => h

theorem Keeps.opJumpTarget : Keeps (opJumpTarget ra) := fun _ h => .ite h (.ite h h)

theorem Keeps.effYield : Keeps effYield := fun _ h => .ite h (.bind h .releaseFixed fun _ _ h => Canon.ite h h)

theorem Keeps.effTret {a : TretAction} : Keeps (effTret a) := fun _ h => .ite h (.bind h .releaseFixed fun _ _ h => h)
end

/-! ### Semaphores -/

section
variable {get : State → Sem} {set : State → Sem → State} {rd ra : Reg} {n : Nat}

/-- A write of a semaphore leaves canonical memory canonical. -/
def SetKeeps (set : State → Sem → State) : Prop := ∀ s v, Canon s → Canon (set s v)

theorem putSem_keeps : SetKeeps (putSem n) := fun _ _ h => h
theorem putXsem_keeps : SetKeeps (putXsem n) := fun _ _ h => h

theorem Keeps.effSemWait {w : WaitKind} {limit : Nat} (hs : SetKeeps set) : Keeps (effSemWait get set w rd limit n) := by
  intro s h
  unfold Machine.effSemWait
  dsimp only
  split <;> exact hs _ _ h

theorem Keeps.effSemTry (hs : SetKeeps set) : Keeps (effSemTry get set rd n) := fun _ h => hs _ _ h

theorem Keeps.effSemSignal {num : Nat} (hs : SetKeeps set) : Keeps (effSemSignal get set num rd n) := by
  intro s h
  unfold Machine.effSemSignal
  split
  · exact h
  · exact hs _ _ h.landSr

theorem Keeps.effSemInit (hs : SetKeeps set) : Keeps (effSemInit get set rd ra) := by
  intro s h
  exact .ite h (hs _ _ h.landSr)
end

/-! ### The cluster front end -/

section
variable {s : State} {i n core limit level : Nat} {k : StreamId} {rd ra : Reg} {e : ScopeEntry}

theorem Canon.completeHead {g : State → State} (h : Canon s) (hg : ∀ s, Canon s → Canon (g s)) :
    Canon (s.completeHead core k g) := by
  unfold State.completeHead
  extract_lets o r
  have hr : Canon r := by
    unfold r
    split
    · exact (hg o h).traceWait.retire
    · exact Canon.trapCur h
  exact hr

theorem Canon.execDriftRelease (h : Canon s) : CanonNext (execDriftRelease s) := by
  unfold Machine.execDriftRelease
  dsimp only
  split
  · exact h
  · exact Canon.traceDetach (.foldl h fun _ _ h => h.detachOne)

theorem Keeps.effJoinOpen : Keeps (effJoinOpen rd n) := by
  refine .effect fun s h => ?_
  dsimp only
  split
  · exact h
  · exact .ite h h

theorem Canon.attachAt {path : Option PcWord} (h : Canon s) : Canon (s.attachAt n path) := .ite h (Canon.detach h)

theorem Canon.completeJoin {j : JoinEntry} {members : List Nat} (h : Canon s) : Canon (s.completeJoin j members) :=
  Canon.attachAt (.foldl (Canon.traceRec h) fun _ _ h => h.completeHead fun _ h => h.attachAt)

theorem Keeps.effJoin : Keeps (effJoin n limit) := by
  intro s h
  unfold Machine.effJoin
  dsimp only
  split
  · exact h
  · exact .ite h (.ite (Canon.completeJoin h) (.ite h h))

theorem Canon.execJoinExpired (h : Canon s) : CanonNext (execJoinExpired s) := by
  unfold Machine.execJoinExpired
  dsimp only
  split
  · exact h
  split
  · exact h
  · exact Canon.raiseTrap h

theorem Keeps.opDomain : Keeps (opDomain n) := fun _ h => .ite h h

theorem Keeps.effPhase {b : Bool} : Keeps (effPhase b) := .effect fun _ h => h.lateWrite.traceRec

theorem Canon.acquireCaptured (h : Canon s) : Canon s.acquireCaptured := by
  unfold State.acquireCaptured
  split
  · exact h.acquireScope
  · exact h

theorem Keeps.opArrive {smask : Nat} : Keeps (opArrive n e smask) := by
  intro s h
  exact .ite h (.bind h .releasePart fun _ => .mod fun _ h => h)

theorem Keeps.effDsync {scope smask : Nat} : Keeps (effDsync scope level limit smask e) := by
  refine .bind .opDomain fun _ => .bind .opArrive fun _ s h => .ite h (.ite h (.ite h ?_))
  exact Canon.acquireCaptured (.foldl h fun _ _ h => h.completeHead fun _ h => h.acquireCaptured)

theorem Keeps.effCbcast {src : Nat} : Keeps (effCbcast rd ra limit src) := by
  refine .bind .opDomain fun _ s h => .ite h (.ite h (.ite h ?_))
  exact Canon.foldl (.ite h h) fun _ _ h => h.completeHead fun _ h => h

theorem Keeps.opXsem : Keeps (opXsem n) := fun _ h => by
  exact .ite h h

theorem Keeps.acquired {eff : Op Flow} (he : Keeps eff) : Keeps (acquired eff) :=
  .bind he fun _ => .bind .acquireFixed fun _ => .pure

theorem Canon.expireWait {kinds : WaitKind → Bool} (h : Canon s) : Canon (s.expireWait core k kinds) := by
  unfold State.expireWait
  split
  · exact .ite h.raiseTrap h
  · exact h

end

/-! ### Binding and the passing of time -/

section
variable {s : State} {n : Nat}

theorem Canon.bindSlice {v : Slice} (h : Canon s) : Canon (s.bindSlice v) :=
  Canon.foldl (Canon.foldl h fun _ _ h => h) fun _ _ h => h

theorem Canon.traceClasses (h : Canon s) : Canon s.traceClasses := by
  refine Canon.foldl h fun s e h => ?_
  split
  · exact .ite (.foldl h fun _ _ h => .ite h h.setClassOf) h
  · exact h

theorem Canon.applyRises (h : Canon s) : Canon s.applyRises := Canon.foldl h fun _ _ h => h

theorem Canon.elapse (h : Canon s) : Canon (s.elapse n) := h.applyRises.traceClasses
end

/-! ### Operands in the pool -/

section
variable {s : State} {core bank row addr rot n v : Nat} {reg : VReg}

theorem Keeps.opPoolRow : Keeps (opPoolRow core bank row) := fun s h => .ite (Keeps.uncorrectable s h) h

theorem Keeps.opSpaceCore {space off : Nat} : Keeps (opSpaceCore space off) := fun _ h => .ite h (.ite h h)

theorem Keeps.opScrBank : Keeps (opScrBank core rot addr) := fun _ h => .ite h (.ite h h)

theorem Keeps.opScrPart : Keeps (opScrPart core rot addr n) := .bind .opScrBank fun _ => .bind .opPoolRow fun _ => .pure
theorem Keeps.opScrPut : Keeps (opScrPut core rot addr n v) := .bind .opScrBank fun _ => .mod fun _ h => h

theorem Keeps.opSpanRead {part : Nat → Nat → Op Nat} {fuel : Nat} (hp : ∀ a n, Keeps (part a n)) :
    Keeps (opSpanRead part fuel addr n) := by
  induction fuel generalizing addr n with
  | zero => exact .pure
  | succ fuel ih => exact .ite .pure (.bind (hp _ _) fun _ => .bind ih fun _ => .pure)

theorem Keeps.opSpanWrite {part : Nat → Nat → Nat → Op Unit} {fuel : Nat} (hp : ∀ a n v, Keeps (part a n v)) :
    Keeps (opSpanWrite part fuel addr n v) := by
  induction fuel generalizing addr n v with
  | zero => exact .pure
  | succ fuel ih => exact .ite .pure (.bind (hp _ _ _) fun _ => ih)

theorem Keeps.opScrRead : Keeps (opScrRead core rot addr n) := .opSpanRead fun _ _ => .opScrPart
theorem Keeps.opScrWrite : Keeps (opScrWrite core rot addr n v) := .opSpanWrite fun _ _ _ => .opScrPut

theorem Keeps.opRegs {ks : List VReg} : Keeps (opRegs ks) := by
  refine fun s h => .ite h ?_
  split <;> exact h

theorem Keeps.opRegRow : Keeps (opRegRow n row) := fun s h => Keeps.opPoolRow s h
theorem Keeps.opImage : Keeps (opImage reg) := .bind (.groupMap fun _ => .opRegRow) fun _ => .pure
theorem Keeps.opImages {ks : List VReg} : Keeps (opImages ks) := .bind (.map fun _ => .opImage) fun _ => .pure

theorem Keeps.opWriteRows {g : Nat → Core → Nat × Nat} : Keeps (opWriteRows n g) :=
  .bind (.firmly (.groupMap fun _ _ h => Canon.ite h h)) fun _ =>
    .mod fun _ h => Canon.ite h h.landSr

theorem Keeps.opWriteElems {upd : List (Nat × Nat)} : Keeps (opWriteElems reg n upd) := by
  unfold Machine.opWriteElems
  exact .opWriteRows
theorem Keeps.opWriteImage : Keeps (opWriteImage reg n) := .opWriteRows

theorem Keeps.opShape {widths : List Nat} : Keeps (opShape widths) := fun _ h => .ite h h
end
end Sys2Proof.Machine
end

section
namespace Sys2Proof.Machine

/-! ### Loads, stores, copies and fences -/

section
variable {s : State} {off : BitVec 24} {space : BitVec 2} {reg : VReg} {ra rb rd r : Reg} {rot : BitVec 4} {a n v core : Nat} {m : RowMode}

theorem Keeps.unitRead : Keeps (unitRead space off n a v) := .ite .readUnit (.bind .opSpaceCore fun _ => .opScrRead)
theorem Keeps.unitWrite : Keeps (unitWrite space off core a n v) := .ite .writeUnit (.bind .opSpaceCore fun _ => .opScrWrite)

theorem Keeps.effLd {ty : ElemTy} : Keeps (effLd r ra rot ty space off) := fun _ h =>
  .bind h (.access .unitRead) fun _ _ h => h

theorem Keeps.effSt {ty : ElemTy} : Keeps (effSt r ra rot ty space off) := fun _ h =>
  .bind h (.access (.noValue .unitWrite)) fun _ _ h => h

theorem Keeps.opIndexRow : Keeps (opIndexRow m) := fun _ h =>
  .ite h (.ite h (.bind h .opRegs fun _ => .step .opRegRow))

theorem Keeps.opRowAddrs : Keeps (opRowAddrs m ra space off n) := by
  refine fun s h => .ite h ?_
  split <;> exact h

theorem Keeps.effRowLoad : Keeps (effRowLoad m reg ra rot space off n) :=
  .bind .opRowAddrs fun _ => .bind (.ite .pure .opRegs) fun _ => .bind (.groupMap fun _ => .unitRead) fun _ =>
    .bind (.firmly (.groupMap fun _ _ h => h.landLive)) fun _ => .pure

theorem Keeps.effRowStore : Keeps (effRowStore m reg ra rot space off n) :=
  .bind .opRowAddrs fun _ => .bind (.ite .pure .opRegs) fun _ =>
    .bind (.groupMap fun _ _ h => .ite h (.bind h .opRegRow fun _ => .noValue .unitWrite)) fun _ => .pure

theorem Canon.runRows {hd : Head} {eff : Nat → Op Flow} (h : Canon s) (he : ∀ i, Keeps (eff i)) : CanonNext (runRows hd m eff s) :=
  h.runForm .opIndexRow he

theorem Canon.prefetch (h : Canon s) : Canon (s.prefetch a) := by
  unfold State.prefetch
  split
  · exact .ite (Canon.wayTouch (.ite h.landRow h)) (.ite h.landRow h)
  · exact h

theorem Keeps.effTouch {write : Bool} : Keeps (effTouch write rd ra rb) := by
  refine fun s h => .ite h ?_
  split <;> exact h

theorem Keeps.moveUnit {out : Bool} {u : Nat × Nat × Nat} : Keeps (moveUnit out core n u) :=
  .ite (.bind .opScrRead fun _ => .writeUnit) (.bind .readUnit fun _ => .opScrWrite)

theorem Keeps.opCopyDesc : Keeps (opCopyDesc r) := fun _ h => .ite h (Keeps.step .readUnit _ h)

theorem Keeps.effCopy {out : Bool} {img : Nat} : Keeps (effCopy out r rot space off img) := by
  intro s h
  unfold Machine.effCopy
  split
  · exact h
  · refine .ite h (.ite h (.bind h .opSpaceCore fun _ => .bind (.groupMap fun _ _ h => .ite h ?_) fun _ => .pure))
    exact Keeps.noValue .moveUnit _ h

theorem Keeps.effFence {rel acq : Bool} {scope : BitVec 5} {e : ScopeEntry} : Keeps (effFence rel acq scope e) :=
  .bind (.ite .releasePart .pure) fun _ => .bind (.ite .acquirePart .pure) fun _ => .pure

theorem Canon.runScope {hd : Head} {scope : BitVec 5} {eff : ScopeEntry → Op Flow} (h : Canon s) (he : ∀ e, Keeps (eff e)) :
    CanonNext (runScope hd scope eff s) := h.runCapture .captureScope he
end

/-! ### Matrix commands at their acceptance, and the pool -/

section
variable {s : State} {ra rb rd : Reg} {role n : Nat} {c : MCmd}

theorem Keeps.effMatrix : Keeps (effMatrix c ra rb) := by
  intro s h
  unfold Machine.effMatrix
  extract_lets t m d
  split
  · exact h.landOwn
  · exact h.landOwn

theorem Canon.runMatrix {hd : Head} (h : Canon s) : CanonNext (runMatrix hd c ra rb s) := h.runForm .pure fun _ => .effMatrix

theorem Keeps.effMsync : Keeps effMsync := fun _ h => .ite h h

theorem Keeps.effMabort : Keeps effMabort := by
  intro s h
  unfold Machine.effMabort
  split
  · exact Keeps.effMsync s h
  · exact Keeps.effMsync _ h

theorem Keeps.opReshapeIssue : Keeps (opReshapeIssue ra role) := by
  refine .once fun s h => ?_
  split <;> exact h

theorem Keeps.opTileWait {gone : List Nat} : Keeps (opTileWait gone n) := .step fun _ h => .ite h h
theorem Keeps.opEarlierDone : Keeps opEarlierDone := fun _ h => .ite h h

theorem Canon.poolResult {st : PoolStatus} (h : Canon s) : Canon (s.poolResult rd st) := h

theorem Keeps.effReshape {rel : Bool} : Keeps (effReshape rd ra role rel n) := by
  intro s h
  unfold Machine.effReshape
  split
  · exact h
  · refine .ite h (.bind h .opTileWait fun _ => .ite (fun _ h => h) (.bind .opEarlierDone fun _ s h => ?_))
    extract_lets lines t
    have ht : Canon t := .foldl h fun _ _ h => h.wayClean
    split
    · exact ht.poolResult
    · exact ht.setCur.poolResult

theorem Keeps.effPin {pin : Bool} : Keeps (effPin pin rd ra) := by
  intro s h
  unfold Machine.effPin
  split
  · exact h
  · exact .ite h h

theorem Keeps.effWbinv {pick : State → Nat → Bool} {keep : Bool} : Keeps (effWbinv pick keep rd) :=
  fun _ h => Canon.foldl h fun _ _ h => .ite h.wayClean h.wayEvict
end

/-! ### Vector instructions -/

section
variable {s : State} {vd va vb vc : VReg} {t t' : ElemTy} {n : Nat} {rm : Rm} {sat : Bool} {srcs : List (VReg × Nat)}
  {f : State → Lane → Nat × FlagSet}

theorem Keeps.effLanesThen {fin : Nat → List Nat → State → State} (hf : ∀ n l s, Canon s → Canon (fin n l s)) :
    Keeps (effLanesThen vd n srcs f fin) :=
  .bind .opShape fun _ => .bind .opRegs fun _ => .bind .opImages fun _ _ h => .bind h .opWriteElems fun _ _ h => hf _ _ _ h

theorem Keeps.effLanes : Keeps (effLanes vd n srcs f) := .effLanesThen fun _ _ _ h => h

theorem Keeps.opWritePred {pd : PReg} {upd : List (Nat × Bool)} : Keeps (opWritePred pd upd) := .opPredBits
theorem Keeps.opPredSrc {p : PReg} : Keeps (opPredSrc p) := .bind (.step fun _ h => h) fun _ => .pure

theorem Keeps.effPred {pd : PReg} {ps : List PReg} {g : List Bool → Bool} : Keeps (effPred pd ps g) :=
  .bind .opShape fun _ => .bind (.map fun _ => .opPredSrc) fun _ _ h => .bind h .opWritePred fun _ => .pure

theorem Keeps.effReduce {groups : Nat → Nat → List (List Nat)} {g : State → List Nat → Nat × FlagSet} :
    Keeps (effReduce t vd va n groups g) :=
  .bind .opShape fun _ => .bind .opRegs fun _ => .bind .opImage fun _ _ h => .bind h .opWriteElems fun _ _ h => h

theorem Canon.advanceRand (h : Canon s) : Canon (s.advanceRand n) := h.landSr
theorem Canon.advanceRound (h : Canon s) : Canon (s.advanceRound n) := h.landSr
theorem Canon.updateAmax {l : List Nat} (h : Canon s) : Canon (s.updateAmax t l) := h.landSr

theorem Keeps.effConvert {amax : Bool} : Keeps (effConvert vd va t t' rm amax sat) :=
  .effLanesThen fun _ _ _ h => .ite (Canon.advanceRound (.ite h.updateAmax h)) (.ite h.updateAmax h)

theorem Canon.runAcc {hd : Head} {lanes : Bool} {a : Acc} {eff : Op Flow} (h : Canon s) (he : Keeps eff) :
    CanonNext (runAcc hd lanes a eff s) := h.runForm .pure fun _ => he
end

/-! ### Rings -/

section
variable {s : State} {rd ra rb : Reg} {core n limit v : Nat} {r : Ring} {handle src : W64}

theorem Keeps.opRecord : Keeps (opRecord r n) := fun _ h => .bind h .opPoolRow fun _ => .pure

theorem Canon.spillWrite {part : Nat} (h : Canon s) : Canon (s.spillWrite part core n r) := by
  unfold State.spillWrite
  split
  · exact h
  · exact Canon.spoilSpills (Canon.homePut h)

theorem Canon.execSpillMove (h : Canon s) : CanonNext (execSpillMove s) := by
  unfold Machine.execSpillMove
  grind -ring -linarith [Canon, CanonNext, State.setCtx_mem, State.setCore_mem]

theorem Keeps.opRing : Keeps (opRing n) := fun _ h => .ite h h
theorem Keeps.opRingOpen : Keeps (opRingOpen r) := fun _ h => .ite h h
theorem Keeps.opRingRecords : Keeps (opRingRecords n) := .bind .opRing fun _ => .bind .opRingOpen fun _ => .pure

theorem Canon.appendRing {t : State} {recs : List Nat} (h : Canon s) (e : s.appendRing core n recs = .done t) : Canon t := by
  unfold State.appendRing at e
  extract_lets r x c k at e
  split at e
  · cases e
    exact h
  · split at e
    · cases e
      exact Canon.foldl h fun _ _ h => h.spillWrite
    · cases e

theorem Keeps.effRput : Keeps (effRput rd ra rb n limit) := by
  refine .bind .opRingRecords fun _ s h => ?_
  split
  · next e =>
    have ht := h.appendRing e
    exact ht
  · exact .ite h h

theorem Keeps.effRget : Keeps (effRget rd n limit) :=
  .bind .opRingRecords fun _ _ h => .ite h (.ite h (.bind h .opRecord fun _ _ h => h))

theorem Keeps.effRclaim {k : Nat} : Keeps (effRclaim rd rb n k) :=
  .bind .opRingRecords fun _ _ h => .ite h
    (.bind h (.opSpanRead fun _ _ => .bind .opScrBank fun _ => .pure) fun _ => .bind (.map fun _ => .opRecord) fun _ _ h =>
      .bind h .opScrWrite fun _ _ h => h)

theorem Keeps.effRwait {f : Ring → Nat} : Keeps (effRwait f rd rb n limit) := .bind .opRing fun _ _ h => .ite h (.ite h h)

theorem Canon.logAppend {ring agent tail : Nat} (h : Canon s) : Canon (s.logAppend core ring agent tail) := by
  unfold State.logAppend
  dsimp only
  split
  · exact h.replayLog.replayDrop
  · exact h.replayLog

theorem Canon.ownEvict {row : Nat} (h : Canon s) : Canon (s.ownEvict row) := h.landRow.wayEvict

theorem Keeps.opWenqPut {va off : Nat} : Keeps (opWenqPut va n off v) := by
  refine .step fun s h => ?_
  split
  · exact h
  · exact .ite h.ownEvict.homeStore h.post

theorem Keeps.opWenqDesc {desc : Nat} : Keeps (opWenqDesc desc) := by
  intro s h
  unfold Machine.opWenqDesc
  split
  · exact h
  · exact .ite h h

theorem Keeps.opDescImage {desc pa : Nat} : Keeps (opDescImage desc pa) := fun _ h =>
  .ite (Keeps.uncorrectable _ h.ownEvict) h.ownEvict

theorem Keeps.opPayload {rsz : Nat} : Keeps (opPayload src n rsz) := .step fun _ h => .ite h (Keeps.opScrRead _ h)

theorem Keeps.opCoreRing : Keeps (opCoreRing handle) := fun _ h => .ite h h

theorem Keeps.opWenqIssue : Keeps (opWenqIssue handle src n) := by
  refine .ite (.ite .trap (.bind (.step fun _ h => .bind h .opWenqDesc fun _ => .opDescImage) fun _ => ?_))
    (.bind .opCoreRing fun _ => .ite .trap (.bind .opPayload fun _ => .pure))
  split
  · exact .trap
  · exact .ite .trap (.bind .opPayload fun _ => .pure)

theorem Keeps.effWenqCore : Keeps (effWenqCore rd handle limit n v) := by
  refine .bind .opCoreRing fun _ => .bind (fun s h => .ite (Keeps.opRingOpen s h) h) fun _ s h => ?_
  dsimp only
  split
  · next e =>
    have hp := h.appendRing e
    exact Canon.ite hp hp.logAppend
  · exact h
  · exact .ite h h

theorem Keeps.effWenqMem {scope img : Nat} : Keeps (effWenqMem rd handle scope limit n img v) := by
  unfold Machine.effWenqMem
  extract_lets desc
  split
  next base z k =>
  extract_lets rsz room
  have hroom : Keeps room := .step fun _ h => .bind h .opWenqDesc fun _ _ h => .ite h
    (.bind h .opDescImage fun _ _ h => .ite h (.ite h h))
  exact .bind hroom fun _ => .ite (fun _ h => h) (.bind (.map fun _ => .opWenqPut) fun _ =>
    .bind (.ite .flushPosted .pure) fun _ => .bind .opWenqPut fun _ _ h => h)

theorem Keeps.effWenq {scope : Nat} {e : ScopeEntry} {c : Nat × Nat} : Keeps (effWenq rd ra scope limit n e c) :=
  .bind .releasePart fun _ s h => .ite (Keeps.effWenqMem s h) (Keeps.effWenqCore s h)

theorem Keeps.effMark : Keeps effMark := fun _ h => .ite h.landSr.landSr h

theorem Keeps.opEngine {bad : Trap} : Keeps (opEngine handle bad) := by
  intro s h
  unfold Machine.opEngine
  split <;> exact h

theorem Keeps.effCommand {scope : BitVec 5} {e : ScopeEntry} {die slot : Nat} {check : Option Nat} {source : VSource} :
    Keeps (effCommand rd scope e die slot check source) := fun _ h =>
  .ite h (.ite h (.ite h (.bind h .releasePart fun _ _ h => h)))

theorem Keeps.effEpush {scope : BitVec 5} {e : ScopeEntry} : Keeps (effEpush rd ra rb scope e) := fun _ h =>
  .bind h .opEngine fun _ => .effCommand

theorem Keeps.effEpop : Keeps (effEpop rd ra limit) := by
  refine fun _ h => .bind h .opEngine fun _ s h => ?_
  dsimp only
  split <;> exact h
end

/-! ### Scope entries, atomics and monitors -/

section
variable {s : State} {rd ra rb : Reg} {x n v op va pa scope cmp : Nat} {e : ScopeEntry} {ord : BitVec 2}

theorem Canon.installScope {t : State} {img g : Nat} (h : Canon s) (e : s.installScope x n img = some (t, g)) : Canon t := by
  revert e
  unfold State.installScope
  grind -ring -linarith [Canon, State.setCtx_mem]

theorem Keeps.effScset : Keeps (effScset rd n v) := by
  refine .bind (.step fun _ h => h) fun _ s h => .ite h ?_
  split
  · next e =>
    have ht := h.installScope e
    exact ht
  · exact h

theorem Keeps.opScopeImage : Keeps (opScopeImage ra) := fun _ h => .ite h (Keeps.step .readUnit _ h)

theorem Canon.scopeStep (h : Canon s) : Canon (s.scopeStep x) := by
  unfold State.scopeStep
  dsimp only
  split
  · exact h
  · split
    · exact h
    · next e =>
      have ht := h.installScope e
      exact ht

theorem Canon.scopeCommand {w : W64} (h : Canon s) : Canon (s.scopeCommand x w) :=
  .ite h.scopeStep (.ite h.scopeStep (.ite h.scopeStep (Canon.scopeStep h.scopeStep)))

theorem Keeps.opDevAtomic : Keeps (opDevAtomic va pa n op v cmp) := fun _ h =>
  .bind h.ownEvict (.ite .uncorrectable .get) fun _ _ h => h.homeAtomic

theorem Keeps.opLateAtomic : Keeps (opLateAtomic va pa n op v) := fun _ h => h.ownEvict

theorem Keeps.opLinkAtomic {peer : Bool} {bus : Nat} : Keeps (opLinkAtomic peer bus n op v cmp va pa) := by
  refine .bind .awaitOut fun c => ?_
  split
  · exact .bind .opHostData fun _ _ h => h
  · exact .bind .uncorrectable fun _ _ h => h
  · exact fun _ h => .ite h h

theorem Keeps.opAtomicEntry : Keeps (opAtomicEntry va n op) :=
  .bind .opEntry fun _ => .ite .trap (.bind (.once fun _ h => h) fun _ => .pure)

theorem Keeps.opAtomic {rel acq amon : Bool} : Keeps (opAtomic scope e rel acq amon va n op v cmp) := by
  refine .bind .opAtomicEntry fun t => .bind (.ite .releasePart .pure) fun _ =>
    .bind (.step fun s h => ?_) fun _ => .bind (.ite .acquirePart .pure) fun _ => .pure
  dsimp only
  split
  · exact Keeps.opLinkAtomic s h
  · split
    · exact Keeps.opLateAtomic s h
    · exact .bind h .opDevAtomic fun _ => .pure

theorem Keeps.effAmo : Keeps (effAmo rd ra rb scope op ord n e) := fun _ h => .bind h .opAtomic fun _ _ h => h
theorem Keeps.effAmon : Keeps (effAmon ra rb scope op ord n e) := fun _ h => .bind h .opAtomic fun _ _ h => h
theorem Keeps.effAcas : Keeps (effAcas rd ra rb scope ord n e) := fun _ h => .bind h .opAtomic fun _ _ h => h

theorem Canon.freeMonitor {core : Nat} {k : StreamId} (h : Canon s) : Canon (s.freeMonitor core k) := h

theorem Keeps.effMarm : Keeps (effMarm rd ra) := by
  intro s h
  unfold Machine.effMarm
  dsimp only
  split
  · exact h
  · exact .ite h.freeMonitor.wx (.ite h.freeMonitor.ownEvict.wx h.freeMonitor.ownEvict.setCluster.wx)

theorem Canon.endMwait (h : Canon s) : Canon (s.endMwait rd n) := by
  unfold State.endMwait
  split
  · exact h.freeMonitor.wayEvict
  · exact h

theorem Keeps.effMwait : Keeps (effMwait rd n) := by
  intro s h
  unfold Machine.effMwait
  split
  · exact h.endMwait
  · split
    · exact h.endMwait
    · exact .ite h.endMwait h

theorem Canon.execMwaitExpired (h : Canon s) : CanonNext (execMwaitExpired s) := by
  unfold Machine.execMwaitExpired
  dsimp only
  split
  · split
    · exact h.completeHead fun _ h => h.endMwait
    · exact h
  · exact h
end
end Sys2Proof.Machine
end

section
namespace Sys2Proof.Machine

/-! ### Commands of the matrix engine -/

section
variable {s : State} {c : MCmd} {core bank row a n v q t k : Nat}

theorem Keeps.opRow {check : Op Unit} (hc : Keeps check) : Keeps (c.opRow check core bank row) := by
  unfold MCmd.opRow
  split
  · exact .pure
  · exact .bind hc fun _ => .opPoolRow

theorem Keeps.opRegCheck : Keeps (opRegCheck k) := by
  intro s h
  unfold Machine.opRegCheck
  split <;> exact h

theorem Keeps.opFileRow : Keeps (c.opFileRow q) := fun s h => Keeps.opRow .opRegCheck s h

theorem Keeps.opFilePuts : Keeps (opFilePuts a n v) := by
  intro s h
  unfold Machine.opFilePuts
  dsimp only
  split <;> exact h

theorem Canon.putRow {p : RowPut} (h : Canon s) : Canon (s.putRow p) := by
  have ht : Canon (if p.reg.isSome then s.landLive p.core else s) := .ite h.landLive h
  exact ht

theorem Canon.putRows {pick : Nat → Bool} (h : Canon s) : Canon (s.putRows core c pick).1 := by
  unfold State.putRows
  dsimp only
  split
  · exact h
  · exact Canon.foldl h fun _ _ h => h.putRow

theorem Keeps.opTileBank : Keeps (opTileBank t q) := fun _ h => .ite h h

theorem Keeps.opTileOf : Keeps (opTileOf t q) := .bind .opTileBank fun _ s h => Keeps.opPoolRow s h

theorem Keeps.opRowsOf {g : Nat → Op Nat} {spans : List (Nat × Nat)} (hg : ∀ a, Keeps (g a)) : Keeps (opRowsOf g spans) :=
  .bind (.map hg) fun _ => .pure

theorem Keeps.opTileRow : Keeps (opTileRow t q v) := .bind .opTileBank fun _ => .mod fun _ h => h

theorem Keeps.opCore : Keeps c.opCore := .opSpaceCore

theorem Keeps.opSourceRow : Keeps (c.opSourceRow q) :=
  .ite (.bind .opCore fun _ => .opRow (.unitOf .opScrBank)) .opFileRow

theorem Keeps.opSpans {spans : List (Nat × Nat)} : Keeps (c.opSpans spans) :=
  .bind (.opRowsOf fun _ => .opSourceRow) fun _ => .pure

theorem Keeps.opRead : Keeps (c.opRead a n) := .bind .opSpans fun _ => .pure

theorem Keeps.opPuts : Keeps (c.opPuts a n v) :=
  .ite (.bind .opCore fun _ => .map fun _ => .bind .opScrBank fun _ => .pure) .opFilePuts

theorem Keeps.opArrayRow : Keeps (opArrayRow n) := fun _ h => .bind h (.map fun _ => .opPoolRow) fun _ => .pure

theorem Keeps.opA : Keeps (c.opA k n) := .ite (.bind .opSpans fun _ => .pure) (.bind .opSpans fun _ => .pure)

theorem Keeps.opWeights : Keeps (c.opWeights q k n) := .bind (.opRowsOf fun _ => .opTileOf) fun _ => .pure

theorem Keeps.opB : Keeps (c.opB k n) :=
  .ite (.bind .opWeights fun _ => .pure) (.ite (.map fun _ => .ite .pure .opWeights) (.bind .opWeights fun _ => .pure))

theorem Keeps.opMeta : Keeps (opMeta c row q) := .bind (.opRowsOf fun _ => .opTileOf) fun _ => .pure

theorem Keeps.opCheckMeta : Keeps (opCheckMeta c) := by
  refine fun _ h => Keeps.each (fun q => .bind .opMeta fun words s h => ?_) _ h
  split <;> exact h

theorem Keeps.opProduct : Keeps (c.opProduct n) := fun _ h =>
  .bind h (.ite .opCheckMeta .pure) fun _ => .bind .opA fun _ => .bind .opB fun _ => .bind (.ite .opMeta .pure) fun _ =>
    .bind (.map fun _ => .bind .opArrayRow fun _ _ h => h) fun _ => .pure

theorem Keeps.opDrainRow : Keeps (c.opDrainRow n) := fun _ h =>
  .bind h .opArrayRow fun _ => .bind .opPuts fun _ => .pure

theorem Keeps.opDevPart : Keeps (opDevPart a n) := by
  intro s h
  unfold Machine.opDevPart
  dsimp only
  split
  · exact h
  · exact .ite h (.ite (Keeps.uncorrectable _ h.landRow.coreRow) h.landRow.coreRow)

theorem Keeps.opDevRead : Keeps (opDevRead a n) := .opSpanRead fun _ _ => .opDevPart

theorem Keeps.opExpand : Keeps (opExpand n a) := by
  induction n generalizing a with
  | zero => exact .pure
  | succ n ih => exact .bind .opDevRead fun _ => .bind .opDevRead fun _ => .bind ih fun _ => .pure

theorem Keeps.opStream : Keeps c.opStream := .ite .opExpand (.map fun _ => .opDevRead)

theorem Keeps.opTransposed : Keeps (c.opTransposed n) := .bind .opSpans fun _ => .pure

theorem Keeps.opFloats : Keeps (c.opFloats a n) := .bind (.opRowsOf fun _ => .opFileRow) fun _ => .pure

theorem Keeps.opMatrix {f : Matrix → Matrix} : Keeps (opMatrix f) := fun _ h => h

theorem Keeps.opBias : Keeps c.opBias :=
  .ite .opMatrix (.ite (.bind (.map fun _ => .ite .pure .opFloats) fun _ => .opMatrix) (.bind .opFloats fun _ => .opMatrix))

theorem Keeps.commandImage : Keeps (c.opImage k) := fun _ h => .bind h (.map fun _ => .opRow .opRegCheck) fun _ => .pure

theorem Keeps.opImagePuts : Keeps (opImagePuts k v) := by
  intro s h
  unfold Machine.opImagePuts
  split <;> exact h

theorem Keeps.opMacc : Keeps c.opMacc :=
  .bind .commandImage fun _ => .bind .commandImage fun _ => .bind .opImagePuts fun _ => .pure

theorem Keeps.opMqst : Keeps c.opMqst := fun _ h => .bind h .opFilePuts fun _ => .bind .opMatrix fun _ => .pure

theorem Keeps.opUnit : Keeps c.opUnit := by
  unfold MCmd.opUnit
  extract_lets u plain puts
  have hplain : ∀ m, Keeps m → Keeps (plain m) := fun _ hm => .bind hm fun _ => .pure
  have hputs : ∀ m, Keeps m → Keeps (puts m) := fun _ hm => .bind hm fun _ => .pure
  refine .ite (hputs _ .opProduct) ?_
  split
  · exact fun _ h => .bind h .opDrainRow fun _ => .pure
  · exact .ite (hplain _ .opMatrix) (hplain _ (.bind .opFloats fun _ => .opMatrix))
  · exact hplain _ .opBias
  · exact hplain _ .opMatrix
  · exact hplain _ (.bind .opRead fun _ => .bind .opTileRow fun _ => .pure)
  · exact hplain _ (.bind .opStream fun _ => .bind (.each fun _ => .opTileRow) fun _ => .pure)
  · exact hplain _ .opMatrix
  · exact hplain _ .opMatrix
  · exact hputs _ .opMqst
  · exact hplain _ (.bind .opTransposed fun _ => .bind .opTileRow fun _ => .pure)
  · exact hputs _ .opMacc
  · exact hputs _ (.bind .commandImage fun _ => .bind .opImagePuts fun _ => .pure)
  · exact .pure

theorem Canon.leaveMatrixSems (h : Canon s) : Canon (s.leaveMatrixSems core) := h.setCore

theorem Canon.engineTrap {e : Trap} (h : Canon s) : Canon (s.engineTrap core c e) := by
  unfold State.engineTrap
  extract_lets e' _ _ u w
  have hu : Canon u := h
  split
  · exact .ite hu.handlerFault hu.raiseHalt
  · exact h

theorem Keeps.engineUnit : Keeps (c.engineUnit core) := by
  intro s h
  unfold MCmd.engineUnit
  extract_lets _ _ _ _ t' back
  have hr : CanonRes (c.opUnit t') := Keeps.opUnit t' h
  have hback : ∀ u, Canon u → Canon (back u) := fun _ h => h
  generalize c.opUnit t' = r at hr
  cases r with
  | ok | trap => exact hback _ hr
  | wait | req | pause => exact h

theorem Canon.runUnit (h : Canon s) : Canon (s.runUnit core c).1 := by
  have hr : CanonRes (c.engineUnit core s) := Keeps.engineUnit s h
  unfold State.runUnit
  generalize c.engineUnit core s = r at hr
  cases r with
  | ok => exact hr
  | trap | wait | req | pause => exact h

theorem Canon.runUnits (h : Canon s) : Canon (s.runUnits core n k c).1 := by
  induction k generalizing s c with
  | zero => exact h
  | succ k ih =>
    have hu : Canon (s.runUnit core c).1 := h.runUnit
    unfold State.runUnits
    generalize s.runUnit core c = r at hu
    split
    · exact h
    · split
      · next s' c' =>
        have hp : Canon (State.putRows s' core c' fun _ => true).1 := Canon.putRows hu
        generalize State.putRows s' core c' (fun _ => true) = r at hp
        split
        · exact ih hp
        · exact h
      · exact hu

theorem Canon.signalCommand (h : Canon s) : Canon (s.signalCommand core c) := by
  refine .ite h ?_
  split
  · exact h.engineTrap
  · exact h

theorem Canon.countCommand (h : Canon s) : Canon (s.countCommand core c) := Canon.traceRec h

theorem Canon.finishCommand (h : Canon s) : Canon (s.finishCommand core c) := by
  have ht : Canon (((s.landReg core 0x080).landReg core 0x030).signalCommand core c) := h.landReg.landReg.signalCommand
  exact .ite ht (Canon.countCommand ht)

theorem Canon.discardCommand (h : Canon s) : Canon (s.discardCommand core c) := h.countCommand.signalCommand

theorem Canon.keepCommand {r : State × MCmd × Option Trap} {go : State → MCmd → State} (h : Canon r.1)
    (hg : ∀ s c, Canon s → Canon (go s c)) : Canon (State.keepCommand core r go) := by
  unfold State.keepCommand
  dsimp only
  split
  · exact Canon.engineTrap h
  · exact hg _ _ h

theorem Canon.workCommand (h : Canon s) : Canon (s.workCommand core c n) :=
  .keepCommand h.putRows fun _ _ h => .keepCommand h.runUnits fun _ _ h => .ite h.finishCommand h

theorem Canon.writeSome {places : List Nat} (h : Canon s) : Canon (s.writeSome core c places) := by
  have hk : ∀ s c, Canon s → Canon (State.keepCommand core (s.putRows core c places.contains) fun s _ => s) := fun _ _ h =>
    .keepCommand h.putRows fun _ _ h => h
  exact .ite (hk _ _ h) (.ite h (.keepCommand h.runUnit hk))

theorem Canon.startCommand (h : Canon s) : Canon (s.startCommand core c) := Canon.traceRec h

theorem Canon.execMatrixCommandStart (h : Canon s) : CanonNext (execMatrixCommandStart s) := by
  unfold Machine.execMatrixCommandStart
  dsimp only
  split
  · exact h
  split
  · exact h
  split
  · exact Canon.ite (Canon.startCommand h) h
  · exact h.startCommand

theorem Canon.execMatrixCommandComplete (h : Canon s) : CanonNext (execMatrixCommandComplete s) := by
  unfold Machine.execMatrixCommandComplete
  dsimp only
  split
  · split
    · exact h
    split
    · exact h.writeSome
    split
    · exact Canon.ite (Canon.workCommand h) h
    · exact h.workCommand
  · exact h

theorem Canon.execMatrixSemExpired (h : Canon s) : CanonNext (execMatrixSemExpired s) := by
  unfold Machine.execMatrixSemExpired
  dsimp only
  split
  · exact h
  split
  · split
    · exact h.engineTrap
    · exact h
  · exact h
end
end Sys2Proof.Machine
end

section
namespace Sys2Proof.Machine

/-! ### Queues and dependences -/

section
variable {s : State} {q addr x n d slot i scope pa fuel : Nat} {rd ra : Reg} {p : Placement}

theorem Canon.captureQueue (h : Canon s) : Canon (s.captureQueue q fuel) := by
  induction fuel generalizing s with
  | zero => exact h
  | succ fuel ih =>
    unfold State.captureQueue
    grind -ring -linarith [Canon, State.setQueue_mem, Canon.completionRecord]

theorem Canon.popQueue (h : Canon s) : Canon (s.popQueue q) := Canon.captureQueue h
theorem Canon.appendQueue (h : Canon s) : Canon (s.appendQueue q addr) := Canon.captureQueue h

theorem Keeps.effEnq {f : State → Nat} : Keeps (effEnq rd ra f) := fun _ h =>
  .ite h (.ite h (.bind h .releaseFixed fun _ _ h => .ite h h.appendQueue))

theorem Canon.depEnqueue {t : State} (h : Canon s) (e : s.depEnqueue q addr = some t) : Canon t := by
  revert e
  unfold State.depEnqueue
  grind -ring -linarith [Canon, State.setDie_mem, Canon.appendQueue]

theorem Canon.decrement {t : State} {old old' hdr : Nat} (h : Canon s) (e : s.decrement x pa old hdr q = .done t old') :
    Canon t := by
  revert e
  unfold State.decrement
  grind -ring -linarith [Canon, Canon.homeStore, Canon.depEnqueue]

theorem Keeps.opDepAddr : Keeps (opDepAddr i) := fun _ h =>
  .bind h .opEntry fun _ => .ite .trap (.bind (.once fun _ h => h) fun _ => .pure)

theorem Keeps.opDepWords : Keeps (opDepWords i pa) := fun _ h =>
  .ite (.bind h.ownEvict .uncorrectable fun _ => .pure) h.ownEvict

theorem Keeps.opDepIssue : Keeps (opDepIssue scope i) := fun s h => .ite h (Keeps.captureScope s h)

theorem Keeps.effDep {act : Nat → List Nat → Op Flow} {e : ScopeEntry} (ha : ∀ pa ws, Keeps (act pa ws)) :
    Keeps (effDep scope i act e) :=
  .bind .releasePart fun _ => .bind .opDepAddr fun _ => .bind .opDepWords fun _ => ha _ _

theorem Keeps.effDecrement {ws : List Nat} : Keeps (effDecrement rd i pa ws) := by
  intro s h
  unfold Machine.effDecrement
  dsimp only
  split
  · next e =>
    have ht := h.decrement e
    exact ht
  · exact h
  · exact h
  · exact h

theorem Keeps.effArm {ws : List Nat} : Keeps (effArm rd ra pa ws) := fun _ h => h.homeStore

theorem Canon.execHeldEnqueueEntry (h : Canon s) : CanonNext (execHeldEnqueueEntry s) := by
  unfold Machine.execHeldEnqueueEntry
  dsimp only
  split
  · exact h
  · exact Canon.appendQueue h

/-! ### Selection, reservation and binding -/

theorem Canon.schedTrace {ty pay : Nat} (h : Canon s) : Canon (s.schedTrace x d ty pay) := h.traceRec

theorem Canon.defer {b : Bool} (h : Canon s) : Canon (s.defer d q b) := Canon.schedTrace h

theorem Canon.placeHead {round : Nat} {c : Candidate} {forced : Option (List Nat)} (h : Canon s) :
    Canon (s.placeHead d slot round c forced) := by
  unfold State.placeHead
  dsimp only
  split
  · exact h
  · refine .ite h.defer ?_
    split
    · exact h.defer
    · exact h

theorem Canon.runRound {l : List Candidate} {leader : Option (Nat × (W64 × W64))} (h : Canon s) :
    Canon (s.runRound d slot l leader) := by
  unfold State.runRound
  extract_lets v
  split
  extract_lets _ t u
  have hu : Canon u := Canon.foldl h fun _ _ h => h.replayLog
  split
  · split
    · exact hu.placeHead
    · exact hu
  · extract_lets sel pick w
    clear_value pick
    split
    · exact hu.replayDrop.placeHead
    · exact hu.replayDrop

theorem Canon.execSelectionRound (h : Canon s) : CanonNext (execSelectionRound s) := by
  unfold Machine.execSelectionRound
  dsimp only
  split
  · exact h
  split
  · exact h.placeHead
  split
  · exact h
  · exact Canon.ite h (Canon.runRound h)

theorem Canon.execControlIntervalStart (h : Canon s) : CanonNext (execControlIntervalStart s) := by
  unfold Machine.execControlIntervalStart
  dsimp only
  split <;> exact h

theorem Canon.nextCandidate (h : Canon s) : Canon (s.nextCandidate d slot p) := by
  unfold State.nextCandidate
  dsimp only
  split
  · exact Canon.defer h
  · exact h

theorem Canon.retry (h : Canon s) : Canon (s.retry d slot n p) := h

theorem Canon.reserve (h : Canon s) : Canon (s.reserve d slot p) :=
  .ite h.withdraw (.ite (Canon.foldl h.takeBalance fun _ _ h => h) (.ite h.retry (.ite h.retry h.nextCandidate)))

theorem Canon.execReserve (h : Canon s) : CanonNext (execReserve s) := by
  unfold Machine.execReserve
  dsimp only
  split
  · exact Canon.ite h h.reserve
  · exact h

theorem Canon.execReservationRetry (h : Canon s) : CanonNext (execReservationRetry s) := by
  unfold Machine.execReservationRetry
  dsimp only
  split
  · exact Canon.ite h h.reserve
  · exact h

theorem Canon.unreserve (h : Canon s) : Canon (s.unreserve d slot p) := h.giveBalance.releaseGrants

theorem Canon.execGrantLapse (h : Canon s) : CanonNext (execGrantLapse s) := by
  unfold Machine.execGrantLapse
  dsimp only
  split
  · split
    · exact h
    split
    · exact Canon.ite h.unreserve h
    · exact h
  · exact h

theorem Canon.policies (h : Canon s) : Canon s.policies := h

theorem Canon.replayBound (h : Canon s) : Canon (s.replayBound x d p) := by
  unfold State.replayBound
  split
  · exact .ite h.replayDrop h
  · exact h

theorem Canon.execBind (h : Canon s) : CanonNext (execBind s) := by
  unfold Machine.execBind
  extract_lets d slot
  split
  · exact h
  split
  · exact h
  split
  · exact h.withdraw
  extract_lets cores granted
  split
  · exact h.unreserve
  exact Canon.schedTrace (Canon.popQueue (Canon.bindSlice (Canon.replayBound (Canon.dropGrants h.replayLog))))

theorem Canon.raiseBudget (h : Canon s) : Canon (s.raiseBudget n) := by
  unfold State.raiseBudget
  split
  · exact h
  split
  · exact .ite h.raiseLate h.raiseTrap
  · exact h

theorem Canon.execBudgetExhausted (h : Canon s) : CanonNext (execBudgetExhausted s) := h.raiseBudget

theorem Canon.successor {r : State × Bool} (h : Canon s) (e : s.successor d x i = some r) : Canon r.1 := by
  revert e
  unfold State.successor
  grind -ring -linarith [Canon, Canon.decrement]

theorem Canon.endSuccessor {v : Slice} {r : State × Bool} (h : Canon s) (e : s.endSuccessor v = some r) : Canon r.1 := by
  unfold State.endSuccessor at e
  split at e
  · cases e
    exact h
  · exact h.successor e

theorem Canon.execSliceEnd (h : Canon s) : CanonNext (execSliceEnd s) := by
  unfold Machine.execSliceEnd
  extract_lets n
  split
  · exact h
  extract_lets x done
  split
  · exact h
  split
  · exact h
  next e =>
    have he := (Canon.foldl h fun _ _ h => h.wayCleanAll).endSuccessor e
    exact Canon.freeSlice (Canon.endStopAt (Canon.completionRecord (Canon.schedTrace he)))

theorem Canon.execCurrentReturn (h : Canon s) : CanonNext (execCurrentReturn s) := Canon.foldl h fun _ _ h => h

theorem Canon.execHostStopAt (h : Canon s) : CanonNext (execHostStopAt s) := by
  unfold Machine.execHostStopAt
  extract_lets c core k bound
  split
  · exact h.hostStopAt
  · exact h
end
end Sys2Proof.Machine
end

section
namespace Sys2Proof.Machine

/-! ### Preparation of an engine's command -/

/-- The state that a step of a preparation leaves has canonical memory. -/
def CanonPrep {α : Type} : PrepRes α → Prop
  | .ok s _ _ | .fault s _ | .bad s _ _ => Canon s

/-- A step of a preparation leaves canonical memory canonical. -/
def Prepares {α : Type} (m : Prep α) : Prop := ∀ s p, Canon s → CanonPrep (m s p)

section
variable {α β : Type} {m : Prep α} {g : α → Prep β}

theorem Prepares.pure {a : α} : Prepares (prepPure a) := fun _ _ h => h

theorem Prepares.bind (hm : Prepares m) (hg : ∀ a, Prepares (g a)) : Prepares (prepBind m g) := by
  intro s p h
  have hs := hm s p h
  unfold prepBind
  generalize m s p = r at hs
  cases r with
  | ok t q a => exact hg a t q hs
  | fault | bad => exact hs

theorem CanonPrep.bind {s : State} {p : Bool} (h : Canon s) (hm : Prepares m) (hg : ∀ a, Prepares (g a)) :
    CanonPrep (prepBind m g s p) := hm.bind hg s p h

theorem CanonPrep.ite {r r' : PrepRes α} {c : Prop} [Decidable c] (hr : CanonPrep r) (hr' : CanonPrep r') :
    CanonPrep (if c then r else r') := by
  split
  · exact hr
  · exact hr'

theorem Prepares.ite {m' : Prep α} {c : Prop} [Decidable c] (hm : Prepares m) (hm' : Prepares m') :
    Prepares (if c then m else m') := by
  split
  · exact hm
  · exact hm'

theorem Prepares.map {f : β → Prep α} {l : List β} (hf : ∀ b, Prepares (f b)) : Prepares (prepMap f l) := by
  induction l with
  | nil => exact .pure
  | cons b l ih => exact .bind (hf b) fun _ => .bind ih fun _ => .pure

theorem Prepares.badBlock : Prepares (badBlock : Prep α) := fun _ _ h => h
theorem Prepares.badGeometry : Prepares (badGeometry : Prep α) := fun _ _ h => h
theorem Prepares.prepCheck {b : Bool} : Prepares (prepCheck b) := .ite .pure .badBlock
end

section
variable {c : VCmd} {va pa n v a die slot : Nat} {ws : List Nat} {d : Decoded}

theorem Prepares.prepBadRow : Prepares (prepBadRow c va pa) := by
  intro s p h
  exact .ite h.poisonRecord h

theorem Prepares.prepRead : Prepares (prepRead c va n) := by
  refine .bind (.map fun e s p h => ?_) fun _ => .pure
  split
  · exact h
  · exact .ite (Prepares.prepBadRow _ _ h) h

theorem Prepares.prepWords : Prepares (prepWords c va n) := .bind .prepRead fun _ => .pure

theorem Prepares.prepWrite : Prepares (prepWrite c va n v) := by
  refine .map fun e s p h => ?_
  split <;> exact h

theorem Prepares.prepWrites {l : List (Nat × Nat × Nat)} : Prepares (prepWrites c l) :=
  .bind (.map fun _ => .prepWrite) fun _ => .pure

theorem Prepares.prepPrivate {record store size : Nat} : Prepares (prepPrivate c record store size) := fun _ _ h =>
  .bind h .prepWrites fun _ => .pure

theorem Prepares.prepOpen : Prepares (prepOpen c die slot ws) :=
  .bind .prepCheck fun _ => .bind .prepPrivate fun _ _ _ h => h

theorem Prepares.prepStream {record : Nat} : Prepares (prepStream c die slot record) := by
  refine .bind .prepRead fun _ s p h => ?_
  split
  · exact h
  · exact .bind h .prepRead fun _ => .pure

theorem Prepares.prepClose : Prepares (prepClose c die slot ws) :=
  .bind .prepCheck fun _ => .bind .prepStream fun _ _ _ h => h

theorem Prepares.prepUnit {v : VStream} : Prepares (prepUnit c die slot d ws v) := by
  unfold Machine.prepUnit
  extract_lets w fin tag put
  have hput : ∀ v s, Canon s → Canon (put v s) := fun _ _ h => h
  refine .ite (fun _ _ h => hput _ _ h) (.ite (fun _ _ h => hput _ _ h) fun s p h => ?_)
  refine .bind ?_ .prepWrites fun _ => .bind .prepPrivate fun _ _ _ h => hput _ _ h
  exact .ite h h

theorem Prepares.prepTagged {m : Prep VCommit} {tag : Nat} (hm : Prepares m) : Prepares (prepTagged c tag m) := by
  intro s p h
  have hs := hm s p h
  unfold Machine.prepTagged
  generalize m s p = r at hs
  cases r with
  | ok | fault | bad => exact hs

theorem Prepares.prepDecode : Prepares (prepDecode c die slot d ws) :=
  .prepTagged (.bind .prepCheck fun _ => .bind .prepStream fun _ => .bind .prepRead fun _ => .prepUnit)

theorem Prepares.prepMask : Prepares (prepMask c ws) := by
  refine .bind .prepCheck fun _ => .bind .prepWords fun lw => .bind .prepWords fun fw => ?_
  dsimp only
  split
  · exact .badBlock
  · refine fun s p h => .ite h (.ite h (.bind h .prepRead fun _ => .bind .prepRead fun _ => .bind .prepRead fun _ => ?_))
    exact .bind .prepWrites fun _ => .bind .prepWrites fun _ => .pure

theorem Prepares.prepRfsh {layer : Nat} {tile : Option W64} : Prepares (prepRfsh c layer tile) := by
  refine .bind .prepCheck fun _ => .bind .prepWords fun lw => .bind .prepCheck fun _ => ?_
  dsimp only
  split
  · exact .bind .prepWrites fun _ => .pure
  · exact .ite .badBlock (.bind .prepRead fun _ => .bind .prepWrites fun _ => .pure)

theorem Prepares.prepMthr {form layer : Nat} : Prepares (prepMthr c form layer v) := by
  refine .bind .prepCheck fun _ => .bind .prepWords fun lw => .bind .prepCheck fun _ => ?_
  extract_lets old done
  have hdone : ∀ f n, Prepares (done f n) := fun _ _ => .bind .prepWrites fun _ => .pure
  split
  · exact hdone _ _
  · exact .ite .badBlock (hdone _ _)
  · exact .ite .badBlock (hdone _ _)

theorem Prepares.prepScrPart {q : Nat} : Prepares (prepScrPart c q n) := fun _ _ h =>
  .ite h (.ite (Prepares.prepBadRow _ _ h) h)

theorem Prepares.prepList {pool : Bool} : Prepares (prepList c pool a n) :=
  .ite .prepWords (.map fun _ => .bind (.map fun _ => .prepScrPart) fun _ => .pure)

theorem Prepares.prepTile {src tx ty tw th pb tb r : Nat} : Prepares (prepTile c src tx ty tw th pb tb r) :=
  .bind (.map fun _ => .prepRead) fun _ => .pure

theorem Prepares.prepGsx : Prepares (prepGsx c ws) := by
  refine .bind .prepCheck fun _ s p h => .ite h (.bind h .prepList fun l => ?_)
  refine .ite .badBlock (.ite .badGeometry (.ite .badBlock (.bind (.map fun _ => .prepTile) fun _ => ?_)))
  exact .ite .pure (.bind .prepWrites fun _ => .pure)

theorem Prepares.prepare : Prepares (prepare die slot d c) := by
  unfold Machine.prepare
  split
  · exact .prepRfsh
  · exact .prepRfsh
  · exact .prepMthr
  · exact .bind .prepWords fun _ => .ite (.ite .prepOpen (.ite .prepDecode (.ite .prepClose .badBlock)))
      (.ite (.ite .prepMask .badBlock) (.ite .prepGsx .badBlock))
end

/-! ### Running a command -/

section
variable {s : State} {c : VCmd} {die slot fuel : Nat} {rd ra rb : Reg} {scope : BitVec 5} {e : ScopeEntry}

theorem Keeps.effVideo {kind : Nat} : Keeps (effVideo kind rd ra rb scope e) := fun _ h =>
  .bind h .opEngine fun _ s h => .ite h (Keeps.effCommand s h)

theorem Keeps.effLayer {dd : BitVec 1} {src : State → VSource} : Keeps (effLayer rd scope dd src e) := fun s h =>
  Keeps.effCommand s h

theorem Canon.videoTrap {code : Nat} {t : Trap} (h : Canon s) : Canon (s.videoTrap die slot c code t) := by
  unfold State.videoTrap
  extract_lets _ u handler
  have hu : Canon u := h
  exact .ite hu.handlerFault hu.raiseHalt

theorem Canon.beginCommand {d : Decoded} (h : Canon s) : Canon (s.beginCommand die slot d c) := by
  unfold State.beginCommand
  extract_lets k u code w c'
  have hw : Canon w := Canon.traceRec h
  have hp : CanonPrep (prepare die slot d c' w false) := Prepares.prepare w false hw
  generalize prepare die slot d c' w false = r at hp
  cases r with
  | ok | bad => exact hp
  | fault => exact Canon.videoTrap hp

theorem Canon.commitWrite {w : VWrite} {t : State} (h : Canon s) (e : s.commitWrite c w = .ok t) : Canon t := by
  revert e
  unfold State.commitWrite
  grind -ring -linarith [Canon, State.setCore_mem, Canon.homeStore]

theorem Canon.commitWrites {l : List VWrite} (h : Canon s) : Canon (s.commitWrites c l).1 := by
  induction l generalizing s with
  | nil => exact h
  | cons w l ih =>
    unfold State.commitWrites
    split
    · next e => exact ih (h.commitWrite e)
    · exact h

theorem Canon.commitAppends {k : VCommit} (h : Canon s) : Canon (s.commitAppends die slot fuel k).1 := by
  induction fuel generalizing s k with
  | zero => exact h
  | succ fuel ih =>
    unfold State.commitAppends
    grind -ring -linarith [Canon, Canon.appendRing, Canon.logAppend]

theorem setEngine_mem {v : Engine} : (s.setEngine die slot v).mem = s.mem := rfl

theorem Canon.advanceCommit (h : Canon s) : Canon (s.advanceCommit die slot) := by
  unfold State.advanceCommit
  grind -ring -linarith [Canon, setEngine_mem, Canon.commitWrites, Canon.commitAppends, Canon.videoTrap]

theorem Canon.produce {element : W64} (h : Canon s) : Canon (s.produce die slot c element) := by
  have ht : Canon (if (s.ctx c.ctx).replayMode = 2 then s.replayUse c.ctx 5 (engineHandle die slot) 0
    else s.replayLog c.ctx 5 (engineHandle die slot) 0 0 (s.engine die slot).completions (c.core + c.seq * 2 ^ 8)) :=
    .ite h.replayUse h.replayLog
  exact ht

theorem Canon.endCommit (h : Canon s) : Canon (s.endCommit die slot) := by
  unfold State.endCommit
  extract_lets e
  split
  · exact h
  · exact .ite h (.ite h h.commitWrites.traceRec.produce)

theorem Canon.turnEngine (h : Canon s) : Canon (s.turnEngine die slot) := h

theorem Canon.engineEvent {kind : Nat → Bool} (h : Canon s) : Canon (s.engineEvent die slot kind) := by
  have ht : Canon (s.turnEngine die slot) := h.turnEngine
  unfold State.engineEvent
  generalize s.turnEngine die slot = t at ht
  dsimp only
  split
  · exact ht.advanceCommit
  · exact ht
  · split
    · exact ht
    · exact .ite ht.beginCommand.advanceCommit ht

theorem Canon.execOpenStream (h : Canon s) : CanonNext (execOpenStream s) := h.engineEvent
theorem Canon.execDecodeUnit (h : Canon s) : CanonNext (execDecodeUnit s) := h.engineEvent
theorem Canon.execCloseStream (h : Canon s) : CanonNext (execCloseStream s) := h.engineEvent
theorem Canon.execMaskCommand (h : Canon s) : CanonNext (execMaskCommand s) := h.engineEvent
theorem Canon.execGsxCommand (h : Canon s) : CanonNext (execGsxCommand s) := h.engineEvent
theorem Canon.execRfshCommand (h : Canon s) : CanonNext (execRfshCommand s) := h.engineEvent
theorem Canon.execMthrCommand (h : Canon s) : CanonNext (execMthrCommand s) := h.engineEvent

theorem Canon.execVideoCommandCompletion (h : Canon s) : CanonNext (execVideoCommandCompletion s) :=
  h.turnEngine.advanceCommit.endCommit

theorem Canon.execRingWaitExpired (h : Canon s) : CanonNext (execRingWaitExpired s) := by
  unfold Machine.execRingWaitExpired
  dsimp only
  split
  · exact h.expireWait
  · split
    · split
      · split
        · exact h.videoTrap
        · exact h
      · exact h
    · exact h
end
end Sys2Proof.Machine
end

section
namespace Sys2Proof.Machine

/-! ### Frames -/

/-- The state that the delivery of a frame leaves, where it leaves one, has canonical memory. -/
def CanonDelivery : Delivery → Prop
  | .done t | .stalled t => Canon t
  | .trap _ => True

/-- The state in which a turn finds its instruction, or stands, has canonical memory. -/
def CanonReady : Ready → Prop
  | .run t _ | .rest t => Canon t
  | .bad _ => True

section
variable {s : State} {core pc : Nat} {k : StreamId}

theorem Canon.deliver (h : Canon s) : CanonDelivery (s.deliver core k pc) := by
  unfold State.deliver
  dsimp only
  split
  · split
    · trivial
    · exact h
  split
  · exact h
  split
  · exact h
  split
  · trivial
  · exact h

theorem Canon.fetchHead (h : Canon s) : CanonDelivery s.fetchHead := by
  unfold State.fetchHead
  split
  · exact h
  · exact h.deliver

theorem Canon.ready (h : Canon s) : CanonReady s.ready := by
  have hf := h.fetchHead
  unfold State.ready
  generalize s.fetchHead = r at hf
  split
  · exact h
  cases r with
  | stalled => exact hf
  | trap => exact h.trapFetch
  | done t =>
    dsimp only
    split
    · exact hf
    split
    · exact Canon.trapFetch hf
    split
    · exact hf
    · trivial

theorem Canon.execFrameFetch (h : Canon s) : CanonNext (execFrameFetch s) := by
  unfold Machine.execFrameFetch
  dsimp only
  split
  · exact h
  split
  · exact h
  · next pc _ =>
    have hd : CanonDelivery (s.deliver s.ev.core s.ev.k pc) := h.deliver
    generalize s.deliver s.ev.core s.ev.k pc = r at hd
    cases r with
    | done | stalled => exact hd
    | trap => exact h
end

/-! ### Stops of a context -/

section
variable {s : State} {x core n : Nat} {k : StreamId} {c : MCmd}

theorem Canon.writeRecord {off : Nat} {words : List Nat} (h : Canon s) : Canon (s.writeRecord x off words) :=
  Canon.foldl h fun _ _ h => .ite h.homeStore h

theorem Canon.workBeside (h : Canon s) : Canon (s.workBeside core c n) :=
  .ite h.workCommand (.ite h (.ite h (Canon.setMatrix h.setMatrix.workCommand)))

theorem Canon.cutProgress {l : List Nat} (h : Canon s) : Canon (s.cutProgress x l) := by
  fun_induction State.cutProgress s x l with
  | case1 s core num n rest t ih =>
    refine ih ?_
    unfold t
    split
    · split
      · exact h.workBeside
      · exact h
    · exact h
  | case2 => exact h

theorem Canon.wholeUnits (h : Canon s) : Canon (s.wholeUnits x) := by
  refine Canon.foldl h fun s core h => ?_
  dsimp only
  split
  · exact .ite h.workBeside h
  · exact h

theorem Canon.cutStream (h : Canon s) : Canon (s.cutStream core k) := by
  unfold State.cutStream
  extract_lets t i cl u st rejoin
  have ht : Canon t := h.leaveSems
  exact Canon.setStream ht.setCluster

theorem Canon.stopCore (h : Canon s) : Canon (s.stopCore x core) := by
  unfold State.stopCore
  extract_lets t u tokq record v w y _ z z' q
  have hr : ∀ s k, Canon s → Canon (record s k) := fun _ _ h => h.traceWaitOf.writeRecord.traceRec
  have hu : Canon u := Canon.foldl h.landAll fun _ _ h => h
  have hv : Canon v := Canon.foldl hu hr
  have hy : Canon y := hv.writeRecord.traceRec
  have hz' : Canon z' := Canon.foldl hy.setCore fun _ _ h => h.cutStream
  exact hz'.leaveMatrixSems.setMatrix

theorem Canon.execContextStopped (h : Canon s) : CanonNext (execContextStopped s) := by
  unfold Machine.execContextStopped
  extract_lets x c
  split
  · exact h
  next t _ u _ _ _ _ _ _ =>
    have ht : Canon t := Canon.foldl h.cutProgress.wholeUnits fun _ _ h => h.stopCore
    have hu : Canon u := Canon.foldl ht fun _ _ h => h.writeRecord.traceRec
    exact hu.setCtx.traceFlushAll.withdrawAll.setPart

theorem Canon.execHandlerSliceBind (h : Canon s) : CanonNext (execHandlerSliceBind s) := by
  unfold Machine.execHandlerSliceBind
  dsimp only
  split
  · exact h
  split
  · exact h
  split
  · exact Canon.killContext (Canon.notify h)
  · exact Canon.bindSlice h

theorem Canon.skipMatrix (h : Canon s) : Canon (s.skipMatrix core) := by
  unfold State.skipMatrix
  dsimp only
  split
  · exact Canon.discardCommand h
  · exact h

theorem Canon.resumeCore {skip : Bool} (h : Canon s) : Canon (s.resumeCore core skip) :=
  .ite (Canon.skipMatrix h) h

theorem Canon.requeueSlice (h : Canon s) : Canon (s.requeueSlice n) := by
  unfold State.requeueSlice
  split
  · exact h
  · exact Canon.captureQueue (Canon.freeSlice (Canon.foldl h.dropCommands fun _ _ h => h.wayCleanAll))

theorem Canon.resumeContext {skip again : Bool} (h : Canon s) : Canon (s.resumeContext x skip again) :=
  .foldl (.foldl (Canon.foldl h fun _ _ h => h.requeueSlice) fun _ _ h => h.resumeCore) fun _ _ h => h.raiseBudget

theorem Canon.tretAction {a : TretAction} (h : Canon s) : Canon (s.tretAction x a) := by
  cases a with
  | kill => exact h.killContext
  | restart => exact h.resumeContext
  | resume => exact .ite h.resumeContext h.resumeContext
  | skip => exact .ite h.resumeContext h.resumeContext

theorem Canon.execHandlerSliceEnd (h : Canon s) : CanonNext (execHandlerSliceEnd s) := by
  unfold Machine.execHandlerSliceEnd
  dsimp only
  split
  · exact h
  split
  · split
    · exact h
    · next e =>
      have he := (Canon.foldl h fun _ _ h => h.wayCleanAll).endSuccessor e
      exact Canon.tretAction (Canon.freeSlice he)
  · exact h
end

/-! ### Traces, replay and dumps -/

section
variable {s : State} {x core n die slot va v a : Nat} {rd ra rb : Reg}

theorem Canon.execTraceFrameTimeout (h : Canon s) : CanonNext (execTraceFrameTimeout s) := by
  unfold Machine.execTraceFrameTimeout
  dsimp only
  split
  · exact Canon.ite h.traceFlush h
  · exact h

theorem Canon.starvedRecord {k : Nat} (h : Canon s) : Canon (s.starvedRecord x core k n) := h.mailbox.traceRec

theorem Canon.raiseWork {f : VCommit → Bool} (h : Canon s) : Canon (s.raiseWork die slot f) := by
  unfold State.raiseWork
  dsimp only
  split <;> exact h

theorem Canon.execReplayStarved (h : Canon s) : CanonNext (execReplayStarved s) := by
  unfold Machine.execReplayStarved
  grind -ring -linarith [Canon, CanonNext, Canon.raiseWork, Canon.starvedRecord, Canon.videoTrap, Canon.raiseTrap]

theorem Keeps.opTryStore : Keeps (opTryStore va n v) := by
  refine .bind (.access fun s h => ?_) fun _ => .pure
  have hw : CanonRes (Machine.writeUnit va n v s) := Keeps.writeUnit s h
  generalize Machine.writeUnit va n v s = r at hw
  cases r with
  | trap => exact h
  | ok | wait | req | pause => exact hw

theorem Keeps.opTrySpan {l : List (Nat × Nat × Nat)} : Keeps (opTrySpan v l) := by
  induction l with
  | nil => exact .pure
  | cons e l ih =>
    refine .bind .opTryStore fun bad => ?_
    split
    · exact .pure
    · exact ih

theorem Keeps.opTryBytes : Keeps (opTryBytes va n v) := .opTrySpan

theorem Keeps.opDumpRecords {room : Nat} {l : List DumpRecord} : Keeps (opDumpRecords va room a n l) := by
  induction l generalizing a n with
  | nil => exact .pure
  | cons r l ih =>
    refine .ite .pure (.bind .opTryBytes fun bad => ?_)
    split
    · exact .pure
    · exact ih

theorem Canon.dumpFault (h : Canon s) : Canon (s.dumpFault va a) := h.mailbox

theorem Keeps.opStopArea : Keeps (opStopArea x) :=
  .step fun _ h => .bind h (.map fun _ _ h => .ite (Keeps.uncorrectable _ h) h) fun _ => .pure

theorem Keeps.effDump : Keeps (effDump rd ra rb n) := by
  intro s h
  unfold Machine.effDump
  extract_lets x c va room word0 fail put
  have hfail : ∀ b, Keeps (fail b) := fun _ _ h => h.dumpFault
  have hput : ∀ a n v f, Keeps f → Keeps (put a n v f) := by
    refine fun a n v f hf => .bind .opTryBytes fun bad => ?_
    split
    · exact hfail _
    · exact hf
  refine .ite h (.ite h (.bind h .opStopArea fun _ => hput _ _ _ _ (.bind .opDumpRecords fun r => ?_)))
  split
  · exact hfail _
  · exact hput _ _ _ _ (.bind .releaseFixed fun _ => hput _ _ _ _ fun _ h => h)
end

/-! ### Translations and scans -/

section
variable {s : State} {x core d va : Nat}

theorem Canon.fillBuffers {e : TlbEntry} {levels : List Nat} (h : Canon s) : Canon (s.fillBuffers core x e levels) := by
  unfold State.fillBuffers
  grind -ring -linarith [Canon, State.setCore_mem, State.setCluster_mem, State.setDie_mem]

theorem Canon.startWalk (h : Canon s) : Canon (s.startWalk d x va) := .ite h h

theorem Canon.execPageWalk (h : Canon s) : CanonNext (execPageWalk s) := by
  unfold Machine.execPageWalk
  extract_lets x core d va own tables asked missed found t
  have ht : Canon t := by
    unfold t
    clear_value found
    split
    · exact h
    · exact h.fillBuffers
  split
  · exact h.startWalk
  split
  · exact h
  split
  · exact h
  · exact Canon.ite ht ht

theorem Canon.execInvalidationComplete (h : Canon s) : CanonNext (execInvalidationComplete s) := by
  unfold Machine.execInvalidationComplete
  dsimp only
  split
  · exact h
  split
  · exact h
  · exact Canon.foldl h fun _ _ h => Canon.foldl h.landAmons fun _ _ h => .ite h h.wayClean

theorem Canon.execScanComplete (h : Canon s) : CanonNext (execScanComplete s) := by
  unfold Machine.execScanComplete
  dsimp only
  split
  · exact h
  split
  · exact h
  split
  · split <;> exact h
  · split <;> exact h

theorem Canon.execIdleWake (h : Canon s) : CanonNext (execIdleWake s) := by
  unfold Machine.execIdleWake
  dsimp only
  split
  · exact Canon.ite (h.completeHead fun _ h => h) h
  · exact h

theorem Canon.execTileBusy (h : Canon s) : CanonNext (execTileBusy s) := by
  unfold Machine.execTileBusy
  dsimp only
  split
  · exact Canon.runForm h .opReshapeIssue fun _ => .effReshape
  · exact h
  · exact h
end
end Sys2Proof.Machine
end

section
namespace Sys2Proof.Machine

/-! ### The package -/

section
variable {s : State} {core n : Nat}

theorem Canon.packEvent {type bank row w1 w2 : Nat} (h : Canon s) : Canon (s.packEvent type core bank row w1 w2) := h.deviceAppend

theorem Canon.setPack {p : Pack} (h : Canon s) : Canon { s with pack := p } := h

theorem Canon.killAll (h : Canon s) : Canon s.killAll := Canon.foldl h fun _ _ h => .ite h.killContext h

theorem Canon.execMiosorFlitRetry (h : Canon s) : CanonNext (execMiosorFlitRetry s) := by
  unfold Machine.execMiosorFlitRetry
  dsimp only
  split
  · exact h
  · exact h.killAll.setPack.packEvent

theorem Canon.setStack {v : Stack} (h : Canon s) : Canon (s.setStack n v) := h

theorem Canon.execStackPauseEnd (h : Canon s) : CanonNext (execStackPauseEnd s) := by
  unfold Machine.execStackPauseEnd
  extract_lets j k k'
  split
  · exact h
  · split
    exact h.setStack.packEvent

theorem Canon.execSentinelUpdate (h : Canon s) : CanonNext (execSentinelUpdate s) := Canon.ite h.setStack.packEvent h.setStack

theorem Canon.execRowActivation (h : Canon s) : CanonNext (execRowActivation s) := by
  unfold Machine.execRowActivation
  dsimp only
  split <;> exact h

theorem Canon.setRegulator {v : Regulator} (h : Canon s) : Canon (s.setRegulator n v) := h
theorem Canon.stopClocks {ns : Nat} (h : Canon s) : Canon (s.stopClocks n ns) := h

theorem Canon.writeRegulator {v : W64} (h : Canon s) : Canon (s.writeRegulator n v) := by
  unfold State.writeRegulator
  dsimp only
  split
  · exact h
  split
  · exact h
  · exact .ite h.setRegulator.stopClocks h.setRegulator

theorem Canon.execRegulatorWrite (h : Canon s) : CanonNext (execRegulatorWrite s) := h.writeRegulator

theorem Canon.execRegulatorChangeDone (h : Canon s) : CanonNext (execRegulatorChangeDone s) := by
  unfold Machine.execRegulatorChangeDone
  dsimp only
  split
  · split
    · exact h
    split <;> exact h
  · exact h

theorem Canon.writeClusterPower {v : W64} (h : Canon s) : Canon (s.writeClusterPower n v) := h

theorem Canon.execRegulatorSwitch (h : Canon s) : CanonNext (execRegulatorSwitch s) := by
  unfold Machine.execRegulatorSwitch
  dsimp only
  split
  · split
    · exact Canon.ite h h
    split <;> exact h
  · exact h

theorem Canon.writeBallast {v : W64} (h : Canon s) : Canon (s.writeBallast v) := h

theorem Canon.execMeasurementUpdate (h : Canon s) : CanonNext (execMeasurementUpdate s) := by
  unfold Machine.execMeasurementUpdate
  dsimp only
  split <;> exact h

theorem Canon.execThermal (h : Canon s) : CanonNext (execThermal s) := by
  unfold Machine.execThermal
  extract_lets i t c was c' u _ _ w reached
  have hu : Canon u := h.setCluster
  have hw : Canon w := .ite hu.killAll.setPack hu
  exact Canon.ite hw.packEvent hw

theorem Canon.l2Bad {d p row : Nat} (h : Canon s) : Canon (s.l2Bad d p row) := .ite h h

theorem Canon.countError {l : EccLoc} (h : Canon s) : Canon (s.countError l) := by
  unfold State.countError
  grind -ring -linarith [Canon, State.setCore_mem, Canon.packEvent, Canon.setStack]

theorem Canon.execCeLasting (h : Canon s) : CanonNext (execCeLasting s) := by
  unfold Machine.execCeLasting
  split
  · exact Canon.ite h.l2Bad h
  · exact h.countError

theorem Canon.execPoolRowRetire (h : Canon s) : CanonNext (execPoolRowRetire s) := by
  unfold Machine.execPoolRowRetire
  dsimp only
  split
  · split
    · exact Canon.packEvent h
    · exact Canon.packEvent h
  · exact h
end

/-! ### Boot and attestation -/

section
variable {s : State}

theorem Canon.trainStacks {bad : List Nat} (h : Canon s) : Canon (s.trainStacks bad) := Canon.foldl h fun _ _ h => h.setStack

theorem Canon.boot {recovery : Bool} {bad : List Nat} (h : Canon s) : Canon (s.boot recovery bad) := by
  unfold State.boot
  dsimp only
  split
  · exact h
  · exact Canon.trainStacks h

theorem Canon.execRecoveryBlock (h : Canon s) : CanonNext (execRecoveryBlock s) := by
  unfold Machine.execRecoveryBlock
  dsimp only
  split
  · exact h
  split
  · exact Canon.trainStacks h
  · exact h

theorem Canon.execRecoveryCommit (h : Canon s) : CanonNext (execRecoveryCommit s) := by
  unfold Machine.execRecoveryCommit
  dsimp only
  split
  · split <;> exact h
  · exact h

theorem Canon.execGetCapabilities (h : Canon s) : CanonNext (execGetCapabilities s) := by
  unfold Machine.execGetCapabilities
  split <;> exact h

theorem Canon.execNegotiateAlgorithms (h : Canon s) : CanonNext (execNegotiateAlgorithms s) := by
  unfold Machine.execNegotiateAlgorithms
  split <;> exact h

theorem Canon.execGetDigests (h : Canon s) : CanonNext (execGetDigests s) := by
  unfold Machine.execGetDigests
  split <;> exact h

theorem Canon.execGetCertificate (h : Canon s) : CanonNext (execGetCertificate s) := by
  unfold Machine.execGetCertificate
  dsimp only
  split
  · exact h
  split <;> exact h

theorem Canon.execChallenge (h : Canon s) : CanonNext (execChallenge s) := by
  unfold Machine.execChallenge
  split
  · exact h
  split <;> exact h

theorem Canon.execGetMeasurements (h : Canon s) : CanonNext (execGetMeasurements s) := by
  unfold Machine.execGetMeasurements
  split
  · exact h
  split <;> exact h
end

/-! ### Registers of the host, and resets -/

section
variable {s : State} {x p q off : Nat} {v : W64}

theorem Canon.writeQueue (h : Canon s) : Canon (s.writeQueue q v) := .ite h (Canon.withdrawAll h)

theorem Canon.hostEnqueue (h : Canon s) : Canon (s.hostEnqueue q v) := .ite h (.ite h (.ite h h.appendQueue))

theorem Canon.writePartition (h : Canon s) : Canon (s.writePartition p off v) := by
  unfold State.writePartition
  dsimp only
  split
  · exact .ite h.setPart.coreFreed h.setPart
  · exact .ite h.setPart.coreFreed h.setPart
  · exact h
  · exact .ite h h
  · exact .ite h h
  · exact h

theorem Canon.writeL2Mode {d : Nat} (h : Canon s) : Canon (s.writeL2Mode d v) := .ite h (.ite h h)

theorem Canon.execL2ModeSwitch (h : Canon s) : CanonNext (execL2ModeSwitch s) := by
  unfold Machine.execL2ModeSwitch
  dsimp only
  split
  · exact h
  · exact Canon.foldl h.l2EvictAll fun _ _ h => h

theorem Canon.forget (h : Canon s) : Canon (s.forget x) := h

theorem Canon.installContext (h : Canon s) : Canon (s.installContext x v) := by
  unfold State.installContext
  dsimp only
  split
  · exact h
  · exact Canon.setCtx h.forget

theorem Canon.hostStop (h : Canon s) : Canon (s.hostStop x v) := .ite h.raiseHalt h

theorem Canon.writeReplay (h : Canon s) : Canon (s.writeReplay x v) := by
  unfold State.writeReplay
  dsimp only
  split
  · exact h
  · exact .ite (Canon.replayEnd h.setCtx.setCtx) h.setCtx.setCtx

theorem Canon.startScan (h : Canon s) : Canon (s.startScan x v) := by
  unfold State.startScan
  grind -ring -linarith [Canon, State.setCtx_mem]

theorem Canon.grantBudget (h : Canon s) : Canon (s.grantBudget x v) := h

theorem Canon.writeContext (h : Canon s) : Canon (s.writeContext x off v) := by
  unfold State.writeContext
  split
  · exact h.installContext
  · exact h.writeReplay
  · exact h
  · exact h
  · exact h.startInval
  · exact h
  · exact h.startScan
  · exact h.hostStop
  · exact h.grantBudget
  · exact h
  · exact h
  · exact h.scopeCommand
  · exact h

theorem Canon.resetContext (h : Canon s) : Canon (s.resetContext x) := by
  unfold State.resetContext
  extract_lets t off u
  have ht : Canon t := .ite h.killContext h
  clear_value t
  exact Canon.setCtx (Canon.forget ht)

theorem Canon.resetPartition (h : Canon s) : Canon (s.resetPartition p) := by
  unfold State.resetPartition
  extract_lets mine t u
  have ht : Canon t := h
  have hu : Canon u := Canon.foldl ht fun _ _ h => .ite h.resetContext h
  clear_value u
  exact hu

theorem Canon.resetModule {recovery : Bool} {bad : List Nat} : Canon (s.resetModule recovery bad) := Canon.boot reset_mem_wf

theorem Canon.writeReset (h : Canon s) : Canon (s.writeReset v) := by
  unfold State.writeReset
  dsimp only
  split
  · exact h.resetContext
  · exact .ite h.resetPartition h
  · exact .resetModule
  · exact h

theorem Canon.writePackage (h : Canon s) : Canon (s.writePackage off v) :=
  .ite (.ite h.writeRegulator h) (.ite h.writeBallast (.ite (.ite h.writeClusterPower h)
    (.ite (.ite h.setStack (.ite h.setStack h)) (.ite h (.ite h (.ite h.writeReset h))))))

theorem Canon.writeFabric (h : Canon s) : Canon (s.writeFabric off v) := by
  unfold State.writeFabric
  exact .ite h (.ite h.setPart (.ite h.setPart (.ite h h)))

theorem Canon.hostWrite (h : Canon s) : Canon (s.hostWrite off v) :=
  .ite h (.ite h.writeQueue (.ite h.hostEnqueue (.ite h.writePartition (.ite h.writeL2Mode (.ite h.writeContext
    (.ite h.writePackage (.ite h.writeFabric h)))))))

theorem Canon.maskVector {fn vec : Nat} {mask : Bool} (h : Canon s) : Canon (s.maskVector fn vec mask) := by
  unfold State.maskVector
  grind -ring -linarith [Canon, State.setPart_mem, Canon.send]

theorem Canon.setBar {fn gib : Nat} (h : Canon s) : Canon (s.setBar fn gib) := .ite h h

theorem Canon.execRegisterWrite (h : Canon s) : CanonNext (execRegisterWrite s) := by
  unfold Machine.execRegisterWrite
  split
  · exact h.maskVector
  split
  · exact h.setBar
  · exact h.hostWrite

theorem Canon.clearEvents {n : Nat} (h : Canon s) : Canon (s.clearEvents p n v) := h.setPart

theorem Canon.pass {ns : Nat} (h : Canon s) : Canon (s.pass ns) := by
  unfold State.pass
  split
  · extract_lets d t more
    have ht : Canon t := Canon.foldl h.elapse fun _ _ h => h.scopeStep
    clear_value t
    exact ht
  · exact h
end

/-! ### The fabric -/

section
variable {s : State} {rd ra rb : Reg} {a n fn off : Nat} {v : W64}

theorem Keeps.opRawPort {atomics : Bool} : Keeps (opRawPort atomics a n) := by
  refine .step fun s h => ?_
  split <;> exact h

theorem Keeps.effPwr : Keeps (effPwr ra rb n) := fun _ h =>
  .bind h .opRawPort fun _ => .bind .releaseFixed fun _ _ h => h.post

theorem Canon.setPair {r : Reg} {w : Nat} (h : Canon s) : Canon (s.setPair r n w) := .ite h h

theorem Keeps.effPamo {op ty : Nat} {ord : BitVec 2} : Keeps (effPamo rd ra rb op ord ty) := fun _ h =>
  .bind h .opRawPort fun _ => .bind (.ite .releaseFixed .pure) fun _ =>
    .bind (.step fun s h => Keeps.opLinkAtomic s h) fun _ => .bind (.ite .acquireFixed .pure) fun _ _ h => h.setPair

theorem Canon.homeBytesWrite {p : Option Nat} {bytes : List Byte} (h : Canon s) : Canon (s.homeBytesWrite p a bytes) :=
  Canon.foldl h fun _ _ h => h.homeStore

theorem Canon.barWrite (h : Canon s) : Canon (s.barWrite fn off v) := .ite h.hostWrite (.ite h.clearEvents h)

theorem Canon.execIncomingPostedWrite (h : Canon s) : CanonNext (execIncomingPostedWrite s) := by
  unfold Machine.execIncomingPostedWrite
  dsimp only
  split
  · split
    · exact Canon.foldl h fun _ _ h => h.barWrite
    · exact h
  · split
    · exact h.homeBytesWrite
    · exact h

theorem Canon.complete {r : Reply} (h : Canon s) : Canon (s.complete r) := h

theorem Canon.execIncomingRead (h : Canon s) : CanonNext (execIncomingRead s) := by
  unfold Machine.execIncomingRead
  dsimp only
  split
  · split <;> exact h
  · split <;> exact h

theorem Canon.execIncomingAtomicOp (h : Canon s) : CanonNext (execIncomingAtomicOp s) := by
  unfold Machine.execIncomingAtomicOp
  dsimp only
  split
  · exact h
  split
  · exact h
  split
  · exact h
  · exact h.homeAtomic.complete

theorem Canon.answerOut {core : Nat} {k : StreamId} {c : Completion} (h : Canon s) : Canon (s.answerOut core k n c) := by
  unfold State.answerOut
  dsimp only
  split <;> exact h

theorem Canon.execOutboundCompletion (h : Canon s) : CanonNext (execOutboundCompletion s) := by
  unfold Machine.execOutboundCompletion
  split
  · exact h.answerOut
  · exact h

theorem Canon.execCompletionTimeout (h : Canon s) : CanonNext (execCompletionTimeout s) := by
  unfold Machine.execCompletionTimeout
  split
  · exact Canon.ite h.answerOut h
  · exact h

theorem Canon.setTime {t : Nat} (h : Canon s) : Canon (s.setTime t) := .ite h h

theorem Canon.execPtmDialogue (h : Canon s) : CanonNext (execPtmDialogue s) := by
  unfold Machine.execPtmDialogue
  split
  · exact h
  extract_lets f
  split
  · exact h
  · exact Canon.ite h (Canon.setTime h)
end
end Sys2Proof.Machine
end

section
namespace Sys2Proof.Machine

/-! ### Instructions whose effect stands in their own definition -/

section
variable {s : State} {h : Head} {rd ra rb : Reg} {vd va vb : VReg} {pd : PReg} {ty : ElemTy} {rm : Rm}

theorem Canon.execVcmp {cond : BitVec 3} (hs : Canon s) : CanonNext (execVcmp h pd va vb ty cond s) :=
  hs.runLanes (.bind .opShape fun _ => .bind .opRegs fun _ => .bind .opImages fun _ _ h => .bind h .opWritePred fun _ _ h => h)

theorem Canon.execVsel {p : PReg} (hs : Canon s) : CanonNext (execVsel h vd va vb p ty s) :=
  hs.runLanes (.bind .opPredSrc fun _ => .effLanes)

theorem Canon.execVscan {excl : Bool} (hs : Canon s) : CanonNext (execVscan h vd va ty rm excl s) :=
  hs.runLanes (.bind .opShape fun _ => .bind .opRegs fun _ => .bind .opImage fun _ _ h => .bind h .opWriteElems fun _ _ h => h)

theorem Canon.execVsortk {km1 : BitVec 9} (hs : Canon s) : CanonNext (execVsortk h vd va vb km1 ty s) :=
  hs.runAccess (.bind .opShape fun _ => .bind .opRegs fun _ => .bind .opImage fun _ _ h =>
    .bind h .opWriteElems fun _ => .bind .opWriteElems fun _ _ h => h)

theorem Canon.execVtrans (hs : Canon s) : CanonNext (execVtrans h vd va ty s) :=
  hs.runAccess (.bind .opShape fun _ => .bind .opRegs fun _ => .bind .opImage fun _ => .bind .opWriteElems fun _ => .pure)

theorem Canon.execVrand (hs : Canon s) : CanonNext (execVrand h vd ty s) :=
  hs.runLanes (.effLanesThen fun _ _ _ h => h.advanceRand)

theorem Canon.execVdrop (hs : Canon s) : CanonNext (execVdrop h pd ra s) :=
  hs.runLanes (.bind .opShape fun _ _ h => .bind h .opWritePred fun _ _ h => h.advanceRand)

theorem Canon.execVpush (hs : Canon s) : CanonNext (execVpush h vd va vb ty s) :=
  hs.runLanes (.bind .opShape fun _ => .bind .opRegs fun _ => .bind .opImage fun _ _ h =>
    .bind h .opWriteElems fun _ => .bind .opWriteElems fun _ _ h => h)

theorem Canon.execVpop (hs : Canon s) : CanonNext (execVpop h vd va vb ty s) :=
  hs.runLanes (.bind .opShape fun _ => .bind .opRegs fun _ => .bind .opImages fun _ _ h => .bind h .opWriteElems fun _ _ h => h)

theorem Canon.execVpcnt (hs : Canon s) : CanonNext (execVpcnt h rd pd s) := hs.runLanes (.bind .opShape fun _ _ h => h)
theorem Canon.execVpfirst (hs : Canon s) : CanonNext (execVpfirst h rd pd s) := hs.runLanes (.bind .opShape fun _ _ h => h)

theorem Canon.execVextr (hs : Canon s) : CanonNext (execVextr h rd va rb ty s) :=
  hs.runAccess (.bind .opRegs fun _ => .bind .opImage fun _ _ h => h)

theorem Canon.execVins (hs : Canon s) : CanonNext (execVins h vd ra rb ty s) :=
  hs.runAccess (.bind .opRegs fun _ _ h => .bind h .opWriteElems fun _ => .pure)

theorem Canon.execVrdacc {a : Acc} {amax sat : Bool} (hs : Canon s) : CanonNext (execVrdacc h vd a ty rm amax sat s) :=
  hs.runAcc (.effLanesThen fun _ _ _ h => .ite h.updateAmax h)

theorem Canon.execVzacc {a : Acc} (hs : Canon s) : CanonNext (execVzacc h a s) := hs.runAcc (.bind .opWriteImage fun _ => .pure)

theorem Canon.execVlive (hs : Canon s) : CanonNext (execVlive h vd s) := hs.runAccess (.bind .opRegs fun _ _ h => h.lateWrite)

theorem Canon.execRset {ring : BitVec 4} (hs : Canon s) : CanonNext (execRset h rd ra rb ring s) := by
  refine hs.runHead (.effect fun s h => ?_)
  extract_lets st r r' t
  have ht : Canon t := .ite h h
  exact ht

theorem Canon.execRsetClr {ring : BitVec 4} (hs : Canon s) : CanonNext (execRsetClr h rd ring s) :=
  hs.runHead (.effect fun _ h => .ite h h)

theorem Canon.execRclaimRel {ring : BitVec 4} {n : BitVec 8} (hs : Canon s) : CanonNext (execRclaimRel h rd ring n s) :=
  hs.runHead (.bind .opRing fun _ _ h => .ite h h)

theorem Canon.execWenq {scope : BitVec 5} {limit : BitVec 17} {n : BitVec 7} (hs : Canon s) :
    CanonNext (execWenq h rd ra rb scope limit n s) :=
  hs.runCapture (.bind .captureScope fun _ _ h => .bind h .opWenqIssue fun _ => .pure) fun _ => .effWenq

theorem Canon.execDinfo {level : BitVec 4} {which : BitVec 2} (hs : Canon s) : CanonNext (execDinfo h rd level which s) :=
  hs.runHead (.bind .opDomain fun _ _ h => h)

theorem Canon.execXsemI {sem : BitVec 4} (hs : Canon s) : CanonNext (execXsemI h rd ra sem s) :=
  hs.runHead (.bind .opXsem fun _ => .effSemInit putXsem_keeps)

theorem Canon.execXsemW {limit : BitVec 12} {k : BitVec 6} {sem : BitVec 4} (hs : Canon s) :
    CanonNext (execXsemW h rd limit k sem s) :=
  hs.runHead (.bind .opXsem fun _ => .acquired (.effSemWait putXsem_keeps))

theorem Canon.execXsemTry {k : BitVec 6} {sem : BitVec 4} (hs : Canon s) : CanonNext (execXsemTry h rd k sem s) := by
  refine hs.runHead (.bind .opXsem fun _ s h => ?_)
  extract_lets took eff
  have he : Keeps eff := .effSemTry putXsem_keeps
  exact Keeps.ite he.acquired he s h

theorem Canon.execXsemS {k : BitVec 6} {sem : BitVec 4} (hs : Canon s) : CanonNext (execXsemS h rd k sem s) :=
  hs.runHead (.bind .opXsem fun _ => .bind .releaseFixed fun _ => .effSemSignal putXsem_keeps)

theorem Canon.execPfet {m : BitVec 5} {off : BitVec 24} (hs : Canon s) : CanonNext (execPfet h m ra off s) :=
  hs.runNow (.effect fun _ h => Canon.foldl h fun _ _ h => h.prefetch)

theorem Canon.execBudgChk {imm : BitVec 32} (hs : Canon s) : CanonNext (execBudgChk h rd imm s) := hs.runNow fun _ h => .ite h h
theorem Canon.execBrk {imm : BitVec 32} (hs : Canon s) : CanonNext (execBrk h imm s) := hs.runNow fun _ h => .ite h h
theorem Canon.execIdleCyc {imm : BitVec 32} (hs : Canon s) : CanonNext (execIdleCyc h imm s) := hs.runHead fun _ h => .ite h h
theorem Canon.execIdleUntil {imm : BitVec 32} (hs : Canon s) : CanonNext (execIdleUntil h ra imm s) :=
  hs.runHead fun _ h => .ite h h

theorem Canon.execWbinvRng {keep : Bool} (hs : Canon s) : CanonNext (execWbinvRng h rd ra rb keep s) :=
  hs.runHead fun s h => Keeps.effWbinv s h

theorem Canon.execNtfy {v : BitVec 8} (hs : Canon s) : CanonNext (execNtfy h ra v s) :=
  hs.runHead (.bind .releaseFixed fun _ _ h => h.notify)

theorem Canon.execTmark {tag : BitVec 16} (hs : Canon s) : CanonNext (execTmark h ra tag s) :=
  hs.runNow (.effect fun _ h => h.traceRec)

theorem Canon.execMonitorEviction (hs : Canon s) : CanonNext (execMonitorEviction s) := hs.l2EvictAll
end
end Sys2Proof.Machine
end

section
namespace Sys2Proof.Machine

/-! ### Every instruction and event -/

section
variable {s : State}

/-- Whatever it executes other than a loop-nest record, which executes instructions of its own. -/
theorem Canon.exec_of_not_loopNest {i : Instr} (h : Canon s) (hi : ∀ hd r, i ≠ .loopNestRecord hd r) : CanonNext (exec i s) := by
  cases i with
  | nop | add | addi | sub | mul | mulh | mulhn | div | divn | rem | remn | land | andi | lor | ori | lxor | xori | shl |
    shr | sha | shiL | shiR | shiA | min | max | minn | maxn | seq | slt | sltn | li | lih | madd | bfx | bfxS | bfi | clz |
    popc | sel | hash | vshape | pstat | rstatPos | rstatSpill | scget => exact h.runHead (.effect fun _ h => h)
  | b | bc | loop => exact h.runBranch (.effBranch fun _ h => h)
  | call => exact h.runBranch (.effLink .opTarget)
  | jr => exact h.runBranch (.effLink .opJumpTarget)
  | tok => exact h.runTok (.effect fun _ h => h)
  | mfs => exact h.runForm .pure fun _ => .effMfs
  | mts => exact h.runHead .effMts
  | yieldI => exact h.runHead .effYield
  | budgGet => exact h.runNow (.effect fun _ h => h)
  | budgChk => exact h.execBudgChk
  | trapI => exact h.runHead .trap
  | tretResume | tretSkip | tretRestart | tretKill => exact h.runHead .effTret
  | idleCyc => exact h.execIdleCyc
  | idleUntil => exact h.execIdleUntil
  | haltI => exact h.runHead fun _ h => h
  | brk => exact h.execBrk
  | loopNestRecord => exact absurd rfl (hi _ _)
  | vmov | vsplat | vadd | vsub | vmul | vfma | vfms | vdiv | vsqrt | vrsqrt | vrcp | vexp | vexp2 | vlog2 | vtanh | vsigm |
    vgelu | vmin | vmax | vminn | vmaxn | vabs | vneg | vand | vor | vxor | vshl | vshr | vscale | vperm | vidx | vlut |
    vclamp | vround | vmuls => exact h.runLanes .effLanes
  | vcmp => exact h.execVcmp
  | vsel => exact h.execVsel
  | vcvt => exact h.runLanes .effConvert
  | vrsum | vrmax | vrmin | vcsum => exact h.runLanes .effReduce
  | vscan => exact h.execVscan
  | vsortk => exact h.execVsortk
  | vtrans => exact h.execVtrans
  | vrmrg => exact h.runAccess (.bind .opRegs fun _ => .bind .opImages fun _ => .bind .opWriteImage fun _ => .pure)
  | vrand => exact h.execVrand
  | vdrop => exact h.execVdrop
  | vpush => exact h.execVpush
  | vpop => exact h.execVpop
  | vpand | vpor | vpnot => exact h.runLanes .effPred
  | vpcnt => exact h.execVpcnt
  | vpfirst => exact h.execVpfirst
  | vextr => exact h.execVextr
  | vins => exact h.execVins
  | vaddacc => exact h.runAcc .effLanes
  | vrdacc => exact h.execVrdacc
  | vzacc => exact h.execVzacc
  | vlive => exact h.execVlive
  | vliveNone => exact h.runHead (.effect fun _ h => h.lateWrite)
  | mmul | mmuls | mmulg | mmulz | mdrain | mscl | msclOff | mbias | mbiasOff | mact | mwld | mwstr | mwwait | mmeta | mfmt
    | mqst | mconv | mdwc | mtr | macc | mcpyOut | mcpyIn | msem => exact h.runMatrix
  | msync => exact h.runNow .effMsync
  | mabort => exact h.runNow .effMabort
  | ld => exact h.runAccess .effLd
  | st => exact h.runAccess .effSt
  | vld | vlds | vldx => exact h.runRows fun _ => .effRowLoad
  | vst | vsts | vstx => exact h.runRows fun _ => .effRowStore
  | touchR | touchW => exact h.runHead .effTouch
  | cpy | cpyw => exact h.runCapture .opCopyDesc fun _ => .effCopy
  | pfet => exact h.execPfet
  | poolReshape => exact h.runForm .opReshapeIssue fun _ => .effReshape
  | poolPin | poolUnpin => exact h.runTok .effPin
  | wbinvAll => exact h.runHead .effWbinv
  | wbinvRng => exact h.execWbinvRng
  | rset => exact h.execRset
  | rsetClr => exact h.execRsetClr
  | rput => exact h.runAccess .effRput
  | rget => exact h.runAccess .effRget
  | rclaim => exact h.runAccess .effRclaim
  | rclaimRel => exact h.execRclaimRel
  | rwaitf | rwaite => exact h.runHead .effRwait
  | wenq => exact h.execWenq
  | semi => exact h.runHead (.effSemInit putSem_keeps)
  | semw => exact h.runHead (.effSemWait putSem_keeps)
  | semwTry => exact h.runHead (.effSemTry putSem_keeps)
  | sems => exact h.runHead (.effSemSignal putSem_keeps)
  | mark => exact h.runTok .effMark
  | fenceRel | fenceAcq | fenceFull => exact h.runScope fun _ => .effFence
  | epush => exact h.runScope fun _ => .effEpush
  | epop => exact h.runHead .effEpop
  | detach => exact h.runHead (.effect fun _ h => h.detach)
  | joinOpen => exact h.runHead .effJoinOpen
  | join => exact h.runHead .effJoin
  | dsync => exact h.runForm .captureScope fun _ => .effDsync
  | dphaseComp | dphaseComm => exact h.runHead .effPhase
  | cbcast => exact h.runTok .effCbcast
  | dinfo => exact h.execDinfo
  | xsemI => exact h.execXsemI
  | xsemW => exact h.execXsemW
  | xsemTry => exact h.execXsemTry
  | xsemS => exact h.execXsemS
  | scset => exact h.runCapture .opScopeImage fun _ => .effScset
  | amo => exact h.runScope fun _ => .effAmo
  | amon => exact h.runScope fun _ => .effAmon
  | acas => exact h.runScope fun _ => .effAcas
  | marm => exact h.runHead .effMarm
  | mwait => exact h.runForm (.once fun _ h => h) fun _ => .effMwait
  | vdec | mask | gsx => exact h.runScope fun _ => .effVideo
  | rfshLayer | rfshTile | mthrThr | mthrLim | mthrNref => exact h.runScope fun _ => .effLayer
  | enq | enqR => exact h.runHead .effEnq
  | depDec => exact h.runCapture .opDepIssue fun _ => .effDep fun _ _ => .effDecrement
  | depDecr => exact h.runCapture (fun s h => Keeps.opDepIssue s h) fun _ s h => Keeps.effDep (fun _ _ => .effDecrement) s h
  | depArm => exact h.runCapture .opDepIssue fun _ => .effDep fun _ _ => .effArm
  | pwr => exact h.runHead .effPwr
  | pamoAdd | pamoSwap | pamoCas => exact h.runHead .effPamo
  | tmark => exact h.execTmark
  | dump => exact h.runAccess .effDump
  | ntfy => exact h.execNtfy
  | idleWake => exact h.execIdleWake
  | matrixCommandStart => exact h.execMatrixCommandStart
  | matrixCommandComplete => exact h.execMatrixCommandComplete
  | matrixSemExpired => exact h.execMatrixSemExpired
  | touchWindowExpiry | spuriousEvent | seedWrite | bgrantWrite | stopatWrite | getVersion | spdmUnsupported | retrain |
    laneRepair | refreshWindowStart | clusterPowerWrite | eolUpdate | instructionRetire | portLinkChange => exact h
  | tileBusy => exact h.execTileBusy
  | ringWaitExpired => exact h.execRingWaitExpired
  | spillMove => exact h.execSpillMove
  | semWaitExpired | markWaitExpired | engineWaitExpired | domExpired | tokenWaitExpired => exact h.expireWait
  | joinExpired => exact h.execJoinExpired
  | monitorEviction => exact h.execMonitorEviction
  | mwaitExpired => exact h.execMwaitExpired
  | openStream => exact h.execOpenStream
  | decodeUnit => exact h.execDecodeUnit
  | closeStream => exact h.execCloseStream
  | maskCommand => exact h.execMaskCommand
  | gsxCommand => exact h.execGsxCommand
  | rfshCommand => exact h.execRfshCommand
  | mthrCommand => exact h.execMthrCommand
  | heldEnqueueEntry => exact h.execHeldEnqueueEntry
  | frameFetch => exact h.execFrameFetch
  | driftRelease => exact h.execDriftRelease
  | pageWalk => exact h.execPageWalk
  | tinvWrite => exact h.startInval
  | invalidationComplete => exact h.execInvalidationComplete
  | xscanWrite => exact h.startScan
  | scanComplete => exact h.execScanComplete
  | hostStopAt => exact h.execHostStopAt
  | selectionRound => exact h.execSelectionRound
  | controlIntervalStart => exact h.execControlIntervalStart
  | reserve => exact h.execReserve
  | reservationRetry => exact h.execReservationRetry
  | grantLapse => exact h.execGrantLapse
  | bind => exact h.execBind
  | budgetExhausted => exact h.execBudgetExhausted
  | sliceEnd => exact h.execSliceEnd
  | currentReturn => exact h.execCurrentReturn
  | contextStopped => exact h.execContextStopped
  | handlerSliceBind => exact h.execHandlerSliceBind
  | handlerSliceEnd => exact h.execHandlerSliceEnd
  | traceFrameTimeout => exact h.execTraceFrameTimeout
  | replayStarved => exact h.execReplayStarved
  | registerWrite => exact h.execRegisterWrite
  | queueControlWrite => exact Canon.ite h.writeQueue h
  | hostEnqueue => exact Canon.ite h.hostEnqueue h
  | partitionWrite => exact Canon.ite h.writePartition h
  | l2ModeWrite => exact h.writeL2Mode
  | l2ModeSwitch => exact h.execL2ModeSwitch
  | contextInstall => exact Canon.ite h.installContext h
  | hostStop => exact h.hostStop
  | scopeCommand => exact h.scopeCommand
  | eventWordClear => exact Canon.ite h.clearEvents h
  | resetContext => exact Canon.ite h.resetContext h
  | resetPartition => exact Canon.ite h.resetPartition h
  | resetModule | hotReset | coldBoot => exact Canon.resetModule
  | functionLevelReset => exact Canon.ite h.resetPartition .resetModule
  | recoveryBlock => exact h.execRecoveryBlock
  | recoveryCommit => exact h.execRecoveryCommit
  | getCapabilities => exact h.execGetCapabilities
  | negotiateAlgorithms => exact h.execNegotiateAlgorithms
  | getDigests => exact h.execGetDigests
  | getCertificate => exact h.execGetCertificate
  | challenge => exact h.execChallenge
  | getMeasurements => exact h.execGetMeasurements
  | incomingPostedWrite => exact h.execIncomingPostedWrite
  | incomingRead => exact h.execIncomingRead
  | incomingAtomicOp => exact h.execIncomingAtomicOp
  | outboundCompletion => exact h.execOutboundCompletion
  | completionTimeout => exact h.execCompletionTimeout
  | ptmDialogue => exact h.execPtmDialogue
  | miosorFlitRetry => exact h.execMiosorFlitRetry
  | stackPauseEnd => exact h.execStackPauseEnd
  | sentinelUpdate => exact h.execSentinelUpdate
  | rowActivation => exact h.execRowActivation
  | regulatorWrite => exact h.execRegulatorWrite
  | regulatorChangeDone => exact h.execRegulatorChangeDone
  | regulatorSwitch => exact h.execRegulatorSwitch
  | thermal => exact h.execThermal
  | measurementUpdate => exact h.execMeasurementUpdate
  | ceLasting => exact h.execCeLasting
  | poolRowRetire => exact h.execPoolRowRetire
  | videoCommandCompletion => exact h.execVideoCommandCompletion

/-- An instruction that a loop-nest record may issue executes as it does by itself; any other does nothing. -/
theorem loopExec_eq_exec_or_next (i : Instr) :
    (loopExec i s = exec i s ∧ ∀ hd r, i ≠ .loopNestRecord hd r) ∨ loopExec i s = .next s := by
  cases i with
  | vmov | vsplat | vadd | vsub | vmul | vfma | vfms | vdiv | vsqrt | vrsqrt | vrcp | vexp | vexp2 | vlog2 | vtanh | vsigm |
    vgelu | vmin | vmax | vminn | vmaxn | vabs | vneg | vand | vor | vxor | vshl | vshr | vcmp | vsel | vcvt | vscale |
    vrsum | vrmax | vrmin | vcsum | vscan | vsortk | vtrans | vperm | vrmrg | vrand | vdrop | vpush | vpop | vidx | vlut |
    vpand | vpor | vpnot | vclamp | vround | vmuls | vaddacc | vrdacc | vzacc | mmul | mmuls | mmulg | mmulz | mdrain | mwld
    | mwstr | mconv | mdwc | mtr | macc | mcpyOut | mcpyIn | vld | vst | vlds | vsts | vldx | vstx | cpy | cpyw =>
    exact .inl ⟨rfl, nofun⟩
  | _ => exact .inr rfl

theorem Canon.loopExec {i : Instr} (h : Canon s) : CanonNext (loopExec i s) := by
  obtain ⟨e, hi⟩ | e := loopExec_eq_exec_or_next i
  · rw [e]
    exact h.exec_of_not_loopNest hi
  · rw [e]
    exact h

theorem Keeps.expandRecord {hd : Head} {r : LnRec} : Keeps (expandRecord hd r) := by
  refine fun s h => .ite h (.ite h ?_)
  split
  · exact h
  · next i _ =>
    have hl : CanonNext (Machine.loopExec i { s with expanding := true, expanded := false }) := Canon.loopExec h
    generalize Machine.loopExec i { s with expanding := true, expanded := false } = o at hl
    split
    · exact .ite hl hl
    · exact h

theorem Keeps.issueExpansion {hd : Head} {r : LnRec} : Keeps (issueExpansion hd r) := fun _ h =>
  .ite (.bind h .expandRecord fun _ => .pure) h

theorem Canon.execLoopNestRecord {hd : Head} {r : LnRec} (h : Canon s) : CanonNext (execLoopNestRecord hd r s) := by
  unfold Machine.execLoopNestRecord
  extract_lets run
  have hrun : ∀ t, Canon t → CanonNext (run t) := fun _ ht => ht.runForm .issueExpansion fun _ => .expandRecord
  have hs := hrun s h
  generalize run s = o at hs
  split
  · split
    · exact hs
    split
    · exact hrun _ hs
    · exact hs
  · exact hs

theorem Canon.exec {i : Instr} (h : Canon s) : CanonNext (exec i s) := by
  by_cases hi : ∃ hd r, i = .loopNestRecord hd r
  · obtain ⟨hd, r, rfl⟩ := hi
    exact h.execLoopNestRecord
  · exact h.exec_of_not_loopNest fun hd r e => hi ⟨hd, r, e⟩

theorem Canon.of_exec {t : State} {i : Instr} (e : Machine.exec i s = .next t) (h : Canon s) : Canon t := by
  have hr : CanonNext (Machine.exec i s) := h.exec
  rwa [e] at hr

/-! ### Steps -/

theorem Canon.of_ready_rest {t : State} (e : s.ready = .rest t) (h : Canon s) : Canon t := by
  have hr := h.ready
  rwa [e] at hr

theorem Canon.of_ready_run {t : State} {i : Instr} (e : s.ready = .run t i) (h : Canon s) : Canon t := by
  have hr := h.ready
  rwa [e] at hr

theorem Canon.turn {core : Nat} {k : StreamId} {only late : Bool} {steps : Option (List Nat)} (h : Canon s) :
    CanonNext (s.turn core k only steps late) := by
  unfold State.turn
  split
  · trivial
  split
  · next e => exact Canon.of_ready_rest e h
  · trivial
  · next e => exact Canon.exec (.of_ready_run e h)

theorem Canon.issueAhead {core : Nat} {k : StreamId} (h : Canon s) : CanonNext (s.issueAhead core k) := by
  unfold State.issueAhead
  extract_lets t st
  have ht : Canon t := h
  split
  · trivial
  split
  · exact ht
  split
  · exact ht
  extract_lets front
  split
  · next e =>
    split
    · exact ht
    split
    · next u eu =>
      have hu := Canon.of_exec eu (Canon.of_ready_run e ht)
      exact CanonNext.ite hu.setSt ht
    · exact ht
  · exact ht

theorem Canon.act {a : Act} (h : Canon s) : CanonNext (s.act a) := by
  cases a with
  | turn | issue | part | late => exact h.turn
  | ahead => exact h.issueAhead
  | land => exact h.land
  | append => exact h.policies.serveAppend
  | event => exact .ite (Canon.exec h) trivial
  | elapse => exact h.pass

theorem Canon.step (h : Canon s) : CanonNext (step s) := by
  unfold Machine.step
  split
  · exact h.turn
  · exact Canon.act h
end

/-- Settles O57: `Memory.wf` is an invariant of every function that a step composes, since only a store at a home and the
eviction of a home's lines write memory, and both write it through `memWriteMasked`. -/
theorem everyStepKeepsMemoryCanonical : Obligations.EveryStepKeepsMemoryCanonical := by
  intro s t hs e
  have h := Canon.step hs
  rwa [e] at h

end Sys2Proof.Machine
end

section
/-! PROOF of O59. -/

namespace Sys2Proof.Machine

/-! ### What reset leaves -/

theorem reset_core (c : Nat) : State.reset.core c = {} := rfl

theorem reset_stream (c : Nat) (k : StreamId) : State.reset.stream c k = {} := by cases k <;> rfl

/-- The only table that reset fills: cluster `i` draws on regulator `i` div 12. -/
theorem reset_cluster {i : Nat} (h : i < 48) : State.reset.cluster i = { reg := i / 12 } := by
  revert i; decide

/-- Settles O59: reset lists nothing but the clusters, and every other table reads its default. -/
theorem resetLeavesTheStatedValues : Obligations.ResetLeavesTheStatedValues := by
  refine ⟨fun _ => rfl, fun _ => rfl, fun c k => ?_, fun _ => rfl, fun _ => ⟨rfl, rfl⟩, fun _ => ⟨rfl, rfl, rfl, rfl, rfl⟩,
    fun d c hd hc => ?_, fun _ => ⟨rfl, rfl, rfl, fun _ => ⟨rfl, rfl⟩⟩, rfl, rfl, rfl, rfl, rfl⟩
  · rw [reset_stream, reset_core]; exact ⟨rfl, rfl, rfl, rfl, rfl⟩
  · rw [reset_cluster (by omega)]; exact ⟨by dsimp only; omega, rfl, rfl, rfl, rfl, rfl⟩

end Sys2Proof.Machine
end

section
/-! PROOF of O5. A special register reads from its core alone (`State.readSr_own`), so that the step of the head between its
issue and its effect does not show. -/

namespace Sys2Proof.Machine
open Sys2Proof.Safety

/-! ### Reads of special registers -/

/-- An instruction that nothing holds and that captures nothing runs as one that nothing can hold. -/
theorem runForm_unheld {h : Head} {f : Form} {hold : State → Option (WaitKind × Nat)} {eff : Op Flow} {s : State}
    (w : s.issueOnly = false) (c : s.chosen = none) (n : hold s = none) :
    runForm h f hold (opPure ()) (fun _ => eff) s = runTok h f eff s := by
  unfold runTok runForm State.runExpanded
  rw [State.now_eq w c]
  simp only [n, noHold, ite_self]

theorem Core.seenBy_settled {c : Core} (k : StreamId) (h : c.pending = []) : c.seenBy k = c := by
  simp [Core.seenBy, h]

/-- Of a core with no write still to be seen, a stream reads its special registers from that core alone. -/
theorem State.readSr_own (s : State) (n core : Nat) (k : StreamId) (p : (s.core core).pending = []) :
    s.readSr n core k true = ({ s with cores := [(core, s.core core)] } : State).readSr n core k true := by
  have hc : ({ s with cores := [(core, s.core core)] } : State).core core = s.core core := if_pos rfl
  have hs : ({ s with cores := [(core, s.core core)] } : State).sliceOf core = s.sliceOf core := by
    simp only [State.sliceOf, hc]; rfl
  simp only [State.readSr, State.statusWord, State.predWord, State.cycleReg, State.ctxOf, State.stream, hc, hs, Core.seenBy_settled k p]
  rfl

/-- A core whose executing stream stands before another step of its head. -/
def Core.atStep (c : Core) (k : StreamId) (i : Nat) : Core := c.setStream k { c.stream k with noteIdx := i }

theorem Core.atStep_hc (c : Core) (k j : StreamId) (i : Nat) : ((c.atStep k i).stream j).hc = (c.stream j).hc := by
  cases k <;> cases j <;> rfl

/-- The step of its effect that a head stands before is in no special register. -/
theorem State.readSr_noteIdx (s : State) (n i : Nat) (p : s.cur.pending = []) :
    (s.setSt { s.st with noteIdx := i }).readSr n s.curCore s.curK true = s.readSr n s.curCore s.curK true := by
  have hc : (s.setSt { s.st with noteIdx := i }).core s.curCore = s.cur.atStep s.curK i := s.cur_setSt _
  have hp : (s.cur.atStep s.curK i).pending = [] := (Core.setStream_pending _ _ _).trans p
  rw [State.readSr_own _ _ _ _ (hc ▸ hp), hc, s.readSr_own n s.curCore s.curK p]
  have h1 (d : Core) : ({ s with cores := [(s.curCore, d)] } : State).core s.curCore = d := if_pos rfl
  have h2 (d : Core) : ({ s.setSt { s.st with noteIdx := i } with cores := [(s.curCore, d)] } : State).core s.curCore = d := if_pos rfl
  show ({ s.setSt { s.st with noteIdx := i } with cores := _ } : State).readSr _ _ _ _ = ({ s with cores := [(s.curCore, s.cur)] } : State).readSr _ _ _ _
  simp only [State.readSr, State.statusWord, State.predWord, State.cycleReg, State.ctxOf, State.sliceOf, State.stream, h1, h2,
    Core.seenBy_settled _ p, Core.seenBy_settled _ hp, if_true, Core.atStep_hc]
  cases s.curK <;> rfl

/-! ### The state in which an `mfs` or `mts` takes its effect -/

theorem State.slice_issued (s : State) (h : Head) (f : Form) : (s.issued h f).cur.slice = s.cur.slice := by
  obtain ⟨t, keys, e⟩ := s.issued_eq h f
  rw [e]; simp

theorem State.sliceOf_issued (s : State) (h : Head) (f : Form) : (s.issued h f).sliceOf s.curCore = s.sliceOf s.curCore :=
  congrArg (fun o => Option.bind o s.slice) (s.slice_issued h f)

theorem State.isHandler_issued (s : State) (h : Head) (f : Form) : (s.issued h f).isHandler = s.isHandler := by
  simp only [State.isHandler, State.issued_curCore, State.issued_curK, s.sliceOf_issued]

theorem State.curCtx_issued (s : State) (h : Head) (f : Form) : (s.issued h f).curCtx = s.curCtx := by
  simp only [State.curCtx, State.ctxOf, State.issued_curCore, s.sliceOf_issued]

/-- Where no access is redirected, an access reaches the stream's own register. -/
theorem srTarget_issued {s : State} (u : Undirected s) (h : Head) (f : Form) (n : Nat) :
    (s.issued h f).srTarget n = some (s.curCore, s.curK, true) := by
  have off : (s.isHandler && (s.ctx s.curCtx).htgtEn) = false := by
    cases hh : s.isHandler
    · rfl
    · exact u hh
  have off' : ((s.issued h f).isHandler && ((s.issued h f).ctx (s.issued h f).curCtx).htgtEn) = false := by
    rw [s.isHandler_issued, s.curCtx_issued]; exact off
  simp only [State.srTarget, off', Bool.false_and, Bool.false_eq_true, if_false, State.issued_curCore, State.issued_curK]

theorem exec_mfs {h : Head} {rd : Reg} {sr : BitVec 12} {pc : PcWord} {s : State} (r : CanIssue h 1 pc s) (n : mfsHold sr s = none) :
    exec (.mfs h rd sr) s = runTok h { now := true } (effMfs rd sr) s :=
  runForm_unheld r.whole.1 r.whole.2.1 n

theorem mfsHold_none {sr : BitVec 12} (a : sr ≠ 0x043) (b : sr ≠ 0x044) (s : State) : mfsHold sr s = none := by
  simpa [mfsHold] using fun _ => ⟨fun e => absurd e a, fun e => absurd e b⟩

/-- An `mfs` that its level allows and nothing redirects sets its register to what the register reads in the state of its issue. -/
theorem mfs_sets {h : Head} {rd : Reg} {sr : BitVec 12} {pc : PcWord} {s : State} (r : CanIssue h 1 pc s) (g : s.guardBit h = true)
    (u : Undirected s) (hold : mfsHold sr s = none) (lvl : srReadH sr.toNat = true → s.isHandler = true) (ne : sr ≠ 0x040) :
    Sets (.mfs h rd sr) h 1 pc rd ((s.issueHead h {}).readSr sr.toNat s.curCore s.curK true) s := by
  refine sets (exec_mfs r hold) r (.inr g) rfl (.inl rfl) ?_
  have allowed : (srReadH sr.toNat && !(s.issued h { now := true }).isHandler) = false := by
    rw [s.isHandler_issued]
    cases e : srReadH sr.toNat
    · rfl
    · simp [lvl e]
  have nat : sr.toNat ≠ 0x040 := fun e => ne (BitVec.eq_of_toNat_eq e)
  have read : (s.issued h { now := true }).readSr sr.toNat s.curCore s.curK true = (s.issueHead h {}).readSr sr.toNat s.curCore s.curK true := by
    refine (s.issueHead h {}).readSr_noteIdx _ 0 ?_
    have := s.issued_pending h {}
    simpa [State.issued, r.settled.1] using this
  simp only [effMfs, allowed, Bool.false_eq_true, if_false, srTarget_issued u, nat, read]

/-- The registers of O5 in which the state's own value stands, with that value. -/
def stateRegs (s : State) : List (BitVec 12 × W64) :=
  [(0x000, BitVec.ofNat 64 s.curK.num), (0x001, BitVec.ofNat 64 s.curCore), (0x002, BitVec.ofNat 64 s.curCtx),
    (0x003, BitVec.ofNat 64 s.curPart), (0x004, s.st.rc), (0x005, s.st.pc.setWidth 64), (0x007, s.st.tlim.setWidth 64),
    (0x00A, s.st.pwsel.setWidth 64), (0x010, BitVec.ofNat 64 s.time), (0x012, s.budget.setWidth 64), (0x020, 32),
    (0x021, s.cur.dom.setWidth 64), (0x030, s.cur.amax), (0x032, s.cur.srkey), (0x033, s.cur.srctr),
    (0x034, s.cur.vrkey), (0x035, s.cur.vrctr), (0x050, s.st.lnpos), (0x071, s.st.vsp),
    (0x070, BitVec.ofNat 64 (s.st.vshapeRows.toNat + s.st.vshapeCols.toNat * 2 ^ 16)),
    (0x081, s.cur.matrix.mlim.setWidth 64)]

theorem readSr_stateRegs {s : State} (p : s.cur.pending = []) : ∀ e ∈ stateRegs s, s.readSr e.1.toNat s.curCore s.curK true = e.2 := by
  have hc : (s.core s.curCore).seenBy s.curK = s.cur := Core.seenBy_settled _ p
  have hb : s.readSr 0x012 s.curCore s.curK true = s.budget.setWidth 64 := by
    simp only [State.readSr, State.budget]
    cases s.sliceOf s.curCore <;> rfl
  have hst : s.cur.stream s.curK = s.st := rfl
  simp only [stateRegs, List.forall_mem_cons, BitVec.reduceToNat, hb]
  simp [State.readSr, hc, hst, w64, State.deviceTime, State.curCtx, State.curPart]

/-- None of these registers is of HANDLER level, and none may hold its reader. -/
theorem stateRegs_user (s : State) : ∀ e ∈ stateRegs s, srReadH e.1.toNat = false ∧ e.1 ≠ 0x040 ∧ e.1 ≠ 0x043 ∧ e.1 ≠ 0x044 := by
  simp [stateRegs, srReadH]

theorem State.slice_issueHead (s : State) (h : Head) (f : Form) : (s.issueHead h f).cur.slice = s.cur.slice := by
  obtain ⟨t, keys, e⟩ := s.issueHead_eq h f
  rw [e]; simp

/-- What the head's issue changes is none of these registers. -/
theorem stateRegs_issueHead (s : State) (h : Head) : stateRegs (s.issueHead h {}) = stateRegs s := by
  have hs : (s.issueHead h {}).sliceOf (s.issueHead h {}).curCore = s.sliceOf s.curCore :=
    congrArg (fun o => Option.bind o s.slice) (s.slice_issueHead h {})
  have hx : (s.issueHead h {}).curCtx = s.curCtx := by simp only [State.curCtx, State.ctxOf, hs]
  have hb : (s.issueHead h {}).budget = s.budget := by simp only [State.budget, hs]
  have hp : (s.issueHead h {}).curPart = s.curPart := by simp only [State.curPart, hx]; rfl
  simp only [stateRegs, hx, hb, hp]
  obtain ⟨t, keys, e⟩ := s.issueHead_eq h {}
  simp only [e]
  simp

/-- Settles O5: an `mfs` takes its effect at its issue, where the register reads as after the head's pops, and the issue changes none of
the listed registers. -/
theorem specialRegisterReads : Obligations.SpecialRegisterReads := by
  intro h rd sr pc s r g u
  constructor
  · intro lvl a b c
    refine mfs_sets r g u (mfsHold_none b c s) (fun l => lvl ?_) a
    simpa [srReadH] using l
  · intro e m
    obtain ⟨user, a, b, c⟩ := stateRegs_user s e m
    have p : (s.issueHead h {}).cur.pending = [] := by simpa [State.issued] using (s.issued_pending h {}).trans r.settled.1
    rw [← readSr_stateRegs p e (by rw [stateRegs_issueHead]; exact m)]
    exact mfs_sets r g u (mfsHold_none b c s) (by simp [user]) a

end Sys2Proof.Machine
end

section
/-! PROOF of O6. An `mts` writes one register of its core or of its stream (`Core.writeSr`), or one word of a predicate (`opPredBits`);
what the listed registers show (`shown`) depends on nothing that the issue and the retirement of a head change. -/

namespace Sys2Proof.Machine
open Sys2Proof.Safety

/-! ### Words and their fields -/

theorem or_eq_add_of_masks {n : Nat} (a b m : BitVec n) : (a &&& ~~~m) + (b &&& m) = a &&& ~~~m ||| b &&& m := by
  refine BitVec.add_eq_or_of_and_eq_zero _ _ ?_
  ext i hi
  cases e : m[i] <;> simp [e]

theorem masks_split {n : Nat} (a m : BitVec n) : (a &&& ~~~m) + (a &&& m) = a := by
  rw [or_eq_add_of_masks]
  ext i hi
  cases e : m[i] <;> simp [e]

theorem ofNat_and {n : Nat} (x y : Nat) : BitVec.ofNat n (x &&& y) = BitVec.ofNat n x &&& BitVec.ofNat n y := by
  refine BitVec.eq_of_getLsbD_eq fun i hi => ?_
  simp [hi]

/-- Bits under a mask replaced, in numbers and in words. -/
theorem ofNat_replace {n : Nat} (o : BitVec n) (m v : Nat) :
    BitVec.ofNat n (o.toNat - (o.toNat &&& m) + (v &&& m)) = o &&& ~~~ BitVec.ofNat n m ||| BitVec.ofNat n v &&& BitVec.ofNat n m := by
  have sum : BitVec.ofNat n (o.toNat - (o.toNat &&& m)) + BitVec.ofNat n (o.toNat &&& m) = o := by
    rw [← BitVec.ofNat_add, Nat.sub_add_cancel Nat.and_le_left, BitVec.ofNat_toNat, BitVec.setWidth_eq]
  have kept : BitVec.ofNat n (o.toNat - (o.toNat &&& m)) = o &&& ~~~ BitVec.ofNat n m := by
    rw [ofNat_and, BitVec.ofNat_toNat, BitVec.setWidth_eq] at sum
    exact (BitVec.add_left_inj _).mp (sum.trans (masks_split o (BitVec.ofNat n m)).symm)
  rw [BitVec.ofNat_add, kept, ofNat_and, or_eq_add_of_masks]

/-- Of 64-bit words laid out after each other, bit `i` of the mask of word `w`. -/
theorem testBit_wordMask (w i : Nat) : ((2 ^ 64 - 1) * 2 ^ (64 * w)).testBit i = decide (i / 64 = w) := by
  rw [Nat.testBit_mul_two_pow, Nat.testBit_two_pow_sub_one, Bool.eq_iff_iff]
  simp only [Bool.and_eq_true, decide_eq_true_eq]
  omega

/-- Of a predicate with a 64-bit word replaced, each bit. -/
theorem getLsbD_replaceWord (o : BitVec 2048) (w : Nat) (v : W64) {i : Nat} (h : i < 2048) :
    (BitVec.ofNat 2048 (o.toNat - (o.toNat &&& (2 ^ 64 - 1) * 2 ^ (64 * w)) + (v.toNat * 2 ^ (64 * w) &&& (2 ^ 64 - 1) * 2 ^ (64 * w)))).getLsbD i =
      if i / 64 = w then v.getLsbD (i % 64) else o.getLsbD i := by
  rw [ofNat_replace]
  simp only [BitVec.getLsbD_or, BitVec.getLsbD_and, BitVec.getLsbD_not, BitVec.getLsbD_ofNat, testBit_wordMask, h, decide_true, Bool.true_and]
  by_cases e : i / 64 = w
  · subst e
    have : i - 64 * (i / 64) = i % 64 := by omega
    simp [Nat.testBit_mul_two_pow, this, Nat.mul_div_le, BitVec.getLsbD]
  · simp [e]

/-- The low fields of a word, by its bits. -/
theorem getLsbD_w64_fields {m n k i : Nat} (a : BitVec m) (b : BitVec n) (h : m ≤ k) (hi : i < 64) :
    (w64 (a.toNat + b.toNat * 2 ^ k)).getLsbD i = if i < k then a.getLsbD i else b.getLsbD (i - k) := by
  have lt : a.toNat < 2 ^ k := lt_of_lt_of_le a.isLt (Nat.pow_le_pow_right (by omega) h)
  rw [w64, BitVec.getLsbD_ofNat, Nat.add_comm, Nat.mul_comm, Nat.testBit_two_pow_mul_add _ lt]
  simp only [hi, decide_true, Bool.true_and]
  split <;> rfl

/-- The lowest `n` bits of a word. -/
theorem lowField_eq_and (v : W64) (n : Nat) : (v.extractLsb' 0 n).setWidth 64 = v &&& BitVec.ofNat 64 (2 ^ n - 1) := by
  refine BitVec.eq_of_getLsbD_eq fun i hi => ?_
  rw [BitVec.getLsbD_setWidth, BitVec.getLsbD_extractLsb', BitVec.getLsbD_and, BitVec.getLsbD_ofNat, Nat.testBit_two_pow_sub_one]
  simp [hi, Bool.and_comm]

/-- Two fields of a word in their places. -/
theorem twoFields_eq_and (v : W64) {m k : Nat} (n : Nat) (h : m ≤ k) :
    w64 ((v.extractLsb' 0 m).toNat + (v.extractLsb' k n).toNat * 2 ^ k) =
      v &&& w64 ((BitVec.allOnes m).toNat + (BitVec.allOnes n).toNat * 2 ^ k) := by
  refine BitVec.eq_of_getLsbD_eq fun i hi => ?_
  rw [getLsbD_w64_fields _ _ h hi, BitVec.getLsbD_and, getLsbD_w64_fields _ _ h hi]
  split
  · simp [Bool.and_comm]
  · have : k + (i - k) = i := by omega
    simp [this, Bool.and_comm]

/-! ### The registers that `mts` writes field by field -/

/-- A stream after a write of one of its own registers. -/
def Stream.writeSr (st : Stream) (n : Nat) (v : W64) : Stream :=
  match n with
  | 0x006 => { st with flags := st.flags &&& ~~~ v.extractLsb' 0 6, rm := v.extractLsb' 7 3 }
  | 0x007 => { st with tlim := v.extractLsb' 0 32 }
  | 0x00A => { st with pwsel := v.extractLsb' 0 8 }
  | 0x070 => { st with vshapeRows := v.extractLsb' 0 12, vshapeCols := v.extractLsb' 16 12 }
  | 0x071 => { st with vsp := v &&& 0x30FFF0FFF }
  | 0x090 => { st with lsxStride := v.extractLsb' 0 32, lsxIreg := v.extractLsb' 48 9 }
  | 0x0A0 => { st with hcsel := v.extractLsb' 0 10 }
  | _ => st

/-- A core after a stream's write of a register, its own or one of core scope. -/
def Core.writeSr (c : Core) (k : StreamId) (n : Nat) (v : W64) : Core :=
  if isLateSr n then c.putSr n v else c.setStream k ((c.stream k).writeSr n v)

/-- The registers of O6 whose writable fields are all that they show, and the mask of those fields. -/
def maskedRegs : List (BitVec 12 × W64) :=
  [(0x007, 0xFFFFFFFF), (0x00A, 0xFF), (0x030, 0x1FFFFFFFF), (0x032, 0xFFFFFFFFFFFFFFFF), (0x033, 0xFFFFFFFFFFFFFFFF),
    (0x034, 0xFFFFFFFFFFFFFFFF), (0x035, 0xFFFFFFFFFFFFFFFF), (0x070, 0x0FFF0FFF), (0x071, 0x30FFF0FFF),
    (0x081, 0xFFFFFFFF), (0x090, 0x01FF0000FFFFFFFF), (0x0A0, 0x3FF)]

/-- What such a register shows, of a core and a stream of it. -/
def shown (c : Core) (st : Stream) (n : Nat) : W64 :=
  match n with
  | 0x007 => st.tlim.setWidth 64
  | 0x00A => st.pwsel.setWidth 64
  | 0x030 => c.amax
  | 0x032 => c.srkey
  | 0x033 => c.srctr
  | 0x034 => c.vrkey
  | 0x035 => c.vrctr
  | 0x070 => w64 (st.vshapeRows.toNat + st.vshapeCols.toNat * 2 ^ 16)
  | 0x071 => st.vsp
  | 0x081 => c.matrix.mlim.setWidth 64
  | 0x090 => w64 (st.lsxStride.toNat + st.lsxIreg.toNat * 2 ^ 48)
  | 0x0A0 => st.hcsel.setWidth 64
  | _ => 0

theorem readSr_maskedRegs {s : State} (p : s.cur.pending = []) :
    ∀ e ∈ maskedRegs, s.readSr e.1.toNat s.curCore s.curK true = shown s.cur s.st e.1.toNat := by
  have hc : (s.core s.curCore).seenBy s.curK = s.cur := Core.seenBy_settled _ p
  have hst : s.cur.stream s.curK = s.st := rfl
  simp [maskedRegs, State.readSr, shown, hc, hst]

/-- Two records of a stream agree in its scalar registers and in what its retirement looks at. -/
def SameHead (st su : Stream) : Prop :=
  st.x = su.x ∧ st.rc = su.rc ∧ st.kind = su.kind ∧ st.cls = su.cls ∧ st.poisonDue = su.poisonDue ∧ st.ahead = su.ahead

theorem sameHead_writeSr (st : Stream) (n : Nat) (v : W64) : SameHead (st.writeSr n v) st := by
  unfold Stream.writeSr; split <;> exact ⟨rfl, rfl, rfl, rfl, rfl, rfl⟩

theorem Core.putSr_rest (c : Core) (n : Nat) (v : W64) :
    (c.putSr n v).tokq = c.tokq ∧ (c.putSr n v).pending = c.pending ∧ (c.putSr n v).preds = c.preds ∧ (c.putSr n v).pool = c.pool ∧
      ∀ k, (c.putSr n v).stream k = c.stream k := by
  unfold Core.putSr; split <;> exact ⟨rfl, rfl, rfl, rfl, fun k => by cases k <;> rfl⟩

theorem Core.writeSr_rest (c : Core) (k : StreamId) (n : Nat) (v : W64) :
    (c.writeSr k n v).tokq = c.tokq ∧ (c.writeSr k n v).pending = c.pending ∧ (c.writeSr k n v).preds = c.preds ∧
      (c.writeSr k n v).pool = c.pool := by
  obtain ⟨a, b, d, e, -⟩ := c.putSr_rest n v
  unfold Core.writeSr; split
  · exact ⟨a, b, d, e⟩
  · simp

theorem Core.writeSr_stream (c : Core) (k : StreamId) (n : Nat) (v : W64) :
    (c.writeSr k n v).stream k = if isLateSr n then c.stream k else (c.stream k).writeSr n v := by
  unfold Core.writeSr; split
  · exact (c.putSr_rest n v).2.2.2.2 k
  · simp

/-- The registers of the list show what was written to them under their masks, and what they showed where another was written. -/
theorem shown_writeSr (c : Core) (k : StreamId) (v : W64) : ∀ e ∈ maskedRegs, ∀ g ∈ maskedRegs, g.1 ≠ e.1 →
    shown (c.writeSr k e.1.toNat v) ((c.writeSr k e.1.toNat v).stream k) g.1.toNat = shown c (c.stream k) g.1.toNat := by
  simp only [Core.writeSr_stream]
  simp [maskedRegs, shown, isLateSr, Core.writeSr, Core.putSr, Stream.writeSr]

theorem shown_writeSr_same (c : Core) (k : StreamId) (v : W64) : ∀ e ∈ maskedRegs,
    shown (c.writeSr k e.1.toNat v) ((c.writeSr k e.1.toNat v).stream k) e.1.toNat = v &&& e.2 := by
  simp only [Core.writeSr_stream]
  simp [maskedRegs, shown, isLateSr, Core.writeSr, Core.putSr, Stream.writeSr, -BitVec.extractLsb'_toNat]
  exact ⟨lowField_eq_and v 32, lowField_eq_and v 8, (BitVec.and_allOnes (x := v)).symm, twoFields_eq_and v (m := 12) (k := 16) 12 (by decide),
    lowField_eq_and v 32, twoFields_eq_and v (m := 32) (k := 48) 9 (by decide), lowField_eq_and v 10⟩

/-! ### `mts` completes -/

/-- An instruction whose effect changes its own core alone, and nothing there that a retirement looks at, completes: it leaves the core
and the stream of its effect. -/
theorem completes_setCur {i : Instr} {h : Head} {pc : PcWord} {s : State} {eff : Op Flow} {c : Core}
    (i' : exec i s = runTok h {} eff s) (r : CanIssue h 1 pc s) (g : s.guardBit h = true)
    (e : eff (s.issued h {}) = .ok ((s.issued h {}).setCur c) .next) (q : c.tokq = (s.issued h {}).cur.tokq)
    (p : c.pending = (s.issued h {}).cur.pending) (same : SameHead (c.stream s.curK) (s.issued h {}).st) :
    ∃ t, exec i s = .next t ∧ Retired h 1 pc s t ∧ { t with cores := [] } = { s with cores := [] } ∧
      (∀ d, d ≠ s.curCore → t.core d = s.core d) ∧ coreRest s.curK t.cur = coreRest s.curK c ∧
      streamRest t.st = streamRest (c.stream s.curK) ∧ t.st.x = s.st.x := by
  have hst : ((s.issued h {}).setCur c).st = c.stream s.curK := State.st_setCur _ _
  have hcur : ((s.issued h {}).setCur c).cur = c := State.cur_setCur _ _
  obtain ⟨x, rc, kind, cls, due, ahead⟩ := same
  obtain ⟨-, x0, rc0, kind0, cls0, due0, ahead0⟩ := s.issued_st h {}
  obtain ⟨-, -, -, -, sound⟩ := r.untaken
  obtain ⟨-, -, -, alone⟩ := r.waiting
  obtain ⟨t, e1, ret, dev, oth, core, st, x'⟩ := completes (u := (s.issued h {}).setCur c) r (.inr g) rfl e rfl rfl
    (by rw [hcur, q]) (by rw [hcur, p, s.issued_pending, r.settled.1]) (by rw [hst, rc, rc0]) (by rw [hst, kind, kind0]; exact .inl rfl)
    (by rw [hst, cls, cls0, r.free.2]) (by rw [hst, due, due0, sound]) (by rw [hst, ahead, ahead0, alone])
  refine ⟨t, i'.trans e1, ret, dev.trans (s.issued_dev h {}), fun d hd => ?_, ?_, ?_, ?_⟩
  · rw [oth d hd, State.core_setCur_other _ _ (by simpa using hd)]
    exact (s.issued_core h (f := {}) (by decide)).2 d hd
  · rw [core, hcur]
  · rw [st, hst]
  · rw [x', hst, x, x0]

theorem landOwn_settled {s : State} (p : s.cur.pending = []) (n : Nat) : s.landOwn n = s := by
  have : (s.core s.curCore).pending.isEmpty = true := by
    have : (s.core s.curCore).pending = [] := p
    rw [this]; rfl
  rw [State.landOwn, if_pos this]

/-- The registers that a stream writes without a request: those of the list and `%status`. -/
theorem writeOwnSr_eq {s : State} (l : s.late = false) (p : s.cur.pending = []) (v : W64) :
    ∀ n ∈ 0x006 :: maskedRegs.map fun e => e.1.toNat, s.writeOwnSr n v = s.setCur (s.cur.writeSr s.curK n v) := by
  simp [maskedRegs, State.writeOwnSr, isLateSr, State.lateWrite, landOwn_settled p, l, Core.writeSr, State.writeSr, Stream.writeSr]
  exact ⟨rfl, rfl, rfl, rfl, rfl, rfl, rfl⟩

/-- `mts` of a register that a stream writes without a request, where nothing redirects it. -/
theorem effMts_own {h : Head} {pc : PcWord} {s : State} (r : CanIssue h 1 pc s) (u : Undirected s) (ra : Reg) (sr : BitVec 12)
    (m : sr.toNat ∈ 0x006 :: maskedRegs.map fun e => e.1.toNat) :
    effMts ra sr (s.issued h {}) = .ok ((s.issued h {}).setCur ((s.issued h {}).cur.writeSr s.curK sr.toNat (s.rx ra))) .next := by
  have late : (s.issued h {}).late = false := r.whole.2.2
  have settled : (s.issued h {}).cur.pending = [] := (s.issued_pending h {}).trans r.settled.1
  have plain : ∀ n ∈ 0x006 :: maskedRegs.map fun e => e.1.toNat, srWriteH n = false ∧ n ≠ 0x042 ∧ n ≠ 0x044 ∧ n ≠ 0x00B := by decide
  obtain ⟨user, a, b, c⟩ := plain _ m
  simp only [effMts, user, Bool.false_and, Bool.false_eq_true, if_false, a, b, c, srTarget_issued u, Bool.not_true, State.issued_rx,
    writeOwnSr_eq late settled (s.rx ra) _ m, State.issued_curK]

theorem sameHead_core_writeSr (c : Core) (k : StreamId) (n : Nat) (v : W64) : SameHead ((c.writeSr k n v).stream k) (c.stream k) := by
  rw [Core.writeSr_stream]
  split
  · exact ⟨rfl, rfl, rfl, rfl, rfl, rfl⟩
  · exact sameHead_writeSr _ n v

/-- `mts` of such a register completes, and leaves the core of the issue with that register written. -/
theorem mts_completes {h : Head} {pc : PcWord} {s : State} (r : CanIssue h 1 pc s) (g : s.guardBit h = true) (u : Undirected s) (ra : Reg)
    (sr : BitVec 12) (m : sr.toNat ∈ 0x006 :: maskedRegs.map fun e => e.1.toNat) :
    let c := (s.issued h {}).cur.writeSr s.curK sr.toNat (s.rx ra)
    ∃ t, exec (.mts h ra sr) s = .next t ∧ Retired h 1 pc s t ∧ { t with cores := [] } = { s with cores := [] } ∧
      (∀ d, d ≠ s.curCore → t.core d = s.core d) ∧ coreRest s.curK t.cur = coreRest s.curK c ∧
      streamRest t.st = streamRest (c.stream s.curK) ∧ t.st.x = s.st.x := by
  intro c
  obtain ⟨tokq, pending, -, -⟩ := (s.issued h {}).cur.writeSr_rest s.curK sr.toNat (s.rx ra)
  exact completes_setCur rfl r g (effMts_own r u ra sr m) tokq pending (sameHead_core_writeSr _ _ _ _)

/-- What the listed registers show does not depend on what a head changes. -/
theorem shown_rest (k : StreamId) (c : Core) (st : Stream) : ∀ e ∈ maskedRegs, shown (coreRest k c) (streamRest st) e.1.toNat = shown c st e.1.toNat := by
  simp [maskedRegs, shown, coreRest, streamRest, Stream.clearHead]

theorem shown_congr {k : StreamId} {c d : Core} {st su : Stream} (hc : coreRest k c = coreRest k d) (hs : streamRest st = streamRest su)
    (e : BitVec 12 × W64) (m : e ∈ maskedRegs) : shown c st e.1.toNat = shown d su e.1.toNat := by
  rw [← shown_rest k c st e m, hc, hs, shown_rest k d su e m]

theorem coreRest_eq {k : StreamId} {c d : Core} (h : coreRest k c = coreRest k d) :
    c.pending = d.pending ∧ c.preds = d.preds ∧ c.pool = d.pool := by
  have get {α : Type} (f : Core → α) (i : ∀ c, f (coreRest k c) = f c) : f c = f d := by rw [← i c, h, i]
  exact ⟨get Core.pending fun c => Core.setStream_pending _ _ _, get Core.preds fun c => Core.setStream_preds _ _ _,
    get Core.pool fun c => Core.setStream_pool _ _ _⟩

/-- The registers and the memory of a state that has the stream's registers and everything but the cores of another. -/
theorem regs_mem_same {s t : State} (x : t.st.x = s.st.x) (dev : ({ t with cores := [] } : State) = { s with cores := [] }) :
    RegsBut 0 s t ∧ MemSame s t := by
  refine ⟨fun q _ => ?_, fun a => ?_⟩
  · simp only [State.rx, Stream.reg, x]
  · have hm : ({ t with cores := [] } : State).mem = ({ s with cores := [] } : State).mem := by rw [dev]
    exact congrArg (memRead · a) hm

theorem flags_eq {st su : Stream} (h : streamRest st = streamRest su) : st.flags = su.flags := by
  have : (streamRest st).flags = (streamRest su).flags := by rw [h]
  exact this

theorem Stream.writeSr_flags (st : Stream) (v : W64) : ∀ e ∈ maskedRegs, (st.writeSr e.1.toNat v).flags = st.flags := by
  simp [maskedRegs, Stream.writeSr]

theorem Core.writeSr_flags (c : Core) (k : StreamId) (v : W64) (e : BitVec 12 × W64) (m : e ∈ maskedRegs) :
    ((c.writeSr k e.1.toNat v).stream k).flags = (c.stream k).flags := by
  rw [Core.writeSr_stream]
  split
  · rfl
  · exact Stream.writeSr_flags _ v e m

/-- `mts` of a listed register completes, writes its fields and leaves the others of the list. -/
theorem mts_maskedRegs {h : Head} {pc : PcWord} {s : State} (r : CanIssue h 1 pc s) (g : s.guardBit h = true) (u : Undirected s) (ra : Reg)
    (e : BitVec 12 × W64) (m : e ∈ maskedRegs) :
    Completes (.mts h ra e.1) h 1 pc s fun t =>
      t.readSr e.1.toNat s.curCore s.curK true = s.rx ra &&& e.2 ∧
      (∀ g ∈ maskedRegs, g.1 ≠ e.1 → t.readSr g.1.toNat s.curCore s.curK true = s.readSr g.1.toNat s.curCore s.curK true) ∧
      RegsBut 0 s t ∧ MemSame s t ∧ t.cur.preds = s.cur.preds ∧ t.cur.pool = s.cur.pool ∧ t.st.flags = s.st.flags ∧
      (∀ c, c ≠ s.curCore → t.core c = s.core c) ∧ { t with cores := [] } = { s with cores := [] } := by
  obtain ⟨t, step, ret, dev, others, core, stream, x⟩ := mts_completes r g u ra e.1 (List.mem_cons_of_mem _ (List.mem_map_of_mem m))
  obtain ⟨-, pending, preds, pool⟩ := (s.issued h {}).cur.writeSr_rest s.curK e.1.toNat (s.rx ra)
  obtain ⟨pending', preds', pool'⟩ := coreRest_eq core
  have issuedCore := (s.issued_core h (f := {}) (by decide)).1
  have issuedStream := (s.issued_st h {}).1
  obtain ⟨-, preds0, pool0⟩ := coreRest_eq issuedCore
  have settled : t.cur.pending = [] := pending'.trans (pending.trans ((s.issued_pending h {}).trans r.settled.1))
  have read (q : BitVec 12 × W64) (mq : q ∈ maskedRegs) : t.readSr q.1.toNat s.curCore s.curK true = shown t.cur t.st q.1.toNat := by
    rw [← ret.core, ← ret.stream]; exact readSr_maskedRegs settled q mq
  obtain ⟨regs, mem⟩ := regs_mem_same x dev
  refine ⟨t, step, ret, ?_, fun q mq ne => ?_, regs, mem, preds'.trans (preds.trans preds0), pool'.trans (pool.trans pool0), ?_, others, dev⟩
  · rw [read e m, shown_congr core stream e m]
    exact shown_writeSr_same _ _ _ e m
  · rw [read q mq, readSr_maskedRegs r.settled.1 q mq, shown_congr core stream q mq, shown_writeSr _ _ _ e m q mq ne]
    exact shown_congr issuedCore issuedStream q mq
  · exact (flags_eq stream).trans ((Core.writeSr_flags _ _ _ e m).trans (flags_eq issuedStream))

/-! ### `%status` -/

theorem coreRest_setStream (k : StreamId) (c : Core) (st : Stream) : coreRest k (c.setStream k st) = coreRest k c := by
  cases k <;> rfl

/-- A stream without its sticky flags and its rounding field. -/
def Stream.offFlags (st : Stream) : Stream := { st with flags := 0, rm := 0 }

theorem offFlags_writeSr (st : Stream) (v : W64) : Stream.offFlags (streamRest (st.writeSr 6 v)) = Stream.offFlags (streamRest st) := rfl

/-- The `%status` clause of O6. -/
theorem mts_status {h : Head} {pc : PcWord} {s : State} (r : CanIssue h 1 pc s) (g : s.guardBit h = true) (u : Undirected s) (ra : Reg) :
    Completes (.mts h ra 0x006) h 1 pc s fun t =>
      (∀ i, i < 6 → t.st.flags.getLsbD i = (s.st.flags.getLsbD i && !(s.rx ra).getLsbD i)) ∧
      t.st.rm = (s.rx ra).extractLsb' 7 3 ∧ t.st.last = s.st.last ∧
      Kept id id Stream.offFlags s t ∧ RegsBut 0 s t ∧ MemSame s t := by
  obtain ⟨t, step, ret, dev, others, core, stream, x⟩ := mts_completes r g u ra 0x006 (by simp)
  have own : isLateSr (0x006 : BitVec 12).toNat = false := by decide
  have written : streamRest t.st = streamRest ((s.issued h {}).st.writeSr 6 (s.rx ra)) := by
    rw [stream, Core.writeSr_stream, own]; rfl
  have before := (s.issued_st h {}).1
  have get {α : Type} (f : Stream → α) (i : ∀ st, f (streamRest st) = f st) :
      f t.st = f ((s.issued h {}).st.writeSr 6 (s.rx ra)) ∧ f (s.issued h {}).st = f s.st := by
    rw [← i t.st, written, i, ← i (s.issued h {}).st, before, i]; exact ⟨rfl, rfl⟩
  obtain ⟨flags, flags0⟩ := get Stream.flags fun _ => rfl
  obtain ⟨regs, mem⟩ := regs_mem_same x dev
  refine ⟨t, step, ret, fun i hi => ?_, (get Stream.rm fun _ => rfl).1, ?_, ⟨dev, others, ?_, ?_⟩, regs, mem⟩
  · rw [flags, ← flags0]
    simp [Stream.writeSr, hi]
  · obtain ⟨a, b⟩ := get Stream.last fun _ => rfl
    exact a.trans b
  · have c : coreRest s.curK t.cur = coreRest s.curK s.cur := by
      rw [core, Core.writeSr, own]
      exact (coreRest_setStream _ _ _).trans (s.issued_core h (f := {}) (by decide)).1
    rwa [State.cur, ret.core] at c
  · have : Stream.offFlags (streamRest t.st) = Stream.offFlags (streamRest s.st) := by
      rw [written, offFlags_writeSr, before]
    rwa [State.st, ret.stream, State.cur, ret.core] at this

/-! ### `%pword` -/

theorem Core.setPred_stream (c : Core) (p : PReg) (v : BitVec 2048) (k : StreamId) : (c.setPred p v).stream k = c.stream k := by
  unfold Core.setPred; split
  · rfl
  · cases k <;> rfl

theorem State.setSt_setCur (s : State) (c : Core) (st : Stream) : (s.setCur c).setSt st = s.setCur (c.setStream s.curK st) := by
  simp [State.setSt]

/-- A turn that takes all lanes, of a head that has noted none, replaces the bits of the mask and leaves the stream but for its notes. -/
theorem opPredBits_whole {s : State} (c : s.chosen = none) (n : s.st.notes = []) (p : PReg) (mask val : Nat) :
    ∃ st, opPredBits p mask val s =
        .ok (s.setCur ((s.cur.setPred p (BitVec.ofNat 2048
          ((s.cur.pred p).toNat - ((s.cur.pred p).toNat &&& mask) + (val &&& mask)))).setStream s.curK st)) () ∧
      streamRest st = streamRest s.st ∧ SameHead st s.st := by
  refine ⟨{ s.st with notes := tblSet [] (s.noteKey 0) (.num mask), noteIdx := s.st.noteIdx + 1 }, ?_, rfl, rfl, rfl, rfl, rfl, rfl, rfl⟩
  have hst (v : BitVec 2048) : (s.cur.setPred p v).stream s.curK = s.st := Core.setPred_stream _ _ _ _
  simp only [opPredBits, n, c, tblFind, Option.getD_none, Note.value, Nat.and_zero, Nat.sub_zero, Nat.zero_or, if_true, State.note, State.st_setCur, hst]
  simp [State.setSt_setCur]

theorem Core.setPred_rest (c : Core) (p : PReg) (v : BitVec 2048) :
    (c.setPred p v).tokq = c.tokq ∧ (c.setPred p v).pending = c.pending ∧
      ∀ k, ({ coreRest k (c.setPred p v) with preds := [] } : Core) = { coreRest k c with preds := [] } := by
  unfold Core.setPred; split
  · exact ⟨rfl, rfl, fun _ => rfl⟩
  · exact ⟨rfl, rfl, fun k => by cases k <;> rfl⟩

/-- The word that `%pwsel` selects, of the predicate that it selects, takes the operand. -/
theorem effMts_pword {h : Head} {pc : PcWord} {s : State} (r : CanIssue h 1 pc s) (u : Undirected s) (ra : Reg) :
    let v := s.issued h {}
    let p : PReg := s.st.pwsel.extractLsb' 5 3
    let w := (s.st.pwsel.extractLsb' 0 5).toNat
    ∃ st, effMts ra 0x00B v = .ok (v.setCur ((v.cur.setPred p (BitVec.ofNat 2048
          ((v.cur.pred p).toNat - ((v.cur.pred p).toNat &&& (2 ^ 64 - 1) * 2 ^ (64 * w)) +
            ((s.rx ra).toNat * 2 ^ (64 * w) &&& (2 ^ 64 - 1) * 2 ^ (64 * w))))).setStream s.curK st)) .next ∧
      streamRest st = streamRest v.st ∧ SameHead st v.st := by
  intro v p w
  have notes : v.st.notes = [] := by
    obtain ⟨t, keys, e⟩ := s.issued_eq h {}
    rw [show v = _ from e, State.st_setSt]
    exact r.untaken.1
  have pwsel : v.st.pwsel = s.st.pwsel := by
    have : (streamRest v.st).pwsel = (streamRest s.st).pwsel := by rw [(s.issued_st h {}).1]
    exact this
  have hp : BitVec.ofNat 3 (bits v.st.pwsel 5 3) = p := by
    rw [pwsel]; refine BitVec.eq_of_toNat_eq ?_
    simp [bits, p, Nat.shiftRight_eq_div_pow]
  have hw : bits v.st.pwsel 0 5 = w := by rw [pwsel]; simp [bits, w]
  obtain ⟨st, e, rest⟩ := opPredBits_whole (s := v) r.whole.2.1 notes p ((2 ^ 64 - 1) * 2 ^ (64 * w)) ((s.rx ra).toNat * 2 ^ (64 * w))
  refine ⟨st, ?_, rest⟩
  have user : srWriteH 0x00B = false := by decide
  have target : v.srTarget 0x00B = some (s.curCore, s.curK, true) := srTarget_issued u h {} 0x00B
  have operand : v.rx ra = s.rx ra := s.issued_rx h {} ra
  have unfolded : effMts ra 0x00B v =
      opBind (opPredBits p ((2 ^ 64 - 1) * 2 ^ (64 * w)) ((s.rx ra).toNat * 2 ^ (64 * w))) (fun _ => opPure .next) v := by
    simp [effMts, user, target, operand, hp, hw, -State.issued_rx]
  rw [unfolded, opBind, e]
  rfl

theorem Core.pred_congr {c d : Core} (h : c.preds = d.preds) (p : PReg) : c.pred p = d.pred p := by
  simp only [Core.pred, h]

/-- The `%pword` clause of O6. -/
theorem mts_pword {h : Head} {pc : PcWord} {s : State} (r : CanIssue h 1 pc s) (g : s.guardBit h = true) (u : Undirected s) (ra : Reg) :
    let p : PReg := s.st.pwsel.extractLsb' 5 3
    let w := (s.st.pwsel.extractLsb' 0 5).toNat
    Completes (.mts h ra 0x00B) h 1 pc s fun t =>
      (∀ i, i < 2048 → (t.cur.pred p).getLsbD i =
        if p = 0 then true else if i / 64 = w then (s.rx ra).getLsbD (i % 64) else (s.cur.pred p).getLsbD i) ∧
      (∀ q, q ≠ p → t.cur.pred q = s.cur.pred q) ∧ t.cur.pred 0 = BitVec.allOnes 2048 ∧
      Kept id (fun c => { c with preds := [] }) id s t ∧ RegsBut 0 s t ∧ MemSame s t := by
  intro p w
  obtain ⟨st, e, stream, same⟩ := effMts_pword r u ra
  obtain ⟨stream0, -⟩ := s.issued_st h {}
  have issuedCore := (s.issued_core h (f := {}) (by decide)).1
  obtain ⟨-, preds0, -⟩ := coreRest_eq issuedCore
  generalize hn : BitVec.ofNat 2048 (((s.issued h {}).cur.pred p).toNat - _ + _) = new at e
  obtain ⟨tokq, pending, off⟩ := (s.issued h {}).cur.setPred_rest p new
  have own : (((s.issued h {}).cur.setPred p new).setStream s.curK st).stream s.curK = st := Core.stream_setStream _ _ _
  obtain ⟨t, step, ret, dev, others, core, stream', x⟩ := completes_setCur (i := .mts h ra 0x00B) rfl r g e
    ((Core.setStream_tokq _ _ _).trans tokq) ((Core.setStream_pending _ _ _).trans pending) (by rw [own]; exact same)
  obtain ⟨regs, mem⟩ := regs_mem_same x dev
  have pred (q : PReg) : t.cur.pred q = if q = p then (if p = 0 then predOnes else new) else s.cur.pred q := by
    rw [Core.pred_congr ((coreRest_eq core).2.1.trans (Core.setStream_preds _ _ _)), Core.pred_setPred, Core.pred_congr preds0]
  refine ⟨t, step, ret, fun i hi => ?_, fun q ne => by rw [pred, if_neg ne], rfl, ⟨dev, others, ?_, ?_⟩, regs, mem⟩
  · rw [pred, if_pos rfl]
    split
    · rw [show predOnes = BitVec.allOnes 2048 from rfl, BitVec.getLsbD_allOnes, decide_eq_true hi]
    · rw [← hn, Core.pred_congr preds0, getLsbD_replaceWord _ _ _ hi]
  · have c : ({ coreRest s.curK t.cur with preds := [] } : Core) = { coreRest s.curK s.cur with preds := [] } := by
      rw [core, coreRest_setStream, off, issuedCore]
    rwa [State.cur, ret.core] at c
  · have c : streamRest t.st = streamRest s.st := by rw [stream', own, stream, stream0]
    rwa [State.st, ret.stream, State.cur, ret.core] at c

/-- Settles O6: the effect of an `mts` writes one register of its core or its stream, or one word of a predicate, and the
retirement leaves what it wrote. -/
theorem specialRegisterWrites : Obligations.SpecialRegisterWrites :=
  ⟨fun _ ra _ _ r g u => fun e m => mts_maskedRegs r g u ra e m, fun _ ra _ _ r g u => ⟨mts_status r g u ra, mts_pword r g u ra⟩⟩

end Sys2Proof.Machine
end

section
/-! PROOF of O3, O7, O42 and O53, by refutation. O3, O7 and O53 speak of every state, so also of one whose table of clusters does
not list its keys in rising order, which no run from reset reaches; `tblSet` then adds an entry where the model means to replace one.
O42 fails at a state of another kind, one that runs do reach: an instruction behind the head has issued before the head retires. -/

namespace Sys2Proof.Machine
open Sys2Proof.Safety

/-! ### What `Kept` says of the table of clusters -/

theorem length_tblMap {α : Type} (t : Tbl α) (f : α → α) : (tblMap t f).length = t.length := List.length_map _

/-- Where the device but for a halt line and waiters is as it was, the table of clusters has as many entries as before. -/
theorem length_clusters_of_keptAt {m x : Nat} {k : StreamId} {who : SemWaiter} {core : Core → Core} {stream : Stream → Stream} {s t : State}
    (h : KeptAt m k (offHalt x who) core stream s t) : t.clusters.length = s.clusters.length := by
  have e := congrArg (fun u : State => u.clusters.length) h.device
  simpa only [offHalt, length_tblMap] using e

/-! ### A trapping stream among the waiters of an unordered table -/

/-- A packet of seven slots that hold `nop`. -/
def nopPacket : FrameRec := { addr := 0x1000, pa := 0x1000, words := [0x1E00000000000000, 0, 0, 0, 0, 0, 0, 0] }

/-- A device whose core 0 runs stream `k`, with the given record, in an ordinary slice of context 0. -/
def running (k : StreamId) (st : Stream) : State :=
  { State.reset with
    curK := k
    cores := [(0, ({ slice := some 0 } : Core).setStream k { st with mode := .run, iq := [nopPacket], attached := false })]
    slices := [(0, { ctx := 0, handler := false, queue := 0, hdr := { addr := 0, words := [] }, cores := [0], budget := 100 })]
    ctxs := [(0, { live := true, mode := .run })] }

/-- Stream L at a PC, where the table of clusters lists cluster 1 before cluster 0, and cluster 0 lists the stream among the
waiters of a semaphore. A trap takes the waiter away, and so sets the entry of cluster 0. -/
def listed (pc : PcWord) : State :=
  { running .L { pc := pc } with clusters := [(1, {}), (0, { xsems := [(0, { waiters := [(.stream 0 .L, 0)] })] })] }

/-- The number of entries of the table of clusters in the next state. -/
def clustersAfter : Host.Outcome State Fault Refusal → Option Nat
  | .next t => some t.clusters.length
  | _ => none

theorem canIssue_listed : CanIssue ⟨0, 0⟩ 1 0x1001 (listed 0x1000) where
  runs := by decide +kernel
  whole := by decide +kernel
  single := by decide +kernel
  waiting := by decide +kernel
  free := by decide +kernel
  unskipped := by decide +kernel
  untaken := by decide +kernel
  settled := by decide +kernel
  unheld := by decide +kernel
  unlogged := by decide +kernel
  nextPc := by decide +kernel
  pops := by decide +kernel
  pushes := by decide +kernel

theorem guardBit_listed : (listed 0x1000).guardBit ⟨0, 0⟩ = true := by decide +kernel

theorem ordinary_listed (pc : PcWord) : Ordinary (listed pc) := ⟨_, rfl, rfl, rfl⟩

/-- A step from the listed state that leaves three clusters has changed more than a trap may. -/
theorem not_keptAt_listed {pc : PcWord} {m x : Nat} {k : StreamId} {who : SemWaiter} {core : Core → Core} {stream : Stream → Stream}
    {r : Host.Outcome State Fault Refusal} {t : State} (h : clustersAfter r = some 3) (e : r = .next t) :
    ¬ KeptAt m k (offHalt x who) core stream (listed pc) t := by
  intro kept
  have three : clustersAfter (.next t) = some 3 := (congrArg clustersAfter e).symm.trans h
  have two : t.clusters.length = 2 := length_clusters_of_keptAt kept
  exact absurd (two.symm.trans (Option.some.inj three)) (by decide)

theorem not_traps_listed {i : Instr} {tr : Trap} (h : clustersAfter (exec i (listed 0x1000)) = some 3) : ¬ Traps i tr (listed 0x1000) := by
  rintro ⟨t, e, -, -, -, -, -, -, -, -, -, -, -, kept⟩
  exact not_keptAt_listed h e kept

/-- Refutes O3: `b` to slot 7 traps in the listed state, and its trap leaves an entry more in the table of clusters, which is not in
rising order of its keys. -/
theorem not_transfersReachTheirTargetOrTrap : ¬ Obligations.TransfersReachTheirTargetOrTrap := by
  rintro ⟨-, bad, -⟩
  obtain ⟨outOfRange, -⟩ := bad ⟨0, 0⟩ 0 0 0 0 7 0 0x1001 (listed 0x1000) canIssue_listed guardBit_listed (ordinary_listed _)
  obtain ⟨branch, -⟩ := outOfRange (.inr (.inr rfl))
  exact not_traps_listed (by decide +kernel) branch

/-- Refutes O7: `mfs` of the cause register at USER level traps in the listed state, and its trap leaves an entry more in the
table of clusters, which is not in rising order of its keys. -/
theorem not_handlersYieldAndPrivilege : ¬ Obligations.HandlersYieldAndPrivilege := by
  rintro ⟨user, -⟩
  obtain ⟨reads, -⟩ := user ⟨0, 0⟩ 0 0x1001 (listed 0x1000) canIssue_listed guardBit_listed (ordinary_listed _)
  exact not_traps_listed (by decide +kernel) (reads 0x040 (by decide))

/-- Refutes O53: at slot 7, which no packet has, the turn traps in the listed state, and its trap leaves an entry more in the table
of clusters, which is not in rising order of its keys. -/
theorem not_stepRunsTheDecodedInstruction : ¬ Obligations.StepRunsTheDecodedInstruction := by
  intro all
  obtain ⟨turns, -⟩ := all (listed 0x1007)
  obtain ⟨-, -, framed, -⟩ := turns 0 .L false none false [] (.inl ⟨rfl, rfl, rfl, rfl, rfl, rfl, rfl⟩)
  obtain ⟨-, missing⟩ := framed nopPacket [] (by decide) (by decide +kernel) rfl rfl
  obtain ⟨t, e, -, -, -, -, -, -, -, -, -, -, -, -, -, kept⟩ := missing (by decide +kernel) (ordinary_listed _)
  exact not_keptAt_listed (pc := 0x1007) (by decide +kernel) e kept

/-! ### A head that retires before an instruction behind it that has issued -/

/-- Stream X stands at a `nop` that has issued, and the instruction behind it has issued too (R25, R30). -/
def followed : State := { running .X { pc := 0x1000, issued := true, guardOn := true, ahead := [{}] } with ev := { k := .X } }

/-- Whether the head of stream X of core 0 has issued in the next state. -/
def issuedAfter : Host.Outcome State Fault Refusal → Option Bool
  | .next t => some (t.stream 0 .X).issued
  | _ => none

theorem ready_followed : followed.ready = .run followed (.nop ⟨0, 0⟩) := rfl

theorem attempt_followed : Op.attempt (opBind (opPure ()) fun _ => effect id) followed = .ok followed .next := rfl

theorem issuedAfter_followed : issuedAfter (step { followed with agenda := .turn 0 .X :: followed.agenda }) = some true := by decide +kernel

/-- Refutes O42: when the `nop` retires, the instruction behind it, which has issued, becomes the head, so the head of the stream has
issued; the clause of INSTRUCTION_RETIRE says that it has not. -/
theorem not_waitingHeadsWakeOrExpire : ¬ Obligations.WaitingHeadsWakeOrExpire := by
  intro all
  obtain ⟨-, -, -, -, -, -, -, t, -, rfl, retires⟩ := all followed
  obtain ⟨w, e, -, -, unissued, -⟩ := retires Unit (.nop ⟨0, 0⟩) ⟨0, 0⟩ {} noHold (opPure ()) (fun _ => effect id) followed followed 0x1001
    (by decide) ready_followed (fun _ => rfl) (by decide +kernel) rfl rfl (.inr rfl) attempt_followed rfl rfl (by decide +kernel)
  have h : issuedAfter (.next w) = some false := congrArg some unissued
  exact absurd (issuedAfter_followed.symm.trans ((congrArg issuedAfter e).trans h)) (by decide)

end Sys2Proof.Machine
end

section
/-! PROOF of O54, O55 and O56. A word and the fields that `pack` lays side by side say the same; so the checks of a row's decoder and the
operands that it reads are, field by field, what the row's encoding writes (R42 to R52). The words of a record are packed the same way (R53,
R54). -/

namespace Sys2Proof

/-! ### A word and its fields -/

/-- From bit `lo` up, a word holds the given fields, the first lowest, and nothing above them. -/
def HasFields (n : Nat) : Nat → List (Nat × Nat) → Prop
  | lo, [] => n / 2 ^ lo = 0
  | lo, (w, v) :: rest => fld n lo w = v % 2 ^ w ∧ HasFields n (lo + w) rest

theorem fld_lt (n lo w : Nat) : fld n lo w < 2 ^ w := Nat.mod_lt _ (Nat.two_pow_pos w)

theorem fld_mod (n lo w : Nat) : fld n lo w % 2 ^ w = fld n lo w := Nat.mod_mod _ _

/-- What stands from bit `lo` up: a field, and what stands above it. -/
theorem div_eq_fld_add (n lo w : Nat) : n / 2 ^ lo = fld n lo w + 2 ^ w * (n / 2 ^ (lo + w)) := by
  rw [fld, pow_add, ← Nat.div_div_eq_div_mul]
  exact (Nat.mod_add_div _ _).symm

theorem add_two_pow_mul_inj {w a b x y : Nat} (ha : a < 2 ^ w) (hb : b < 2 ^ w) : a + 2 ^ w * x = b + 2 ^ w * y ↔ a = b ∧ x = y := by
  refine ⟨fun h => ?_, fun ⟨h, e⟩ => by rw [h, e]⟩
  have low := congrArg (· % 2 ^ w) h
  have high := congrArg (· / 2 ^ w) h
  simp only [Nat.add_mul_mod_self_left, Nat.mod_eq_of_lt ha, Nat.mod_eq_of_lt hb] at low
  simp only [Nat.add_mul_div_left _ _ (Nat.two_pow_pos w), Nat.div_eq_of_lt ha, Nat.div_eq_of_lt hb, Nat.zero_add] at high
  exact ⟨low, high⟩

theorem pack_eq_div_iff {n : Nat} {l : List (Nat × Nat)} {lo : Nat} : pack l = n / 2 ^ lo ↔ HasFields n lo l := by
  induction l generalizing lo with
  | nil => exact eq_comm
  | cons e rest ih =>
    rw [HasFields, ← ih, div_eq_fld_add n lo e.1, eq_comm (a := fld n lo e.1)]
    exact add_two_pow_mul_inj (Nat.mod_lt _ (Nat.two_pow_pos e.1)) (fld_lt n lo e.1)

/-- A word is packed of fields exactly where it holds them from bit 0 up. -/
theorem pack_eq_iff {n : Nat} {l : List (Nat × Nat)} : pack l = n ↔ HasFields n 0 l := by
  rw [← pack_eq_div_iff, pow_zero, Nat.div_one]

/-- A part of a field of zeros is zero. -/
theorem fld_eq_zero_of_within {n lo w lo' w' : Nat} (h : fld n lo w = 0) (h1 : lo ≤ lo') (h2 : lo' + w' ≤ lo + w) : fld n lo' w' = 0 := by
  refine Nat.eq_of_testBit_eq fun i => ?_
  have bit : (fld n lo w).testBit (lo' + i - lo) = false := by rw [h, Nat.zero_testBit]
  simp only [fld, Nat.testBit_mod_two_pow, Nat.testBit_div_two_pow, Nat.zero_testBit, Bool.and_eq_false_iff, decide_eq_false_iff_not]
    at bit ⊢
  rw [show lo' + i - lo + lo = i + lo' by omega] at bit
  exact bit.imp (by omega) id

/-! ### Operands and the fields that hold them (R43 to R45) -/

theorem toNat_mod_two_pow {w k : Nat} {x : BitVec w} (h : w ≤ k) : x.toNat % 2 ^ k = x.toNat :=
  Nat.mod_eq_of_lt (x.isLt.trans_le (Nat.pow_le_pow_right (by decide) h))

theorem toNat_lt_of_two_pow_le {w k : Nat} {x : BitVec w} (h : 2 ^ w ≤ k) : x.toNat < k := x.isLt.trans_le h

theorem toNat_bool_mod (b : Bool) : b.toNat % 2 ^ 1 = b.toNat := by cases b <;> rfl

theorem toNat_bool_beq_one (b : Bool) : (b.toNat == 1) = b := by cases b <;> rfl

theorem toNat_fld_beq_one (n lo : Nat) : (fld n lo 1 == 1).toNat = fld n lo 1 := by
  have := fld_lt n lo 1
  rcases (by omega : fld n lo 1 = 0 ∨ fld n lo 1 = 1) with h | h <;> rw [h] <;> rfl

theorem code_mod (t : ElemTy) : t.code % 2 ^ 4 = t.code := by cases t <;> rfl

theorem ofCode_code (t : ElemTy) : ElemTy.ofCode t.code = t := by cases t <;> rfl

theorem code_ofCode_fld (n lo : Nat) : (ElemTy.ofCode (fld n lo 4)).code = fld n lo 4 := by
  have lt := fld_lt n lo 4
  generalize fld n lo 4 = m at *
  interval_cases m <;> rfl

/-- An accumulator stands in a register field above the 320 vector registers. -/
theorem acc_mod (x : Acc) : (x.toNat + 320) % 2 ^ 9 = x.toNat + 320 := Nat.mod_eq_of_lt (by omega)

theorem acc_lt (x : Acc) : x.toNat + 320 < 384 := by omega

/-! ### The rows of the opcode map -/

/-- An instruction is well formed, and its opcode and body are these. -/
def Encodes (op n : Nat) (i : Instr) : Prop := i.wf = true ∧ encodeParts i = some (op, n)

theorem encodeParts_of_hasFields {op n : Nat} {i : Instr} {l : List (Nat × Nat)} (he : encodeParts i = some (op, pack l))
    (hl : HasFields n 0 l) : encodeParts i = some (op, n) := by rw [he, pack_eq_iff.2 hl]

theorem need_eq_ok {ok : Bool} {r : Reason} {k : Except Reason Instr} {i : Instr} : need ok r k = .ok i ↔ k = .ok i ∧ ok = true := by
  cases ok <;> simp [need]

theorem of_need_eq_ok {ok : Bool} {r : Reason} {k : Except Reason Instr} {i : Instr} {P : Prop} (h : ok = true → k = .ok i → P) :
    need ok r k = .ok i → P := fun e => h (need_eq_ok.1 e).2 (need_eq_ok.1 e).1

theorem ite_eq_of {c : Prop} [Decidable c] {a b r : Except Reason Instr} (h : (if c then a else b) = r) : (if c then a else b) = r := h

/-- What the decoder answers is what the group of the opcode answers. -/
theorem decodeGroup_of_decodeOp {op n : Nat} {r : Except Reason Instr} (h : decodeOp op n = r) :
    decodeGroupA op n = r ∨ decodeGroupB op n = r ∨ decodeGroupC op n = r ∨ decodeGroupD op n = r ∨ decodeGroupE op n = r ∨
      decodeGroupF op n = r := by
  unfold decodeOp at h
  grind

/-- The checks of `pfet` are written for every space; in the one that it accepts, its rotation field is zero. -/
theorem decPfet_eq (n : Nat) : decPfet n =
    if fld n 24 2 = 0 then
      need (fld n 26 4 == 0 && fld n 30 4 == 0 && fld n 44 4 == 0) .reservedNonzero
        (.ok (.pfet (headOf n) (BitVec.ofNat 5 (fld n 39 5)) (BitVec.ofNat 5 (fld n 34 5)) (BitVec.ofNat 24 (fld n 0 24))))
    else
      need (fld n 26 4 == 0 && fld n 44 4 == 0 && fld n 34 5 == 0 && (fld n 24 2 != 1 || fld n 22 2 == 0)) .reservedNonzero
        (.error .fieldValue) := by
  split <;> simp_all [decPfet, need]

/-- A row that accepts a word has checked every bit of it that no operand takes, and the checks of the operands' values. -/
theorem encodes_of_decodeOp {op n : Nat} {i : Instr} (hn : n < 2 ^ 56) (h : decodeOp op n = .ok i) : Encodes op n i := by
  replace h := decodeGroup_of_decodeOp h
  rcases h with h | h | h | h | h | h
  all_goals
    delta decodeGroupA decodeGroupB decodeGroupC decodeGroupD decodeGroupE decodeGroupF at h
    repeat' split at h
  any_goals
    (rw [decPfet_eq] at h
     split at h)
  all_goals
    -- the checks of the row, one after the other, and the instruction that it answers, if any
    revert h
    repeat refine of_need_eq_ok fun _ => ?_
    rintro ⟨⟩
  all_goals
    simp only [Bool.and_eq_true, beq_iff_eq, decide_eq_true_eq] at *
    refine ⟨?_, encodeParts_of_hasFields rfl ?_⟩
    · unfold Instr.wf
      simp only [Bool.and_eq_true, beq_iff_eq, decide_eq_true_eq, and_self, *]
    · simp (disch := omega) only [HasFields, headOf, Nat.reduceAdd, BitVec.toNat_ofNat, fld_mod, toNat_fld_beq_one, code_ofCode_fld,
        Nat.mod_eq_of_lt, Nat.sub_add_cancel, Nat.div_eq_of_lt hn, and_self, *]

/-- The word of a well-formed instruction passes every check of its row, whose operands are then the instruction's own. -/
theorem decodeOp_of_encodeParts {op n p : Nat} {i : Instr} (wf : i.wf = true) (e : encodeParts i = some (op, p)) (fields : p = n) :
    decodeOp op n = .ok i := by
  cases i
  all_goals cases e
  all_goals
    rw [pack_eq_iff] at fields
    simp (disch := decide) only [HasFields, Nat.reduceAdd, Nat.mod_eq_of_lt, toNat_mod_two_pow, toNat_bool_mod, code_mod, acc_mod]
      at fields
    unfold Instr.wf at wf
    simp only [Bool.and_eq_true, decide_eq_true_eq] at wf
  -- four rows are selected by a bit of a wider field
  case' vlive | rset | rstatPos => have bit := fld_eq_zero_of_within (lo' := 0) (w' := 1) fields.1 (by decide) (by decide)
  case' rclaim => have bit := fld_eq_zero_of_within (lo' := 8) (w' := 1) fields.2.1 (by decide) (by decide)
  all_goals
    repeat refine need_eq_ok.2 ⟨?_, ?_⟩
  -- the rows that share an opcode, and are told apart by a selector field
  any_goals
    (simp only [decodeOp, Nat.reduceLT, ↓reduceIte]
     refine ite_eq_of ?_
     simp (disch := decide) only [Nat.reduceBEq, Nat.reduceBNe, Nat.reduceLeDiff, ↓reduceIte, Bool.false_eq_true, decide_true, *]
     repeat refine need_eq_ok.2 ⟨?_, ?_⟩)
  all_goals
    simp (disch := decide) only [headOf, BitVec.ofNat_toNat, BitVec.setWidth_eq, ofCode_code, toNat_bool_beq_one, beq_self_eq_true,
      Nat.reduceBNe, Bool.and_self, Bool.or_true, Bool.true_or, decide_true, toNat_lt_of_two_pow_le, acc_lt,
      Nat.add_sub_cancel, Nat.le_add_left, *]

/-- What the decoder answers for a body under an opcode: the instruction whose encoding they are. -/
theorem decodeOp_eq_ok_iff {op n : Nat} {i : Instr} (hn : n < 2 ^ 56) : decodeOp op n = .ok i ↔ Encodes op n i :=
  ⟨encodes_of_decodeOp hn, fun ⟨wf, e⟩ => decodeOp_of_encodeParts wf e rfl⟩

/-! ### Instruction words (R42) -/

theorem encode_of_parts {i : Instr} {op n : Nat} (e : encodeParts i = some (op, n)) : encode i = [n + 2 ^ 56 * op] := by
  unfold encode
  split
  · cases e
  · rw [encodeWord, e]; rfl

theorem encodable_of_parts {i : Instr} {op n : Nat} (e : encodeParts i = some (op, n)) : i.encodable = i.wf := by
  unfold Instr.encodable
  split
  · cases e
  · rw [e, Option.isSome_some, Bool.and_true]

/-- A word is its body and its opcode. -/
theorem decodeWord_eq_ok_iff {w : Nat} {i : Instr} : decodeWord w = .ok i ↔ Encodes (w / 2 ^ 56 % 2 ^ 8) (w % 2 ^ 56) i :=
  decodeOp_eq_ok_iff (Nat.mod_lt _ (by decide))

theorem pack_lt_body {l : List (Nat × Nat)} (h : packWidth l = 56) : pack l < 2 ^ 56 := h ▸ pack_lt l

/-- The opcode of an instruction has 8 bits and its body 56, as every row packs them. -/
theorem lt_of_encodeParts {op n : Nat} {i : Instr} (e : encodeParts i = some (op, n)) : op < 2 ^ 8 ∧ n < 2 ^ 56 := by
  cases i
  all_goals cases e
  all_goals
    refine ⟨by decide, pack_lt_body ?_⟩
    simp only [packWidth, List.map_cons, List.map_nil, List.sum_cons, List.sum_nil, Nat.reduceAdd]

/-- The word of an encodable instruction decodes to it. -/
theorem decodeWord_of_encodes {op n : Nat} {i : Instr} (h : Encodes op n i) : decodeWord (n + 2 ^ 56 * op) = .ok i := by
  obtain ⟨hop, hn⟩ := lt_of_encodeParts h.2
  rwa [decodeWord_eq_ok_iff, opcode_above n op hn, Nat.mod_eq_of_lt hop, Nat.add_mul_mod_self_left, Nat.mod_eq_of_lt hn]

/-! ### Records (R53, R54) -/

theorem least_eq_none {a b : Option Reason} : Reason.least a b = none ↔ a = none ∧ b = none := by
  rcases a with _ | x <;> rcases b with _ | y
  · simp [Reason.least]
  · simp [Reason.least]
  · simp [Reason.least]
  · simp only [Reason.least]
    split <;> simp

/-- The eligible opcodes are of the formats that a record packs (R58). -/
theorem opLnShaped_of_opLoopNest {op : Nat} (h : opLoopNest op = true) : opLnShaped op = true := by
  simp only [opLoopNest, opLnShaped, inRuns, List.any_cons, List.any_nil, Bool.or_eq_true, Bool.and_eq_true, decide_eq_true_eq,
    Bool.false_eq_true, or_false] at h ⊢
  omega

/-- A record that fails no check has an eligible opcode and passes its own check. -/
theorem of_lnReason_eq_none {h : Head} {r : LnRec} (e : lnReason h r = none) : opLoopNest r.op.toNat = true ∧ r.wf = true := by
  simp only [lnReason, List.foldl, least_eq_none] at e
  obtain ⟨⟨⟨⟨⟨-, own⟩, -⟩, eligible⟩, -⟩, -⟩ := e
  have loops : opLoopNest r.op.toNat = true := by
    by_contra no
    simp [no] at eligible
  refine ⟨loops, ?_⟩
  by_contra no
  simp [no, opLnShaped_of_opLoopNest loops] at own

theorem ofNat_add_two_pow_mul {w : Nat} (x : BitVec w) (n : Nat) : BitVec.ofNat w (x.toNat % 2 ^ w + 2 ^ w * n) = x := by
  apply BitVec.eq_of_toNat_eq
  rw [BitVec.toNat_ofNat, Nat.add_mul_mod_self_left, Nat.mod_mod, x.toNat_mod_cancel]

theorem hasFields_pack (l : List (Nat × Nat)) : HasFields (pack l) 0 l := pack_eq_iff.1 rfl

theorem encodeRecordHead_fields (st : StreamId) (h : Head) (r : LnRec) : HasFields (encodeRecordHead st h r) 0
    [(39, r.fixed.toNat), (4, h.guard.toNat), (4, h.tok.toNat), (8, r.op.toNat), (2, st.num), (3, 0), (4, 2)] := hasFields_pack _

theorem recordFields_encodeRecord (st : StreamId) (h : Head) (r : LnRec) : recordFields (encodeRecord st h r) = (h, r) := by
  obtain ⟨-, guard, tok, op, -⟩ := encodeRecordHead_fields st h r
  obtain ⟨-, bA, -⟩ := hasFields_pack [(24, r.bD.toNat), (24, r.bA.toNat), (16, 0)]
  simp only [Nat.reduceAdd, BitVec.toNat_mod_cancel] at guard tok op bA
  simp only [recordFields, encodeRecord, List.getD_cons_zero, List.getD_cons_succ, guard, tok, op, bA, BitVec.ofNat_toNat, BitVec.setWidth_eq]
  simp only [encodeRecordHead, pack, ofNat_add_two_pow_mul]

theorem recordZeros_encodeRecord (st : StreamId) (h : Head) (r : LnRec) : recordZeros (encodeRecord st h r) = true := by
  obtain ⟨-, -, -, -, -, zero0, -⟩ := encodeRecordHead_fields st h r
  obtain ⟨-, -, zero5, -⟩ := hasFields_pack [(24, r.bD.toNat), (24, r.bA.toNat), (16, 0)]
  obtain ⟨-, imm, zero6, -⟩ := hasFields_pack [(24, r.bB.toNat), (32, 0), (8, 0)]
  simp only [Nat.reduceAdd, Nat.zero_mod] at zero0 zero5 imm zero6
  simp only [recordZeros, encodeRecord, List.getD_cons_zero, List.getD_cons_succ, zero0, zero5, imm, zero6, beq_self_eq_true, Bool.or_true,
    Bool.and_self]
  rfl

theorem decode_words {a b : Nat} {l : List Nat} : decode (a :: b :: l) = decodeRecord (a :: b :: l) := by
  rw [decode]
  simp

theorem kind_encodeRecord (st : StreamId) (h : Head) (r : LnRec) : fld ((encodeRecord st h r).getD 0 0) 60 4 = 2 := by
  obtain ⟨-, -, -, -, -, -, kind, -⟩ := encodeRecordHead_fields st h r
  simp only [Nat.reduceAdd, Nat.reducePow, Nat.reduceMod] at kind
  rw [encodeRecord, List.getD_cons_zero, kind]

theorem decodeRecord_encodeRecord {st : StreamId} {h : Head} {r : LnRec} (e : lnReason h r = none) (streams : opStreams r.op.toNat ≠ 0) :
    decodeRecord (encodeRecord st h r) = .ok (.loopNestRecord h r) := by
  rw [decodeRecord, recordFields_encodeRecord]
  refine need_eq_ok.2 ⟨need_eq_ok.2 ⟨need_eq_ok.2 ⟨?_, recordZeros_encodeRecord st h r⟩, bne_iff_ne.2 streams⟩,
    beq_iff_eq.2 (kind_encodeRecord st h r)⟩
  rw [e]

/-- Where the decoder accepts a record, every check of it has passed. -/
theorem of_decodeRecord_eq_ok {ws : List Nat} {i : Instr} (e : decodeRecord ws = .ok i) :
    i = .loopNestRecord (recordFields ws).1 (recordFields ws).2 ∧ fld (ws.getD 0 0) 60 4 = 2 ∧
      opStreams (recordFields ws).2.op.toNat ≠ 0 ∧ recordZeros ws = true ∧ lnReason (recordFields ws).1 (recordFields ws).2 = none := by
  simp only [decodeRecord, need_eq_ok, bne_iff_ne, beq_iff_eq] at e
  obtain ⟨⟨⟨e, zeros⟩, streams⟩, kind⟩ := e
  split at e
  · cases e
  · next none =>
    cases e
    exact ⟨rfl, kind, streams, zeros, none⟩

/-- Settles O55: the row that the opcode of an instruction names accepts its word, and a record reads its fields back. -/
theorem encodedInstructionsDecodeToThemselves : Obligations.EncodedInstructionsDecodeToThemselves := by
  intro i h
  cases e : encodeParts i with
  | none =>
    unfold Instr.encodable at h
    split at h
    · simp only [Bool.and_eq_true, beq_iff_eq, bne_iff_ne] at h
      obtain ⟨⟨-, e⟩, streams⟩ := h
      exact decodeRecord_encodeRecord e streams
    · simp [e] at h
  | some p =>
    rw [encodable_of_parts e] at h
    rw [encode_of_parts e]
    exact decodeWord_of_encodes ⟨h, e⟩

/-! ### Words that decode -/

theorem num_ofNum (n : Nat) : (StreamId.ofNum n).num = n % 4 := by
  unfold StreamId.ofNum
  have lt : n % 4 < 4 := Nat.mod_lt _ (by decide)
  generalize n % 4 = m at *
  interval_cases m <;> rfl

theorem fld_zero_eq_mod (n w : Nat) : fld n 0 w = n % 2 ^ w := by rw [fld, pow_zero, Nat.div_one]

/-- The bits of a record's words that no field of it takes are zero. -/
theorem of_recordZeros {w0 w1 w2 w3 w4 w5 w6 w7 : Nat} (zeros : recordZeros [w0, w1, w2, w3, w4, w5, w6, w7] = true)
    (loops : opLoopNest (fld w0 47 8) = true) : fld w0 57 3 = 0 ∧ fld w5 48 16 = 0 ∧ fld w6 56 8 = 0 ∧ fld w6 24 32 = 0 ∧ fld w7 0 64 = 0 := by
  simpa [recordZeros, loops, and_assoc] using zeros

theorem encodeRecordHead_eq {w : Nat} {r : LnRec} (lt : w < 2 ^ 64) (kind : fld w 60 4 = 2) (zero : fld w 57 3 = 0)
    (op : r.op = BitVec.ofNat 8 (fld w 47 8)) (fixed : r.fixed = BitVec.ofNat 39 w) :
    encodeRecordHead (StreamId.ofNum (w / 2 ^ 55)) ⟨BitVec.ofNat 4 (fld w 43 4), BitVec.ofNat 4 (fld w 39 4)⟩ r = w := by
  have stream : fld w 55 2 = w / 2 ^ 55 % 4 := rfl
  refine pack_eq_iff.2 ?_
  simp (disch := decide) only [HasFields, Nat.reduceAdd, op, fixed, BitVec.toNat_ofNat, fld_zero_eq_mod, Nat.mod_mod, fld_mod, zero,
    kind, num_ofNum, ← stream, Nat.div_eq_of_lt lt, Nat.mod_eq_of_lt, and_self]

/-- A record that the decoder accepts has no bit outside its fields. -/
theorem encodeRecord_recordFields {ws : List Nat} (length : ws.length = 8) (lt : ∀ w ∈ ws, w < 2 ^ 64) (kind : fld (ws.getD 0 0) 60 4 = 2)
    (zeros : recordZeros ws = true) (loops : opLoopNest (recordFields ws).2.op.toNat = true) :
    encodeRecord (StreamId.ofNum (ws.getD 0 0 / 2 ^ 55)) (recordFields ws).1 (recordFields ws).2 = ws := by
  match ws, length with
  | [w0, w1, w2, w3, w4, w5, w6, w7], _ =>
    simp only [recordFields, List.getD_cons_zero, List.getD_cons_succ, BitVec.toNat_ofNat, fld_mod] at kind loops ⊢
    obtain ⟨z0, z5, z6, imm, z7⟩ := of_recordZeros zeros loops
    simp only [List.forall_mem_cons] at lt
    obtain ⟨lt0, lt1, lt2, lt3, lt4, lt5, lt6, lt7, -⟩ := lt
    have e5 : pack [(24, w5 % 2 ^ 24), (24, fld w5 24 24), (16, 0)] = w5 := by
      refine pack_eq_iff.2 ?_
      simp only [HasFields, Nat.reduceAdd, fld_zero_eq_mod, fld_mod, z5, Nat.mod_mod, Nat.zero_mod, Nat.div_eq_of_lt lt5, and_self]
    have e6 : pack [(24, w6 % 2 ^ 24), (32, 0), (8, 0)] = w6 := by
      refine pack_eq_iff.2 ?_
      simp only [HasFields, Nat.reduceAdd, fld_zero_eq_mod, imm, z6, Nat.mod_mod, Nat.zero_mod, Nat.div_eq_of_lt lt6, and_self]
    rw [fld_zero_eq_mod, Nat.mod_eq_of_lt lt7] at z7
    simp only [encodeRecord, BitVec.toNat_ofNat, fld_mod, e5, e6, Nat.mod_eq_of_lt lt1, Nat.mod_eq_of_lt lt2, Nat.mod_eq_of_lt lt3,
      Nat.mod_eq_of_lt lt4, z7]
    rw [encodeRecordHead_eq lt0 kind z0 rfl rfl]

/-- Settles O56: a row that accepts a word has checked each bit that no operand takes, and so has a record. -/
theorem decodedWordsEncodeToThemselves : Obligations.DecodedWordsEncodeToThemselves := by
  refine ⟨fun w i lt e => ?_, fun ws i length lt e => ?_⟩
  · have op : w / 2 ^ 56 < 2 ^ 8 := by omega
    obtain ⟨wf, parts⟩ := decodeWord_eq_ok_iff.1 e
    rw [encodable_of_parts parts, encode_of_parts parts]
    exact ⟨wf, by rw [Nat.mod_eq_of_lt op, Nat.mod_add_div]⟩
  · have long : decode ws = decodeRecord ws := by
      match ws, length with
      | w0 :: w1 :: rest, _ => exact decode_words
    obtain ⟨rfl, kind, streams, zeros, none⟩ := of_decodeRecord_eq_ok (long.symm.trans e)
    obtain ⟨loops, wf⟩ := of_lnReason_eq_none none
    have words := encodeRecord_recordFields length lt kind zeros loops
    refine ⟨?_, _, _, _, rfl, num_ofNum _, words, fun st => ?_⟩
    · simp only [Instr.encodable, wf, none, beq_self_eq_true, Bool.and_self, bne_iff_ne, Bool.true_and]
      exact streams
    · rw [encode, ← st, words]

/-- Settles O54: each word of the chapters' examples is decoded, as it stands there. -/
theorem wordsOfTheSpecDecode : Obligations.WordsOfTheSpecDecode := ⟨by decide, by decide⟩

end Sys2Proof
end

section
/-! PROOF of O9 and O44, by refutation. O9 fails at a state of a kind that runs reach: a trap in a handler slice kills the context and
frees the core, so the record that trapped stands at no head any more. O44 speaks of every state, so also of one whose table of cores
lists a core twice, which no run from reset reaches: the core is then bound by one entry and reads as unbound by the other. -/

namespace Sys2Proof.Machine
open Sys2Proof.Safety

/-! ### A record that traps in a handler slice -/

/-- A device whose handler slice, of the stopped context 0, has stream L of core 0 at a head. The stream's tile has no shape, so a
vector instruction traps. -/
def handling : State :=
  { running .L { pc := 0x1000 } with
    slices := [(0, { ctx := 0, handler := true, queue := 0, hdr := { addr := 0, words := [] }, cores := [0], budget := 100 })]
    ctxs := [(0, { live := true, mode := .stopped })] }

/-- A record of eight issues of `vadd`, and the first of them. -/
def addRecord : LnRec := LnRec.mk 0x43 0x2F800000 0x0001000100020004 0x100001 0x100001 0 1 8 16
def firstAdd : Instr := .vadd ⟨0, 0⟩ 1 8 16 .f16 7 false

/-- The retire count of the executing stream in the next state, and whether its head has issued. -/
def headAfter : Host.Outcome State Fault Refusal → Option (W64 × Bool)
  | .next t => some (t.st.rc, t.st.issued)
  | _ => none

theorem next_of_headAfter {r : Host.Outcome State Fault Refusal} {rc : W64} {b : Bool} (h : headAfter r = some (rc, b)) :
    ∃ t, r = .next t ∧ t.st.rc = rc ∧ t.st.issued = b := by
  cases r with
  | next t => exact ⟨t, rfl, congrArg Prod.fst (Option.some.inj h), congrArg Prod.snd (Option.some.inj h)⟩
  | _ => exact nomatch h

theorem canIssue_handling : CanIssue ⟨0, 0⟩ 1 0x1001 handling where
  runs := by decide +kernel
  whole := by decide +kernel
  single := by decide +kernel
  waiting := by decide +kernel
  free := by decide +kernel
  unskipped := by decide +kernel
  untaken := by decide +kernel
  settled := by decide +kernel
  unheld := by decide +kernel
  unlogged := by decide +kernel
  nextPc := by decide +kernel
  pops := by decide +kernel
  pushes := by decide +kernel

/-- Refutes O9: the trap of an expanded issue in a handler slice kills its context and frees the core, so the record counts as issued
no more. -/
theorem not_loopNestIndicesRunInnermostFirst : ¬ Obligations.LoopNestIndicesRunInnermostFirst := by
  rintro ⟨-, heads, -⟩
  obtain ⟨-, turn⟩ := heads ⟨0, 0⟩ addRecord 0x1001 handling canIssue_handling
  obtain ⟨u, hu, stays, -⟩ := next_of_headAfter (r := exec firstAdd handling) (rc := 0) (b := false) (by decide +kernel)
  obtain ⟨t, ht, -, -, -, -, traps⟩ := turn firstAdd u (by decide +kernel) (by decide +kernel) (by rfl) hu
  obtain ⟨-, -, -, issued, -⟩ := traps stays
  have freed : headAfter (exec (.loopNestRecord ⟨0, 0⟩ addRecord) handling) = some (0, false) := by decide +kernel
  obtain ⟨w, hw, -, idle⟩ := next_of_headAfter freed
  obtain rfl : t = w := by simpa using ht.symm.trans hw
  exact absurd (idle.symm.trans issued) (by decide)

/-! ### An invalidation where a core is listed twice -/

/-- A device whose table of cores lists core 0 twice: first with no slice and a dirty line, and again with a slice. Context 0, which
has that core by the second entry alone, has a well-formed invalidation to complete. -/
def doubled : State :=
  { State.reset with
    cores := [(0, { ways := [(0, { bank := 0, data := 0, dirty := 1, used := 0 })] }), (0, { slice := some 0 })]
    ctxs := [(0, { tinv := [{ all := true, va := 0, len := 4096 }] })] }

/-- The dirty bytes of row 0 in the cache of core 0 in the next state. -/
def dirtyAfter : Host.Outcome State Fault Refusal → Option (BitVec 128)
  | .next t => (tblFind (t.core 0).ways 0).map Line.dirty
  | _ => none

theorem unbound_doubled (m : Nat) : (doubled.core m).slice.isSome = false := by
  by_cases h : m = 0
  · subst h; rfl
  · have e : doubled.core m = {} := by simp [State.core, doubled, tblGet, Ne.symm h]
    rw [e]; rfl

/-- Refutes O44: with no core bound, and so none with a dirty line, an invalidation may change nothing but translations; where the
table of cores lists a core twice, its completion cleans the line of the first entry for the slice of the second. -/
theorem not_translationsScansAndFetches : ¬ Obligations.TranslationsScansAndFetches := by
  intro all
  obtain ⟨-, -, completes, -⟩ := all doubled
  obtain ⟨done, -⟩ := completes { all := true, va := 0, len := 4096 } [] rfl
  obtain ⟨t, e, -, -, -, drops, -⟩ := done (by decide +kernel)
  obtain ⟨⟨-, -, -, kept, -, -⟩, -⟩ := drops fun m bound => absurd (bound.1.symm.trans (unbound_doubled m)) (by decide)
  have core : ({ t.core 0 with tlb := [] } : Core) = { doubled.core 0 with tlb := [] } := kept 0
  have ways := congrArg Core.ways core
  have cleaned : dirtyAfter (.next t) = some 0 := (congrArg dirtyAfter e).symm.trans (by decide +kernel)
  have dirty : dirtyAfter (.next t) = some 1 := congrArg (fun w => (tblFind w 0).map Line.dirty) ways
  exact absurd (cleaned.symm.trans dirty) (by decide)

end Sys2Proof.Machine
end

section
/-! SUPPORT for O11 and O15. Bits of numbers that are made of elements: what the replacement of elements and the write of a row under a byte
mask leave of each bit, and so of each element (R72, R254). -/

namespace Sys2Proof.Machine
open Sys2Proof.Safety

/-! ### Bits under byte masks -/

theorem testBit_byteMask (n m p : Nat) : (byteMask n m).testBit p = (decide (p < 8 * n) && m.testBit (p / 8)) := by
  induction n generalizing m p with
  | zero => simp [byteMask]
  | succ n ih =>
    have low : (if m % 2 = 1 then 255 else 0) < 2 ^ 8 := by split <;> decide
    have shape : byteMask (n + 1) m = 2 ^ 8 * byteMask n (m / 2) + (if m % 2 = 1 then 255 else 0) := by simp only [byteMask]; omega
    rw [shape, Nat.testBit_two_pow_mul_add _ low]
    by_cases h : p < 8
    · have ones : (255 : Nat).testBit p = true := by
        rw [show (255 : Nat) = 2 ^ 8 - 1 from rfl, Nat.testBit_two_pow_sub_one]; simpa using h
      have zero : p / 8 = 0 := by omega
      have inside : p < 8 * (n + 1) := by omega
      rw [if_pos h, zero, Nat.testBit_zero, decide_eq_true inside, Bool.true_and]
      split <;> simp_all
    · have next : (p - 8) / 8 + 1 = p / 8 := by omega
      have iff : p - 8 < 8 * n ↔ p < 8 * (n + 1) := by omega
      rw [if_neg h, ih, ← Nat.testBit_add_one, next, decide_eq_decide.2 iff]

theorem testBit_spanMask (off len q : Nat) : (spanMask off len).testBit q = decide (off ≤ q ∧ q < off + len) := by
  rw [spanMask, Nat.testBit_mul_two_pow, Nat.testBit_two_pow_sub_one, Bool.eq_iff_iff]
  simp only [Bool.and_eq_true, decide_eq_true_eq]
  omega

/-! ### Elements of a number -/

/-- Of a number with the element `a` replaced, each bit. -/
theorem testBit_setElem {w : Nat} (hw : 0 < w) (m a x p : Nat) :
    (setBits m (w * a) w x).testBit p = if p / w = a then x.testBit (p % w) else m.testBit p := by
  have shape : setBits m (w * a) w x = 2 ^ (w * a) * (2 ^ w * (m / 2 ^ (w * a + w)) + x % 2 ^ w) + m % 2 ^ (w * a) := by
    rw [setBits, pow_add]; ring
  have place : p / w = a ↔ w * a ≤ p ∧ p < w * a + w := by
    rw [Nat.div_eq_iff hw, Nat.mul_comm w a]; omega
  rw [shape, Nat.testBit_two_pow_mul_add _ (Nat.mod_lt _ (by positivity)),
    Nat.testBit_two_pow_mul_add _ (Nat.mod_lt _ (by positivity))]
  by_cases below : p < w * a
  · rw [if_pos below, if_neg (by omega), Nat.testBit_mod_two_pow, decide_eq_true below, Bool.true_and]
  by_cases inside : p < w * a + w
  · have e : p - w * a = p % w := by
      have := Nat.div_add_mod p w
      rw [place.2 ⟨by omega, inside⟩] at this
      omega
    rw [if_neg below, if_pos (by omega), if_pos (place.2 ⟨by omega, inside⟩), Nat.testBit_mod_two_pow, e,
      decide_eq_true (Nat.mod_lt _ hw), Bool.true_and]
  · rw [if_neg below, if_neg (by omega), if_neg (by omega), Nat.testBit_div_two_pow]
    congr 1; omega

theorem testBit_elem (w img i b : Nat) : (elem w img i).testBit b = (decide (b < w) && img.testBit (w * i + b)) := by
  rw [elem, Nat.testBit_mod_two_pow, Nat.testBit_div_two_pow, Nat.add_comm b]

/-- Two numbers have one element in common where they have its bits in common. -/
theorem elem_congr {w m n i j : Nat} (h : ∀ b, b < w → m.testBit (w * i + b) = n.testBit (w * j + b)) : elem w m i = elem w n j := by
  refine Nat.eq_of_testBit_eq fun b => ?_
  rw [testBit_elem, testBit_elem]
  by_cases hb : b < w
  · rw [h b hb]
  · simp [hb]

theorem elem_setBits {w : Nat} (hw : 0 < w) (m a x i : Nat) : elem w (setBits m (w * a) w x) i = if i = a then x % 2 ^ w else elem w m i := by
  refine Nat.eq_of_testBit_eq fun b => ?_
  rw [testBit_elem]
  by_cases hb : b < w
  · have quot : (w * i + b) / w = i := by rw [Nat.mul_add_div hw, Nat.div_eq_of_lt hb, Nat.add_zero]
    have rem : (w * i + b) % w = b := by rw [Nat.mul_add_mod, Nat.mod_eq_of_lt hb]
    rw [testBit_setElem hw, quot, rem]
    split
    · rw [Nat.testBit_mod_two_pow]
    · rw [testBit_elem]
  · split
    · rw [Nat.testBit_mod_two_pow]; simp [hb]
    · rw [testBit_elem]; simp [hb]

/-- After a list of elements has been replaced by a function's values, each element. -/
theorem elem_setElems {w : Nat} (hw : 0 < w) (f : Nat → Nat) (l : List Nat) (img i : Nat) :
    elem w (setElems w img (l.map fun a => (a, f a))) i = if i ∈ l then f i % 2 ^ w else elem w img i := by
  induction l generalizing img with
  | nil => simp [setElems]
  | cons a l ih =>
    have shape : setElems w img ((a :: l).map fun a => (a, f a)) = setElems w (setBits img (w * a) w (f a)) (l.map fun a => (a, f a)) := rfl
    rw [shape, ih, elem_setBits hw]
    by_cases hl : i ∈ l
    · simp [hl]
    · by_cases ha : i = a
      · simp [ha]
      · simp [hl, ha]

/-- The widths of the elements of registers (R71). -/
def ElemWidth (w : Nat) : Prop := w = 4 ∨ w = 8 ∨ w = 16 ∨ w = 32 ∨ w = 64

theorem elemWidth (t : ElemTy) : ElemWidth t.width := by
  cases t <;> simp [ElemWidth, ElemTy.width]

theorem ElemWidth.pos {w : Nat} (h : ElemWidth w) : 0 < w := by
  unfold ElemWidth at h; omega

/-! ### The bytes of elements -/

theorem testBit_foldl_spanMask (w : Nat) (upd : List (Nat × Nat)) (m q : Nat) :
    (upd.foldl (fun m e => m ||| spanMask (w * e.1 / 8) (ceilDiv w 8)) m).testBit q =
      (m.testBit q || upd.any fun e => (spanMask (w * e.1 / 8) (ceilDiv w 8)).testBit q) := by
  induction upd generalizing m with
  | nil => simp
  | cons e upd ih => rw [List.foldl_cons, ih, Nat.testBit_or, List.any_cons, Bool.or_assoc]

/-- The bytes of an element hold its bits. -/
theorem span_of_elem {w : Nat} (h : ElemWidth w) (p : Nat) : (spanMask (w * (p / w) / 8) (ceilDiv w 8)).testBit (p / 8) = true := by
  rw [testBit_spanMask, decide_eq_true_eq]
  rcases h with rfl | rfl | rfl | rfl | rfl <;> simp only [ceilDiv] <;> omega

theorem testBit_setElems_of_not_mem {w : Nat} (hw : 0 < w) (upd : List (Nat × Nat)) (img p : Nat) (h : ∀ e ∈ upd, p / w ≠ e.1) :
    (setElems w img upd).testBit p = img.testBit p := by
  induction upd generalizing img with
  | nil => rfl
  | cons e upd ih =>
    have shape : setElems w img (e :: upd) = setElems w (setBits img (w * e.1) w e.2) upd := rfl
    rw [shape, ih _ fun e' m => h e' (List.mem_cons_of_mem _ m), testBit_setElem hw, if_neg (h e (by simp))]

/-- Bits outside the bytes of the replaced elements stay. -/
theorem testBit_setElems_unmasked {w : Nat} (hw : ElemWidth w) (upd : List (Nat × Nat)) (img p : Nat)
    (h : (elemMask w upd).testBit (p / 8) = false) : (setElems w img upd).testBit p = img.testBit p := by
  refine testBit_setElems_of_not_mem hw.pos upd img p fun e m eq => ?_
  rw [elemMask, testBit_foldl_spanMask, Bool.or_eq_false_iff, List.any_eq_false] at h
  exact h.2 e m (eq ▸ span_of_elem hw p)

/-! ### Rows of the pool -/

/-- A row of the pool after a write under a byte mask (R254). -/
def mergedRow (old : Nat) (w : Nat × Nat) : Nat := (BitVec.ofNat 1024 (mergeBytes 128 old w.1 w.2)).toNat

theorem testBit_mergedRow (o : Row) (w : Nat × Nat) {p : Nat} (hp : p < 1024) :
    (mergedRow o.toNat w).testBit p = if w.2.testBit (p / 8) then w.1.testBit p else o.toNat.testBit p := by
  have mask : (byteMask 128 w.2).testBit p = w.2.testBit (p / 8) := by
    rw [testBit_byteMask, decide_eq_true (by omega : p < 8 * 128), Bool.true_and]
  have bit : (mergedRow o.toNat w).testBit p = (BitVec.ofNat 1024 (mergeBytes 128 o.toNat w.1 w.2)).getLsbD p := rfl
  rw [bit, mergeBytes, ofNat_replace]
  simp only [BitVec.getLsbD_or, BitVec.getLsbD_and, BitVec.getLsbD_not, BitVec.getLsbD_ofNat, hp, decide_true, Bool.true_and, mask]
  cases w.2.testBit (p / 8) <;> simp [BitVec.getLsbD]

theorem mergedRow_unmasked (o : Row) (v : Nat) : mergedRow o.toNat (v, 0) = o.toNat := by
  refine Nat.eq_of_testBit_eq fun p => ?_
  by_cases hp : p < 1024
  · rw [testBit_mergedRow o _ hp]; simp
  · rw [mergedRow, BitVec.testBit_toNat, BitVec.testBit_toNat, BitVec.getLsbD_of_ge _ _ (by omega), BitVec.getLsbD_of_ge _ _ (by omega)]

/-- A row in which elements have been replaced, written under the mask of their bytes, holds the elements replaced. -/
theorem elem_mergedRow {w : Nat} (hw : ElemWidth w) (o : Row) (upd : List (Nat × Nat)) {q : Nat} (hq : q < 1024 / w) :
    elem w (mergedRow o.toNat (setElems w o.toNat upd, elemMask w upd)) q = elem w (setElems w o.toNat upd) q := by
  refine elem_congr fun b hb => ?_
  have hp : w * q + b < 1024 := by
    rcases hw with rfl | rfl | rfl | rfl | rfl <;> omega
  rw [testBit_mergedRow o _ hp]
  split
  · rfl
  · next h => exact (testBit_setElems_unmasked hw upd _ _ (by simpa using h)).symm

/-- A number made of rows holds each row's bits in its place. -/
theorem testBit_sum_rows (r : Nat → Row) (n p : Nat) (hp : p < 1024 * n) :
    ((List.range n).map fun j => (r j).toNat * 2 ^ (1024 * j)).sum.testBit p = (r (p / 1024)).toNat.testBit (p % 1024) := by
  have succ (n : Nat) : ((List.range (n + 1)).map fun j => (r j).toNat * 2 ^ (1024 * j)).sum =
      2 ^ (1024 * n) * (r n).toNat + ((List.range n).map fun j => (r j).toNat * 2 ^ (1024 * j)).sum := by
    rw [List.range_succ, List.map_append, List.sum_append, List.map_singleton, List.sum_singleton, Nat.add_comm, Nat.mul_comm]
  have bound (n : Nat) : ((List.range n).map fun j => (r j).toNat * 2 ^ (1024 * j)).sum < 2 ^ (1024 * n) := by
    induction n with
    | zero => simp
    | succ n ih =>
      have top : (r n).toNat + 1 ≤ 2 ^ 1024 := by have := (r n).isLt; omega
      rw [succ]
      calc 2 ^ (1024 * n) * (r n).toNat + ((List.range n).map fun j => (r j).toNat * 2 ^ (1024 * j)).sum
        _ < 2 ^ (1024 * n) * (r n).toNat + 2 ^ (1024 * n) := Nat.add_lt_add_left ih _
        _ = 2 ^ (1024 * n) * ((r n).toNat + 1) := (Nat.mul_succ _ _).symm
        _ ≤ 2 ^ (1024 * n) * 2 ^ 1024 := Nat.mul_le_mul_left _ top
        _ = 2 ^ (1024 * (n + 1)) := by rw [← pow_add, Nat.mul_succ]
  induction n with
  | zero => omega
  | succ n ih =>
    rw [succ, Nat.testBit_two_pow_mul_add _ (bound n)]
    split
    · next below => exact ih below
    · have e : p / 1024 = n := by omega
      have e' : p - 1024 * n = p % 1024 := by omega
      rw [e, e']

end Sys2Proof.Machine
end

section
/-! SUPPORT for O11 and O15. The steps of an effect that a whole turn takes: each changes the core of the executing stream alone and is
noted (`CoreStep`), and a group of them runs through (`CoreSteps.group`, R163). -/

namespace Sys2Proof.Machine
open Sys2Proof.Safety

/-! ### States between the steps of an effect -/

/-- The state of an effect that has left a core, some notes and the number of its next step, on the way from state `v`. -/
def State.taken (v : State) (c : Core) (n : Tbl Note) (i : Nat) : State :=
  v.setCur (c.setStream v.curK { v.st with notes := n, noteIdx := i })

section
variable (v : State) (c d : Core) (n m : Tbl Note) (i j : Nat)

@[simp] theorem State.taken_cur : (v.taken c n i).cur = c.setStream v.curK { v.st with notes := n, noteIdx := i } := by simp [State.taken]
@[simp] theorem State.taken_st : (v.taken c n i).st = { v.st with notes := n, noteIdx := i } := by simp [State.taken]
@[simp] theorem State.taken_curK : (v.taken c n i).curK = v.curK := rfl
@[simp] theorem State.taken_curCore : (v.taken c n i).curCore = v.curCore := rfl
@[simp] theorem State.taken_chosen : (v.taken c n i).chosen = v.chosen := rfl

theorem State.taken_setSt : (v.taken c n i).setSt { (v.taken c n i).st with notes := m, noteIdx := j } = v.taken c m j := by
  rw [State.taken_st, State.setSt, State.taken_cur]
  simp [State.taken]

theorem State.taken_setCur :
    (v.taken c n i).setCur (d.setStream v.curK { v.st with notes := m, noteIdx := j }) = v.taken d m j := by
  simp [State.taken]
end

/-! ### Steps and groups of steps -/

/-- No step from number `i` on has been noted. -/
def Unnoted (n : Tbl Note) (i : Nat) : Prop := ∀ key, 4 * i ≤ key → tblFind n key = none

/-- An operation that takes the core from `c` to `d`, gives `w`, and changes nothing else. -/
def CoreStep (v : State) (f : Op Nat) (c d : Core) (w : Nat) : Prop := ∀ n i, f (v.taken c n i) = .ok (v.taken d n i) w

/-- Such operations one after another, with their values. -/
inductive CoreSteps (v : State) : List (Op Nat) → Core → Core → List Nat → Prop
  | nil {c : Core} : CoreSteps v [] c c []
  | cons {f : Op Nat} {fs : List (Op Nat)} {c d e : Core} {w : Nat} {ws : List Nat} (head : CoreStep v f c d w)
      (tail : CoreSteps v fs d e ws) : CoreSteps v (f :: fs) c e (w :: ws)

theorem tblFind_tblSet_other {α : Type} (t : Tbl α) {k j : Nat} (v : α) (h : j ≠ k) : tblFind (tblSet t k v) j = tblFind t j := by
  fun_induction tblSet t k v <;> simp_all [tblFind, Ne.symm h]

section
variable {v : State} {c d : Core} {n : Tbl Note} {i w : Nat} {f : Op Nat} {fs : List (Op Nat)} {ws : List Nat}

theorem Unnoted.set (hn : Unnoted n i) (x : Note) : Unnoted (tblSet n (4 * i) x) (i + 1) := fun key hk => by
  rw [tblFind_tblSet_other _ _ (by omega)]; exact hn key (by omega)

/-- A step not yet taken is taken and noted. -/
theorem CoreStep.opStep (hf : CoreStep v f c d w) (hn : Unnoted n i) :
    opStep f (v.taken c n i) = .ok (v.taken d (tblSet n (4 * i) (.num w)) (i + 1)) w := by
  have key : (v.taken c n i).noteKey 0 = 4 * i := by simp [State.noteKey]
  have none : tblFind (v.taken c n i).st.notes (4 * i) = none := by rw [State.taken_st]; exact hn _ (le_refl _)
  have noted : (v.taken d n i).note (4 * i) (.num w) = v.taken d (tblSet n (4 * i) (.num w)) i := by
    rw [State.note]
    simpa using v.taken_setSt d n (tblSet n (4 * i) (.num w)) i i
  simp only [Machine.opStep, key, none, hf n i, noted]
  simpa using v.taken_setSt d (tblSet n (4 * i) (.num w)) (tblSet n (4 * i) (.num w)) i (i + 1)

/-- The values that the notes hold of `k` steps from number `i` on. -/
def noted (n : Tbl Note) (i k : Nat) : List Nat := (List.range k).map fun j => ((tblFind n (4 * (i + j))).getD (.num 0)).value

theorem noted_succ (n : Tbl Note) (i k : Nat) : noted n i (k + 1) = ((tblFind n (4 * i)).getD (.num 0)).value :: noted n (i + 1) k := by
  rw [noted, List.range_succ_eq_map, List.map_cons, List.map_map]
  refine congrArg _ (List.map_congr_left fun j _ => ?_)
  have next : i + (j + 1) = i + 1 + j := by omega
  exact congrArg (fun a => ((tblFind n (4 * a)).getD (.num 0)).value) next

/-- A whole turn takes every step of a group and notes its value. -/
theorem CoreSteps.groupRun (hs : CoreSteps v fs c d ws) (whole : v.chosen = none) (hn : Unnoted n i) :
    ∃ n', opGroupRun fs (v.taken c n i) = .ok (v.taken d n' (i + fs.length)) true ∧ Unnoted n' (i + fs.length) ∧
      (∀ key, key < 4 * i → tblFind n' key = tblFind n key) ∧ noted n' i fs.length = ws := by
  induction hs generalizing n i with
  | nil => exact ⟨n, rfl, hn, fun _ _ => rfl, rfl⟩
  | @cons f fs c d e w ws head tail ih =>
    obtain ⟨n', run, fresh, kept, values⟩ := ih (hn.set (.num w))
    have may : (v.taken c n i).mayTake (v.taken c n i).st.noteIdx = true := by simp [State.mayTake, whole]
    have len : i + (f :: fs).length = i + 1 + fs.length := by simp; omega
    refine ⟨n', ?_, len ▸ fresh, fun key hk => ?_, ?_⟩
    · simp only [opGroupRun, may, Bool.or_true, if_true, head.opStep hn, run, len]
    · rw [kept key (by omega), tblFind_tblSet_other _ _ (by omega)]
    · rw [List.length_cons, noted_succ, values, kept (4 * i) (by omega), tblFind_tblSet_same]
      rfl

theorem CoreSteps.group (hs : CoreSteps v fs c d ws) (whole : v.chosen = none) (hn : Unnoted n i) :
    ∃ n', opGroup fs (v.taken c n i) = .ok (v.taken d n' (i + fs.length)) ws ∧ Unnoted n' (i + fs.length) := by
  obtain ⟨n', run, fresh, -, values⟩ := hs.groupRun whole hn
  refine ⟨n', ?_, fresh⟩
  have idx : (v.taken c n i).st.noteIdx = i := by rw [State.taken_st]
  have notes : (v.taken d n' (i + fs.length)).st.notes = n' := by rw [State.taken_st]
  simp only [opGroup, run, idx, notes]
  rw [← values]; rfl

/-- Operations that only read. -/
theorem coreSteps_read {α : Type} {g : α → Op Nat} {r : α → Nat} {l : List α} (h : ∀ a ∈ l, CoreStep v (g a) c c (r a)) :
    CoreSteps v (l.map g) c c (l.map r) := by
  induction l with
  | nil => exact .nil
  | cons a l ih => exact .cons (h a (by simp)) (ih fun b hb => h b (List.mem_cons_of_mem _ hb))

/-- Operations that each write the core. -/
theorem coreSteps_write {α : Type} {g : α → Op Nat} {put : Core → α → Core} {r : Core → α → Nat} {l : List α}
    (h : ∀ c a, CoreStep v (g a) c (put c a) (r c a)) : ∀ c, ∃ ws, CoreSteps v (l.map g) c (l.foldl put c) ws := by
  induction l with
  | nil => exact fun c => ⟨_, .nil⟩
  | cons a l ih =>
    intro c
    obtain ⟨ws, steps⟩ := ih (put c a)
    exact ⟨_, .cons (h c a) steps⟩
end
end Sys2Proof.Machine
end

section
/-! SUPPORT for O11 and O15. The rows of a vector register: what a whole turn reads of them (`opImages_taken`), what it leaves when it
writes them (`opWriteRows_taken`, `Wrote`), and what that means for elements and for the other registers. -/

namespace Sys2Proof.Machine
open Sys2Proof.Safety

/-! ### Rows of a register -/

theorem regKey (k j : Nat) : regBank k * 512 + (regRow k + j) = 16 * k + j := by
  unfold regBank regRow; split <;> omega

/-- A core without what a write of vector registers may change. -/
def Core.offPool (c : Core) : Core := { c with pool := [], poolUe := [], vlive := 0 }

section
variable (c : Core) (k b r v m : Nat) (x : StreamId) (st : Stream)

@[simp] theorem Core.poolRow_setStream : (c.setStream x st).poolRow b r = c.poolRow b r := by simp [Core.poolRow]

theorem Core.setStream_setPoolRow : (c.setStream x st).setPoolRow b r v m = (c.setPoolRow b r v m).setStream x st := by cases x <;> rfl

theorem Core.setStream_raiseLive : (c.setStream x st).raiseLive k = (c.raiseLive k).setStream x st := by
  unfold Core.raiseLive
  rw [Core.setStream_vlive]
  split
  · cases x <;> rfl
  · rfl

@[simp] theorem Core.offPool_raiseLive : (c.raiseLive k).offPool = c.offPool := by
  unfold Core.raiseLive; split <;> rfl

@[simp] theorem Core.poolRow_raiseLive : (c.raiseLive k).poolRow b r = c.poolRow b r := by
  unfold Core.raiseLive; split <;> rfl

theorem Core.poolRow_setPoolRow_same : (c.setPoolRow b r v m).poolRow b r = mergedRow (c.poolRow b r) (v, m) := by
  simp only [Core.poolRow, Core.setPoolRow, tblGet_tblPut_same, mergedRow]

theorem Core.poolRow_setPoolRow_other {b' r' : Nat} (h : b' * 512 + r' ≠ b * 512 + r) :
    (c.setPoolRow b r v m).poolRow b' r' = c.poolRow b' r' := by
  simp only [Core.poolRow, Core.setPoolRow]
  rw [tblGet_tblPut_other _ _ _ h]

end

theorem Core.offPool_pending {c d : Core} (h : d.offPool = c.offPool) : d.pending = c.pending :=
  have : d.offPool.pending = c.offPool.pending := by rw [h]
  this

theorem Core.offPool_tokq {c d : Core} (h : d.offPool = c.offPool) : d.tokq = c.tokq :=
  have : d.offPool.tokq = c.offPool.tokq := by rw [h]
  this

/-- What is written to a row of a register depends on that row alone. -/
def RowLocal (k : Nat) (row : Nat → Core → Nat × Nat) : Prop :=
  ∀ j c d, c.poolRow (regBank k) (regRow k + j) = d.poolRow (regBank k) (regRow k + j) → row j c = row j d

/-- The write of one row of a register. -/
def Core.writeRow (k : Nat) (row : Nat → Core → Nat × Nat) (c : Core) (j : Nat) : Core :=
  if (row j c).2 = 0 then c else c.setPoolRow (regBank k) (regRow k + j) (row j c).1 (row j c).2

/-- Core `d` is core `c` with the rows of register `k` written. -/
structure Wrote (k : Nat) (row : Nat → Core → Nat × Nat) (c d : Core) : Prop where
  rest : d.offPool = c.offPool
  rows : ∀ j, j < 16 → d.poolRow (regBank k) (regRow k + j) = mergedRow (c.poolRow (regBank k) (regRow k + j)) (row j c)
  others : ∀ b r, (b * 512 + r < 16 * k ∨ 16 * k + 16 ≤ b * 512 + r) → d.poolRow b r = c.poolRow b r

section
variable {k : Nat} {row : Nat → Core → Nat × Nat}

theorem Core.writeRow_offPool (c : Core) (j : Nat) : (c.writeRow k row j).offPool = c.offPool := by
  unfold Core.writeRow; split <;> rfl

theorem Core.writeRow_same (c : Core) (j : Nat) :
    (c.writeRow k row j).poolRow (regBank k) (regRow k + j) = mergedRow (c.poolRow (regBank k) (regRow k + j)) (row j c) := by
  unfold Core.writeRow
  split
  · next h =>
    have e : row j c = ((row j c).1, 0) := Prod.ext rfl h
    rw [e]; exact (mergedRow_unmasked _ _).symm
  · exact c.poolRow_setPoolRow_same _ _ _ _

theorem Core.writeRow_other (c : Core) {j b r : Nat} (h : b * 512 + r ≠ 16 * k + j) : (c.writeRow k row j).poolRow b r = c.poolRow b r := by
  unfold Core.writeRow
  split
  · rfl
  · exact c.poolRow_setPoolRow_other _ _ _ _ (by rw [regKey]; exact h)

/-- Writing the first `m` rows one after another. -/
theorem foldl_writeRow (l : RowLocal k row) (c : Core) (m : Nat) :
    let d := (List.range m).foldl (Core.writeRow k row) c
    d.offPool = c.offPool ∧
      (∀ j, j < m → d.poolRow (regBank k) (regRow k + j) = mergedRow (c.poolRow (regBank k) (regRow k + j)) (row j c)) ∧
      ∀ b r, (b * 512 + r < 16 * k ∨ 16 * k + m ≤ b * 512 + r) → d.poolRow b r = c.poolRow b r := by
  induction m with
  | zero => exact ⟨rfl, fun j hj => absurd hj (by omega), fun _ _ _ => rfl⟩
  | succ m ih =>
    obtain ⟨rest, rows, others⟩ := ih
    rw [List.range_succ, List.foldl_append, List.foldl_cons, List.foldl_nil]
    refine ⟨(Core.writeRow_offPool _ _).trans rest, fun j hj => ?_, fun b r h => ?_⟩
    · by_cases e : j = m
      · subst e
        have old := others (regBank k) (regRow k + j) (by rw [regKey]; omega)
        rw [Core.writeRow_same, old, l j _ c old]
      · rw [Core.writeRow_other _ (by rw [regKey]; omega), rows j (by omega)]
    · rw [Core.writeRow_other _ (by omega), others b r (by omega)]

theorem Wrote.raiseLive {c d : Core} (h : Wrote k row c d) (n : Nat) : Wrote k row c (d.raiseLive n) where
  rest := (d.offPool_raiseLive n).trans h.rest
  rows j hj := (d.poolRow_raiseLive _ _ _).trans (h.rows j hj)
  others b r hr := (d.poolRow_raiseLive _ _ _).trans (h.others b r hr)

theorem landSr_settled {s : State} (p : s.cur.pending = []) : s.landSr s.curCore s.curK = s := by
  have : (s.core s.curCore).pending.isEmpty = true := by
    have : (s.core s.curCore).pending = [] := p
    rw [this]; rfl
  rw [State.landSr, if_pos this]

/-- A whole turn of a settled core writes all rows of a register. -/
theorem opWriteRows_taken {v : State} {c : Core} {n : Tbl Note} {i : Nat} (l : RowLocal k row) (whole : v.chosen = none)
    (settled : c.pending = []) (hn : Unnoted n i) :
    ∃ d n' i', opWriteRows k row (v.taken c n i) = .ok (v.taken d n' i') () ∧ Wrote k row c d ∧ Unnoted n' i' := by
  have step (c : Core) (j : Nat) : CoreStep v
      (fun s => .ok (if (row j s.cur).2 = 0 then s else s.setCur (s.cur.setPoolRow (regBank k) (regRow k + j) (row j s.cur).1 (row j s.cur).2))
        (row j s.cur).2) c (c.writeRow k row j) (row j c).2 := by
    intro n i
    have e : row j (v.taken c n i).cur = row j c := l j _ _ (by simp)
    simp only [e, Core.writeRow]
    split
    · rfl
    · rw [State.taken_cur, Core.setStream_setPoolRow, State.taken_setCur]
  obtain ⟨ws, steps⟩ := coreSteps_write (l := List.range 16) step c
  obtain ⟨n', run, fresh⟩ := steps.group whole hn
  obtain ⟨rest, rows, others⟩ := foldl_writeRow l c 16
  have wrote : Wrote k row c ((List.range 16).foldl (Core.writeRow k row) c) := ⟨rest, rows, others⟩
  generalize (List.range 16).foldl (Core.writeRow k row) c = d at run wrote
  simp only [List.length_map, List.length_range] at run fresh
  have land : (v.taken d n' (i + 16)).landSr v.curCore v.curK = v.taken d n' (i + 16) :=
    landSr_settled (s := v.taken d n' (i + 16)) (by rw [State.taken_cur, Core.setStream_pending, Core.offPool_pending wrote.rest, settled])
  simp only [opWriteRows, firmly, opBind, run, opMod, State.taken_curCore, State.taken_curK, land]
  split
  · exact ⟨d, n', i + 16, rfl, wrote, fresh⟩
  · refine ⟨d.raiseLive k, n', i + 16, ?_, wrote.raiseLive k, fresh⟩
    rw [State.taken_cur, Core.setStream_raiseLive, State.taken_setCur]

end

/-! ### Elements of a register -/

/-- The list of elements that an instruction writes: for each position of `l` a value. -/
def updates (l : List Nat) (f : Nat → Nat) : List (Nat × Nat) := l.map fun i => (i, f i)

/-- What `opWriteElems` writes to a row of register `k`. -/
def elemRow (k : VReg) (w : Nat) (upd : List (Nat × Nat)) (j : Nat) (c : Core) : Nat × Nat :=
  let mine := (upd.filter fun e => e.1 / (1024 / w) == j).map fun e => (e.1 % (1024 / w), e.2)
  (setElems w (c.poolRow (regBank k.toNat) (regRow k.toNat + j)) mine, elemMask w mine)

theorem opWriteElems_eq (k : VReg) (w : Nat) (upd : List (Nat × Nat)) : opWriteElems k w upd = opWriteRows k.toNat (elemRow k w upd) := rfl

theorem elemRow_local (k : VReg) (w : Nat) (upd : List (Nat × Nat)) : RowLocal k.toNat (elemRow k w upd) := by
  intro j c d h
  simp only [elemRow, h]

/-- The elements of one row among the updates, by their place in the row. -/
theorem updates_row (l : List Nat) (f : Nat → Nat) (per j : Nat) :
    ((updates l f).filter fun e => e.1 / per == j).map (fun e => (e.1 % per, e.2)) =
      updates ((l.filter fun i => i / per == j).map (· % per)) fun q => f (per * j + q) := by
  simp only [updates, List.filter_map, List.map_map]
  refine List.map_congr_left fun i hi => ?_
  have e : i / per = j := by simpa using (List.mem_filter.1 hi).2
  show (i % per, f i) = (i % per, f (per * j + i % per))
  rw [← e, Nat.div_add_mod]

theorem testBit_image (c : Core) (k p : Nat) (hp : p < 16384) :
    (c.image k).testBit p = (c.poolRow (regBank k) (regRow k + p / 1024)).testBit (p % 1024) :=
  testBit_sum_rows (fun j => tblGet 0 c.pool (regBank k * 512 + (regRow k + j))) 16 p (by omega)

/-- An element of a register lies in one of its rows. -/
theorem elem_image {w : Nat} (hw : ElemWidth w) (c : Core) (k : Nat) {i : Nat} (hi : i < 16384 / w) :
    elem w (c.image k) i = elem w (c.poolRow (regBank k) (regRow k + i / (1024 / w))) (i % (1024 / w)) := by
  refine elem_congr fun b hb => ?_
  have place : w * i + b < 16384 ∧ (w * i + b) / 1024 = i / (1024 / w) ∧ (w * i + b) % 1024 = w * (i % (1024 / w)) + b := by
    rcases hw with rfl | rfl | rfl | rfl | rfl <;> omega
  rw [testBit_image c k _ place.1, place.2.1, place.2.2]

theorem image_congr {c d : Core} {k : Nat} (h : ∀ j, j < 16 → c.poolRow (regBank k) (regRow k + j) = d.poolRow (regBank k) (regRow k + j)) :
    c.image k = d.image k := by
  unfold Core.image
  refine congrArg List.sum (List.map_congr_left fun j hj => ?_)
  rw [h j (List.mem_range.1 hj)]

section
variable {k : VReg} {w : Nat} {l : List Nat} {f : Nat → Nat} {c d : Core}

/-- After the write of some elements, each element of the register. -/
theorem Wrote.elem (h : Wrote k.toNat (elemRow k w (updates l f)) c d) (hw : ElemWidth w) {i : Nat} (hi : i < 16384 / w) :
    elem w (d.image k.toNat) i = if i ∈ l then f i % 2 ^ w else elem w (c.image k.toNat) i := by
  have inRow : i / (1024 / w) < 16 ∧ i % (1024 / w) < 1024 / w := by
    rcases hw with rfl | rfl | rfl | rfl | rfl <;> omega
  have split : 1024 / w * (i / (1024 / w)) + i % (1024 / w) = i := Nat.div_add_mod _ _
  have mem : i % (1024 / w) ∈ (l.filter fun a => a / (1024 / w) == i / (1024 / w)).map (· % (1024 / w)) ↔ i ∈ l := by
    simp only [List.mem_map, List.mem_filter, beq_iff_eq]
    constructor
    · rintro ⟨a, ⟨ha, q⟩, r⟩
      have : a = i := by rw [← Nat.div_add_mod a (1024 / w), q, r, split]
      exact this ▸ ha
    · exact fun ha => ⟨i, ⟨ha, rfl⟩, rfl⟩
  rw [elem_image hw d _ hi, elem_image hw c _ hi, h.rows _ inRow.1, elemRow, updates_row, Core.poolRow, elem_mergedRow hw _ _ inRow.2, updates,
    elem_setElems hw.pos, split]
  exact if_congr mem rfl rfl

theorem Wrote.image_other {row : Nat → Core → Nat × Nat} (h : Wrote k.toNat row c d) {q : Nat} (ne : q ≠ k.toNat) : d.image q = c.image q :=
  image_congr fun j hj => h.others _ _ (by rw [regKey]; omega)

theorem Wrote.above {row : Nat → Core → Nat × Nat} (h : Wrote k.toNat row c d) (hk : k.toNat < 384) {b r : Nat} (hb : 12 ≤ b) :
    d.poolRow b r = c.poolRow b r := h.others _ _ (by omega)

end

/-! ### Images of the sources -/

theorem zipIdx_map_range {α β : Type} (g : α → Nat → β) (r : Nat → α) (n : Nat) :
    (((List.range n).map r).zipIdx.map fun e => g e.1 e.2) = (List.range n).map fun j => g (r j) j :=
  List.ext_getElem (by simp) (by simp)

theorem imageOf_rows (c : Core) (k : Nat) : imageOf ((List.range 16).map fun j => c.poolRow (regBank k) (regRow k + j)) = c.image k :=
  congrArg List.sum (zipIdx_map_range (fun x j => x * 2 ^ (1024 * j)) _ 16)

/-- No row of a register holds uncorrectable data (R339). -/
def Core.SoundReg (c : Core) (k : VReg) : Prop :=
  ∀ j, j < 16 → c.poolUe.contains (regBank k.toNat * 512 + (regRow k.toNat + j)) = false

section
variable {v : State} {c : Core} {n : Tbl Note} {i : Nat}

theorem opImage_taken {k : VReg} (sound : c.SoundReg k) (whole : v.chosen = none) (hn : Unnoted n i) :
    ∃ n' i', opImage k (v.taken c n i) = .ok (v.taken c n' i') (c.image k.toNat) ∧ Unnoted n' i' := by
  have read : ∀ j ∈ List.range 16, CoreStep v (opRegRow k.toNat j) c c (c.poolRow (regBank k.toNat) (regRow k.toNat + j)) := by
    intro j hj n i
    have own : (v.taken c n i).core (v.taken c n i).curCore = c.setStream v.curK { v.st with notes := n, noteIdx := i } := v.taken_cur c n i
    simp only [opRegRow, opPoolRow, own, Core.setStream_poolUe, sound j (List.mem_range.1 hj), Bool.false_eq_true, if_false,
      Core.poolRow_setStream]
  obtain ⟨n', run, fresh⟩ := (coreSteps_read read).group whole hn
  refine ⟨n', _, ?_, fresh⟩
  simp only [opImage, opBind, run, opPure, imageOf_rows]

theorem opMap_opImage_taken {ks : List VReg} (sound : ∀ k ∈ ks, c.SoundReg k) (whole : v.chosen = none) (hn : Unnoted n i) :
    ∃ n' i', opMap opImage ks (v.taken c n i) = .ok (v.taken c n' i') (ks.map fun k => c.image k.toNat) ∧ Unnoted n' i' := by
  induction ks generalizing n i with
  | nil => exact ⟨n, i, rfl, hn⟩
  | cons k ks ih =>
    obtain ⟨n1, i1, first, fresh⟩ := opImage_taken (sound k (by simp)) whole hn
    obtain ⟨n2, i2, rest, fresh⟩ := ih (fun k m => sound k (List.mem_cons_of_mem _ m)) fresh
    exact ⟨n2, i2, by simp only [opMap, opBind, first, rest, opPure, List.map_cons], fresh⟩

/-- A whole turn reads the images of all operands. -/
theorem opImages_taken {ks : List VReg} (sound : ∀ k ∈ ks, c.SoundReg k) (whole : v.chosen = none) (hn : Unnoted n i) :
    ∃ n' i', opImages ks (v.taken c n i) = .ok (v.taken c n' i') (ks.map fun k => c.image k.toNat) ∧ Unnoted n' i' := by
  obtain ⟨n', i', run, fresh⟩ := opMap_opImage_taken (fun k m => sound k (List.mem_dedup.1 m)) whole hn
  refine ⟨n', i', ?_, fresh⟩
  have found : (ks.map fun k => (ks.dedup.map fun k => c.image k.toNat).getD (ks.dedup.idxOf k) 0) = ks.map fun k => c.image k.toNat := by
    refine List.map_congr_left fun k m => ?_
    have lt : ks.dedup.idxOf k < ks.dedup.length := List.idxOf_lt_length_iff.2 (List.mem_dedup.2 m)
    rw [List.getD_eq_getElem _ _ (by simpa using lt), List.getElem_map, List.getElem_idxOf]
  simp only [opImages, opBind, run, opPure, found]

end
end Sys2Proof.Machine
end

section
/-! SUPPORT for O11 and O15. A vector instruction that can issue: its checks pass, its effect reads the state as it was, and it completes with
the rows that it has written and the flags that it has raised (`completes_pool`, `lanewise`). -/

namespace Sys2Proof.Machine
open Sys2Proof.Safety

/-! ### The state in which a vector instruction takes its effect -/

/-- How an instruction issues whose guard is a lane mask. -/
def laneForm : Form := { lanes := true, kind := .access }

theorem runLanes_eq (h : Head) (eff : Op Flow) (s : State) : runLanes h eff s = runTok h laneForm eff s := rfl

section
variable (s : State) (h : Head) (f : Form)

@[simp] theorem State.issued_vshapeRows : (s.issued h f).st.vshapeRows = s.st.vshapeRows := by
  obtain ⟨t, keys, e⟩ := s.issued_eq h f
  rw [e, State.st_setSt]
@[simp] theorem State.issued_vshapeCols : (s.issued h f).st.vshapeCols = s.st.vshapeCols := by
  obtain ⟨t, keys, e⟩ := s.issued_eq h f
  rw [e, State.st_setSt]
@[simp] theorem State.issued_rm : (s.issued h f).st.rm = s.st.rm := by
  obtain ⟨t, keys, e⟩ := s.issued_eq h f
  rw [e, State.st_setSt]
@[simp] theorem State.issued_lanes : (s.issued h f).st.lanes = s.laneMask h := by
  obtain ⟨t, keys, e⟩ := s.issued_eq h f
  rw [e, State.st_setSt]
@[simp] theorem State.issued_flags : (s.issued h f).st.flags = s.st.flags := by
  obtain ⟨t, keys, e⟩ := s.issued_eq h f
  rw [e, State.st_setSt]
@[simp] theorem State.issued_pool : (s.issued h f).cur.pool = s.cur.pool := by
  obtain ⟨t, keys, e⟩ := s.issued_eq h f
  rw [e]; simp
@[simp] theorem State.issued_poolUe : (s.issued h f).cur.poolUe = s.cur.poolUe := by
  obtain ⟨t, keys, e⟩ := s.issued_eq h f
  rw [e]; simp
@[simp] theorem State.issued_vb : (s.issued h f).cur.vb = s.cur.vb := by
  obtain ⟨t, keys, e⟩ := s.issued_eq h f
  simp [Core.vb, Core.banksOf, e]
@[simp] theorem State.issued_reshape : (s.issued h f).cur.reshape = s.cur.reshape := by
  obtain ⟨t, keys, e⟩ := s.issued_eq h f
  rw [e]; simp

/-- The effect begins before its first step. -/
theorem State.issued_taken (h' : s.st.notes = []) : (s.issued h f).taken (s.issued h f).cur [] 0 = s.issued h f := by
  obtain ⟨t, keys, e⟩ := s.issued_eq h f
  have notes : (s.issued h f).st.notes = [] := by rw [e, State.st_setSt]; exact h'
  have idx : (s.issued h f).st.noteIdx = 0 := by rw [e, State.st_setSt]
  have same : ({ (s.issued h f).st with notes := [], noteIdx := 0 } : Stream) = (s.issued h f).st := by rw [← notes, ← idx]
  rw [State.taken, same]
  show (s.issued h f).setSt (s.issued h f).st = _
  rw [e, State.st_setSt, State.setSt_setSt]

theorem unnoted_nil (i : Nat) : Unnoted [] i := fun _ _ => rfl

@[simp] theorem State.mode_taken (c : Core) (n : Tbl Note) (i : Nat) (rm : Rm) : ((s.issued h f).taken c n i).mode rm = s.mode rm := by
  simp [State.mode]

@[simp] theorem State.rx_taken (c : Core) (n : Tbl Note) (i : Nat) (r : Reg) : ((s.issued h f).taken c n i).rx r = s.rx r := by
  rw [← s.issued_rx h f r]
  simp only [State.rx, State.taken_st]
  rfl

@[simp] theorem Core.image_issued (k : Nat) : (s.issued h f).cur.image k = s.cur.image k :=
  image_congr fun j _ => by simp only [Core.poolRow, State.issued_pool]

end

section
variable {h : Head} {f : Form} {s : State} {pc : PcWord} {dsts srcs ks : List VReg} {ws ws' : List Nat}

theorem shapeReady_mono (r : ShapeReady ws s) (m : ∀ w ∈ ws', w ∈ ws) : ShapeReady ws' s :=
  ⟨r.nonempty, r.bounded, fun w hw => r.fits w (m w hw)⟩

theorem regsReady_mono {dsts' srcs' : List VReg} (r : RegsReady dsts srcs s) (md : ∀ k ∈ dsts', k ∈ dsts) (ms : ∀ k ∈ srcs', k ∈ srcs) :
    RegsReady dsts' srcs' s where
  present k hk := r.present k <| by
    rw [List.mem_append] at hk ⊢
    exact hk.imp (md k) (ms k)
  sound k hk := r.sound k (ms k hk)

theorem opShape_issued (r : ShapeReady ws s) : opShape ws (s.issued h f) = .ok (s.issued h f) (s.st.vshapeRows.toNat, s.st.vshapeCols.toNat) := by
  have pos : 0 < s.st.vshapeRows.toNat * s.st.vshapeCols.toNat := r.nonempty
  have bounded : s.st.vshapeRows.toNat * s.st.vshapeCols.toNat ≤ 2048 := r.bounded
  have fits : (ws.any fun w => decide (16384 < s.st.vshapeRows.toNat * s.st.vshapeCols.toNat * w)) = false := by
    rw [List.any_eq_false]
    intro w hw
    exact mt of_decide_eq_true (Nat.not_lt.2 (r.fits w hw))
  have rows : s.st.vshapeRows.toNat ≠ 0 := by rintro e; simp [e] at pos
  have cols : s.st.vshapeCols.toNat ≠ 0 := by rintro e; simp [e] at pos
  simp only [opShape, State.issued_vshapeRows, State.issued_vshapeCols, fits, rows, cols, Nat.not_lt.2 bounded, false_or, Bool.false_eq_true,
    if_false]

theorem opRegs_issued (r : CanIssue h f.n pc s) (ready : RegsReady dsts srcs s) (m : ∀ k ∈ ks, k ∈ dsts ++ srcs) :
    opRegs ks (s.issued h f) = .ok (s.issued h f) () := by
  obtain ⟨-, still, -⟩ := r.settled
  have unheld (b : Nat) : (s.issued h f).bankHeld b = false := by simp [State.bankHeld, still]
  have inReg : (ks.findSome? fun k => (s.issued h f).cur.regTrap s.curCore k.toNat) = none := by
    rw [List.findSome?_eq_none_iff]
    intro k hk
    obtain ⟨-, bank⟩ := ready.present k (m k hk)
    rw [Core.regTrap, State.issued_vb, if_neg fun e => absurd (bank e.1) (Nat.not_lt.2 e.2)]
  simp [opRegs, unheld, inReg]

theorem soundReg_issued (ready : RegsReady dsts srcs s) : ∀ k ∈ srcs, (s.issued h f).cur.SoundReg k := fun k hk j hj => by
  rw [State.issued_poolUe]; exact ready.sound k hk j hj

theorem enabled_taken (c : Core) (n : Tbl Note) (i : Nat) :
    ((s.issued h f).taken c n i).enabled (s.st.vshapeRows.toNat * s.st.vshapeCols.toNat) = enabled h s := by
  simp [State.enabled, enabled, lanes]

end

/-! ### Completion -/

theorem offPool_coreRest (k : StreamId) (c : Core) : (coreRest k c).offPool = coreRest k c.offPool := by cases k <;> rfl

theorem pool_coreRest (k : StreamId) (c : Core) : (coreRest k c).pool = c.pool := by cases k <;> rfl

theorem orFlags_taken (v : State) (d : Core) (n : Tbl Note) (j : Nat) (fl : FlagSet) : (v.taken d n j).orFlags fl =
    v.setCur (d.setStream v.curK { v.st with notes := n, noteIdx := j, flags := v.st.flags ||| fl }) := by
  rw [State.orFlags, State.taken_st, State.setSt, State.taken_cur]
  simp [State.taken]

/-- `completes_setCur` for every form that is neither a transfer nor a `pool`. -/
theorem completes_setCur_form {i : Instr} {h : Head} {f : Form} {pc : PcWord} {s : State} {eff : Op Flow} {c : Core}
    (run : exec i s = runTok h f eff s) (r : CanIssue h f.n pc s) (g : f.lanes = true ∨ s.guardBit h = true) (tr : f.transfer = false)
    (k : f.kind = .plain ∨ f.kind = .access) (e : eff (s.issued h f) = .ok ((s.issued h f).setCur c) .next)
    (q : c.tokq = (s.issued h f).cur.tokq) (p : c.pending = (s.issued h f).cur.pending)
    (same : SameHead (c.stream s.curK) (s.issued h f).st) :
    ∃ t, exec i s = .next t ∧ Retired h f.n pc s t ∧ { t with cores := [] } = { s with cores := [] } ∧
      (∀ d, d ≠ s.curCore → t.core d = s.core d) ∧ coreRest s.curK t.cur = coreRest s.curK c ∧
      streamRest t.st = streamRest (c.stream s.curK) ∧ t.st.x = s.st.x := by
  have hst : ((s.issued h f).setCur c).st = c.stream s.curK := State.st_setCur _ _
  have hcur : ((s.issued h f).setCur c).cur = c := State.cur_setCur _ _
  obtain ⟨x, rc, kind, cls, due, ahead⟩ := same
  obtain ⟨-, x0, rc0, kind0, cls0, due0, ahead0⟩ := s.issued_st h f
  obtain ⟨-, others0⟩ := s.issued_core h (f := f) (by rcases k with k | k <;> rw [k] <;> decide)
  obtain ⟨-, -, -, -, sound⟩ := r.untaken
  obtain ⟨-, -, -, alone⟩ := r.waiting
  obtain ⟨t, step, ret, dev, others, core, stream, regs⟩ := completes r g tr e rfl rfl (by rw [hcur, q])
    (by rw [hcur, p, s.issued_pending, r.settled.1]) (by rw [hst, rc, rc0]) (by rw [hst, kind, kind0]; exact k)
    (by rw [hst, cls, cls0, r.free.2]) (by rw [hst, due, due0, sound]) (by rw [hst, ahead, ahead0, alone])
  refine ⟨t, run.trans step, ret, dev.trans (s.issued_dev h f), fun d hd => ?_, core.trans (by rw [hcur]), stream.trans (by rw [hst]), ?_⟩
  · rw [others d hd, State.core_setCur_other _ _ (by simpa using hd), others0 d hd]
  · rw [regs, hst, x, x0]

/-- A vector instruction whose effect leaves the core with other rows in its pool, and raises flags, completes. -/
theorem completes_pool {i : Instr} {h : Head} {pc : PcWord} {s : State} {eff : Op Flow} {d : Core} {n : Tbl Note} {j : Nat} {fl : FlagSet}
    (run : exec i s = runLanes h eff s) (r : CanIssue h 1 pc s) (rest : d.offPool = (s.issued h laneForm).cur.offPool)
    (e : eff (s.issued h laneForm) = .ok (((s.issued h laneForm).taken d n j).orFlags fl) .next) :
    Completes i h 1 pc s fun t => t.cur.pool = d.pool ∧ t.st.flags = s.st.flags ||| fl ∧ VecFrame s t := by
  rw [orFlags_taken] at e
  have tokq : d.tokq = (s.issued h laneForm).cur.tokq := Core.offPool_tokq rest
  have pending : d.pending = (s.issued h laneForm).cur.pending := Core.offPool_pending rest
  obtain ⟨t, step, ret, dev, others, core, stream, x⟩ := completes_setCur_form (run.trans (runLanes_eq h eff s)) r (.inl rfl) rfl (.inr rfl) e
    ((Core.setStream_tokq _ _ _).trans tokq) ((Core.setStream_pending _ _ _).trans pending)
    (by rw [State.issued_curK, Core.stream_setStream]; exact ⟨rfl, rfl, rfl, rfl, rfl, rfl⟩)
  rw [State.issued_curK, coreRest_setStream] at core
  rw [State.issued_curK, Core.stream_setStream] at stream
  obtain ⟨stream0, -⟩ := s.issued_st h laneForm
  obtain ⟨core0, -⟩ := s.issued_core h (f := laneForm) (by decide)
  obtain ⟨regs, mem⟩ := regs_mem_same x dev
  refine ⟨t, step, ret, ?_, ?_, ⟨dev, others, ?_, ?_⟩, regs, mem⟩
  · rw [← pool_coreRest s.curK, core, pool_coreRest]
  · refine (flags_eq (su := { (s.issued h laneForm).st with flags := (s.issued h laneForm).st.flags ||| fl }) stream).trans ?_
    rw [State.issued_flags]
  · have : (coreRest s.curK t.cur).offPool = (coreRest s.curK s.cur).offPool := by
      rw [core, offPool_coreRest, rest, ← offPool_coreRest, core0]
    rwa [State.cur, ret.core] at this
  · have : ({ streamRest t.st with flags := 0 } : Stream) = { streamRest s.st with flags := 0 } := by
      rw [stream, ← stream0]; rfl
    rwa [State.st, ret.stream, State.cur, ret.core] at this

/-- The elements that an instruction has written to a register. -/
theorem elements_of_wrote {h : Head} {s t : State} {vd : VReg} {w : Nat} {l : List Nat} {f : Nat → Nat} {p : Nat → Prop} {d : Core}
    (hw : ElemWidth w) (hd : vd.toNat < 384) (wrote : Wrote vd.toNat (elemRow vd w (updates l f)) (s.issued h laneForm).cur d)
    (pool : t.cur.pool = d.pool) (mem : ∀ i, i ∈ l ↔ p i) : Elements vd w p f s t := by
  have row (b r : Nat) : t.cur.poolRow b r = d.poolRow b r := by simp only [Core.poolRow, pool]
  have image (k : Nat) : t.cur.image k = d.image k := image_congr fun j _ => row _ _
  have written {i : Nat} (hi : i < 16384 / w) : el t vd w i = if i ∈ l then f i % 2 ^ w else el s vd w i := by
    rw [el, image, wrote.elem hw hi, Core.image_issued]; rfl
  refine ⟨fun i hi => ⟨fun hp => ?_, fun hp => ?_⟩, fun k _ ne => ?_, fun b r hb _ => ?_⟩
  · rw [written hi, if_pos ((mem i).2 hp)]
  · rw [written hi, if_neg (mt (mem i).1 hp)]
  · rw [image, wrote.image_other ne, Core.image_issued]
  · rw [row, wrote.above hd hb, Core.poolRow, State.issued_pool]; rfl

/-! ### Lane-by-lane instructions -/

section
variable {i : Instr} {h : Head} {pc : PcWord} {s : State} {vd : VReg} {wd : Nat} {srcs : List (VReg × Nat)}
  {f : State → Lane → Nat × FlagSet}

/-- What lane `x` of an instruction sees. -/
def State.lane (s : State) (srcs : List (VReg × Nat)) (x : Nat) : Lane :=
  { rows := s.st.vshapeRows.toNat, cols := s.st.vshapeCols.toNat, imgs := (srcs.map Prod.fst).map fun k => s.cur.image k.toNat, i := x }

/-- The updates of the lanes listed, and their flags. -/
theorem flags_lanes (l : List Nat) (g : Nat → Lane) (r : Lane → Nat × FlagSet) :
    ((l.map g).map r).map Prod.snd = l.map fun x => (r (g x)).2 := by
  rw [List.map_map, List.map_map]; rfl

theorem zip_lanes (l : List Nat) (g : Nat → Lane) (hg : ∀ x, (g x).i = x) (r : Lane → Nat × FlagSet) :
    ((l.map g).map Lane.i).zip (((l.map g).map r).map Prod.fst) = updates l fun x => (r (g x)).1 := by
  induction l with
  | nil => rfl
  | cons a l ih =>
    simp only [List.map_cons, List.zip_cons_cons, ih, updates, hg]

/-- The effect of a lane-by-lane instruction up to its retirement: the enabled lanes of `vd` are written. -/
theorem effLanesThen_issued {fin : Nat → List Nat → State → State} {r : Nat → Nat × FlagSet} (c : CanIssue h 1 pc s)
    (shape : ShapeReady (wd :: srcs.map Prod.snd) s) (regs : RegsReady [vd] (srcs.map Prod.fst) s)
    (hf : ∀ n j x, f ((s.issued h laneForm).taken (s.issued h laneForm).cur n j) (s.lane srcs x) = r x) :
    ∃ d n j, effLanesThen vd wd srcs f fin (s.issued h laneForm) =
        .ok (fin (lanes s) ((srcs.map Prod.fst).map fun k => s.cur.image k.toNat)
          (((s.issued h laneForm).taken d n j).orFlags (((enabled h s).map fun x => (r x).2).foldl (· ||| ·) 0))) .next ∧
      Wrote vd.toNat (elemRow vd wd (updates (enabled h s) fun x => (r x).1)) (s.issued h laneForm).cur d := by
  obtain ⟨-, whole, -⟩ := c.whole
  obtain ⟨unnoted, -⟩ := c.untaken
  have settled : (s.issued h laneForm).cur.pending = [] := (s.issued_pending h _).trans c.settled.1
  obtain ⟨n, j, read, fresh⟩ := opImages_taken (v := s.issued h laneForm) (soundReg_issued regs) whole (unnoted_nil 0)
  rw [s.issued_taken h _ unnoted] at read
  obtain ⟨d, n', j', write, wrote, -⟩ := opWriteRows_taken (v := s.issued h laneForm) (elemRow_local vd wd (updates (enabled h s) fun x => (r x).1)) whole settled fresh
  refine ⟨d, n', j', ?_, wrote⟩
  have regs' : opRegs (vd :: srcs.map Prod.fst) (s.issued h laneForm) = .ok (s.issued h laneForm) () :=
    opRegs_issued (f := laneForm) c regs fun k m => m
  simp only [effLanesThen, opBind, opShape_issued shape, regs', read, enabled_taken]
  rw [zip_lanes _ _ (fun _ => rfl)]
  simp only [flags_lanes, Core.image_issued]
  simp only [State.lane] at hf
  simp only [hf, opWriteElems_eq, write]
  rfl

/-- A lane-by-lane instruction completes with the results of its lanes. -/
theorem lanewise {r : Nat → Nat × FlagSet} (run : exec i s = runLanes h (effLanes vd wd srcs f) s) (c : CanIssue h 1 pc s)
    (hw : ElemWidth wd) (shape : ShapeReady (wd :: srcs.map Prod.snd) s) (regs : RegsReady [vd] (srcs.map Prod.fst) s)
    (hf : ∀ n j x, f ((s.issued h laneForm).taken (s.issued h laneForm).cur n j) (s.lane srcs x) = r x) : Lanewise i h pc vd wd r s := by
  obtain ⟨d, n, j, eff, wrote⟩ := effLanesThen_issued (fin := fun _ _ s => s) c shape regs hf
  obtain ⟨t, step, ret, pool, flags, frame⟩ := completes_pool run c wrote.rest eff
  obtain ⟨present, -⟩ := regs.present vd (by simp)
  exact ⟨t, step, ret, elements_of_wrote hw present wrote pool fun _ => Iff.rfl, flags, frame⟩

end
end Sys2Proof.Machine
end

section
/-! PROOF of O11. Each instruction gives its lanes the model's `arith`, which is exact on integers (`arith_int`) and rounds once on floating
numbers (`arith_float`). -/

namespace Sys2Proof.Machine
open Sys2Proof.Safety

/-! ### Arithmetic on patterns -/

section
variable {ty : ElemTy} {m m' : Mode} {sat : Bool} {ff : List Machine.Num → Exact × FlagSet} {fi : List Int → Int} {xs : List Nat}

theorem arith_int {z : Int} (hi : fmtOf ty = none) (hz : fi (xs.map (intValue ty)) = z) :
    arith ty m sat ff fi xs = (((if sat then max (intMin ty) (min (intMax ty) z) else z) % 2 ^ ty.width).toNat, 0) := by
  simp only [arith, hi, hz, intResult, intPattern, satInt]

theorem arith_float {z : Exact × FlagSet} (hf : fmtOf ty ≠ none) (hm : m = m') (hz : ff (xs.map (valueOf ty)) = z) :
    arith ty m sat ff fi xs = packTy ty m' sat z := by
  obtain ⟨f, e⟩ := Option.ne_none_iff_exists'.1 hf
  have value : f.value = valueOf ty := funext fun v => by simp only [valueOf, e]
  simp only [arith, e, value, hm, hz]

end

theorem bits_low (v : W64) (w : Nat) : bits v 0 w = v.toNat % 2 ^ w := by simp [bits]

/-! ### Instructions of one type -/

section
variable {i : Instr} {h : Head} {pc : PcWord} {s : State} {vd va vb vc : VReg} {ty : ElemTy} {r : Nat → Nat × FlagSet}

theorem shapeReady_replicate (shape : ShapeReady [ty.width] s) (n : Nat) : ShapeReady (List.replicate n ty.width) s :=
  shapeReady_mono shape fun _ m => by simp [List.eq_of_mem_replicate m]

@[simp] theorem lane_src_zero (k : VReg) (w w' x : Nat) (l : List (VReg × Nat)) : (s.lane ((k, w') :: l) x).src 0 w = el s k w x := by
  simp only [Lane.src, State.lane, List.map_cons, List.getD_cons_zero, el]

@[simp] theorem lane_src_one (e : VReg × Nat) (k : VReg) (w w' x : Nat) (l : List (VReg × Nat)) :
    (s.lane (e :: (k, w') :: l) x).src 1 w = el s k w x := by
  simp only [Lane.src, State.lane, List.map_cons, List.getD_cons_succ, List.getD_cons_zero, el]

@[simp] theorem lane_src_two (e e' : VReg × Nat) (k : VReg) (w w' x : Nat) (l : List (VReg × Nat)) :
    (s.lane (e :: e' :: (k, w') :: l) x).src 2 w = el s k w x := by
  simp only [Lane.src, State.lane, List.map_cons, List.getD_cons_succ, List.getD_cons_zero, el]

@[simp] theorem lane_at_one (e : VReg × Nat) (k : VReg) (w w' x j : Nat) (l : List (VReg × Nat)) :
    (s.lane (e :: (k, w') :: l) x).at' 1 w j = el s k w j := by
  simp only [Lane.at', State.lane, List.map_cons, List.getD_cons_succ, List.getD_cons_zero, el]

@[simp] theorem lane_i (l : List (VReg × Nat)) (x : Nat) : (s.lane l x).i = x := rfl
@[simp] theorem lane_cols (l : List (VReg × Nat)) (x : Nat) : (s.lane l x).cols = s.st.vshapeCols.toNat := rfl

theorem lanewise_v1 {f : State → Nat → Nat × FlagSet} (run : exec i s = runLanes h (effV1 ty vd va f) s) (c : CanIssue h 1 pc s)
    (shape : ShapeReady [ty.width] s) (regs : RegsReady [vd] [va] s)
    (hf : ∀ n j x, f ((s.issued h laneForm).taken (s.issued h laneForm).cur n j) (el s va ty.width x) = r x) :
    Lanewise i h pc vd ty.width r s :=
  lanewise run c (elemWidth ty) (shapeReady_replicate shape 2) regs fun n j x => by simpa using hf n j x

theorem lanewise_v2 {f : State → Nat → Nat → Nat × FlagSet} (run : exec i s = runLanes h (effV2 ty vd va vb f) s) (c : CanIssue h 1 pc s)
    (shape : ShapeReady [ty.width] s) (regs : RegsReady [vd] [va, vb] s)
    (hf : ∀ n j x, f ((s.issued h laneForm).taken (s.issued h laneForm).cur n j) (el s va ty.width x) (el s vb ty.width x) = r x) :
    Lanewise i h pc vd ty.width r s :=
  lanewise run c (elemWidth ty) (shapeReady_replicate shape 3) regs fun n j x => by simpa using hf n j x

theorem lanewise_v3 {f : State → Nat → Nat → Nat → Nat × FlagSet} (run : exec i s = runLanes h (effV3 ty vd va vb vc f) s)
    (c : CanIssue h 1 pc s) (shape : ShapeReady [ty.width] s) (regs : RegsReady [vd] [va, vb, vc] s)
    (hf : ∀ n j x, f ((s.issued h laneForm).taken (s.issued h laneForm).cur n j) (el s va ty.width x) (el s vb ty.width x)
      (el s vc ty.width x) = r x) :
    Lanewise i h pc vd ty.width r s :=
  lanewise run c (elemWidth ty) (shapeReady_replicate shape 4) regs fun n j x => by simpa using hf n j x

end

/-- Settles O11: lane by lane, each instruction applies `arith`, or rounds the exact result itself, under the mode of its issue. -/
theorem vectorArithmeticOnIntegersAndFloats : Obligations.VectorArithmeticOnIntegersAndFloats := by
  intro h vd va vb vc rb ty rm sat col pc s c shape regs
  have one : RegsReady [vd] [va] s := regsReady_mono regs (by simp) (by simp)
  have two : RegsReady [vd] [va, vb] s := regsReady_mono regs (by simp) (by simp)
  have mode n j : ((s.issued h laneForm).taken (s.issued h laneForm).cur n j).mode rm = s.mode rm := s.mode_taken h _ _ n j rm
  dsimp only
  constructor
  · intro hi
    refine ⟨?vadd, ?vsub, ?vmul, ?vfma, ?vfms, ?vmuls⟩
    case vadd => exact lanewise_v2 rfl c shape two fun n j x => arith_int hi (by simp)
    case vsub => exact lanewise_v2 rfl c shape two fun n j x => arith_int hi (by simp)
    case vmul => exact lanewise_v2 rfl c shape two fun n j x => arith_int hi (by simp)
    case vfma => exact lanewise_v3 rfl c shape regs fun n j x => arith_int hi (by simp)
    case vfms => exact lanewise_v3 rfl c shape regs fun n j x => arith_int hi (by simp)
    case vmuls => exact lanewise_v1 rfl c shape one fun n j x => arith_int hi (by simp [bits_low])
  · intro hf
    refine ⟨?vadd, ?vsub, ?vmul, ?vfma, ?vfms, ?vmuls, ?vdiv, ?vscale⟩
    case vadd => exact lanewise_v2 rfl c shape two fun n j x => arith_float hf (mode n j) (by simp)
    case vsub => exact lanewise_v2 rfl c shape two fun n j x => arith_float hf (mode n j) (by simp)
    case vmul => exact lanewise_v2 rfl c shape two fun n j x => arith_float hf (mode n j) (by simp)
    case vfma => exact lanewise_v3 rfl c shape regs fun n j x => arith_float hf (mode n j) (by simp)
    case vfms => exact lanewise_v3 rfl c shape regs fun n j x => arith_float hf (mode n j) (by simp)
    case vmuls => exact lanewise_v1 rfl c shape one fun n j x => arith_float hf (mode n j) (by simp [bits_low])
    case vdiv => exact lanewise_v2 rfl c shape two fun n j x => by rw [mode]
    case vscale =>
      exact lanewise (srcs := [(va, ty.width), (vb, ty.width)]) rfl c (elemWidth ty) (shapeReady_replicate shape 3) two
        fun n j x => by simp

end Sys2Proof.Machine
end

section
/-! PROOF of O15. A reduction and a scan write a list of results, one after another from element 0 on (`effList`). -/

namespace Sys2Proof.Machine
open Sys2Proof.Safety

/-! ### Lists of results -/

/-- An instruction that writes a list of results, made from the shape and the image of one source, to the first elements of `vd`. -/
def effList (t : ElemTy) (vd va : VReg) (out : State → Nat → Nat → Nat → List (Nat × FlagSet) × FlagSet) : Op Flow :=
  opBind (opShape [t.width, t.width]) fun sh => opBind (opRegs [vd, va]) fun _ => opBind (opImage va) fun img => fun s =>
    opBind (opWriteElems vd t.width ((out s sh.1 sh.2 img).1.zipIdx.map fun e => (e.2, e.1.1)))
      (fun _ u => .ok (u.orFlags (out s sh.1 sh.2 img).2) .next) s

/-- The value of a lane of a source, with an identity for the lanes that the guard disables (R146). -/
def State.laneOr (s : State) (w img ident i : Nat) : Nat := if s.st.lanes.getLsbD i then elem w img i else ident

/-- What a reduction writes (R146). -/
def reduced (t : ElemTy) (ident : Nat) (groups : Nat → Nat → List (List Nat)) (f : State → List Nat → Nat × FlagSet)
    (s : State) (rows cols img : Nat) : List (Nat × FlagSet) × FlagSet :=
  let r := (groups rows cols).map fun g => f s (g.map (s.laneOr t.width img ident))
  (r, (r.map Prod.snd).foldl (· ||| ·) 0)

theorem effReduce_eq (t : ElemTy) (vd va : VReg) (ident : Nat) (groups : Nat → Nat → List (List Nat))
    (f : State → List Nat → Nat × FlagSet) : effReduce t vd va ident groups f = effList t vd va (reduced t ident groups f) := rfl

/-- What `vscan` writes (R147). -/
def scanned (t : ElemTy) (rm : Rm) (excl : Bool) (s : State) (rows cols img : Nat) : List (Nat × FlagSet) × FlagSet :=
  let r := (rowLanes rows cols).map fun g => scanRow t (s.mode rm) excl (g.map (s.laneOr t.width img (sumIdent t)))
  (r.flatMap Prod.fst, (r.flatMap Prod.fst).foldl (fun m e => m ||| e.2) ((r.map Prod.snd).foldl (· ||| ·) 0))

theorem execVscan_eq (h : Head) (vd va : VReg) (ty : ElemTy) (rm : Rm) (excl : Bool) (s : State) :
    execVscan h vd va ty rm excl s = runLanes h (effList ty vd va (scanned ty rm excl)) s := rfl

theorem zipIdx_updates {l : List (Nat × FlagSet)} {n : Nat} {f : Nat → Nat} (h : l.map Prod.fst = (List.range n).map f) :
    (l.zipIdx.map fun e => (e.2, e.1.1)) = updates (List.range n) f := by
  have fsts : (l.zipIdx.map fun e => (e.2, e.1.1)) = (l.map Prod.fst).zipIdx.map fun e => (e.2, e.1) := by
    rw [List.zipIdx_map, List.map_map]; rfl
  rw [fsts, h]
  exact zipIdx_map_range (fun x j => (j, x)) f n

/-- Lists of one length after one another: element by element. -/
theorem flatMap_range {α : Type} {n : Nat} {g : Nat → List α} (h : ∀ r, (g r).length = n) (d : α) (m : Nat) :
    (List.range m).flatMap g = (List.range (m * n)).map fun i => (g (i / n)).getD (i % n) d := by
  induction m with
  | zero => simp
  | succ m ih =>
    have last : g m = (List.range n).map fun c => (g ((m * n + c) / n)).getD ((m * n + c) % n) d := by
      refine List.ext_getElem (by simp [h]) fun c _ hc => ?_
      have lt : c < n := by simpa using hc
      have quot : (m * n + c) / n = m := by rw [Nat.mul_comm, Nat.mul_add_div (by omega), Nat.div_eq_of_lt lt, Nat.add_zero]
      have rem : (m * n + c) % n = c := by rw [Nat.mul_comm, Nat.mul_add_mod, Nat.mod_eq_of_lt lt]
      rw [List.getElem_map, List.getElem_range, quot, rem, List.getD_eq_getElem _ _ (by rw [h]; exact lt)]
    rw [List.range_succ, List.flatMap_append, ih, List.flatMap_singleton, Nat.succ_mul, List.range_add, List.map_append, List.map_map]
    exact congrArg _ last

theorem length_scanAll (add : Nat → Nat → Nat × FlagSet) (fuel d : Nat) (l : List Nat) : (scanAll add fuel d l).1.length = l.length := by
  induction fuel generalizing d l with
  | zero => rfl
  | succ fuel ih =>
    unfold scanAll
    split
    · rfl
    · simp [ih, scanPass]

/-- A row of at least one column yields as many results as it has columns. -/
theorem length_scanRow (t : ElemTy) (m : Mode) (excl : Bool) {l : List Nat} (h : 0 < l.length) :
    (scanRow t m excl l).1.length = l.length := by
  unfold scanRow
  have shifted : l.length - 1 + 1 = l.length := by omega
  cases fmtOf t with
  | none => cases excl <;> simp [shifted]
  | some _ => cases excl <;> simp [length_scanAll, shifted]

/-! ### Completion -/

section
variable {i : Instr} {h : Head} {pc : PcWord} {s : State} {vd va : VReg} {ty : ElemTy}

/-- The first elements of `vd` take the results. -/
theorem effList_completes {out : State → Nat → Nat → Nat → List (Nat × FlagSet) × FlagSet} {count : Nat} {f : Nat → Nat}
    (run : exec i s = runLanes h (effList ty vd va out) s) (c : CanIssue h 1 pc s) (shape : ShapeReady [ty.width] s)
    (regs : RegsReady [vd] [va] s)
    (results : ∀ n j, (out ((s.issued h laneForm).taken (s.issued h laneForm).cur n j) s.st.vshapeRows.toNat s.st.vshapeCols.toNat
      (s.cur.image va.toNat)).1.map Prod.fst = (List.range count).map f) :
    Completes i h 1 pc s fun t => Elements vd ty.width (· < count) f s t ∧ VecFrame s t := by
  obtain ⟨-, whole, -⟩ := c.whole
  obtain ⟨unnoted, -⟩ := c.untaken
  have settled : (s.issued h laneForm).cur.pending = [] := (s.issued_pending h _).trans c.settled.1
  obtain ⟨n, j, read, fresh⟩ := opImage_taken (v := s.issued h laneForm) (soundReg_issued regs va (by simp)) whole (unnoted_nil 0)
  rw [s.issued_taken h _ unnoted, Core.image_issued] at read
  obtain ⟨d, n', j', write, wrote, -⟩ := opWriteRows_taken (v := s.issued h laneForm)
    (elemRow_local vd ty.width (updates (List.range count) f)) whole settled fresh
  have shape' : opShape [ty.width, ty.width] (s.issued h laneForm) = .ok (s.issued h laneForm) (s.st.vshapeRows.toNat, s.st.vshapeCols.toNat) :=
    opShape_issued (shapeReady_replicate shape 2)
  have regs' : opRegs [vd, va] (s.issued h laneForm) = .ok (s.issued h laneForm) () :=
    opRegs_issued (f := laneForm) c regs fun _ m => m
  have eff : effList ty vd va out (s.issued h laneForm) = .ok (((s.issued h laneForm).taken d n' j').orFlags
      (out ((s.issued h laneForm).taken (s.issued h laneForm).cur n j) s.st.vshapeRows.toNat s.st.vshapeCols.toNat
        (s.cur.image va.toNat)).2) .next := by
    simp only [effList, opBind, shape', regs', read, zipIdx_updates (results n j), opWriteElems_eq, write]
  obtain ⟨t, step, ret, pool, -, frame⟩ := completes_pool run c wrote.rest eff
  obtain ⟨present, -⟩ := regs.present vd (by simp)
  exact ⟨t, step, ret, elements_of_wrote (elemWidth ty) present wrote pool fun _ => List.mem_range, frame⟩

/-- The lanes of a list as a reduction reads them. -/
theorem map_laneOr (n : Tbl Note) (j : Nat) (ident : Nat) (w : Nat) (ls : List Nat) :
    ls.map (((s.issued h laneForm).taken (s.issued h laneForm).cur n j).laneOr w (s.cur.image va.toNat) ident) =
      laneValues h va w ident ls s := by
  refine List.map_congr_left fun i _ => ?_
  simp only [State.laneOr, State.taken_st, State.issued_lanes, el]

/-- A reduction of the rows or the columns writes each group's result. -/
theorem effReduce_completes {ident count : Nat} {groups : Nat → Nat → List (List Nat)} {group : Nat → List Nat}
    {f : State → List Nat → Nat × FlagSet} {g : List Nat → Nat}
    (run : exec i s = runLanes h (effReduce ty vd va ident groups f) s) (c : CanIssue h 1 pc s) (shape : ShapeReady [ty.width] s)
    (regs : RegsReady [vd] [va] s)
    (lanes : groups s.st.vshapeRows.toNat s.st.vshapeCols.toNat = (List.range count).map group)
    (value : ∀ n j l, (f ((s.issued h laneForm).taken (s.issued h laneForm).cur n j) l).1 = g l) :
    Completes i h 1 pc s fun t =>
      Elements vd ty.width (· < count) (fun r => g (laneValues h va ty.width ident (group r) s)) s t ∧ VecFrame s t := by
  rw [effReduce_eq] at run
  refine effList_completes run c shape regs fun n j => ?_
  simp only [reduced, lanes, List.map_map]
  refine List.map_congr_left fun r _ => ?_
  simp only [Function.comp_apply, map_laneOr, value]

end

theorem treeSum_int {ty : ElemTy} (hi : fmtOf ty = none) (m : Mode) (l : List Nat) :
    (treeSum ty m l).1 = ((max (intMin ty) (min (intMax ty) (l.map (intValue ty)).sum)) % 2 ^ ty.width).toNat := by
  simp only [treeSum, hi, intPattern, satInt]

/-- Settles O15: the results of the groups of lanes are those that the issued state gives, and they are written in order; a scan's rows, all
of the same length, follow one another. -/
theorem reductionsAndScans : Obligations.ReductionsAndScans := by
  intro h vd va ty rm excl pc s c shape regs
  have mode n j : ((s.issued h laneForm).taken (s.issued h laneForm).cur n j).mode rm = s.mode rm := s.mode_taken h _ _ n j rm
  dsimp only
  refine ⟨?vrsum, ?vrmax, ?vrmin, ?vcsum, ?vscan, fun hi r => treeSum_int hi _ _⟩
  case vrsum =>
    exact effReduce_completes (g := fun l => (treeSum ty (s.mode rm) l).1) rfl c shape regs rfl fun n j l => by rw [mode]
  case vrmax => exact effReduce_completes (g := fun l => (foldMinMax ty true l).1) rfl c shape regs rfl fun n j l => rfl
  case vrmin => exact effReduce_completes (g := fun l => (foldMinMax ty false l).1) rfl c shape regs rfl fun n j l => rfl
  case vcsum =>
    exact effReduce_completes (g := fun l => (treeSum ty (s.mode rm) l).1) rfl c shape regs rfl fun n j l => by rw [mode]
  case vscan =>
    have pos : 0 < s.st.vshapeCols.toNat := Nat.pos_of_mul_pos_left (show 0 < s.st.vshapeRows.toNat * s.st.vshapeCols.toNat from shape.nonempty)
    refine effList_completes (execVscan_eq ..) c shape regs fun n j => ?_
    simp only [scanned, rowLanes, List.map_map, mode, List.flatMap_map, Function.comp_apply, map_laneOr]
    rw [flatMap_range (n := s.st.vshapeCols.toNat) (fun r => ?_) (0, 0), List.map_map]
    · rfl
    · rw [length_scanRow] <;> simp [laneValues, pos]

end Sys2Proof.Machine
end

section
/-! PROOF of O1. Each of these instructions writes one register with a value of its operands (`sets_value`); what is left is that the
model's functions of those operands give the values of R93 to R96. -/

namespace Sys2Proof.Machine
open Sys2Proof.Safety

/-! ### Values (R93 to R96) -/

theorem mulHigh_eq (a b : W64) : mulHigh a b = (a.signExtend 128 * b.signExtend 128).extractLsb' 64 64 := by
  have product : a.signExtend 128 * b.signExtend 128 = BitVec.ofInt 128 (a.toInt * b.toInt) := (BitVec.ofInt_mul _ _).symm
  rw [product]
  refine BitVec.eq_of_toNat_eq ?_
  simp only [mulHigh, BitVec.extractLsb'_toNat, BitVec.toNat_ofInt, Nat.shiftRight_eq_div_pow]
  generalize a.toInt * b.toInt = p
  omega

theorem mulHighN_eq (a b : W64) : mulHighN a b = (a.setWidth 128 * b.setWidth 128).extractLsb' 64 64 := by
  refine BitVec.eq_of_toNat_eq ?_
  have product : a.toNat * b.toNat < 2 ^ 128 := by
    rw [show (2 : Nat) ^ 128 = 2 ^ 64 * 2 ^ 64 from rfl]
    exact Nat.mul_lt_mul'' a.isLt b.isLt
  have wide (c : W64) : c.toNat % 2 ^ 128 = c.toNat := Nat.mod_eq_of_lt (c.isLt.trans (by decide))
  simp only [mulHighN, w64, BitVec.toNat_ofNat, BitVec.extractLsb'_toNat, BitVec.toNat_mul, BitVec.toNat_setWidth,
    Nat.shiftRight_eq_div_pow, wide, Nat.mod_eq_of_lt product]

theorem shiftCount_eq (b : W64) : shiftCount b = b.toNat % 64 := by simp [shiftCount, bits]

theorem divS_eq (a b : W64) : divS a b = if b = 0 then 0xFFFFFFFFFFFFFFFF#64 else BitVec.sdiv a b := by
  have quotient : BitVec.ofInt 64 (a.toInt.tdiv b.toInt) = BitVec.sdiv a b :=
    BitVec.eq_of_toInt_eq (by rw [BitVec.toInt_ofInt, BitVec.toInt_sdiv])
  rw [divS, quotient]; rfl

theorem remS_eq (a b : W64) : remS a b = if b = 0 then a else BitVec.srem a b := by
  rw [remS, ← BitVec.toInt_srem, BitVec.ofInt_toInt]

theorem divU_eq (a b : W64) : divU a b = if b = 0 then 0xFFFFFFFFFFFFFFFF#64 else a / b := by
  rw [divU, w64, ← BitVec.toNat_udiv, BitVec.ofNat_toNat, BitVec.setWidth_eq]; rfl

theorem remU_eq (a b : W64) : remU a b = if b = 0 then a else a % b := by
  rw [remU, w64, ← BitVec.toNat_umod, BitVec.ofNat_toNat, BitVec.setWidth_eq]

/-- A choice by the order of two words is one by their strict order where it does not matter between equal words. -/
theorem ite_toInt_le {a b x y : W64} (equal : a = b → x = y) : (if a.toInt ≤ b.toInt then x else y) = if a.slt b then x else y := by
  simp only [BitVec.slt_iff_toInt_lt]
  rcases lt_trichotomy a.toInt b.toInt with lt | eq | gt
  · rw [if_pos lt.le, if_pos lt]
  · rw [equal (BitVec.eq_of_toInt_eq eq), ite_self, ite_self]
  · rw [if_neg gt.not_ge, if_neg gt.not_gt]

theorem ite_toNat_le {a b x y : W64} (equal : a = b → x = y) : (if a.toNat ≤ b.toNat then x else y) = if a < b then x else y := by
  simp only [BitVec.lt_def]
  rcases lt_trichotomy a.toNat b.toNat with lt | eq | gt
  · rw [if_pos lt.le, if_pos lt]
  · rw [equal (BitVec.eq_of_toNat_eq eq), ite_self, ite_self]
  · rw [if_neg gt.not_ge, if_neg gt.not_gt]

theorem join_eq (hi : BitVec 32) (a : W64) : hi ++ a.extractLsb' 0 32 = BitVec.ofNat 64 (hi.toNat * 2 ^ 32 + a.toNat % 2 ^ 32) := by
  refine BitVec.eq_of_toNat_eq ?_
  have low : a.toNat % 2 ^ 32 < 2 ^ 32 := Nat.mod_lt _ (by decide)
  have bound : hi.toNat * 2 ^ 32 + a.toNat % 2 ^ 32 < 2 ^ 64 := by have := hi.isLt; omega
  rw [BitVec.toNat_append, BitVec.extractLsb'_toNat, Nat.shiftRight_zero, ← Nat.shiftLeft_add_eq_or_of_lt low, Nat.shiftLeft_eq,
    BitVec.toNat_ofNat, Nat.mod_eq_of_lt bound]

/-- The leading zeros of a word whose highest one bit is bit `63 - k`. -/
theorem leadingZeros_eq {a : W64} {k : Nat} (hk : k < 64) (one : a.getLsbD (63 - k) = true) (zeros : ∀ j, 63 - k < j → a.getLsbD j = false) :
    leadingZeros a = k := by
  have lower : 2 ^ (63 - k) ≤ a.toNat := Nat.ge_two_pow_of_testBit one
  have upper : a.toNat < 2 ^ (63 - k + 1) := Nat.lt_pow_two_of_testBit _ fun j hj => zeros j hj
  have nonzero : a.toNat ≠ 0 := (Nat.two_pow_pos _).trans_le lower |>.ne'
  rw [leadingZeros, if_neg (fun h => nonzero (by rw [h]; rfl)), (Nat.log2_eq_iff nonzero).2 ⟨lower, upper⟩]
  omega

theorem testBit_top {f w : Nat} (h : f < 2 ^ (w + 1)) : f.testBit w = decide (2 ^ w ≤ f) := by
  by_cases le : 2 ^ w ≤ f
  · rw [Nat.testBit_eq_decide_div_mod_eq, Nat.div_eq_of_lt_le (by omega : 1 * 2 ^ w ≤ f) (by rw [pow_succ] at h; omega)]
    simp [le]
  · rw [Nat.testBit_lt_two_pow (by omega)]; simp [le]

theorem extractField_signed (a : W64) {w : Nat} (pos : Nat) (hw : 0 < w) :
    let f := a.toNat / 2 ^ pos % 2 ^ w
    extractField true a w pos = BitVec.ofInt 64 (if f.testBit (w - 1) then (f : Int) - 2 ^ w else f) := by
  intro f
  obtain ⟨n, rfl⟩ : ∃ n, w = n + 1 := ⟨w - 1, by omega⟩
  have top : f.testBit n = decide (2 ^ n ≤ f) := testBit_top (Nat.mod_lt _ (Nat.two_pow_pos _))
  simp only [extractField, bits, Bool.true_and, Nat.add_sub_cancel, top]
  split
  · rfl
  · exact (BitVec.ofInt_natCast _ _).symm

theorem insertField_eq (d a : W64) (w pos : Nat) :
    let m := BitVec.ofNat 64 ((2 ^ w - 1) * 2 ^ pos)
    insertField d a w pos = (d &&& ~~~m) ||| (BitVec.ofNat 64 (a.toNat * 2 ^ pos) &&& m) := by
  intro m
  have shifted : a <<< pos = BitVec.ofNat 64 (a.toNat * 2 ^ pos) :=
    BitVec.eq_of_toNat_eq (by rw [BitVec.toNat_shiftLeft, Nat.shiftLeft_eq, BitVec.toNat_ofNat])
  rw [insertField, shifted]; rfl

/-! ### Instructions that write one register -/

section
variable {i : Instr} {h : Head} {pc : PcWord} {s : State} {rd ra rb : Reg} {v : W64}

/-- An instruction whose effect writes a value of the state sets its register to the value at its issue. -/
theorem sets_value {val : State → W64} (run : exec i s = runHead h (effect fun s => s.wx rd (val s)) s) (r : CanIssue h 1 pc s)
    (g : s.guardBit h = true) (e : val (s.issued h {}) = v) : Sets i h 1 pc rd v s :=
  sets run r (.inr g) rfl (.inl rfl) (by rw [effect, e])

theorem sets_eff1 {f : W64 → W64} (run : exec i s = runHead h (eff1 f rd ra) s) (r : CanIssue h 1 pc s) (g : s.guardBit h = true)
    (e : f (s.rx ra) = v) : Sets i h 1 pc rd v s :=
  sets_value run r g (by rw [State.issued_rx, e])

theorem sets_eff2 {f : W64 → W64 → W64} (run : exec i s = runHead h (eff2 f rd ra rb) s) (r : CanIssue h 1 pc s)
    (g : s.guardBit h = true) (e : f (s.rx ra) (s.rx rb) = v) : Sets i h 1 pc rd v s :=
  sets_value run r g (by rw [State.issued_rx, State.issued_rx, e])

end

/-- Settles O1: every listed instruction writes a value of its operands to `rd` alone, and the values are those of R93 to R96. -/
theorem scalarArithmetic : Obligations.ScalarArithmetic := by
  refine ⟨fun h rd ra rb rc imm n pc s r g => ?arithmetic, fun h rd ra rb pc s r g => ?division, fun h rd ra rb rc imm w pos pc s r g => ?others⟩
  case arithmetic =>
    exact ⟨sets_eff2 rfl r g rfl, sets_eff1 rfl r g rfl, sets_eff2 rfl r g rfl, sets_eff2 rfl r g rfl,
      sets_eff2 rfl r g (mulHigh_eq _ _), sets_eff2 rfl r g (mulHighN_eq _ _), sets_value rfl r g (by simp),
      sets_eff2 rfl r g rfl, sets_eff1 rfl r g rfl, sets_eff2 rfl r g rfl, sets_eff1 rfl r g rfl, sets_eff2 rfl r g rfl, sets_eff1 rfl r g rfl,
      sets_eff2 rfl r g (by rw [shiftL, shiftCount_eq]), sets_eff2 rfl r g (by rw [shiftR, shiftCount_eq]),
      sets_eff2 rfl r g (by rw [shiftA, shiftCount_eq]), sets_eff1 rfl r g rfl, sets_eff1 rfl r g rfl, sets_eff1 rfl r g rfl⟩
  case division =>
    refine ⟨sets_eff2 rfl r g (divS_eq _ _), sets_eff2 rfl r g (remS_eq _ _), sets_eff2 rfl r g (divU_eq _ _), sets_eff2 rfl r g (remU_eq _ _),
      fun least minusOne => ⟨sets_eff2 rfl r g ?_, sets_eff2 rfl r g ?_⟩⟩
    · rw [least, minusOne]; decide
    · rw [least, minusOne]; decide
  case others =>
    refine ⟨sets_eff2 rfl r g (ite_toInt_le id), sets_eff2 rfl r g (ite_toInt_le Eq.symm), sets_eff2 rfl r g (ite_toNat_le id),
      sets_eff2 rfl r g (ite_toNat_le Eq.symm), sets_eff2 rfl r g ?seq, sets_eff2 rfl r g ?slt, sets_eff2 rfl r g ?sltn,
      sets_value rfl r g (by simp), sets_value rfl r g rfl, sets_eff1 rfl r g (join_eq _ _),
      fun zero => sets_eff1 rfl r g (by rw [zero]; rfl), fun k hk one zeros => sets_eff1 rfl r g (by rw [leadingZeros_eq hk one zeros]; rfl),
      sets_eff1 rfl r g (by rw [popCount, ← List.countP_eq_length_filter]; rfl), sets_eff2 rfl r g rfl,
      fun hw _ => ⟨sets_eff1 rfl r g rfl, sets_eff1 rfl r g (extractField_signed _ _ hw), sets_value rfl r g ?bfi⟩⟩
    case seq => simp [boolWord]
    case slt => simp [boolWord, BitVec.slt_iff_toInt_lt]
    case sltn => simp [boolWord, BitVec.lt_def]
    case bfi => rw [State.issued_rx, State.issued_rx]; exact insertField_eq _ _ _ _

end Sys2Proof.Machine
end

section
/-! PROOF of O2, O4 and O8, by refutation. O2 and O4 fail at states of kinds that runs reach: an `mfs` of `%tinvf` is held before its
issue whatever its guard (R324), and a context that traces no more may still have a frame open, which its stop appends to the trace ring
(R349). O8 speaks of every state, so also of one whose table of clusters does not list its keys in rising order, which no run from reset
reaches. -/

namespace Sys2Proof.Machine
open Sys2Proof.Safety

/-! ### A guarded `mfs` that waits for an invalidation -/

/-- A device whose handler slice, of the stopped context 0, has stream K of core 0 at a head. An invalidation of the context has started and
has not completed. -/
def invalidating : State :=
  { running .K { pc := 0x1000 } with
    slices := [(0, { ctx := 0, handler := true, queue := 0, hdr := { addr := 0, words := [] }, cores := [0], budget := 100 })]
    ctxs := [(0, { live := true, mode := .stopped, tinv := [{ all := true, va := 0, len := 4096 }] })] }

/-- Guarded by the inverse of p0, which is never true. -/
def falseGuard : Head := ⟨0, 8⟩

theorem canIssue_invalidating : CanIssue falseGuard 1 0x1001 invalidating where
  toAtHead := by constructor <;> decide +kernel
  pops := by decide +kernel
  pushes := by decide +kernel

theorem headAfter_invalidating : headAfter (exec (.mfs falseGuard 0 0x043) invalidating) = some (0, false) := by decide +kernel

/-- Refutes O2: in the handler an `mfs` of `%tinvf` whose guard is false waits, as one whose guard is true would, while an invalidation has
not completed; it does not retire. -/
theorem not_nopTokFalseGuardsAndMissingTokens : ¬ Obligations.NopTokFalseGuardsAndMissingTokens := by
  rintro ⟨-, skips, -⟩
  obtain ⟨t, e, ret, -⟩ := skips falseGuard 0 0 0 0 0x043 0 .f16 0 0 0 0 0 0 0x1001 invalidating canIssue_invalidating (by decide +kernel)
    (.mfs falseGuard 0 0x043) (by simp)
  have retired : headAfter (.next t) = some (1, false) := by rw [headAfter, ret.rc, ret.issued]; decide +kernel
  exact absurd (headAfter_invalidating.symm.trans ((congrArg headAfter e).trans retired)) (by decide)

/-! ### The open trace frame of a context that traces no more -/

/-- A device whose context 0 halts. Its tracing has been turned off since a source of it opened a frame; its trace ring, at address 0 by a
translation that die 0 holds, has one free slot, and its descriptor at address 64. -/
def openFrame : State :=
  { State.reset with
    ctxs := [(0, { live := true, halt := some 0, stops := 1, traceDesc := 1, trace := [(0, { recs := [(0, 2, 0)] })] })]
    dies := [(0, { tlb := [(0, { va := 0, size := 4096, pa := 0, cls := 0, r := true, w := true, x := false, xs := 0 })] })]
    mem := [(72, 3)] }

/-- A byte of DEV memory in the next state. -/
def byteAfter (a : Nat) : Host.Outcome State Fault Refusal → Option Byte
  | .next t => some (memRead t.mem a)
  | _ => none

/-- The frame is appended: the tail of the ring, at address 80, is 1. -/
theorem byteAfter_openFrame : byteAfter 80 (exec .contextStopped openFrame) = some 1 := by decide +kernel

theorem stopCores_openFrame : openFrame.stopCores openFrame.ev.ctx = [] := by decide +kernel

/-- Refutes O4: the stop of an untraced context appends its open trace frame, and so moves the tail of its trace ring, which lies outside
the stop area. -/
theorem not_softwareTrapsEnterTheHaltLine : ¬ Obligations.SoftwareTrapsEnterTheHaltLine := by
  rintro ⟨-, -, stops⟩
  obtain ⟨t, e, -, -, rest⟩ := stops openFrame rfl rfl rfl rfl rfl fun m bound => absurd bound (by rw [stopCores_openFrame]; exact List.not_mem_nil)
  have below (off : Nat) : ¬ (1 * 2 ^ 16 + off ≤ 80 ∧ 80 < 1 * 2 ^ 16 + off + 64) := by omega
  have kept : memRead t.mem 80 = 0 := rest 80 (fun off _ => below off) fun l held => absurd held List.not_mem_nil
  have appended : byteAfter 80 (.next t) = some 1 := (congrArg (byteAfter 80) e).symm.trans byteAfter_openFrame
  exact absurd ((congrArg some kept).symm.trans appended) (by decide)

/-! ### A budget check that traps in an unordered table -/

/-- Refutes O8: `budg.chk` of more cycles than the slice has traps in the listed state, and its trap leaves an entry more in the table of
clusters, which is not in rising order of its keys. -/
theorem not_budgetAndIdle : ¬ Obligations.BudgetAndIdle := by
  rintro ⟨budget, -⟩
  obtain ⟨-, -, exhausted⟩ := budget ⟨0, 0⟩ 0 101 0x1001 (listed 0x1000) _ canIssue_listed guardBit_listed rfl
  exact not_traps_listed (by decide +kernel) (exhausted (by decide) (ordinary_listed _))

end Sys2Proof.Machine
end

section
/-! PROOF of O27 and O28, by refutation. Both speak of every state, so also of one where a core's table of rings does not list its keys in
rising order, which no run from reset reaches. A line that is written back into the spill area of a ring spoils the records that the ring has
spilled (R209), and `tblSet` then adds an entry for the ring where the model means to replace one. -/

namespace Sys2Proof.Machine
open Sys2Proof.Safety

/-! ### What `Kept` says of the rings of another core -/

theorem core_offSpills (s : State) (c : Nat) : (offSpills s).core c = offSpill (s.core c) := by
  simp only [State.core, offSpills]
  induction s.cores with
  | nil => rfl
  | cons e rest ih =>
    obtain ⟨j, v⟩ := e
    by_cases h : j = c
    · simp [tblMap, tblGet, h]
    · simpa [tblMap, tblGet, h] using ih

/-- Where all but the contents of spilled records is as it was, another core has as many rings as before. -/
theorem length_rings_of_keptAt {m c : Nat} {k : StreamId} {dev : State → State} {core : Core → Core} {stream : Stream → Stream} {s t : State}
    (h : KeptAt m k dev core stream (offSpills s) (offSpills t)) (other : c ≠ m) : (t.core c).rings.length = (s.core c).rings.length := by
  have e := congrArg (fun v : Core => v.rings.length) (h.others c other)
  simpa only [core_offSpills, offSpill, length_tblMap] using e

/-! ### A write-back into the spill area of a ring of an unordered table -/

/-- A ring with one spilled record, whose spill area is row 0x2000 of memory. -/
def spilledRing : Ring := { enabled := true, sp := true, spillPages := [(0x100000, 128)], spill := [[]] }

/-- Stream K of core 0, whose cache, bank 20, holds row 0x2000 dirty; x1 names that bank. Core 1 lists its ring 1 before its ring 0, and
ring 0 has spilled to the row. -/
def unorderedRings : State :=
  let s := running .K { pc := 0x1000, x := [(1, 20 + 64)] }
  (s.setCur { s.cur with
      roles := [(0, 1), (10, 1), (11, 1), (20, 3)], ways := [(0x2000, { bank := 20, data := 1, dirty := 1, used := 0 })] }).setCore 1
    { rings := [(1, { enabled := true }), (0, spilledRing)] }

/-- The number of entries of the table of rings of core 1 in the next state. -/
def ringsAfter : Host.Outcome State Fault Refusal → Option Nat
  | .next t => some (t.core 1).rings.length
  | _ => none

theorem canIssue_unorderedRings : CanIssue ⟨0, 0⟩ 1 0x1001 unorderedRings where
  toAtHead := by constructor <;> decide +kernel
  pops := by decide +kernel
  pushes := by decide +kernel

theorem guardBit_unorderedRings : unorderedRings.guardBit ⟨0, 0⟩ = true := by decide +kernel

/-- A step that leaves core 1 three rings has changed more than the contents of spilled records. -/
theorem not_keptAt_unorderedRings {k : StreamId} {dev : State → State} {core : Core → Core} {stream : Stream → Stream}
    {r : Host.Outcome State Fault Refusal} {t : State} (h : ringsAfter r = some 3) (e : r = .next t) :
    ¬ KeptAt 0 k dev core stream (offSpills unorderedRings) (offSpills t) := by
  intro kept
  have three : (t.core 1).rings.length = 3 := Option.some.inj ((congrArg ringsAfter e).symm.trans h)
  have two : (t.core 1).rings.length = 2 := length_rings_of_keptAt kept (by decide)
  exact absurd (two.symm.trans three) (by decide)

/-- Refutes O27: `pool.scr` of the bank of the dirty line writes the line back, which leaves an entry more in the table of rings of core 1,
which is not in rising order of its keys. -/
theorem not_poolReshapesPinsAndReports : ¬ Obligations.PoolReshapesPinsAndReports := by
  rintro ⟨-, succeeds, -⟩
  obtain ⟨reshapes, -⟩ := succeeds ⟨0, 0⟩ 0 1 5 false 0 0x1001 unorderedRings canIssue_unorderedRings guardBit_unorderedRings
    (by decide +kernel) (by decide +kernel) (by decide +kernel)
  obtain ⟨unmoved, -⟩ := reshapes (by decide +kernel) (by decide +kernel) (by decide +kernel) (by decide +kernel) (.inr (by decide +kernel))
    (by decide +kernel) (by decide +kernel) (by decide +kernel)
  obtain ⟨t, e, -, ⟨-, -, -, -, -, kept, -⟩, -⟩ := unmoved rfl (by decide +kernel)
  exact not_keptAt_unorderedRings (by decide +kernel) e kept

/-- Refutes O28: `wbinv.all` writes the dirty line back, which leaves an entry more in the table of rings of core 1, which is not in rising
order of its keys. -/
theorem not_writeBackCountsAndCleans : ¬ Obligations.WriteBackCountsAndCleans := by
  intro all
  obtain ⟨t, e, -, -, -, -, -, cached⟩ := all ⟨0, 0⟩ 0 0 0 false 0x1001 unorderedRings canIssue_unorderedRings guardBit_unorderedRings
    (.wbinvAll ⟨0, 0⟩ 0 false, fun _ => true) (by simp)
  exact not_keptAt_unorderedRings (by decide +kernel) e cached.rest.spilled

end Sys2Proof.Machine
end

section
/-! SUPPORT for O10, O14, O16 and O17. A vector effect reads images and writes elements; these lemmas say what each such step returns from
a state that has issued, and what the completion of the instruction keeps. -/

namespace Sys2Proof.Machine
open Sys2Proof.Safety

/-! ### Steps of an effect under way -/

/-- How an instruction issues that reaches registers and whose guard is one bit. -/
def accessForm : Form := { kind := .access }

theorem runAccess_eq (h : Head) (eff : Op Flow) (s : State) : runAccess h eff s = runTok h accessForm eff s := rfl

section
variable {v : State} {c : Core} {n : Tbl Note} {i : Nat}

theorem State.taken_eq (v : State) (c : Core) (n : Tbl Note) (i : Nat) :
    v.taken c n i = v.setCur (c.setStream v.curK { v.st with notes := n, noteIdx := i }) := rfl

theorem State.setSt_taken (st : Stream) : (v.taken c n i).setSt st = v.setCur (c.setStream v.curK st) := by
  rw [State.setSt, State.taken_cur]
  simp [State.taken]

theorem opWriteElems_taken (k : VReg) (w : Nat) (upd : List (Nat × Nat)) (whole : v.chosen = none) (settled : c.pending = [])
    (hn : Unnoted n i) :
    ∃ d n' i', opWriteElems k w upd (v.taken c n i) = .ok (v.taken d n' i') () ∧ Wrote k.toNat (elemRow k w upd) c d ∧ Unnoted n' i' := by
  rw [opWriteElems_eq]
  exact opWriteRows_taken (elemRow_local k w upd) whole settled hn

end

section
variable {h : Head} {f : Form} {s : State} {pc : PcWord} {dsts srcs : List VReg}

/-- The image of a source, as an effect reads it first. -/
theorem opImage_issued (c : CanIssue h f.n pc s) (regs : RegsReady dsts srcs s) {k : VReg} (m : k ∈ srcs) :
    ∃ n j, opImage k (s.issued h f) = .ok ((s.issued h f).taken (s.issued h f).cur n j) (s.cur.image k.toNat) ∧ Unnoted n j := by
  obtain ⟨-, whole, -⟩ := c.whole
  obtain ⟨unnoted, -⟩ := c.untaken
  obtain ⟨n, j, read, fresh⟩ := opImage_taken (v := s.issued h f) (soundReg_issued regs k m) whole (unnoted_nil 0)
  rw [s.issued_taken h f unnoted, Core.image_issued] at read
  exact ⟨n, j, read, fresh⟩

/-- The images of the sources, as an effect reads them first. -/
theorem opImages_issued (c : CanIssue h f.n pc s) (regs : RegsReady dsts srcs s) {ks : List VReg} (m : ∀ k ∈ ks, k ∈ srcs) :
    ∃ n j, opImages ks (s.issued h f) = .ok ((s.issued h f).taken (s.issued h f).cur n j) (ks.map fun k => s.cur.image k.toNat) ∧
      Unnoted n j := by
  obtain ⟨-, whole, -⟩ := c.whole
  obtain ⟨unnoted, -⟩ := c.untaken
  obtain ⟨n, j, read, fresh⟩ := opImages_taken (v := s.issued h f) (fun k hk => soundReg_issued regs k (m k hk)) whole (unnoted_nil 0)
  rw [s.issued_taken h f unnoted] at read
  simp only [Core.image_issued] at read
  exact ⟨n, j, read, fresh⟩

end

/-! ### Completion -/

/-- An instruction whose effect leaves another core completes, and keeps what that core keeps. -/
theorem completes_kept {i : Instr} {h : Head} {f : Form} {pc : PcWord} {s : State} {eff : Op Flow} {c : Core} {onCore : Core → Core}
    {onStream : Stream → Stream} (run : exec i s = runTok h f eff s) (r : CanIssue h f.n pc s)
    (g : f.lanes = true ∨ s.guardBit h = true) (tr : f.transfer = false) (k : f.kind = .plain ∨ f.kind = .access)
    (e : eff (s.issued h f) = .ok ((s.issued h f).setCur c) .next) (tokq : c.tokq = (s.issued h f).cur.tokq)
    (pending : c.pending = (s.issued h f).cur.pending) (same : SameHead (c.stream s.curK) (s.issued h f).st)
    (rest : onCore (coreRest s.curK c) = onCore (coreRest s.curK (s.issued h f).cur))
    (stream : onStream (streamRest (c.stream s.curK)) = onStream (streamRest (s.issued h f).st)) :
    Completes i h f.n pc s fun t => coreRest s.curK t.cur = coreRest s.curK c ∧ streamRest t.st = streamRest (c.stream s.curK) ∧
      Kept id onCore onStream s t ∧ RegsBut 0 s t ∧ MemSame s t := by
  obtain ⟨t, step, ret, dev, others, core, stream', x⟩ := completes_setCur_form run r g tr k e tokq pending same
  obtain ⟨stream0, -⟩ := s.issued_st h f
  obtain ⟨core0, -⟩ := s.issued_core h (f := f) (by rcases k with k | k <;> rw [k] <;> decide)
  refine ⟨t, step, ret, core, stream', ⟨dev, others, ?_, ?_⟩, regs_mem_same x dev⟩
  · have : onCore (coreRest s.curK t.cur) = onCore (coreRest s.curK s.cur) := by rw [core, rest, core0]
    rwa [State.cur, ret.core] at this
  · have : onStream (streamRest t.st) = onStream (streamRest s.st) := by rw [stream', stream, stream0]
    rwa [State.st, ret.stream, State.cur, ret.core] at this

/-- An instruction that writes rows of the pool and changes its stream completes. -/
theorem completes_rows {i : Instr} {h : Head} {f : Form} {pc : PcWord} {s : State} {eff : Op Flow} {d : Core} {st : Stream}
    {onStream : Stream → Stream} (run : exec i s = runTok h f eff s) (r : CanIssue h f.n pc s)
    (g : f.lanes = true ∨ s.guardBit h = true) (tr : f.transfer = false) (k : f.kind = .plain ∨ f.kind = .access)
    (e : eff (s.issued h f) = .ok ((s.issued h f).setCur (d.setStream s.curK st)) .next)
    (off : d.offPool = (s.issued h f).cur.offPool) (same : SameHead st (s.issued h f).st)
    (stream : onStream (streamRest st) = onStream (streamRest (s.issued h f).st)) :
    Completes i h f.n pc s fun t => t.cur.pool = d.pool ∧ streamRest t.st = streamRest st ∧ Kept id Core.offPool onStream s t ∧
      RegsBut 0 s t ∧ MemSame s t := by
  have own : (d.setStream s.curK st).stream s.curK = st := Core.stream_setStream _ _ _
  obtain ⟨t, step, ret, core, stream', kept, regs, mem⟩ := completes_kept (onCore := Core.offPool) (onStream := onStream) run r g tr k e
    ((Core.setStream_tokq _ _ _).trans (Core.offPool_tokq off)) ((Core.setStream_pending _ _ _).trans (Core.offPool_pending off))
    (by rw [own]; exact same) (by rw [coreRest_setStream, offPool_coreRest, off, ← offPool_coreRest]) (by rw [own]; exact stream)
  rw [coreRest_setStream] at core
  rw [own] at stream'
  exact ⟨t, step, ret, by rw [← pool_coreRest s.curK, core, pool_coreRest], stream', kept, regs, mem⟩

/-! ### Registers after the write of rows -/

section
variable {s t : State} {c d : Core} {h : Head} {f : Form} {vd : VReg} {w : Nat} {l : List Nat} {g : Nat → Nat} {p : Nat → Prop}

theorem image_of_pool (e : t.cur.pool = d.pool) (k : Nat) : t.cur.image k = d.image k :=
  image_congr fun _ _ => by simp only [Core.poolRow, e]

/-- What has been written to the rows of a register, on a core with the same rows. -/
theorem Wrote.onPool {k : Nat} {row : Nat → Core → Nat × Nat} (wrote : Wrote k row c d) (l : RowLocal k row) {c' : Core} (e : c'.pool = c.pool) :
    Wrote k row c' { c' with pool := d.pool } := by
  have same (b r : Nat) : c'.poolRow b r = c.poolRow b r := by simp only [Core.poolRow, e]
  refine ⟨rfl, fun j hj => ?_, fun b r hr => ?_⟩
  · rw [same, l j c' c (same _ _)]; exact wrote.rows j hj
  · rw [same]; exact wrote.others b r hr

/-- `elements_of_wrote` for every form. -/
theorem elements_of_wrote_form (hw : ElemWidth w) (hd : vd.toNat < 384)
    (wrote : Wrote vd.toNat (elemRow vd w (updates l g)) (s.issued h f).cur d) (pool : t.cur.pool = d.pool)
    (mem : ∀ i, i ∈ l ↔ p i) : Elements vd w p g s t :=
  elements_of_wrote (h := h) hw hd (wrote.onPool (elemRow_local _ _ _) (c' := (s.issued h laneForm).cur) (by simp)) pool mem

/-- A list of updates whose values a function of the position gives. -/
theorem eq_updates {upd : List (Nat × Nat)} (e : ∀ u ∈ upd, u.2 = g u.1) : upd = updates (upd.map Prod.fst) g := by
  rw [updates, List.map_map]
  exact (List.map_id'' (fun _ => rfl) upd).symm.trans (List.map_congr_left fun u m => Prod.ext rfl (e u m))

end

/-! ### Lanes -/

theorem elem_lt (w img i : Nat) : elem w img i < 2 ^ w := Nat.mod_lt _ (by positivity)

theorem el_lt (s : State) (k : VReg) (w i : Nat) : el s k w i < 2 ^ w := elem_lt _ _ _

/-- The results of lanes count modulo the width of their element. -/
theorem lanewise_congr {i : Instr} {h : Head} {pc : PcWord} {vd : VReg} {w : Nat} {r r' : Nat → Nat × FlagSet} {s : State}
    (e : ∀ x, (r x).1 % 2 ^ w = (r' x).1 % 2 ^ w ∧ (r x).2 = (r' x).2) (done : Lanewise i h pc vd w r s) : Lanewise i h pc vd w r' s := by
  obtain ⟨t, step, ret, ⟨elems, others⟩, flags, frame⟩ := done
  have values x := (e x).1
  have raised x := (e x).2
  refine ⟨t, step, ret, ⟨fun x hx => ⟨fun m => ?_, (elems x hx).2⟩, others⟩, ?_, frame⟩
  · rw [← values]; exact (elems x hx).1 m
  · simpa only [raised] using flags

end Sys2Proof.Machine
end

section
/-! PROOF of O10. A write keeps the low bits of each value, so the lane functions of the model and those of the statement are compared
modulo `2 ^ width`; `vsel` reads its predicate before its registers. -/

namespace Sys2Proof.Machine
open Sys2Proof.Safety

/-! ### Integers of a type -/

section
variable {ty : ElemTy} {a : Nat} {sat : Bool}

theorem intMin_nonpos (ty : ElemTy) : intMin ty ≤ 0 := by
  unfold intMin
  split
  · exact Int.neg_nonpos_of_nonneg (by positivity)
  · exact le_refl 0

theorem intMax_nonneg (ty : ElemTy) : 0 ≤ intMax ty := by
  have pow (n : Nat) : (1 : Int) ≤ 2 ^ n := one_le_pow₀ (by norm_num)
  have h := pow (ty.width - 1)
  have h' := pow ty.width
  unfold intMax
  split <;> omega

theorem intValue_bounds (h : a < 2 ^ ty.width) : -2 ^ ty.width ≤ intValue ty a ∧ intValue ty a < 2 ^ ty.width := by
  have h' : (a : Int) < 2 ^ ty.width := by exact_mod_cast h
  unfold intValue
  split <;> omega

theorem intPattern_mod (ty : ElemTy) (n : Nat) : intPattern ty n % 2 ^ ty.width = n % 2 ^ ty.width := by
  have e : intPattern ty n = n % 2 ^ ty.width := by
    rw [intPattern]
    exact_mod_cast Int.toNat_natCast (n % 2 ^ ty.width)
  rw [e, Nat.mod_mod]

/-- A shift by the width or more gives what a shift by the width gives (R139). -/
theorem shrElem_eq (h : a < 2 ^ ty.width) (k : Nat) : shrElem ty a k = (intValue ty a / 2 ^ k % 2 ^ ty.width).toNat := by
  rw [shrElem, intPattern]
  by_cases le : k ≤ ty.width
  · rw [min_eq_left le]
  · obtain ⟨lo, hi⟩ := intValue_bounds h
    have wide : (2 : Int) ^ ty.width ≤ 2 ^ k := pow_le_pow_right₀ (by norm_num) (by omega)
    rw [min_eq_right (by omega)]
    by_cases neg : intValue ty a < 0
    · rw [Int.ediv_eq_neg_one_of_neg_of_le neg (by omega), Int.ediv_eq_neg_one_of_neg_of_le neg (by omega)]
    · rw [Int.ediv_eq_zero_of_lt (by omega) hi, Int.ediv_eq_zero_of_lt (by omega) (by omega)]

theorem shlElem_mod (ty : ElemTy) (a k : Nat) :
    shlElem ty a k % 2 ^ ty.width = (if ty.width ≤ k then 0 else a * 2 ^ k) % 2 ^ ty.width := by
  unfold shlElem
  split
  · rfl
  · exact Nat.mod_mod _ _

theorem absElem_int (hi : fmtOf ty = none) :
    absElem ty sat a % 2 ^ ty.width =
      (if sat && decide (intMax ty < (intValue ty a).natAbs) then (intMax ty).toNat else (intValue ty a).natAbs) % 2 ^ ty.width := by
  have low := intMin_nonpos ty
  have top := Int.toNat_of_nonneg (intMax_nonneg ty)
  generalize hx : (intValue ty a).natAbs = x
  have result : absElem ty sat a =
      intPattern ty ((if sat && decide (intMax ty < x) then (intMax ty).toNat else x : Nat) : Int) := by
    simp only [absElem, hi, intResult, hx]
    congr 1
    cases sat with
    | false => rfl
    | true =>
      simp only [if_true, satInt, Bool.true_and, decide_eq_true_eq]
      split <;> omega
  rw [result, intPattern_mod]

theorem negElem_int (hi : fmtOf ty = none) : negElem ty sat a =
    ((if sat then max (intMin ty) (min (intMax ty) (-intValue ty a)) else -intValue ty a) % 2 ^ ty.width).toNat := by
  simp only [negElem, hi, intResult, intPattern, satInt]

/-- The sign of a floating type is its highest bit (R73). -/
theorem fmtOf_signBit {f : Fmt} (hf : fmtOf ty = some f) : f.ebits + f.mbits = ty.width - 1 := by
  cases ty <;> simp only [fmtOf, Option.some.injEq, reduceCtorEq] at hf <;> subst hf <;> rfl

theorem absElem_float (hf : fmtOf ty ≠ none) : absElem ty sat a = a % 2 ^ (ty.width - 1) := by
  obtain ⟨f, e⟩ := Option.ne_none_iff_exists'.1 hf
  simp only [absElem, e, fmtOf_signBit e]

theorem negElem_float (hf : fmtOf ty ≠ none) : negElem ty sat a = a ^^^ 2 ^ (ty.width - 1) := by
  obtain ⟨f, e⟩ := Option.ne_none_iff_exists'.1 hf
  simp only [negElem, e, fmtOf_signBit e]

end

/-! ### A selection (R143) -/

theorem opPredSrc_taken {v : State} {c : Core} {n : Tbl Note} {i : Nat} (p : PReg) (hn : Unnoted n i) :
    ∃ n' i', opPredSrc p (v.taken c n i) = .ok (v.taken c n' i') (c.pred p) ∧ Unnoted n' i' := by
  have read : CoreStep v (fun s => .ok s (s.cur.pred p).toNat) c c (c.pred p).toNat := fun n i => by
    simp only [State.taken_cur, Core.pred_congr (Core.setStream_preds _ _ _)]
  refine ⟨_, _, ?_, hn.set (.num (c.pred p).toNat)⟩
  simp only [opPredSrc, opBind, read.opStep hn, opPure, BitVec.ofNat_toNat, BitVec.setWidth_eq]

theorem opShape_congr {s u : State} (rows : s.st.vshapeRows = u.st.vshapeRows) (cols : s.st.vshapeCols = u.st.vshapeCols) {ws : List Nat}
    {r : Nat × Nat} (e : opShape ws u = .ok u r) : opShape ws s = .ok s r := by
  unfold opShape at e ⊢
  rw [rows, cols]
  dsimp only at e ⊢
  split
  · next h => rw [if_pos h] at e; cases e
  · next h => rw [if_neg h] at e; cases e; rfl

section
variable {h : Head} {s : State} {pc : PcWord} {dsts srcs ks : List VReg} {ws : List Nat} {n : Tbl Note} {i : Nat}

theorem opShape_taken (r : ShapeReady ws s) (c : Core) :
    opShape ws ((s.issued h laneForm).taken c n i) = .ok ((s.issued h laneForm).taken c n i) (s.st.vshapeRows.toNat, s.st.vshapeCols.toNat) :=
  opShape_congr (by simp) (by simp) (opShape_issued (h := h) (f := laneForm) r)

theorem opRegs_taken (r : CanIssue h 1 pc s) (ready : RegsReady dsts srcs s) (m : ∀ k ∈ ks, k ∈ dsts ++ srcs) :
    opRegs ks ((s.issued h laneForm).taken (s.issued h laneForm).cur n i) =
      .ok ((s.issued h laneForm).taken (s.issued h laneForm).cur n i) () := by
  obtain ⟨-, still, -⟩ := r.settled
  have unheld (b : Nat) : ((s.issued h laneForm).taken (s.issued h laneForm).cur n i).bankHeld b = false := by
    simp [State.bankHeld, still]
  have vb : ((s.issued h laneForm).taken (s.issued h laneForm).cur n i).cur.vb = s.cur.vb := by
    rw [← s.issued_vb h laneForm]; simp [Core.vb, Core.banksOf]
  have inReg : (ks.findSome? fun k => ((s.issued h laneForm).taken (s.issued h laneForm).cur n i).cur.regTrap s.curCore k.toNat) = none := by
    rw [List.findSome?_eq_none_iff]
    intro k hk
    obtain ⟨-, bank⟩ := ready.present k (m k hk)
    rw [Core.regTrap, vb, if_neg fun e => absurd (bank e.1) (Nat.not_lt.2 e.2)]
  simp only [opRegs, unheld, List.any_eq_true, Bool.false_eq_true, and_false, exists_const, if_false, State.taken_curCore,
    State.issued_curCore, inReg]

variable {vd : VReg} {wd : Nat} {vs : List (VReg × Nat)} {f : State → Lane → Nat × FlagSet} {r : Nat → Nat × FlagSet}

/-- `effLanesThen_issued` for an effect whose first steps have been taken, and which ends with the lanes. -/
theorem effLanes_taken (c : CanIssue h 1 pc s) (shape : ShapeReady (wd :: vs.map Prod.snd) s) (regs : RegsReady [vd] (vs.map Prod.fst) s)
    (hn : Unnoted n i) (hf : ∀ n j x, f ((s.issued h laneForm).taken (s.issued h laneForm).cur n j) (s.lane vs x) = r x) :
    ∃ d n' j, effLanes vd wd vs f ((s.issued h laneForm).taken (s.issued h laneForm).cur n i) =
        .ok (((s.issued h laneForm).taken d n' j).orFlags (((enabled h s).map fun x => (r x).2).foldl (· ||| ·) 0)) .next ∧
      Wrote vd.toNat (elemRow vd wd (updates (enabled h s) fun x => (r x).1)) (s.issued h laneForm).cur d := by
  obtain ⟨-, whole, -⟩ := c.whole
  have settled : (s.issued h laneForm).cur.pending = [] := (s.issued_pending h _).trans c.settled.1
  obtain ⟨n', j, read, fresh⟩ := opImages_taken (v := s.issued h laneForm) (soundReg_issued (h := h) (f := laneForm) regs) whole hn
  obtain ⟨d, n'', j', write, wrote, -⟩ :=
    opWriteElems_taken (v := s.issued h laneForm) vd wd (updates (enabled h s) fun x => (r x).1) whole settled fresh
  refine ⟨d, n'', j', ?_, wrote⟩
  have regs' : opRegs (vd :: vs.map Prod.fst) ((s.issued h laneForm).taken (s.issued h laneForm).cur n i) = .ok _ () :=
    opRegs_taken c regs fun k m => m
  simp only [effLanes, effLanesThen, opBind, opShape_taken shape, regs', read, enabled_taken]
  rw [zip_lanes _ _ (fun _ => rfl)]
  simp only [flags_lanes, Core.image_issued]
  simp only [State.lane] at hf
  simp only [hf, write]

theorem vsel_lanewise {va vb : VReg} {ty : ElemTy} (vc : PReg) (c : CanIssue h 1 pc s) (shape : ShapeReady [ty.width] s)
    (regs : RegsReady [vd] [va, vb] s) : Lanewise (.vsel h vd va vb vc ty) h pc vd ty.width
      (fun x => (if (s.cur.pred vc).getLsbD x then el s va ty.width x else el s vb ty.width x, 0)) s := by
  obtain ⟨unnoted, -⟩ := c.untaken
  obtain ⟨core0, -⟩ := s.issued_core h (f := laneForm) (by decide)
  obtain ⟨-, preds0, -⟩ := coreRest_eq core0
  obtain ⟨n, j, read, fresh⟩ := opPredSrc_taken (v := s.issued h laneForm) (c := (s.issued h laneForm).cur) vc (unnoted_nil 0)
  rw [s.issued_taken h _ unnoted, Core.pred_congr preds0] at read
  obtain ⟨d, n', j', eff, wrote⟩ := effLanes_taken (vs := [(va, ty.width), (vb, ty.width)]) (n := n) (i := j)
    (f := fun _ l => (if (s.cur.pred vc).getLsbD l.i then l.src 0 ty.width else l.src 1 ty.width, 0)) c (shapeReady_replicate shape 3)
    regs fresh fun _ _ _ => by simp only [lane_i, lane_src_zero, lane_src_one]; rfl
  obtain ⟨t, step, ret, pool, flags, frame⟩ := completes_pool (i := .vsel h vd va vb vc ty) rfl c wrote.rest
    (by simp only [opBind, read]; exact eff)
  obtain ⟨present, -⟩ := regs.present vd (by simp)
  exact ⟨t, step, ret, elements_of_wrote (elemWidth ty) present wrote pool fun _ => Iff.rfl, flags, frame⟩

end

/-- Settles O10: each instruction gives its lanes the value stated, which counts modulo the width; `vsel` reads its predicate first. -/
theorem vectorMovesLogicAndShifts : Obligations.VectorMovesLogicAndShifts := by
  intro h vd va vb ra vc ty sat pc s c shape regs
  have one : RegsReady [vd] [va] s := regsReady_mono regs (by simp) (by simp)
  have none' : RegsReady [vd] [] s := regsReady_mono regs (by simp) (by simp)
  have lt (k : VReg) (x : Nat) : el s k ty.width x < 2 ^ ty.width := el_lt s k _ x
  dsimp only
  refine ⟨?vmov, ?vsplat, ?vand, ?vor, ?vxor, vsel_lanewise vc c shape regs, ?vshl, fun hi => ⟨?vshr, ?vabs, ?vneg⟩,
    fun hf => ⟨?vabsF, ?vnegF⟩⟩
  case vmov => exact lanewise_v1 rfl c shape one fun n j x => rfl
  case vsplat =>
    refine lanewise_congr (r := fun _ => ((s.rx ra).toNat % 2 ^ ty.width, 0)) (fun _ => ⟨Nat.mod_mod _ _, rfl⟩) ?_
    exact lanewise (srcs := []) (f := fun s _ => (bits (s.rx ra) 0 ty.width, 0)) rfl c (elemWidth ty) shape none' fun n j x => by
      rw [State.rx_taken, bits_low]
  case vand => exact lanewise_v2 rfl c shape regs fun n j x => rfl
  case vor => exact lanewise_v2 rfl c shape regs fun n j x => rfl
  case vxor => exact lanewise_v2 rfl c shape regs fun n j x => rfl
  case vshl =>
    refine lanewise_congr (r := fun x => (shlElem ty (el s va _ x) (el s vb _ x), 0)) (fun x => ⟨shlElem_mod ty _ _, rfl⟩) ?_
    exact lanewise_v2 rfl c shape regs fun n j x => rfl
  case vshr => exact lanewise_v2 rfl c shape regs fun n j x => by rw [shrElem_eq (lt va x)]
  case vabs =>
    refine lanewise_congr (r := fun x => (absElem ty sat (el s va _ x), 0)) (fun x => ⟨absElem_int hi, rfl⟩) ?_
    exact lanewise_v1 rfl c shape one fun n j x => rfl
  case vneg => exact lanewise_v1 rfl c shape one fun n j x => by rw [negElem_int hi]
  case vabsF => exact lanewise_v1 rfl c shape one fun n j x => by rw [absElem_float hf]
  case vnegF => exact lanewise_v1 rfl c shape one fun n j x => by rw [negElem_float hf]

end Sys2Proof.Machine
end

section
/-! PROOF of O14. Each instruction ends with the write of the bits of its enabled lanes (`opWritePred_taken`, `WrotePred`), or with one
scalar register. -/

namespace Sys2Proof.Machine
open Sys2Proof.Safety

/-! ### Conditions (R142) -/

/-- The conditions of `vcmp` by their numbers. -/
theorem compare'_eq (cond : BitVec 3) (a b : Machine.Num) : compare' cond a b =
    [a.eq b, !a.eq b, a.lt b, a.lt b || a.eq b, b.lt a, b.lt a || a.eq b].getD cond.toNat (a.isNan || b.isNan) := by
  unfold compare'
  have lt := cond.isLt
  interval_cases cond.toNat <;> rfl

theorem compare'_nan (cond : BitVec 3) {a b : Machine.Num} (nan : a.isNan = true ∨ b.isNan = true) :
    compare' cond a b = decide (cond = 1 ∨ 6 ≤ cond) := by
  have eq : a.eq b = false := by rcases nan with n | n <;> simp [Num.eq, n]
  have lt : a.lt b = false ∧ b.lt a = false := by cases a <;> cases b <;> simp_all [Num.lt, Num.isNan]
  have some : (a.isNan || b.isNan) = true := by simpa using nan
  rw [compare'_eq, eq, lt.1, lt.2, some]
  revert cond; decide

theorem compare'_zeros (cond : BitVec 3) (m n : Bool) (j k : Int) :
    compare' cond (.fin m 0 j) (.fin n 0 k) = decide (cond = 0 ∨ cond = 3 ∨ cond = 5) := by
  have lt (m n : Bool) (j k : Int) : (Num.fin m 0 j).lt (.fin n 0 k) = false := by cases m <;> cases n <;> simp [Num.lt, signedInt]
  have eq : (Num.fin m 0 j).eq (.fin n 0 k) = true := by simp [Num.eq, lt, Num.isNan]
  rw [compare'_eq, eq, lt, lt]
  revert cond; simp only [Num.isNan]; decide

theorem lt_ints (u v : Int) : (Num.fin (decide (u < 0)) u.natAbs 0).lt (.fin (decide (v < 0)) v.natAbs 0) = decide (u < v) := by
  have value (z : Int) : signedInt (decide (z < 0)) z.natAbs = z := by
    unfold signedInt
    simp only [decide_eq_true_eq]
    split <;> omega
  simp only [Num.lt, min_self, sub_self, Int.toNat_zero, pow_zero, mul_one, value]

theorem compare'_ints {ty : ElemTy} (hi : fmtOf ty = none) (cond : BitVec 3) (x y : Nat) :
    compare' cond (valueOf ty x) (valueOf ty y) =
      [decide (intValue ty x = intValue ty y), decide (intValue ty x ≠ intValue ty y), decide (intValue ty x < intValue ty y),
        decide (intValue ty x ≤ intValue ty y), decide (intValue ty y < intValue ty x), decide (intValue ty y ≤ intValue ty x)].getD
          cond.toNat false := by
  generalize hu : intValue ty x = u
  generalize hv : intValue ty y = v
  have eq : (Num.fin (decide (u < 0)) u.natAbs 0).eq (.fin (decide (v < 0)) v.natAbs 0) = decide (u = v) := by
    rw [Num.eq, lt_ints, lt_ints, Bool.eq_iff_iff]
    simp only [Num.isNan, Bool.not_false, Bool.true_and, Bool.and_eq_true, Bool.not_eq_true', decide_eq_true_eq, decide_eq_false_iff_not]
    omega
  have le : (decide (u < v) || decide (u = v)) = decide (u ≤ v) := by rw [← Bool.decide_or, decide_eq_decide]; omega
  have ge : (decide (v < u) || decide (u = v)) = decide (v ≤ u) := by rw [← Bool.decide_or, decide_eq_decide]; omega
  simp only [compare'_eq, valueOf, hi, hu, hv, lt_ints, eq, le, ge, ← decide_not, Num.isNan, Bool.or_self, ne_eq]

/-! ### Bits of lanes -/

/-- Core `d` is core `c` with the bits of the lanes listed written in one predicate. -/
structure WrotePred (pd : PReg) (l : List Nat) (f : Nat → Bool) (c d : Core) : Prop where
  rest : ({ d with preds := [] } : Core) = { c with preds := [] }
  bits : ∀ i, i < 2048 → (d.pred pd).getLsbD i = if pd = 0 then true else if i ∈ l then f i else (c.pred pd).getLsbD i
  others : ∀ q, q ≠ pd → d.pred q = c.pred q

theorem testBit_foldl_or {α : Type} (g : α → Nat) (l : List α) (m q : Nat) :
    (l.foldl (fun m e => m ||| g e) m).testBit q = (m.testBit q || l.any fun e => (g e).testBit q) := by
  induction l generalizing m with
  | nil => simp
  | cons e l ih => rw [List.foldl_cons, ih, Nat.testBit_or, List.any_cons, Bool.or_assoc]

theorem testBit_laneBits (f : Nat → Bool) (l : List Nat) (q : Nat) :
    ((l.map fun i => (i, f i)).foldl (fun (m : Nat) (e : Nat × Bool) => m ||| (e.2.toNat * 2 ^ e.1)) 0).testBit q = (decide (q ∈ l) && f q) := by
  have bit (b : Bool) (i : Nat) : (b.toNat * 2 ^ i).testBit q = (decide (i = q) && b) := by
    cases b
    · simp
    · simp [Nat.testBit_two_pow]
  rw [testBit_foldl_or (fun e : Nat × Bool => e.2.toNat * 2 ^ e.1), Nat.zero_testBit, Bool.false_or, Bool.eq_iff_iff]
  simp only [bit, List.any_map, List.any_eq_true, Function.comp_apply, Bool.and_eq_true, decide_eq_true_eq]
  exact ⟨fun ⟨_, m, e, b⟩ => e ▸ ⟨m, b⟩, fun ⟨m, b⟩ => ⟨q, m, rfl, b⟩⟩

theorem testBit_laneMask (f : Nat → Bool) (l : List Nat) (q : Nat) :
    ((l.map fun i => (i, f i)).foldl (fun (m : Nat) (e : Nat × Bool) => m ||| 2 ^ e.1) 0).testBit q = decide (q ∈ l) := by
  rw [testBit_foldl_or (fun e : Nat × Bool => 2 ^ e.1), Nat.zero_testBit, Bool.false_or, Bool.eq_iff_iff]
  simp [Nat.testBit_two_pow]

section
variable {v : State} {c : Core} {n : Tbl Note} {i : Nat}

/-- A whole turn writes the bits of all lanes. -/
theorem opPredBits_taken (p : PReg) (mask val : Nat) (whole : v.chosen = none) (hn : Unnoted n i) :
    opPredBits p mask val (v.taken c n i) =
      .ok (v.taken (c.setPred p (BitVec.ofNat 2048 ((c.pred p).toNat - ((c.pred p).toNat &&& mask) + (val &&& mask))))
        (tblSet n (4 * i) (.num mask)) (i + 1)) () := by
  have none : tblFind n (4 * i) = none := hn _ (le_refl _)
  have stream (d : BitVec 2048) (st : Stream) : (c.setStream v.curK st).setPred p d = (c.setPred p d).setStream v.curK st := by
    unfold Core.setPred; split
    · rfl
    · cases v.curK <;> rfl
  simp only [opPredBits, State.noteKey, Nat.add_zero, State.taken_st, State.taken_chosen, State.taken_cur,
    Core.pred_congr (Core.setStream_preds _ _ _), stream, State.taken_setCur, whole, none, Option.getD_none, Note.value, Nat.and_zero,
    Nat.sub_zero, Nat.zero_or, State.note, if_true]
  rw [State.setSt_taken]
  simp [State.taken, State.setSt]

theorem opWritePred_taken (pd : PReg) (l : List Nat) (f : Nat → Bool) (whole : v.chosen = none) (hn : Unnoted n i) :
    ∃ d n' i', opWritePred pd (l.map fun i => (i, f i)) (v.taken c n i) = .ok (v.taken d n' i') () ∧ WrotePred pd l f c d := by
  refine ⟨_, _, _, opPredBits_taken pd _ _ whole hn, ?_, fun q hq => ?_, fun q ne => ?_⟩
  · unfold Core.setPred; split <;> rfl
  · rw [Core.pred_setPred, if_pos rfl]
    split
    · rw [predOnes, BitVec.getLsbD_allOnes, decide_eq_true hq]
    · rw [ofNat_replace]
      simp only [BitVec.getLsbD_or, BitVec.getLsbD_and, BitVec.getLsbD_not, BitVec.getLsbD_ofNat, hq, decide_true, Bool.true_and,
        testBit_laneMask, testBit_laneBits]
      by_cases m : q ∈ l <;> simp [m]
  · rw [Core.pred_setPred, if_neg ne]

theorem opMap_opPredSrc_taken (ps : List PReg) (hn : Unnoted n i) :
    ∃ n' i', opMap opPredSrc ps (v.taken c n i) = .ok (v.taken c n' i') (ps.map c.pred) ∧ Unnoted n' i' := by
  induction ps generalizing n i with
  | nil => exact ⟨n, i, rfl, hn⟩
  | cons p ps ih =>
    obtain ⟨n1, i1, first, fresh⟩ := opPredSrc_taken (v := v) (c := c) p hn
    obtain ⟨n2, i2, rest, fresh⟩ := ih fresh
    exact ⟨n2, i2, by simp only [opMap, opBind, first, rest, opPure, List.map_cons], fresh⟩

theorem orFlags_taken_zero : (v.taken c n i).orFlags 0 = v.taken c n i := by
  have none : v.st.flags ||| 0 = v.st.flags := by simp
  rw [orFlags_taken]
  simp only [none]; rfl

theorem advanceRand_taken (settled : c.pending = []) (k : Nat) :
    (v.taken c n i).advanceRand k = v.taken { c with vrctr := c.vrctr + w64 k } n i := by
  have land : (v.taken c n i).landSr v.curCore v.curK = v.taken c n i := landSr_settled (s := v.taken c n i) (by simpa using settled)
  have stream (x : W64) (st : Stream) :
      ({ c.setStream v.curK st with vrctr := x } : Core) = ({ c with vrctr := x } : Core).setStream v.curK st := by cases v.curK <;> rfl
  simp only [State.advanceRand, State.taken_curCore, State.taken_curK, land, State.taken_cur, Core.setStream_vrctr, stream, State.taken_setCur]

end

/-! ### Completion -/

section
variable {h : Head} {pc : PcWord} {s : State} {pd : PReg}

/-- The random key and counter that an instruction reads are those of its core (R226). -/
theorem State.issued_keys (p : s.cur.pending = []) (f : Form) :
    (s.issued h f).st.keys.vrkey = s.cur.vrkey ∧ (s.issued h f).st.keys.vrctr = s.cur.vrctr := by
  obtain ⟨t, e⟩ := takeAll_eq (popQueues s.curK h) f.n s.cur
  have settled (b : Bool) : ({ s.cur with tokq := t, poolBusy := b } : Core).pending = [] := p
  simp only [State.issued, State.issueHead, e, State.st_setSt, State.cur_setCur, Core.seenBy_settled _ (settled _), Core.randKeys, and_self]

theorem pred_issued (p : PReg) : (s.issued h laneForm).cur.pred p = s.cur.pred p := by
  obtain ⟨core0, -⟩ := s.issued_core h (f := laneForm) (by decide)
  obtain ⟨-, preds0, -⟩ := coreRest_eq core0
  exact Core.pred_congr preds0 p

theorem enabled_issued : (s.issued h laneForm).enabled (s.st.vshapeRows.toNat * s.st.vshapeCols.toNat) = enabled h s := by
  simp [State.enabled, enabled, lanes]

theorem vrctr_coreRest (k : StreamId) (c : Core) : (coreRest k c).vrctr = c.vrctr := Core.setStream_vrctr _ _ _

theorem vrctr_issued : (s.issued h laneForm).cur.vrctr = s.cur.vrctr := by
  obtain ⟨core0, -⟩ := s.issued_core h (f := laneForm) (by decide)
  rw [← vrctr_coreRest s.curK, core0, vrctr_coreRest]

/-- A core without its predicates and its counter of random values. -/
def Core.offPreds (c : Core) : Core := { c with preds := [], vrctr := 0 }

theorem WrotePred.offPreds {l : List Nat} {f : Nat → Bool} {c d : Core} (w : WrotePred pd l f c d) (ctr : W64) :
    ({ d with vrctr := ctr } : Core).offPreds = c.offPreds := congrArg (fun c : Core => { c with vrctr := 0 }) w.rest

theorem Core.offPreds_tokq {c d : Core} (h : d.offPreds = c.offPreds) : d.tokq = c.tokq :=
  have : d.offPreds.tokq = c.offPreds.tokq := by rw [h]
  this

theorem Core.offPreds_pending {c d : Core} (h : d.offPreds = c.offPreds) : d.pending = c.pending :=
  have : d.offPreds.pending = c.offPreds.pending := by rw [h]
  this

theorem offPreds_coreRest (k : StreamId) (c : Core) : (coreRest k c).offPreds = coreRest k c.offPreds := by cases k <;> rfl

/-- The enabled bits of `pd` take the values of `f`, `%vrctr` is `ctr`, the flags are raised, and nothing else changes. -/
def PredDone (h : Head) (pd : PReg) (f : Nat → Bool) (ctr : W64) (raised : FlagSet) (s t : State) : Prop :=
  PredLanes h pd f s t ∧ t.cur.vrctr = ctr ∧ t.st.flags = s.st.flags ||| raised ∧
    Kept id Core.offPreds (fun st => { st with flags := 0 }) s t ∧ RegsBut 0 s t ∧ MemSame s t

/-- An instruction that writes lanes of a predicate completes. -/
theorem completes_pred {i : Instr} {eff : Op Flow} {d : Core} {n : Tbl Note} {j : Nat} {ctr : W64} {f : Nat → Bool} {fl : FlagSet}
    (run : exec i s = runLanes h eff s) (r : CanIssue h 1 pc s) (wrote : WrotePred pd (enabled h s) f (s.issued h laneForm).cur d)
    (e : eff (s.issued h laneForm) = .ok (((s.issued h laneForm).taken { d with vrctr := ctr } n j).orFlags fl) .next) :
    Completes i h 1 pc s (PredDone h pd f ctr fl s) := by
  rw [orFlags_taken] at e
  have off := wrote.offPreds ctr
  obtain ⟨t, step, ret, core, stream, kept⟩ := completes_kept (onCore := Core.offPreds) (onStream := fun st => { st with flags := 0 })
    (run.trans (runLanes_eq h eff s)) r (.inl rfl) rfl (.inr rfl) e ((Core.setStream_tokq _ _ _).trans (Core.offPreds_tokq off))
    ((Core.setStream_pending _ _ _).trans (Core.offPreds_pending off))
    (by rw [State.issued_curK, Core.stream_setStream]; exact ⟨rfl, rfl, rfl, rfl, rfl, rfl⟩)
    (by rw [State.issued_curK, coreRest_setStream, offPreds_coreRest, off, ← offPreds_coreRest])
    (by rw [State.issued_curK, Core.stream_setStream]; rfl)
  rw [State.issued_curK, coreRest_setStream] at core
  rw [State.issued_curK, Core.stream_setStream] at stream
  obtain ⟨-, preds, -⟩ := coreRest_eq core
  have pred (q : PReg) : t.cur.pred q = d.pred q := Core.pred_congr preds q
  refine ⟨t, step, ret, ⟨fun i hi => ?_, fun q ne => ?_⟩, ?_, ?_, kept⟩
  · rw [pred, wrote.bits i hi, pred_issued]
  · rw [pred, wrote.others q ne, pred_issued]
  · rw [← vrctr_coreRest s.curK, core, vrctr_coreRest]
  · exact (flags_eq stream).trans (by rw [State.issued_flags])

/-- Such an instruction that leaves `%vrctr`. -/
theorem completes_pred_counter {i : Instr} {eff : Op Flow} {d : Core} {n : Tbl Note} {j : Nat} {f : Nat → Bool} {fl : FlagSet}
    (run : exec i s = runLanes h eff s) (r : CanIssue h 1 pc s) (wrote : WrotePred pd (enabled h s) f (s.issued h laneForm).cur d)
    (e : eff (s.issued h laneForm) = .ok (((s.issued h laneForm).taken d n j).orFlags fl) .next) :
    Completes i h 1 pc s (PredDone h pd f s.cur.vrctr fl s) := by
  have same : d.vrctr = s.cur.vrctr := (congrArg Core.vrctr wrote.rest).trans vrctr_issued
  exact completes_pred run r wrote (ctr := s.cur.vrctr) (by rw [← same]; exact e)

/-- A predicate instruction lane by lane. -/
theorem effPred_completes {i : Instr} {srcs : List PReg} {f : List Bool → Bool} {g : Nat → Bool}
    (run : exec i s = runLanes h (effPred pd srcs f) s) (c : CanIssue h 1 pc s) (shape : ShapeReady [] s)
    (value : ∀ i, f (srcs.map fun p => (s.cur.pred p).getLsbD i) = g i) :
    Completes i h 1 pc s (PredDone h pd g s.cur.vrctr 0 s) := by
  obtain ⟨-, whole, -⟩ := c.whole
  obtain ⟨unnoted, -⟩ := c.untaken
  obtain ⟨n, j, read, fresh⟩ := opMap_opPredSrc_taken (v := s.issued h laneForm) (c := (s.issued h laneForm).cur) srcs (unnoted_nil 0)
  rw [s.issued_taken h _ unnoted] at read
  obtain ⟨d, n', j', write, wrote⟩ := opWritePred_taken (v := s.issued h laneForm) (c := (s.issued h laneForm).cur) pd (enabled h s) g whole fresh
  refine completes_pred_counter run c wrote (n := n') (j := j') ?_
  rw [orFlags_taken_zero]
  simp only [effPred, opBind, opShape_issued shape, read, enabled_taken, List.map_map, Function.comp_def, pred_issued, value, write, opPure]

theorem foldl_flagIf {α : Type} (p : α → Bool) (fl : FlagSet) (l : List α) (m : FlagSet) :
    l.foldl (fun m e => m ||| flagIf (p e) fl) m = m ||| flagIf (l.any p) fl := by
  induction l generalizing m with
  | nil => simp [flagIf]
  | cons e l ih =>
    rw [List.foldl_cons, ih, List.any_cons, BitVec.or_assoc]
    cases p e <;> cases l.any p <;> simp [flagIf]

theorem vcmp_completes {va vb : VReg} {ty : ElemTy} (cond : BitVec 3) (c : CanIssue h 1 pc s) (shape : ShapeReady [ty.width] s)
    (regs : RegsReady [] [va, vb] s) :
    let a (i : Nat) : Machine.Num := valueOf ty (el s va ty.width i)
    let b (i : Nat) : Machine.Num := valueOf ty (el s vb ty.width i)
    Completes (.vcmp h pd va vb ty cond) h 1 pc s (PredDone h pd (fun i => compare' cond (a i) (b i)) s.cur.vrctr
      (if (enabled h s).any fun i => (a i).isSig || (b i).isSig then flagNv else 0) s) := by
  intro a b
  obtain ⟨-, whole, -⟩ := c.whole
  have shape' : opShape [ty.width, ty.width] (s.issued h laneForm) = .ok _ _ := opShape_issued (shapeReady_replicate shape 2)
  have regs' : opRegs [va, vb] (s.issued h laneForm) = .ok _ () := opRegs_issued (f := laneForm) c regs fun _ m => m
  obtain ⟨n, j, read, fresh⟩ := opImages_issued (f := laneForm) (ks := [va, vb]) c regs fun _ m => m
  obtain ⟨d, n', j', write, wrote⟩ := opWritePred_taken (v := s.issued h laneForm) (c := (s.issued h laneForm).cur) pd (enabled h s)
    (fun i => compare' cond (a i) (b i)) whole fresh
  refine completes_pred_counter (eff := _) rfl c wrote (n := n') (j := j') ?_
  have raised : (enabled h s).foldl (fun m i => m ||| flagIf ((a i).isSig || (b i).isSig) flagNv) 0 =
      if (enabled h s).any fun i => (a i).isSig || (b i).isSig then flagNv else 0 :=
    (foldl_flagIf _ _ _ _).trans (by simp [flagIf])
  simp only [a, b, el] at write raised
  simp only [opBind, shape', regs', read, enabled_taken, List.map_map, List.foldl_map, sigFlag, List.any_cons, List.any_nil, Bool.or_false,
    List.map_cons, List.getD_cons_zero, List.getD_cons_succ, Function.comp_def, write, raised, a, b, el]

theorem laneRand_taken (p : s.cur.pending = []) (d : Core) (n : Tbl Note) (j i : Nat) :
    ((s.issued h laneForm).taken d n j).laneRand i = counterHash s.cur.vrkey (s.cur.vrctr + BitVec.ofNat 64 i) := by
  obtain ⟨key, ctr⟩ := State.issued_keys (h := h) p laneForm
  rw [State.laneRand, State.taken_st, key, ctr]; rfl

theorem vdrop_completes (ra : Reg) (c : CanIssue h 1 pc s) (shape : ShapeReady [] s) :
    Completes (.vdrop h pd ra) h 1 pc s (PredDone h pd
      (fun i => decide ((s.rx ra).toNat % 2 ^ 32 ≤ (counterHash s.cur.vrkey (s.cur.vrctr + BitVec.ofNat 64 i)).toNat / 2 ^ 32))
      (s.cur.vrctr + BitVec.ofNat 64 (lanes s)) 0 s) := by
  obtain ⟨-, whole, -⟩ := c.whole
  obtain ⟨unnoted, -⟩ := c.untaken
  obtain ⟨settled, -⟩ := c.settled
  have begin' := s.issued_taken h laneForm unnoted
  have random (i : Nat) : (s.issued h laneForm).laneRand i = counterHash s.cur.vrkey (s.cur.vrctr + BitVec.ofNat 64 i) := by
    rw [← begin']; exact laneRand_taken settled _ _ _ i
  have high (x : W64) : bits x 32 32 = x.toNat / 2 ^ 32 := Nat.mod_eq_of_lt (by have := x.isLt; omega)
  obtain ⟨d, n, j, write, wrote⟩ := opWritePred_taken (v := s.issued h laneForm) (c := (s.issued h laneForm).cur) pd (enabled h s)
    (fun i => decide ((s.rx ra).toNat % 2 ^ 32 ≤ (counterHash s.cur.vrkey (s.cur.vrctr + BitVec.ofNat 64 i)).toNat / 2 ^ 32))
    whole (unnoted_nil 0)
  rw [begin'] at write
  have counter : d.vrctr = s.cur.vrctr := (congrArg Core.vrctr wrote.rest).trans vrctr_issued
  have still : d.pending = [] := (congrArg Core.pending wrote.rest).trans ((s.issued_pending h _).trans settled)
  refine completes_pred (eff := _) rfl c wrote (n := n) (j := j) ?_
  rw [orFlags_taken_zero]
  simp only [opBind, opShape_issued shape, enabled_issued, State.issued_rx, random, bits_low, high, write, advanceRand_taken still, counter]
  rfl

end

/-- Settles O14: the conditions are those of the values compared, and each instruction writes the bits of its enabled lanes or one scalar
register. -/
theorem predicateInstructions : Obligations.PredicateInstructions := by
  intro h pd pa pb va vb ra rd ty cond pc s c shape
  have any : ShapeReady [] s := shapeReady_mono shape (by simp)
  have shape' : opShape [] (s.issued h laneForm) = .ok _ _ := opShape_issued any
  dsimp only
  refine ⟨fun regs => vcmp_completes cond c shape regs, fun x y hi => compare'_ints hi cond x y, fun x y nan => compare'_nan cond nan,
    ?zeros, ?vpand, ?vpor, ?vpnot, vdrop_completes ra c any, ?vpcnt, ?vpfirst⟩
  case zeros =>
    rintro _ _ m n j k rfl rfl
    exact compare'_zeros cond m n j k
  case vpand => exact effPred_completes (srcs := [pa, pb]) rfl c any fun i => by simp
  case vpor => exact effPred_completes (srcs := [pa, pb]) rfl c any fun i => by simp
  case vpnot => exact effPred_completes (srcs := [pa]) rfl c any fun i => by simp
  case vpcnt =>
    refine sets (f := laneForm) (eff := _) rfl c (.inl rfl) rfl (.inr rfl) ?_
    simp only [opBind, shape', enabled_issued, pred_issued, w64, List.countP_eq_length_filter]
  case vpfirst =>
    refine sets (f := laneForm) (eff := _) rfl c (.inl rfl) rfl (.inr rfl) ?_
    simp only [opBind, shape', enabled_issued, pred_issued, w64, lanes]

end Sys2Proof.Machine
end

section
/-! PROOF of O17. `vpush` and `vpop` move a list of enabled lanes at a position in `%vsp`, which `advanceVsp` moves on; `vextr` and `vins`
reach one element, and `vshape` and `vlive` write control fields only. -/

namespace Sys2Proof.Machine
open Sys2Proof.Safety

/-! ### Positions in `%vsp` (R156, R157) -/

theorem testBit_setBits (m lo w x i : Nat) :
    (setBits m lo w x).testBit i = if lo ≤ i ∧ i < lo + w then x.testBit (i - lo) else m.testBit i := by
  have shape : setBits m lo w x = 2 ^ lo * (2 ^ w * (m / 2 ^ (lo + w)) + x % 2 ^ w) + m % 2 ^ lo := by
    rw [setBits, pow_add]; ring
  rw [shape, Nat.testBit_two_pow_mul_add _ (Nat.mod_lt _ (by positivity)), Nat.testBit_two_pow_mul_add _ (Nat.mod_lt _ (by positivity))]
  by_cases below : i < lo
  · rw [if_pos below, if_neg (by omega), Nat.testBit_mod_two_pow, decide_eq_true below, Bool.true_and]
  by_cases inside : i < lo + w
  · rw [if_neg below, if_pos (by omega), if_pos (by omega), Nat.testBit_mod_two_pow, decide_eq_true (by omega), Bool.true_and]
  · rw [if_neg below, if_neg (by omega), if_neg (by omega), Nat.testBit_div_two_pow]
    congr 1; omega

section
variable {vsp : W64} {lo bit n c : Nat}

theorem getLsbD_advanceVsp (hn : n < 2 * c) (i : Nat) : (advanceVsp vsp lo bit n c).getLsbD i =
    (decide (i < 64) && if i = bit then decide (c ≤ n) else if lo ≤ i ∧ i < lo + 12 then (n % c).testBit (i - lo) else vsp.getLsbD i) := by
  have one : (bit ≤ i ∧ i < bit + 1) ↔ i = bit := by omega
  have fields : advanceVsp vsp lo bit n c = w64 (setBits (setBits vsp.toNat lo 12 (n % c)) bit 1 (decide (c ≤ n)).toNat) := by
    unfold advanceVsp
    by_cases le : c ≤ n
    · have rest : n % c = n - c := by rw [Nat.mod_eq_sub_mod le, Nat.mod_eq_of_lt (by omega)]
      simp [le, rest]
    · have rest : n % c = n := Nat.mod_eq_of_lt (by omega)
      simp [le, rest]
  rw [fields, w64, BitVec.getLsbD_ofNat, testBit_setBits, testBit_setBits, if_congr one rfl rfl]
  by_cases e : i = bit
  · simp [e, Nat.testBit_zero, Bool.toNat]
    cases decide (c ≤ n) <;> simp
  · simp [e, BitVec.getLsbD]

/-- The position and the crossing bit after elements have been taken, and the bits that stay. -/
theorem advanceVsp_fields (hn : n < 2 * c) (hc : c ≤ 2 ^ 12) (after : lo + 12 ≤ bit) (inside : bit < 64) :
    (advanceVsp vsp lo bit n c).toNat / 2 ^ lo % 2 ^ 12 = n % c ∧ (advanceVsp vsp lo bit n c).getLsbD bit = decide (c ≤ n) ∧
      ∀ i, i < 64 → (i < lo ∨ lo + 12 ≤ i) → i ≠ bit → (advanceVsp vsp lo bit n c).getLsbD i = vsp.getLsbD i := by
  refine ⟨Nat.eq_of_testBit_eq fun i => ?_, ?_, fun i hi out ne => ?_⟩
  · have small : n % c < 2 ^ 12 := lt_of_lt_of_le (Nat.mod_lt _ (by omega)) hc
    rw [Nat.testBit_mod_two_pow, Nat.testBit_div_two_pow, BitVec.testBit_toNat, getLsbD_advanceVsp hn]
    by_cases hi : i < 12
    · rw [if_neg (by omega), if_pos (by omega), decide_eq_true hi, decide_eq_true (by omega), Nat.add_sub_cancel]
      simp
    · have zero : (n % c).testBit i = false :=
        Nat.testBit_lt_two_pow (lt_of_lt_of_le small (Nat.pow_le_pow_right (by norm_num) (by omega)))
      rw [zero, decide_eq_false hi, Bool.false_and]
  · rw [getLsbD_advanceVsp hn, if_pos rfl, decide_eq_true inside, Bool.true_and]
  · rw [getLsbD_advanceVsp hn, if_neg ne, if_neg (by omega), decide_eq_true hi, Bool.true_and]

end

/-! ### Elements in the order of the lanes -/

theorem map_zipIdx {α β : Type} (g : α → Nat → β) (l : List α) (d : α) :
    (l.zipIdx.map fun e => g e.1 e.2) = (List.range l.length).map fun n => g (l.getD n d) n :=
  List.ext_getElem (by simp) fun n _ hn => by
    have lt : n < l.length := by simpa using hn
    simp only [List.getElem_map, List.getElem_zipIdx, List.getElem_range, List.getD_eq_getElem _ _ lt, Nat.zero_add]

section
variable {h : Head} {s : State} {w : Nat}

theorem capacity_bounds (hw : ElemWidth w) : 0 < capacity w ∧ capacity w ≤ 2 ^ 12 := by
  rcases hw with rfl | rfl | rfl | rfl | rfl <;> decide

theorem lanes_fit (hw : ElemWidth w) (shape : ShapeReady [w] s) : lanes s ≤ capacity w :=
  (Nat.le_div_iff_mul_le hw.pos).2 (shape.fits w (by simp))

theorem length_enabled (h : Head) (s : State) : (enabled h s).length ≤ lanes s :=
  (List.length_filter_le _ _).trans List.length_range.le

theorem lt_lanes_of_enabled {i : Nat} (m : i ∈ enabled h s) : i < lanes s := List.mem_range.1 (List.mem_filter.1 m).1

@[simp] theorem State.issued_vsp (f : Form) : (s.issued h f).st.vsp = s.st.vsp := by
  obtain ⟨t, keys, e⟩ := s.issued_eq h f
  rw [e, State.st_setSt]

theorem enabled_nodup : (enabled h s).Nodup := List.nodup_range.filter _

theorem elem_mod (w img i : Nat) : elem w img i % 2 ^ w = elem w img i := Nat.mod_mod _ _

end

/-- An element of a register after the write of a list of updates whose values a function of the position gives. -/
theorem Wrote.elem_updates {k : VReg} {w : Nat} {upd : List (Nat × Nat)} {c d : Core} (wrote : Wrote k.toNat (elemRow k w upd) c d)
    (hw : ElemWidth w) {g : Nat → Nat} (values : ∀ u ∈ upd, u.2 = g u.1) {i : Nat} (hi : i < capacity w) :
    Machine.elem w (d.image k.toNat) i = if i ∈ upd.map Prod.fst then g i % 2 ^ w else Machine.elem w (c.image k.toNat) i :=
  Wrote.elem (eq_updates values ▸ wrote) hw hi

/-! ### `vpush` and `vpop` (R157, R158) -/

/-- Nothing but rows of registers, `%vlive` and `%vsp` changes. -/
def VspFrame (s t : State) : Prop :=
  Kept id Core.offPool (fun st => { st with vsp := 0 }) s t ∧ RegsBut 0 s t ∧ MemSame s t

section
variable {h : Head} {s : State} {pc : PcWord}

/-- An instruction that writes rows of registers and then `%vsp` completes. -/
theorem completes_vsp {i : Instr} {eff : Op Flow} {d : Core} {n : Tbl Note} {j : Nat} {vsp : W64} (run : exec i s = runLanes h eff s)
    (r : CanIssue h 1 pc s) (off : d.offPool = (s.issued h laneForm).cur.offPool)
    (e : eff (s.issued h laneForm) = .ok (((s.issued h laneForm).taken d n j).setSt
      { ((s.issued h laneForm).taken d n j).st with vsp := vsp }) .next) :
    Completes i h 1 pc s fun t => (∀ k, t.cur.image k = d.image k) ∧ t.st.vsp = vsp ∧ VspFrame s t := by
  rw [State.setSt_taken, State.taken_st] at e
  obtain ⟨t, step, ret, pool, stream, kept⟩ := completes_rows (onStream := fun st => { st with vsp := 0 })
    (run.trans (runLanes_eq h eff s)) r (.inl rfl) rfl (.inr rfl) e off ⟨rfl, rfl, rfl, rfl, rfl, rfl⟩ rfl
  exact ⟨t, step, ret, image_of_pool pool, congrArg Stream.vsp stream, kept⟩

variable {vd va vb : VReg} {ty : ElemTy}

/-- Positions from `f` on for the enabled lanes in their order, with the lanes' values (R157). -/
def pushed (w img f : Nat) (es : List Nat) : List (Nat × Nat) := es.zipIdx.map fun e => (f + e.2, elem w img e.1)

/-- What `vpush` writes to its first and to its second register. -/
def pushedFirst (w img f : Nat) (es : List Nat) : List (Nat × Nat) := (pushed w img f es).filter fun e => decide (e.1 < capacity w)
def pushedSecond (w img f : Nat) (es : List Nat) : List (Nat × Nat) :=
  ((pushed w img f es).filter fun e => decide (capacity w ≤ e.1)).map fun e => (e.1 - capacity w, e.2)

theorem mem_pushed {w img f : Nat} {es : List Nat} {u : Nat × Nat} :
    u ∈ pushed w img f es ↔ ∃ n, n < es.length ∧ u = (f + n, elem w img (es.getD n 0)) := by
  rw [pushed, map_zipIdx (fun a n => (f + n, elem w img a)) es 0]
  simp only [List.mem_map, List.mem_range, eq_comm]

theorem mem_pushedFirst {w img f i : Nat} {es : List Nat} :
    i ∈ (pushedFirst w img f es).map Prod.fst ↔ f ≤ i ∧ i < f + es.length ∧ i < capacity w := by
  simp only [pushedFirst, List.mem_map, List.mem_filter, mem_pushed, decide_eq_true_eq]
  constructor
  · rintro ⟨_, ⟨⟨n, hn, rfl⟩, lt⟩, rfl⟩
    dsimp only at lt ⊢
    omega
  · rintro ⟨le, lt, inside⟩
    exact ⟨_, ⟨⟨i - f, by omega, rfl⟩, by dsimp only; omega⟩, by dsimp only; omega⟩

theorem mem_pushedSecond {w img f i : Nat} {es : List Nat} :
    i ∈ (pushedSecond w img f es).map Prod.fst ↔ f ≤ capacity w + i ∧ capacity w + i < f + es.length := by
  simp only [pushedSecond, List.mem_map, List.mem_filter, mem_pushed, decide_eq_true_eq]
  constructor
  · rintro ⟨_, ⟨_, ⟨⟨n, hn, rfl⟩, le⟩, rfl⟩, rfl⟩
    dsimp only at le ⊢
    omega
  · rintro ⟨le, lt⟩
    exact ⟨_, ⟨_, ⟨⟨capacity w + i - f, by omega, rfl⟩, by dsimp only; omega⟩, rfl⟩, by dsimp only; omega⟩

theorem pushedFirst_value {w img f : Nat} {es : List Nat} : ∀ u ∈ pushedFirst w img f es, u.2 = elem w img (es.getD (u.1 - f) 0) := by
  intro u hu
  obtain ⟨n, -, rfl⟩ := mem_pushed.1 (List.mem_filter.1 hu).1
  dsimp only
  rw [Nat.add_sub_cancel_left]

theorem pushedSecond_value {w img f : Nat} {es : List Nat} :
    ∀ u ∈ pushedSecond w img f es, u.2 = elem w img (es.getD (capacity w + u.1 - f) 0) := by
  intro u hu
  obtain ⟨u', hu', rfl⟩ := List.mem_map.1 hu
  obtain ⟨hp, le⟩ := List.mem_filter.1 hu'
  obtain ⟨n, -, rfl⟩ := mem_pushed.1 hp
  have place : capacity w + (f + n - capacity w) - f = n := by
    have := of_decide_eq_true le
    dsimp only at this
    omega
  dsimp only
  rw [place]

/-- After the writes to two different registers, one after the other, each element of either. -/
theorem Wrote.elem_pushed {w img f : Nat} {es : List Nat} {c d1 d2 : Core} (hw : ElemWidth w) (ne : vd.toNat ≠ vb.toNat)
    (wrote1 : Wrote vd.toNat (elemRow vd w (pushedFirst w img f es)) c d1)
    (wrote2 : Wrote vb.toNat (elemRow vb w (pushedSecond w img f es)) d1 d2) {i : Nat} (hi : i < capacity w) :
    (Machine.elem w (d2.image vd.toNat) i =
      if f ≤ i ∧ i < f + es.length then Machine.elem w img (es.getD (i - f) 0) else Machine.elem w (c.image vd.toNat) i) ∧
    Machine.elem w (d2.image vb.toNat) i =
      if f ≤ capacity w + i ∧ capacity w + i < f + es.length then Machine.elem w img (es.getD (capacity w + i - f) 0)
      else Machine.elem w (c.image vb.toNat) i := by
  have first := wrote1.elem_updates hw (g := fun i => Machine.elem w img (es.getD (i - f) 0)) pushedFirst_value hi
  have second := wrote2.elem_updates hw (g := fun i => Machine.elem w img (es.getD (capacity w + i - f) 0)) pushedSecond_value hi
  simp only [mem_pushedFirst, mem_pushedSecond, hi, and_true, elem_mod, wrote1.image_other ne.symm] at first second
  exact ⟨by rw [wrote2.image_other ne, first], second⟩

/-- `vpush` up to its retirement: the two registers are written one after the other, and `%vsp` advances. -/
theorem vpush_completes (c : CanIssue h 1 pc s) (shape : ShapeReady [ty.width] s) (regs : RegsReady [vd, vb] [va] s) :
    let f := s.st.vsp.toNat % 2 ^ 12 % capacity ty.width
    ∃ d1 d2, Wrote vd.toNat (elemRow vd ty.width (pushedFirst ty.width (s.cur.image va.toNat) f (enabled h s))) (s.issued h laneForm).cur d1 ∧
      Wrote vb.toNat (elemRow vb ty.width (pushedSecond ty.width (s.cur.image va.toNat) f (enabled h s))) d1 d2 ∧
      Completes (.vpush h vd va vb ty) h 1 pc s fun t => (∀ k, t.cur.image k = d2.image k) ∧
        t.st.vsp = advanceVsp s.st.vsp 0 32 (f + (enabled h s).length) (capacity ty.width) ∧ VspFrame s t := by
  intro f
  obtain ⟨-, whole, -⟩ := c.whole
  have settled : (s.issued h laneForm).cur.pending = [] := (s.issued_pending h _).trans c.settled.1
  have shape' : opShape [ty.width, ty.width, ty.width] (s.issued h laneForm) = .ok _ _ := opShape_issued (shapeReady_replicate shape 3)
  have regs' : opRegs [vd, va, vb] (s.issued h laneForm) = .ok _ () := opRegs_issued (f := laneForm) c regs (by simp)
  obtain ⟨n, j, read, fresh⟩ := opImage_issued (f := laneForm) (k := va) c regs (by simp)
  obtain ⟨d1, n1, j1, write1, wrote1, fresh⟩ := opWriteElems_taken (v := s.issued h laneForm) vd ty.width
    (pushedFirst ty.width (s.cur.image va.toNat) f (enabled h s)) whole settled fresh
  obtain ⟨d2, n2, j2, write2, wrote2, -⟩ := opWriteElems_taken (v := s.issued h laneForm) (c := d1) vb ty.width
    (pushedSecond ty.width (s.cur.image va.toNat) f (enabled h s)) whole ((Core.offPool_pending wrote1.rest).trans settled) fresh
  refine ⟨d1, d2, wrote1, wrote2, completes_vsp (eff := _) rfl c (n := n2) (j := j2) (wrote2.rest.trans wrote1.rest) ?_⟩
  have vsp (d : Core) (n : Tbl Note) (j : Nat) : ((s.issued h laneForm).taken d n j).st.vsp = s.st.vsp := by simp
  have low : bits s.st.vsp 0 12 = s.st.vsp.toNat % 2 ^ 12 := bits_low _ _
  simp only [pushedFirst, pushedSecond, pushed] at write1 write2
  simp only [opBind, shape', regs', read, enabled_taken, vsp, low, List.length_map, List.length_zipIdx]
  rw [write1]
  dsimp only
  rw [write2]
  simp only [vsp]
  rfl

/-- Where `vpop` takes the value of a lane from (R158). -/
def popped (w a b q : Nat) (es : List Nat) (i : Nat) : Nat :=
  let n := q + es.idxOf i
  if n < capacity w then elem w a n else elem w b (n - capacity w)

theorem popped_updates {w a b q : Nat} {es : List Nat} (nodup : es.Nodup) :
    (es.zipIdx.map fun e => (e.1, if q + e.2 < capacity w then elem w a (q + e.2) else elem w b (q + e.2 - capacity w))) =
      updates es (popped w a b q es) := by
  refine List.ext_getElem (by simp [updates]) fun n hn _ => ?_
  have lt : n < es.length := by simpa using hn
  simp only [updates, popped, List.getElem_map, List.getElem_zipIdx, Nat.zero_add, nodup.idxOf_getElem n lt]

theorem vpop_completes (c : CanIssue h 1 pc s) (shape : ShapeReady [ty.width] s) (regs : RegsReady [vd] [va, vb] s) :
    let q := s.st.vsp.toNat / 2 ^ 16 % 2 ^ 12 % capacity ty.width
    ∃ d, Wrote vd.toNat (elemRow vd ty.width (updates (enabled h s)
        (popped ty.width (s.cur.image va.toNat) (s.cur.image vb.toNat) q (enabled h s)))) (s.issued h laneForm).cur d ∧
      Completes (.vpop h vd va vb ty) h 1 pc s fun t => (∀ k, t.cur.image k = d.image k) ∧
        t.st.vsp = advanceVsp s.st.vsp 16 33 (q + (enabled h s).length) (capacity ty.width) ∧ VspFrame s t := by
  intro q
  obtain ⟨-, whole, -⟩ := c.whole
  have settled : (s.issued h laneForm).cur.pending = [] := (s.issued_pending h _).trans c.settled.1
  have shape' : opShape [ty.width, ty.width, ty.width] (s.issued h laneForm) = .ok _ _ := opShape_issued (shapeReady_replicate shape 3)
  have regs' : opRegs [vd, va, vb] (s.issued h laneForm) = .ok _ () := opRegs_issued (f := laneForm) c regs fun _ m => m
  obtain ⟨n, j, read, fresh⟩ := opImages_issued (f := laneForm) (ks := [va, vb]) c regs fun _ m => m
  obtain ⟨d, n1, j1, write, wrote, -⟩ := opWriteElems_taken (v := s.issued h laneForm) vd ty.width (updates (enabled h s)
    (popped ty.width (s.cur.image va.toNat) (s.cur.image vb.toNat) q (enabled h s))) whole settled fresh
  refine ⟨d, wrote, completes_vsp (eff := _) rfl c (n := n1) (j := j1) wrote.rest ?_⟩
  have vsp (d : Core) (n : Tbl Note) (j : Nat) : ((s.issued h laneForm).taken d n j).st.vsp = s.st.vsp := by simp
  have field : bits s.st.vsp 16 12 = s.st.vsp.toNat / 2 ^ 16 % 2 ^ 12 := rfl
  rw [← popped_updates enabled_nodup] at write
  simp only [opBind, shape', regs', read, enabled_taken, vsp, field, List.map_cons, List.map_nil, List.getD_cons_zero, List.getD_cons_succ]
  rw [write]
  simp only [vsp]
  rfl

/-! ### Single elements (R159) -/

theorem addAll_setStream (qs : List Nat) (n : Nat) (c : Core) (k : StreamId) (st : Stream) :
    qs.foldl (fun c q => c.addTokens q n) (c.setStream k st) = (qs.foldl (fun c q => c.addTokens q n) c).setStream k st := by
  induction qs generalizing c with
  | nil => rfl
  | cons q qs ih =>
    have one : (c.setStream k st).addTokens q n = (c.addTokens q n).setStream k st := by cases k <;> rfl
    rw [List.foldl_cons, one, ih, List.foldl_cons]

/-- A retirement forgets the notes of its head. -/
theorem State.retire_setNotes {u : State} (h : Head) (m : Nat) (pc : PcWord) (p : u.cur.pending = [])
    (k : u.st.kind = .plain ∨ u.st.kind = .access) (d : u.st.poisonDue = false) (n : Tbl Note) (j : Nat) :
    (u.setSt { u.st with notes := n, noteIdx := j }).retire h m pc false = u.retire h m pc false := by
  have stream (c : Nat) : (({ u.st with notes := n, noteIdx := j } : Stream).goto pc false).clearHead c = (u.st.goto pc false).clearHead c := by
    simp only [Stream.goto]
    split
    · rfl
    · split <;> rfl
  rw [State.retire_eq _ _ _ _ (by simpa using p) (by simpa using k) (by simpa using d), u.retire_eq _ _ _ p k d]
  have cyc : (u.setSt { u.st with notes := n, noteIdx := j }).cyc = u.cyc := rfl
  simp only [State.cur_setSt, State.st_setSt, State.setSt_curK, addAll_setStream, cyc, stream]
  simp [State.setSt]

/-- An instruction whose effect, after some steps, is the write of one scalar register sets it, and changes nothing else. -/
theorem sets_taken {i : Instr} {f : Form} {eff : Op Flow} {rd : Reg} {x : W64} {n : Tbl Note} {j : Nat} (run : exec i s = runTok h f eff s)
    (r : CanIssue h f.n pc s) (g : f.lanes = true ∨ s.guardBit h = true) (tr : f.transfer = false) (k : f.kind = .plain ∨ f.kind = .access)
    (e : eff (s.issued h f) = .ok (((s.issued h f).taken (s.issued h f).cur n j).wx rd x) .next) : Sets i h f.n pc rd x s := by
  refine sets (run.trans ?_) r g tr k (eff := fun u => .ok (u.wx rd x) .next) rfl
  obtain ⟨-, -, -, kind0, cls0, due0, -⟩ := s.issued_st h f
  obtain ⟨-, -, kind, cls, due, -⟩ := (s.issued h f).st.setReg_rest rd x
  obtain ⟨-, -, -, -, sound⟩ := r.untaken
  have next : (s.issueHead h f).nextPc = some pc := by
    obtain ⟨t, keys, e⟩ := s.issueHead_eq h f
    rw [e]; simpa [State.nextPc] using r.nextPc
  have own : ((s.issued h f).wx rd x).st = (s.issued h f).st.setReg rd x := State.st_setSt _ _
  have noted : ((s.issued h f).taken (s.issued h f).cur n j).wx rd x =
      ((s.issued h f).wx rd x).setSt { ((s.issued h f).wx rd x).st with notes := n, noteIdx := j } := by
    rw [own, State.wx, State.wx, State.setSt_setSt, State.taken_st, State.setSt_taken]
    unfold Stream.setReg
    split <;> rfl
  rw [noted] at e
  have quiet : ((s.issued h f).wx rd x).st.cls = 0 := by rw [own, cls, cls0, r.free.2]
  rw [runTok_ready r _ g, runTok_ready r _ g, finishHead_next next tr e ((congrArg Stream.cls (State.st_setSt _ _)).trans quiet),
    finishHead_next next tr (t := (s.issued h f).wx rd x) rfl quiet,
    State.retire_setNotes h f.n pc _ (by rw [own, kind, kind0]; exact k) (by rw [own, due, due0, sound])]
  simp [State.wx, r.settled.1]

/-- The value that `vextr` reads: sign-extended for signed integer types but `.i4` (R159). -/
theorem vextr_sets (rd rb : Reg) (c : CanIssue h 1 pc s) (g : s.guardBit h = true) (regs : RegsReady [] [va] s) :
    let i := (s.rx rb).toNat
    Sets (.vextr h rd va rb ty) h 1 pc rd
      (if i < capacity ty.width then BitVec.ofInt 64 (if ty = .i4 then el s va ty.width i else intValue ty (el s va ty.width i)) else 0) s := by
  intro i
  have regs' : opRegs [va] (s.issued h accessForm) = .ok _ () := opRegs_issued (f := accessForm) c regs fun _ m => m
  obtain ⟨n, j, read, -⟩ := opImage_issued (f := accessForm) (k := va) c regs (by simp)
  have value (x : Nat) : execVextr.intOrBits ty x = if ty = .i4 then (x : Int) else intValue ty x := by cases ty <;> rfl
  refine sets_taken (f := accessForm) (n := n) (j := j) (eff := _) rfl c (.inr g) rfl (.inr rfl) ?_
  simp only [opBind, regs', read, State.rx_taken, value]
  rfl

/-- What an instruction writes to a register, read modulo the width of its elements. -/
theorem elements_congr {t : State} {w : Nat} {p p' : Nat → Prop} {f f' : Nat → Nat} (place : ∀ i, i < 16384 / w → (p i ↔ p' i))
    (values : ∀ i, f i % 2 ^ w = f' i % 2 ^ w) (e : Elements vd w p f s t) : Elements vd w p' f' s t := by
  obtain ⟨elems, others⟩ := e
  refine ⟨fun i hi => ⟨fun hp => ?_, fun hp => ?_⟩, others⟩
  · rw [← values]; exact (elems i hi).1 ((place i hi).2 hp)
  · exact (elems i hi).2 (mt (place i hi).1 hp)

/-- An instruction whose guard is one bit and which ends with the write of rows of a register completes. -/
theorem completes_access {i : Instr} {eff : Op Flow} {d : Core} {n : Tbl Note} {j : Nat} {fl : FlagSet} (run : exec i s = runAccess h eff s)
    (r : CanIssue h 1 pc s) (g : s.guardBit h = true) (off : d.offPool = (s.issued h accessForm).cur.offPool)
    (e : eff (s.issued h accessForm) = .ok (((s.issued h accessForm).taken d n j).orFlags fl) .next) :
    Completes i h 1 pc s fun t => t.cur.pool = d.pool ∧ t.st.flags = s.st.flags ||| fl ∧ VecFrame s t := by
  rw [orFlags_taken] at e
  obtain ⟨t, step, ret, pool, stream, kept⟩ := completes_rows (onStream := fun st => { st with flags := 0 })
    (run.trans (runAccess_eq h eff s)) r (.inr g) rfl (.inr rfl) e off ⟨rfl, rfl, rfl, rfl, rfl, rfl⟩ rfl
  exact ⟨t, step, ret, pool, (flags_eq stream).trans (by rw [State.issued_flags]), kept⟩

theorem vins_completes (ra rb : Reg) (c : CanIssue h 1 pc s) (g : s.guardBit h = true) (regs : RegsReady [vd] [] s) :
    Completes (.vins h vd ra rb ty) h 1 pc s fun t =>
      Elements vd ty.width (· = (s.rx rb).toNat) (fun _ => (s.rx ra).toNat) s t ∧ VecFrame s t := by
  obtain ⟨-, whole, -⟩ := c.whole
  obtain ⟨unnoted, -⟩ := c.untaken
  have settled : (s.issued h accessForm).cur.pending = [] := (s.issued_pending h _).trans c.settled.1
  have regs' : opRegs [vd] (s.issued h accessForm) = .ok _ () := opRegs_issued (f := accessForm) c regs fun _ m => m
  generalize hl : (if (s.rx rb).toNat < capacity ty.width then [(s.rx rb).toNat] else []) = l
  have upd : (if (s.rx rb).toNat < capacity ty.width then [((s.rx rb).toNat, (s.rx ra).toNat % 2 ^ ty.width)] else []) =
      updates l fun _ => (s.rx ra).toNat % 2 ^ ty.width := by
    subst hl; split <;> rfl
  obtain ⟨d, n, j, write, wrote, -⟩ := opWriteElems_taken (v := s.issued h accessForm) vd ty.width
    (updates l fun _ => (s.rx ra).toNat % 2 ^ ty.width) whole settled (unnoted_nil 0)
  rw [s.issued_taken h _ unnoted] at write
  obtain ⟨t, step, ret, pool, -, frame⟩ := completes_access (i := .vins h vd ra rb ty) (eff := _) (n := n) (j := j) (fl := 0)
    rfl c g wrote.rest (by
    rw [orFlags_taken_zero]
    simp only [opBind, regs', State.issued_rx, bits_low, upd, write]
    rfl)
  obtain ⟨present, -⟩ := regs.present vd (by simp)
  refine ⟨t, step, ret, elements_congr (fun i hi => ?_) (fun _ => Nat.mod_mod _ _)
    (elements_of_wrote_form (elemWidth ty) present wrote pool fun _ => Iff.rfl), frame⟩
  subst hl
  by_cases fits : (s.rx rb).toNat < capacity ty.width
  · rw [if_pos fits, List.mem_singleton]
  · rw [if_neg fits]
    refine ⟨fun m => absurd m List.not_mem_nil, fun e => absurd ?_ fits⟩
    rw [← e]; exact hi

/-! ### The count of live registers and the shape (R124, R131) -/

theorem vlive_coreRest (k : StreamId) (c : Core) : (coreRest k c).vlive = c.vlive := Core.setStream_vlive _ _ _

/-- A core without its count of live registers. -/
def Core.offLive (c : Core) : Core := { c with vlive := 0 }

theorem offLive_coreRest (k : StreamId) (c : Core) : (coreRest k c).offLive = coreRest k c.offLive := by cases k <;> rfl

/-- An instruction whose effect is a write of `%vlive` completes. -/
theorem completes_vlive {i : Instr} {f : Form} {eff : Op Flow} {x : W64} (run : exec i s = runTok h f eff s) (r : CanIssue h f.n pc s)
    (g : s.guardBit h = true) (tr : f.transfer = false) (k : f.kind = .plain ∨ f.kind = .access)
    (e : eff (s.issued h f) = .ok ((s.issued h f).lateWrite 0x031 x) .next) :
    Completes i h f.n pc s fun t => t.cur.vlive = x.setWidth 9 ∧ Kept id Core.offLive id s t ∧ RegsBut 0 s t ∧ MemSame s t := by
  obtain ⟨-, -, now⟩ := r.whole
  have settled : (s.issued h f).cur.pending = [] := (s.issued_pending h f).trans r.settled.1
  have late : (s.issued h f).late = false := now
  rw [show (s.issued h f).lateWrite 0x031 x = (s.issued h f).setCur ((s.issued h f).cur.putSr 0x031 x) by
    simp only [State.lateWrite, landOwn_settled settled, late, Bool.false_eq_true, if_false]] at e
  generalize hc : (s.issued h f).cur.putSr 0x031 x = c at e
  obtain ⟨tokq, pending, -, -, stream⟩ := (s.issued h f).cur.putSr_rest 0x031 x
  have live : c.vlive = x.setWidth 9 := congrArg Core.vlive hc.symm
  have off : c.offLive = (s.issued h f).cur.offLive := (congrArg Core.offLive hc.symm).trans rfl
  rw [hc] at tokq pending stream
  have own : c.stream s.curK = (s.issued h f).st := stream s.curK
  obtain ⟨t, step, ret, core, -, kept⟩ := completes_kept (onCore := Core.offLive) (onStream := id) run r (.inr g) tr k e tokq pending
    (by rw [own]; exact ⟨rfl, rfl, rfl, rfl, rfl, rfl⟩) (by rw [offLive_coreRest, off, ← offLive_coreRest]) (by rw [own])
  exact ⟨t, step, ret, by rw [← vlive_coreRest s.curK, core, vlive_coreRest, live], kept⟩

theorem vlive_completes (c : CanIssue h 1 pc s) (g : s.guardBit h = true) (regs : RegsReady [vd] [] s) (small : vd.toNat < 320) :
    Completes (.vlive h vd) h 1 pc s fun t =>
      t.cur.vlive.toNat = vd.toNat + 1 ∧ Kept id (fun c => { c with vlive := 0 }) id s t ∧ RegsBut 0 s t ∧ MemSame s t := by
  have regs' : opRegs [vd] (s.issued h accessForm) = .ok _ () := opRegs_issued (f := accessForm) c regs fun _ m => m
  obtain ⟨t, step, ret, live, kept⟩ := completes_vlive (i := .vlive h vd) (f := accessForm) (eff := _) rfl c g rfl (.inr rfl)
    (x := w64 (vd.toNat + 1)) (by simp only [opBind, regs'])
  refine ⟨t, step, ret, ?_, kept⟩
  rw [live, w64, BitVec.toNat_setWidth, BitVec.toNat_ofNat]
  omega

theorem vshape_completes (rl cl : BitVec 9) (rh ch : BitVec 2) (c : CanIssue h 1 pc s) (g : s.guardBit h = true) :
    Completes (.vshape h rl cl ch rh) h 1 pc s fun t =>
      t.st.vshapeRows.toNat = rh.toNat * 512 + rl.toNat + 1 ∧ t.st.vshapeCols.toNat = ch.toNat * 512 + cl.toNat + 1 ∧
      Kept id id (fun st => { st with vshapeRows := 0, vshapeCols := 0 }) s t ∧ RegsBut 0 s t ∧ MemSame s t := by
  have size (hi : BitVec 2) (lo : BitVec 9) : (BitVec.ofNat 12 (hi.toNat * 512 + lo.toNat + 1)).toNat = hi.toNat * 512 + lo.toNat + 1 := by
    have := hi.isLt
    have := lo.isLt
    rw [BitVec.toNat_ofNat]
    omega
  obtain ⟨t, step, ret, -, stream, kept⟩ := completes_kept (i := .vshape h rl cl ch rh) (f := {}) (onCore := id)
    (onStream := fun st => { st with vshapeRows := 0, vshapeCols := 0 }) rfl c (.inr g) rfl (.inl rfl)
    (c := (s.issued h {}).cur.setStream s.curK { (s.issued h {}).st with
      vshapeRows := BitVec.ofNat 12 (rh.toNat * 512 + rl.toNat + 1), vshapeCols := BitVec.ofNat 12 (ch.toNat * 512 + cl.toNat + 1) }) rfl
    (Core.setStream_tokq _ _ _) (Core.setStream_pending _ _ _) (by rw [Core.stream_setStream]; exact ⟨rfl, rfl, rfl, rfl, rfl, rfl⟩)
    (congrArg id (coreRest_setStream _ _ _)) (by rw [Core.stream_setStream]; rfl)
  rw [Core.stream_setStream] at stream
  have rows := congrArg Stream.vshapeRows stream
  have cols := congrArg Stream.vshapeCols stream
  exact ⟨t, step, ret, (congrArg BitVec.toNat rows).trans (size rh rl), (congrArg BitVec.toNat cols).trans (size ch cl), kept⟩

end

/-- Settles O17: what `vpush` and `vpop` write are the elements of `pushed` and `popped`, in the order of the enabled lanes, and `%vsp`
counts them; the other instructions write one element, one register or the shape. -/
theorem conditionalStreamsAndSingleElements : Obligations.ConditionalStreamsAndSingleElements := by
  intro h vd va vb rd ra rb ty rl cl rh ch pc s c
  have hw := elemWidth ty
  have cap : 16384 / ty.width = capacity ty.width := rfl
  obtain ⟨pos, fits⟩ := capacity_bounds hw
  dsimp only
  simp only [cap]
  refine ⟨fun shape regs ne => ?vpush, fun shape regs => ?vpop, fun g => ⟨fun regs => vextr_sets rd rb c g regs,
    fun regs => ⟨vins_completes ra rb c g regs, vlive_completes c g regs⟩, ?vliveNone, vshape_completes rl cl rh ch c g⟩⟩
  case vpush =>
    have len := (length_enabled h s).trans (lanes_fit hw shape)
    have start := Nat.mod_lt (s.st.vsp.toNat % 2 ^ 12) pos
    obtain ⟨d1, d2, wrote1, wrote2, t, step, ret, image, vsp, frame⟩ := vpush_completes (vd := vd) (vb := vb) c shape regs
    generalize s.st.vsp.toNat % 2 ^ 12 % capacity ty.width = f at wrote1 wrote2 vsp start ⊢
    have cross := advanceVsp_fields (vsp := s.st.vsp) (lo := 0) (bit := 32) (n := f + (enabled h s).length) (by omega) fits (by norm_num)
      (by norm_num)
    rw [← vsp] at cross
    have ne' : vd.toNat ≠ vb.toNat := fun e => ne (BitVec.eq_of_toNat_eq e)
    have elems {i : Nat} (hi : i < capacity ty.width) := Wrote.elem_pushed hw ne' wrote1 wrote2 hi
    simp only [Core.image_issued, ← image] at elems
    refine ⟨t, step, ret, fun n hn lt => ?_, fun n hn le => ?_, fun i hi out => ?_, fun i hi out => ?_, fun k hk nd nb => ?_, cross, frame⟩
    · rw [el, (elems lt).1, if_pos (by omega), Nat.add_sub_cancel_left]; rfl
    · have place : capacity ty.width + (f + n - capacity ty.width) - f = n := by omega
      rw [el, (elems (by omega)).2, if_pos (by omega), place]; rfl
    · rw [el, (elems hi).1, if_neg (by omega)]; rfl
    · rw [el, (elems hi).2, if_neg (by omega)]; rfl
    · rw [image, wrote2.image_other nb, wrote1.image_other nd, Core.image_issued]
  case vpop =>
    have len := (length_enabled h s).trans (lanes_fit hw shape)
    have start := Nat.mod_lt (s.st.vsp.toNat / 2 ^ 16 % 2 ^ 12) pos
    obtain ⟨d, wrote, t, step, ret, image, vsp, frame⟩ := vpop_completes (vd := vd) c shape regs
    generalize s.st.vsp.toNat / 2 ^ 16 % 2 ^ 12 % capacity ty.width = q at wrote vsp start ⊢
    have cross := advanceVsp_fields (vsp := s.st.vsp) (lo := 16) (bit := 33) (n := q + (enabled h s).length) (by omega) fits (by norm_num)
      (by norm_num)
    rw [← vsp] at cross
    have old (k : Nat) : (s.issued h laneForm).cur.image k = s.cur.image k := Core.image_issued s h laneForm k
    refine ⟨t, step, ret, fun n hn => ?_, fun i hi out => ?_, fun k hk nd => ?_, cross, frame⟩
    · have m : (enabled h s).getD n 0 ∈ enabled h s := by rw [List.getD_eq_getElem _ _ hn]; exact List.getElem_mem hn
      have lane : (enabled h s).getD n 0 < capacity ty.width := by
        exact (lt_lanes_of_enabled m).trans_le (lanes_fit hw shape)
      have place : (enabled h s).idxOf ((enabled h s).getD n 0) = n := by
        rw [List.getD_eq_getElem _ _ hn]; exact enabled_nodup.idxOf_getElem n hn
      rw [el, image, wrote.elem hw lane, if_pos m, popped, place]
      split <;> rw [elem_mod] <;> rfl
    · rw [el, image, wrote.elem hw hi, if_neg out, old]; rfl
    · rw [image, wrote.image_other nd, old]
  case vliveNone =>
    obtain ⟨t, step, ret, live, kept⟩ := completes_vlive (i := .vliveNone h) (f := {}) (eff := _) rfl c g rfl (.inl rfl) (x := 0) rfl
    exact ⟨t, step, ret, by rw [live]; rfl, kept⟩

end Sys2Proof.Machine
end

section
/-! PROOF of O16. A transpose and a sort write a list of updates whose values a function of the position gives (`Wrote.elem_updates`); the
other instructions go lane by lane, or row by row. -/

namespace Sys2Proof.Machine
open Sys2Proof.Safety

/-! ### Sorting (R148) -/

section
variable {t : ElemTy}

/-- The order of a sorted row: keys descend, and equal ones keep the order of their columns. -/
def Before (t : ElemTy) (x y : Nat × Nat) : Prop :=
  sortRank t y.1 < sortRank t x.1 ∨ sortRank t y.1 = sortRank t x.1 ∧ x.2 < y.2

theorem insertKey_perm (x : Nat × Nat) (l : List (Nat × Nat)) : (insertKey t x l).Perm (x :: l) := by
  induction l with
  | nil => exact .refl _
  | cons y l ih =>
    unfold insertKey
    split
    · exact .refl _
    · exact (ih.cons y).trans (.swap x y l)

/-- A key of a later column goes to its place. -/
theorem insertKey_sorted {x : Nat × Nat} {l : List (Nat × Nat)} (sorted : l.Pairwise (Before t)) (later : ∀ y ∈ l, y.2 < x.2) :
    (insertKey t x l).Pairwise (Before t) := by
  induction l with
  | nil => exact List.pairwise_singleton _ _
  | cons y l ih =>
    obtain ⟨head, tail⟩ := List.pairwise_cons.1 sorted
    unfold insertKey
    split
    · next above =>
      refine List.pairwise_cons.2 ⟨fun z m => .inl ?_, sorted⟩
      rcases List.mem_cons.1 m with rfl | m
      · exact above
      · rcases head z m with lt | ⟨eq, -⟩ <;> omega
    · next below =>
      refine List.pairwise_cons.2 ⟨fun z m => ?_, ih tail fun z m => later z (List.mem_cons_of_mem _ m)⟩
      rcases List.mem_cons.1 ((insertKey_perm x l).mem_iff.1 m) with rfl | m
      · exact (lt_or_eq_of_le (Int.not_lt.1 below)).imp_right fun eq => ⟨eq, later y (by simp)⟩
      · exact head z m

theorem sortKeys_concat (l : List (Nat × Nat)) (x : Nat × Nat) : sortKeys t (l ++ [x]) = insertKey t x (sortKeys t l) := by
  rw [sortKeys, List.foldl_append]; rfl

theorem sortKeys_perm (l : List (Nat × Nat)) : (sortKeys t l).Perm l := by
  induction l using List.reverseRecOn with
  | nil => exact .refl _
  | append_singleton l x ih =>
    rw [sortKeys_concat]
    exact (insertKey_perm x _).trans ((ih.cons x).trans (List.perm_append_singleton x l).symm)

/-- The keys of a row, one of each column. -/
theorem sortKeys_sorted (key : Nat → Nat) (n : Nat) : (sortKeys t ((List.range n).map fun c => (key c, c))).Pairwise (Before t) := by
  induction n with
  | zero => exact .nil
  | succ n ih =>
    rw [List.range_succ, List.map_append, List.map_singleton, sortKeys_concat]
    refine insertKey_sorted ih fun y m => ?_
    obtain ⟨c, hc, rfl⟩ := List.mem_map.1 ((sortKeys_perm _).mem_iff.1 m)
    exact List.mem_range.1 hc

end

/-! ### Rows and columns of a tile -/

section
variable {rows cols i : Nat}

theorem row_lt (hi : i < rows * cols) : i / cols < rows :=
  Nat.div_lt_of_lt_mul (by rw [Nat.mul_comm]; exact hi)

theorem cell_lt {r c : Nat} (hr : r < rows) (hc : c < cols) : r * cols + c < rows * cols :=
  calc r * cols + c
    _ < r * cols + cols := Nat.add_lt_add_left hc _
    _ = (r + 1) * cols := (Nat.succ_mul _ _).symm
    _ ≤ rows * cols := Nat.mul_le_mul_right _ hr

theorem cell_div {r c : Nat} (hc : c < cols) : (r * cols + c) / cols = r := by
  rw [Nat.mul_comm, Nat.mul_add_div (by omega), Nat.div_eq_of_lt hc, Nat.add_zero]

end

/-! ### `vtrans` (R149) -/

/-- What `vtrans` writes. -/
def transposed (w img rows cols : Nat) : List (Nat × Nat) :=
  (List.range (rows * cols)).map fun i => (i % cols * rows + i / cols, elem w img i)

theorem transposed_value {w img rows cols : Nat} :
    ∀ u ∈ transposed w img rows cols, u.2 = elem w img (u.1 % rows * cols + u.1 / rows) := by
  intro u hu
  obtain ⟨i, hi, rfl⟩ := List.mem_map.1 hu
  have row := row_lt (List.mem_range.1 hi)
  dsimp only
  rw [Nat.mul_add_mod_of_lt row, cell_div row, Nat.div_add_mod']

theorem mem_transposed {w img rows cols j : Nat} : j ∈ (transposed w img rows cols).map Prod.fst ↔ j < rows * cols := by
  simp only [transposed, List.map_map, List.mem_map, List.mem_range, Function.comp_apply]
  constructor
  · rintro ⟨i, hi, rfl⟩
    have pos : 0 < cols := Nat.pos_of_mul_pos_left (Nat.zero_lt_of_lt hi)
    rw [Nat.mul_comm rows cols]
    exact cell_lt (Nat.mod_lt _ pos) (row_lt hi)
  · intro hj
    rw [Nat.mul_comm] at hj
    have pos : 0 < rows := Nat.pos_of_mul_pos_left (Nat.zero_lt_of_lt hj)
    have col := row_lt hj
    refine ⟨j % rows * cols + j / rows, cell_lt (Nat.mod_lt _ pos) col, ?_⟩
    rw [Nat.mul_add_mod_of_lt col, cell_div col, Nat.div_add_mod']

section
variable {h : Head} {s : State} {pc : PcWord} {vd va vb : VReg} {ty : ElemTy}

theorem vtrans_completes (c : CanIssue h 1 pc s) (g : s.guardBit h = true) (shape : ShapeReady [ty.width] s) (regs : RegsReady [vd] [va] s) :
    Completes (.vtrans h vd va ty) h 1 pc s fun t =>
      Elements vd ty.width (· < lanes s) (fun i => el s va ty.width
        (i % s.st.vshapeRows.toNat * s.st.vshapeCols.toNat + i / s.st.vshapeRows.toNat)) s t ∧ VecFrame s t := by
  obtain ⟨-, whole, -⟩ := c.whole
  have settled : (s.issued h accessForm).cur.pending = [] := (s.issued_pending h _).trans c.settled.1
  have shape' : opShape [ty.width, ty.width] (s.issued h accessForm) = .ok _ _ := opShape_issued (shapeReady_replicate shape 2)
  have regs' : opRegs [vd, va] (s.issued h accessForm) = .ok _ () := opRegs_issued (f := accessForm) c regs fun _ m => m
  obtain ⟨n, j, read, fresh⟩ := opImage_issued (f := accessForm) (k := va) c regs (by simp)
  obtain ⟨d, n', j', write, wrote, -⟩ := opWriteElems_taken (v := s.issued h accessForm) vd ty.width
    (transposed ty.width (s.cur.image va.toNat) s.st.vshapeRows.toNat s.st.vshapeCols.toNat) whole settled fresh
  obtain ⟨t, step, ret, pool, -, frame⟩ := completes_access (i := .vtrans h vd va ty) (eff := _) (n := n') (j := j') (fl := 0)
    rfl c g wrote.rest (by
    rw [orFlags_taken_zero]
    simp only [transposed] at write
    simp only [opBind, shape', regs', read, write]
    rfl)
  rw [eq_updates (g := fun i => elem ty.width (s.cur.image va.toNat) (i % s.st.vshapeRows.toNat * s.st.vshapeCols.toNat + i / s.st.vshapeRows.toNat))
    (upd := transposed _ _ _ _) transposed_value] at wrote
  obtain ⟨present, -⟩ := regs.present vd (by simp)
  exact ⟨t, step, ret, elements_of_wrote_form (elemWidth ty) present wrote pool fun i => mem_transposed, frame⟩

/-! ### `vrmrg` (R151) -/

theorem elem_sum_rows (r : Nat → Row) {n i : Nat} (hi : i < n) :
    elem 1024 ((List.range n).map fun j => (r j).toNat * 2 ^ (1024 * j)).sum i = (r i).toNat := by
  refine Nat.eq_of_testBit_eq fun b => ?_
  rw [testBit_elem]
  by_cases hb : b < 1024
  · have quot : (1024 * i + b) / 1024 = i := by omega
    have rem : (1024 * i + b) % 1024 = b := by omega
    rw [testBit_sum_rows r n _ (by omega), quot, rem, decide_eq_true hb, Bool.true_and]
  · rw [decide_eq_false hb, Bool.false_and, BitVec.testBit_toNat, BitVec.getLsbD_of_ge _ _ (by omega)]

theorem elem_image_row (c : Core) (k : Nat) {r : Nat} (hr : r < 16) : elem 1024 (c.image k) r = c.poolRow (regBank k) (regRow k + r) :=
  elem_sum_rows (fun j => tblGet 0 c.pool (regBank k * 512 + (regRow k + j))) hr

theorem elem_mergeRows (a b sh : Nat) {r : Nat} (hr : r < 16) :
    elem 1024 (mergeRows a b sh) r = (elem 1024 a r / 2 ^ (8 * sh) + elem 1024 b r * 2 ^ (8 * (128 - sh))) % 2 ^ 1024 := by
  have rows := elem_sum_rows (fun r => BitVec.ofNat 1024 (elem 1024 a r / 2 ^ (8 * sh) + elem 1024 b r * 2 ^ (8 * (128 - sh)))) hr
  simpa only [mergeRows, BitVec.toNat_ofNat] using rows

/-- A row that is written whole. -/
theorem mergedRow_whole (o : Row) {x : Nat} (hx : x < 2 ^ 1024) : mergedRow o.toNat (x, 2 ^ 128 - 1) = x := by
  refine Nat.eq_of_testBit_eq fun p => ?_
  by_cases hp : p < 1024
  · rw [testBit_mergedRow o _ hp, Nat.testBit_two_pow_sub_one, decide_eq_true (by omega), if_pos rfl]
  · have wide : 2 ^ 1024 ≤ 2 ^ p := pow_le_pow_right₀ one_le_two (Nat.not_lt.1 hp)
    rw [mergedRow, BitVec.testBit_toNat, BitVec.getLsbD_of_ge _ _ (Nat.not_lt.1 hp), Nat.testBit_lt_two_pow (lt_of_lt_of_le hx wide)]

theorem vrmrg_completes (sh : BitVec 9) (c : CanIssue h 1 pc s) (g : s.guardBit h = true) (regs : RegsReady [vd] [va, vb] s) :
    Completes (.vrmrg h vd va vb sh ty) h 1 pc s fun t =>
      Elements vd 1024 (fun _ => True) (fun r => el s va 1024 r / 2 ^ (8 * sh.toNat) + el s vb 1024 r * 2 ^ (8 * (128 - sh.toNat))) s t ∧
        VecFrame s t := by
  obtain ⟨-, whole, -⟩ := c.whole
  have settled : (s.issued h accessForm).cur.pending = [] := (s.issued_pending h _).trans c.settled.1
  have regs' : opRegs [vd, va, vb] (s.issued h accessForm) = .ok _ () := opRegs_issued (f := accessForm) c regs fun _ m => m
  obtain ⟨n, j, read, fresh⟩ := opImages_issued (f := accessForm) (ks := [va, vb]) c regs fun _ m => m
  generalize hm : mergeRows (s.cur.image va.toNat) (s.cur.image vb.toNat) sh.toNat = img
  obtain ⟨d, n', j', write, wrote, -⟩ := opWriteRows_taken (v := s.issued h accessForm) (k := vd.toNat)
    (row := fun j _ => (elem 1024 img j, 2 ^ 128 - 1)) (fun _ _ _ _ => rfl) whole settled fresh
  obtain ⟨t, step, ret, pool, -, frame⟩ := completes_access (i := .vrmrg h vd va vb sh ty) (eff := _) (n := n') (j := j') (fl := 0) rfl c g
    wrote.rest (by
      rw [orFlags_taken_zero]
      simp only [opBind, regs', read, List.map_cons, List.map_nil, List.getD_cons_zero, List.getD_cons_succ, hm, opWriteImage, write]
      rfl)
  obtain ⟨present, -⟩ := regs.present vd (by simp)
  have image := image_of_pool pool
  refine ⟨t, step, ret, ⟨fun r hr => ⟨fun _ => ?_, fun no => absurd trivial no⟩, fun k _ ne => ?_, fun b row hb _ => ?_⟩, frame⟩
  · have hr' : r < 16 := hr
    rw [el, image, elem_image_row _ _ hr', wrote.rows r hr', Core.poolRow, mergedRow_whole _ (elem_lt _ _ _), ← hm, elem_mergeRows _ _ _ hr']
    rfl
  · rw [image, wrote.image_other ne, Core.image_issued]
  · have kept : d.poolRow b row = (s.issued h accessForm).cur.poolRow b row := wrote.above present hb
    simp only [Core.poolRow, pool, State.issued_pool] at kept ⊢
    exact kept

/-! ### `vrand` (R153) -/

/-- A core without what `vrand` changes. -/
def Core.offRand (c : Core) : Core := { c with pool := [], poolUe := [], vlive := 0, vrctr := 0 }

theorem offRand_coreRest (k : StreamId) (c : Core) : (coreRest k c).offRand = coreRest k c.offRand := by cases k <;> rfl

theorem foldl_or_zero {α : Type} (l : List α) : (l.map fun _ => (0 : FlagSet)).foldl (· ||| ·) 0 = 0 := by
  induction l with
  | nil => rfl
  | cons _ l ih => simpa using ih

theorem vrand_completes (c : CanIssue h 1 pc s) (shape : ShapeReady [ty.width] s) (regs : RegsReady [vd] [] s) :
    Completes (.vrand h vd ty) h 1 pc s fun t =>
      Elements vd ty.width (fun i => i ∈ enabled h s) (fun i => randElem ty (counterHash s.cur.vrkey (s.cur.vrctr + BitVec.ofNat 64 i))) s t ∧
      t.cur.vrctr = s.cur.vrctr + BitVec.ofNat 64 (lanes s) ∧ RegsBut 0 s t ∧ MemSame s t ∧
      Kept id Core.offRand (fun st => { st with flags := 0 }) s t := by
  obtain ⟨settled, -⟩ := c.settled
  obtain ⟨d, n, j, eff, wrote⟩ := effLanesThen_issued (srcs := []) (fin := fun n _ s => s.advanceRand n)
    (f := fun s l => (randElem ty (s.laneRand l.i), 0))
    (r := fun i => (randElem ty (counterHash s.cur.vrkey (s.cur.vrctr + BitVec.ofNat 64 i)), 0)) c shape regs
    fun n j x => by rw [laneRand_taken settled, lane_i]
  have tokq0 := Core.offPool_tokq wrote.rest
  have pending0 := Core.offPool_pending wrote.rest
  have still : d.pending = [] := pending0.trans ((s.issued_pending h _).trans settled)
  have counter : d.vrctr = s.cur.vrctr := (congrArg Core.vrctr wrote.rest : d.offPool.vrctr = _).trans vrctr_issued
  rw [foldl_or_zero, orFlags_taken_zero, advanceRand_taken still, counter, State.taken_eq] at eff
  generalize hd : ({ d with vrctr := s.cur.vrctr + w64 (lanes s) } : Core) = d' at eff
  have off : d'.offRand = (s.issued h laneForm).cur.offRand :=
    (congrArg Core.offRand hd.symm).trans (congrArg (fun c : Core => { c with vrctr := 0 }) wrote.rest)
  have tokq : d'.tokq = (s.issued h laneForm).cur.tokq := (congrArg Core.tokq hd.symm).trans tokq0
  have pending : d'.pending = (s.issued h laneForm).cur.pending := (congrArg Core.pending hd.symm).trans pending0
  obtain ⟨t, step, ret, core, -, kept, regs', mem⟩ := completes_kept (onCore := Core.offRand) (onStream := fun st => { st with flags := 0 })
    (i := .vrand h vd ty) (f := laneForm) rfl c (.inl rfl) rfl (.inr rfl) eff ((Core.setStream_tokq _ _ _).trans tokq)
    ((Core.setStream_pending _ _ _).trans pending)
    (by rw [State.issued_curK, Core.stream_setStream]; exact ⟨rfl, rfl, rfl, rfl, rfl, rfl⟩)
    (by rw [State.issued_curK, coreRest_setStream, offRand_coreRest, off, ← offRand_coreRest])
    (by rw [State.issued_curK, Core.stream_setStream]; rfl)
  rw [State.issued_curK, coreRest_setStream] at core
  have pool : t.cur.pool = d.pool := by rw [← pool_coreRest s.curK, core, pool_coreRest, ← hd]
  obtain ⟨present, -⟩ := regs.present vd (by simp)
  refine ⟨t, step, ret, elements_of_wrote (elemWidth ty) present wrote pool fun _ => Iff.rfl, ?_, regs', mem, kept⟩
  rw [← vrctr_coreRest s.curK, core, vrctr_coreRest, ← hd]; rfl

/-! ### `vsortk` (R148) -/

/-- The sorted keys of row `r`, with their columns. -/
def sortedRow (t : ElemTy) (img cols r : Nat) : List (Nat × Nat) :=
  sortKeys t ((List.range cols).map fun c => (elem t.width img (r * cols + c), c))

/-- What `vsortk` writes of the first `k` keys of each row: the keys, or their columns. -/
def sortedUpdates (t : ElemTy) (img rows cols k : Nat) (f : Nat × Nat → Nat) : List (Nat × Nat) :=
  ((List.range rows).map fun r => (sortedRow t img cols r).take k).zipIdx.flatMap fun r => r.1.zipIdx.map fun e => (r.2 * cols + e.2, f e.1)

section
variable {img rows cols k r : Nat} {f : Nat × Nat → Nat}

theorem length_sortedRow : (sortedRow ty img cols r).length = cols := by
  rw [sortedRow, (sortKeys_perm _).length_eq, List.length_map, List.length_range]

theorem sortedRow_mem {c : Nat} (hc : c < cols) : ∃ c', c' < cols ∧
    (sortedRow ty img cols r).getD c (0, 0) = (elem ty.width img (r * cols + c'), c') := by
  have lt : c < (sortedRow ty img cols r).length := by rw [length_sortedRow]; exact hc
  rw [List.getD_eq_getElem _ _ lt]
  obtain ⟨c', hc', e⟩ := List.mem_map.1 ((sortKeys_perm _).mem_iff.1 (List.getElem_mem lt))
  exact ⟨c', List.mem_range.1 hc', e.symm⟩

theorem mem_sortedUpdates (hk : k ≤ cols) {u : Nat × Nat} : u ∈ sortedUpdates ty img rows cols k f ↔
    ∃ r c, r < rows ∧ c < k ∧ u = (r * cols + c, f ((sortedRow ty img cols r).getD c (0, 0))) := by
  have len (r : Nat) : ((sortedRow ty img cols r).take k).length = k := by rw [List.length_take, length_sortedRow, min_eq_left hk]
  have row {r c : Nat} (hc : c < k) : ((sortedRow ty img cols r).take k).getD c (0, 0) = (sortedRow ty img cols r).getD c (0, 0) := by
    simp only [List.getD_eq_getElem?_getD, List.getElem?_take_of_lt hc]
  have pairs : ((List.range rows).map fun r => (sortedRow ty img cols r).take k).zipIdx =
      (List.range rows).map fun r => ((sortedRow ty img cols r).take k, r) :=
    (List.map_id _).symm.trans (zipIdx_map_range (fun x r => (x, r)) _ rows)
  simp only [sortedUpdates, pairs, List.flatMap_map, List.mem_flatMap, List.mem_range]
  refine exists_congr fun r => ?_
  rw [map_zipIdx (fun e c => (r * cols + c, f e)) _ (0, 0), len]
  simp only [List.mem_map, List.mem_range]
  constructor
  · rintro ⟨hr, c, hc, rfl⟩
    exact ⟨c, hr, hc, by rw [row hc]⟩
  · rintro ⟨c, hr, hc, rfl⟩
    exact ⟨hr, c, hc, by rw [row hc]⟩

theorem sortedUpdates_value (hk : k ≤ cols) :
    ∀ u ∈ sortedUpdates ty img rows cols k f, u.2 = f ((sortedRow ty img cols (u.1 / cols)).getD (u.1 % cols) (0, 0)) := by
  intro u hu
  obtain ⟨r, c, -, hc, rfl⟩ := (mem_sortedUpdates hk).1 hu
  dsimp only
  rw [cell_div (by omega), Nat.mul_add_mod_of_lt (by omega)]

theorem mem_sortedUpdates_fst (hk : k ≤ cols) {i : Nat} :
    i ∈ (sortedUpdates ty img rows cols k f).map Prod.fst ↔ i < rows * cols ∧ i % cols < k := by
  simp only [List.mem_map, mem_sortedUpdates hk]
  constructor
  · rintro ⟨_, ⟨r, c, hr, hc, rfl⟩, rfl⟩
    exact ⟨cell_lt hr (by omega), by dsimp only; rwa [Nat.mul_add_mod_of_lt (by omega)]⟩
  · rintro ⟨hi, hc⟩
    exact ⟨_, ⟨i / cols, i % cols, row_lt hi, hc, rfl⟩, Nat.div_add_mod' i cols⟩

end

/-- After the keys and then the columns have been written, each element of the registers. -/
theorem Wrote.elem_sorted {img rows cols k : Nat} {c d1 d2 : Core} (hk : k ≤ cols)
    (wrote1 : Wrote vd.toNat (elemRow vd ty.width (sortedUpdates ty img rows cols k Prod.fst)) c d1)
    (wrote2 : Wrote vb.toNat (elemRow vb 16 (sortedUpdates ty img rows cols k Prod.snd)) d1 d2) :
    (vd ≠ vb → ∀ i, i < capacity ty.width → Machine.elem ty.width (d2.image vd.toNat) i = if i < rows * cols ∧ i % cols < k
      then ((sortedRow ty img cols (i / cols)).getD (i % cols) (0, 0)).1 % 2 ^ ty.width else Machine.elem ty.width (c.image vd.toNat) i) ∧
    ∀ i, i < 1024 → Machine.elem 16 (d2.image vb.toNat) i = if i < rows * cols ∧ i % cols < k
      then ((sortedRow ty img cols (i / cols)).getD (i % cols) (0, 0)).2 % 2 ^ 16 else Machine.elem 16 (d1.image vb.toNat) i := by
  refine ⟨fun ne i hi => ?_, fun i hi => ?_⟩
  · have first := wrote1.elem_updates (elemWidth ty)
      (g := fun i => ((sortedRow ty img cols (i / cols)).getD (i % cols) (0, 0)).1) (sortedUpdates_value hk) hi
    rw [wrote2.image_other fun e => ne (BitVec.eq_of_toNat_eq e), first]
    exact if_congr (mem_sortedUpdates_fst hk) rfl rfl
  · have second := wrote2.elem_updates (.inr (.inr (.inl rfl)))
      (g := fun i => ((sortedRow ty img cols (i / cols)).getD (i % cols) (0, 0)).2) (sortedUpdates_value hk) hi
    rw [second]
    exact if_congr (mem_sortedUpdates_fst hk) rfl rfl

/-- `vsortk` up to its retirement: the keys are written, and then the columns. -/
theorem vsortk_completes (km1 : BitVec 9) (c : CanIssue h 1 pc s) (g : s.guardBit h = true) (shape : ShapeReady [ty.width, 16] s)
    (regs : RegsReady [vd, vb] [va] s) :
    let k := min (km1.toNat + 1) s.st.vshapeCols.toNat
    let upd := sortedUpdates ty (s.cur.image va.toNat) s.st.vshapeRows.toNat s.st.vshapeCols.toNat k
    ∃ d1 d2, Wrote vd.toNat (elemRow vd ty.width (upd Prod.fst)) (s.issued h accessForm).cur d1 ∧
      Wrote vb.toNat (elemRow vb 16 (upd Prod.snd)) d1 d2 ∧
      Completes (.vsortk h vd va vb km1 ty) h 1 pc s fun t => (∀ k, t.cur.image k = d2.image k) ∧
        t.st.flags = s.st.flags ||| ((List.range (lanes s)).map fun i => sigFlag [valueOf ty (el s va ty.width i)]).foldl (· ||| ·) 0 ∧
        VecFrame s t := by
  intro k upd
  obtain ⟨-, whole, -⟩ := c.whole
  have settled : (s.issued h accessForm).cur.pending = [] := (s.issued_pending h _).trans c.settled.1
  have shape' : opShape [ty.width, ty.width, 16] (s.issued h accessForm) = .ok _ _ := opShape_issued (shapeReady_mono shape (by simp))
  have regs' : opRegs [vd, va, vb] (s.issued h accessForm) = .ok _ () := opRegs_issued (f := accessForm) c regs (by simp)
  obtain ⟨n, j, read, fresh⟩ := opImage_issued (f := accessForm) (k := va) c regs (by simp)
  obtain ⟨d1, n1, j1, write1, wrote1, fresh⟩ := opWriteElems_taken (v := s.issued h accessForm) vd ty.width (upd Prod.fst) whole settled fresh
  obtain ⟨d2, n2, j2, write2, wrote2, -⟩ := opWriteElems_taken (v := s.issued h accessForm) (c := d1) vb 16 (upd Prod.snd) whole
    ((Core.offPool_pending wrote1.rest).trans settled) fresh
  have sorted : (rowLanes s.st.vshapeRows.toNat s.st.vshapeCols.toNat).map (fun g =>
      (sortKeys ty (g.zipIdx.map fun e => (elem ty.width (s.cur.image va.toNat) e.1, e.2))).take k) =
      (List.range s.st.vshapeRows.toNat).map fun r => (sortedRow ty (s.cur.image va.toNat) s.st.vshapeCols.toNat r).take k := by
    rw [rowLanes, List.map_map]
    refine List.map_congr_left fun r _ => ?_
    rw [Function.comp_apply, zipIdx_map_range (fun i c => (elem ty.width (s.cur.image va.toNat) i, c))]
    rfl
  obtain ⟨t, step, ret, pool, flags, frame⟩ := completes_access (i := .vsortk h vd va vb km1 ty) (eff := _) (n := n2) (j := j2)
    (fl := ((List.range (lanes s)).map fun i => sigFlag [valueOf ty (el s va ty.width i)]).foldl (· ||| ·) 0) rfl c g
    (wrote2.rest.trans wrote1.rest) (by
      simp only [upd, sortedUpdates] at write1 write2
      simp only [opBind, shape', regs', read]
      rw [sorted, write1]
      dsimp only
      rw [write2]
      rfl)
  exact ⟨d1, d2, wrote1, wrote2, t, step, ret, image_of_pool pool, flags, frame⟩

end

section
variable {h : Head} {s : State} {pc : PcWord} {vd va vb : VReg} {ty : ElemTy}

@[simp] theorem lane_at_zero (k : VReg) (w w' x j : Nat) (l : List (VReg × Nat)) : (s.lane ((k, w') :: l) x).at' 0 w j = el s k w j := by
  simp only [Lane.at', State.lane, List.map_cons, List.getD_cons_zero, el]

theorem vperm_lanewise (byRow : Bool) (c : CanIssue h 1 pc s) (shape : ShapeReady [ty.width, 16] s) (regs : RegsReady [vd] [va, vb] s) :
    Lanewise (.vperm h vd va vb ty byRow) h pc vd ty.width
      (fun i =>
        (if byRow then
          if el s vb 16 i < s.st.vshapeCols.toNat then el s va ty.width (i / s.st.vshapeCols.toNat * s.st.vshapeCols.toNat + el s vb 16 i) else 0
        else if el s vb 16 i < lanes s then el s va ty.width (el s vb 16 i) else 0, 0)) s :=
  lanewise (srcs := [(va, ty.width), (vb, 16)]) rfl c (elemWidth ty) (shapeReady_mono shape (by simp)) regs fun n j x => by
    simp only [lane_src_one, lane_at_zero]
    rfl

theorem vlut_lanewise (c : CanIssue h 1 pc s) (shape : ShapeReady [ty.width, 16] s) (regs : RegsReady [vd] [va, vb] s) :
    Lanewise (.vlut h vd va vb ty) h pc vd ty.width
      (fun i => (if el s vb 16 i < 16384 / ty.width then el s va ty.width (el s vb 16 i) else 0, 0)) s :=
  lanewise (srcs := [(va, ty.width), (vb, 16)]) rfl c (elemWidth ty) (shapeReady_mono shape (by simp)) regs fun n j x => by
    simp only [lane_src_one, lane_at_zero, capacity]

theorem vidx_lanewise (rm : Rm) (form : BitVec 2) (c : CanIssue h 1 pc s) (shape : ShapeReady [ty.width] s) (regs : RegsReady [vd] [] s) :
    Lanewise (.vidx h vd ty rm form) h pc vd ty.width
      (fun i => indexElem ty (s.mode rm)
        (if form = 1 then i / s.st.vshapeCols.toNat else if form = 2 then i % s.st.vshapeCols.toNat else i)) s :=
  lanewise (srcs := []) rfl c (elemWidth ty) shape regs fun n j x => by
    simp only [State.mode_taken, lane_cols, lane_i]

end

/-- Settles O16: the lane-by-lane instructions read their indices as stated; a transpose and a sort write each element of the tile once; and
the sort keeps the order of equal keys because it inserts the columns one after another. -/
theorem permutesSortsAndGenerators : Obligations.PermutesSortsAndGenerators := by
  intro h vd va vb ty rm byRow sh km1 form pc s c
  dsimp only
  refine ⟨fun shape regs g => vtrans_completes c g shape regs,
    fun shape regs => ⟨vperm_lanewise byRow c shape regs, vlut_lanewise c shape regs⟩,
    fun regs g _ => vrmrg_completes sh c g regs,
    fun shape regs => ⟨vrand_completes c shape regs, vidx_lanewise rm form c shape regs⟩, fun shape regs g => ⟨fun r => ⟨sortKeys_perm _,
      sortKeys_sorted (fun x => el s va ty.width (r * s.st.vshapeCols.toNat + x)) s.st.vshapeCols.toNat⟩, ?vsortk⟩⟩
  case vsortk =>
    have hk : min (km1.toNat + 1) s.st.vshapeCols.toNat ≤ s.st.vshapeCols.toNat := min_le_right _ _
    obtain ⟨d1, d2, wrote1, wrote2, t, step, ret, image, flags, frame⟩ := vsortk_completes km1 c g shape regs
    obtain ⟨keys, columns⟩ := Wrote.elem_sorted hk wrote1 wrote2
    have all : s.st.vshapeRows.toNat * s.st.vshapeCols.toNat = lanes s := rfl
    simp only [all, Core.image_issued] at keys columns
    generalize min (km1.toNat + 1) s.st.vshapeCols.toNat = k at hk keys columns ⊢
    have other {q : Nat} (nd : q ≠ vd.toNat) : d1.image q = s.cur.image q := (wrote1.image_other nd).trans (Core.image_issued s h _ q)
    have tile : lanes s ≤ capacity ty.width := lanes_fit (elemWidth ty) (shapeReady_mono shape (by simp))
    have tile16 : lanes s ≤ 1024 := by have := shape.fits 16 (by simp); omega
    refine ⟨t, step, ret, fun r x hr hx => ?_, fun ne => ⟨fun i hi no => ?_, fun i hi no => ?_⟩, fun q _ nd nb => ?_, flags, frame⟩
    · have col : x < s.st.vshapeCols.toNat := hx.trans_le hk
      have cell : r * s.st.vshapeCols.toNat + x < lanes s := cell_lt hr col
      have wide : s.st.vshapeCols.toNat ≤ lanes s := Nat.le_mul_of_pos_left _ (Nat.zero_lt_of_lt hr)
      obtain ⟨x', hx', entry⟩ := sortedRow_mem (ty := ty) (img := s.cur.image va.toNat) (r := r) col
      have place : r * s.st.vshapeCols.toNat + x < lanes s ∧ (r * s.st.vshapeCols.toNat + x) % s.st.vshapeCols.toNat < k :=
        ⟨cell, by rwa [Nat.mul_add_mod_of_lt col]⟩
      constructor
      · rw [el, image, columns _ (by omega), if_pos place, cell_div col, Nat.mul_add_mod_of_lt col]
        have small : ((sortedRow ty (s.cur.image va.toNat) s.st.vshapeCols.toNat r).getD x (0, 0)).2 < 2 ^ 16 := by rw [entry]; dsimp only; omega
        exact Nat.mod_eq_of_lt small
      · intro ne
        rw [el, image, keys ne _ (cell.trans_le tile), if_pos place, cell_div col, Nat.mul_add_mod_of_lt col]
        have small : ((sortedRow ty (s.cur.image va.toNat) s.st.vshapeCols.toNat r).getD x (0, 0)).1 < 2 ^ ty.width := by
          rw [entry]; exact elem_lt _ _ _
        exact Nat.mod_eq_of_lt small
    · rw [el, image, keys ne i hi, if_neg no]; rfl
    · rw [el, image, columns i hi, if_neg no, other fun e => ne (BitVec.eq_of_toNat_eq e).symm]; rfl
    · rw [image, wrote2.image_other nb, other nd]

end Sys2Proof.Machine
end

section
/-! PROOF of O18 and O60, by refutation. O18 speaks of every state, so also of one whose table of clusters does not list its keys in rising
order, which no run from reset reaches. O60 fails at a state of a kind that runs reach: a command that completes raises its flags in `%mstat`
after the writes of `%mstat` that streams have retired and the core has still to see (R36, R170), and these clear flags. -/

namespace Sys2Proof.Machine
open Sys2Proof.Safety

/-! ### A refused command in an unordered table -/

/-- Refutes O18: `mmul` with K = 0 is refused in the listed state, and its trap leaves an entry more in the table of clusters, which is not
in rising order of its keys. -/
theorem not_matrixCommandsEnterTheQueue : ¬ Obligations.MatrixCommandsEnterTheQueue := by
  rintro ⟨queued, -⟩
  obtain ⟨-, -, refused⟩ := queued ⟨0, 0⟩ 0 0 0 0 false false 0 0 .f32 0 false 0x1001 (listed 0x1000) canIssue_listed guardBit_listed
    (.mmul ⟨0, 0⟩ 0 0 0 0 false 0 false 0 .f32 0 false, mcmd 0x80 0 0 ⟨false, 0, false, 0⟩ ElemTy.f32.code 0 false, 0, 0) (.head _)
  exact not_traps_listed (by decide +kernel)
    (refused { code := .matrixParam, faddr := 2 } (by decide +kernel) (by decide +kernel) (ordinary_listed _))

/-! ### A command that completes while a write of `%mstat` is still to be seen -/

/-- `msem`, as the engine executes it. -/
def msemCommand : MCmd := { seq := 0, op := 0x94 }

/-- The engine of core 0 executes `msem`, with flag nx in `%mstat`; stream L has retired a write of `%mstat` that clears the flag, and the
other agents of the core have still to see it. -/
def unseen : State :=
  { running .L { pc := 0x1000 } with
    cores := [(0, { slice := some 0, matrix := { running := some msemCommand, flags := 1 }, pending := [.sr .L 0x080 1] })] }

/-- The sticky flags of core 0's engine in the next state. -/
def flagsAfter : Host.Outcome State Fault Refusal → Option (BitVec 5)
  | .next t => some (t.core 0).matrix.flags
  | _ => none

theorem executes_unseen : Executes unseen 0 msemCommand where
  executing := by decide +kernel
  whole := by decide +kernel
  runs := by decide +kernel
  accepted := by decide +kernel
  begun := by decide +kernel
  settled j v := by
    have one : (unseen.core 0).pending = [.sr .L 0x080 1] := rfl
    simp [one]
  signals := by decide +kernel
  untraced := .inl rfl

/-- The write lands before the command raises its flags, of which it has none. -/
theorem flagsAfter_unseen : flagsAfter (exec .matrixCommandComplete unseen) = some 0 := by decide +kernel

/-- Refutes O60: `msem` completes and raises no flag, so by the statement the flags stay; the retired write of `%mstat` lands first, and
clears the one that stood. -/
theorem not_matrixCommandsLeaveTheirResults : ¬ Obligations.MatrixCommandsLeaveTheirResults := by
  intro all
  obtain ⟨-, -, -, -, -, -, -, -, -, -, -, completes⟩ := all unseen msemCommand executes_unseen
  obtain ⟨t, e, -, -, -, -, -, flags, -⟩ := completes (.inr rfl)
  have stay : flagsAfter (.next t) = some 1 := congrArg some flags
  exact absurd (flagsAfter_unseen.symm.trans ((congrArg flagsAfter e).trans stay)) (by decide)

end Sys2Proof.Machine
end

section
/-! PROOF of O19. The engine's events change its own core, and a trace record of theirs changes nothing of a core but its rings
(`RingsOnly`); what lands before a command completes leaves the engine but for its flags and limit (`SameEngine`). -/

namespace Sys2Proof.Machine
open Sys2Proof.Safety

/-! ### What a trace record leaves of the cores -/

/-- Nothing of a core has changed but its rings, whose spilled records a write to memory may spoil (R209). -/
def RingsOnly (s t : State) : Prop := ∀ n, ∃ r, t.core n = { s.core n with rings := r }

section
variable {s t u : State}

theorem RingsOnly.of_cores (h : t.cores = s.cores) : RingsOnly s t := fun n => ⟨(s.core n).rings, by simp only [State.core, h]⟩

theorem RingsOnly.refl : RingsOnly s s := .of_cores rfl

theorem RingsOnly.trans (h : RingsOnly s t) (g : RingsOnly t u) : RingsOnly s u := fun n => by
  obtain ⟨r, e⟩ := h n
  obtain ⟨r', e'⟩ := g n
  exact ⟨r', by rw [e', e]⟩

theorem RingsOnly.foldl {α : Type} {f : State → α → State} (step : ∀ u a, RingsOnly u (f u a)) (l : List α) :
    RingsOnly s (l.foldl f s) := by
  induction l generalizing s with
  | nil => exact .refl
  | cons a l ih => exact (step s a).trans ih

theorem RingsOnly.setRings (c : Nat) (r : Tbl Ring) : RingsOnly s (s.setCore c { s.core c with rings := r }) := fun n => by
  by_cases h : n = c
  · subst h; exact ⟨r, State.core_setCore_same _ _ _⟩
  · exact ⟨(s.core n).rings, State.core_setCore_other _ _ h⟩

theorem State.l2Evict_cores (s : State) (d key : Nat) : (s.l2Evict d key).cores = s.cores := by
  unfold State.l2Evict
  dsimp only
  split
  · rfl
  · split
    · rfl
    · split <;> rfl

theorem State.l2Room_cores (s : State) (d : Nat) : (s.l2Room d).cores = s.cores := by
  unfold State.l2Room
  dsimp only
  split
  · rfl
  · split
    · exact State.l2Evict_cores _ _ _
    · rfl

theorem State.homePut_cores (s : State) (p : Option Nat) (row v mask : Nat) : (s.homePut p row v mask).cores = s.cores := by
  simp only [State.homePut, State.frameWritten, State.monitorEvent, apply_ite State.cores, State.setDie_cores, State.l2Room_cores, ite_self]

theorem RingsOnly.spoilSpills (own : Option (Nat × Nat)) (row mask : Nat) : RingsOnly s (s.spoilSpills own row mask) :=
  .foldl (fun _ _ => .foldl (fun u g => by
    dsimp only
    split
    · exact RingsOnly.setRings (s := u) _ _
    · exact .refl) _) _

theorem RingsOnly.homeStore (p : Option Nat) (pa len v : Nat) : RingsOnly s (s.homeStore p pa len v) := by
  unfold State.homeStore State.homeWrite
  split
  · exact .refl
  · exact (RingsOnly.of_cores (s.homePut_cores _ _ _ _)).trans (.spoilSpills _ _ _)

theorem RingsOnly.devWrite {space : Option (Nat × Nat)} {p : Option Nat} {a : Nat} {words : List Nat} :
    ∀ t, s.devWrite space p a words = some t → RingsOnly s t := by
  fun_induction State.devWrite s space p a words with
  | case1 => rintro t ⟨⟩; exact .refl
  | case2 s a w rest pa _ ih => exact fun t e => (RingsOnly.homeStore _ _ _ _).trans (ih t e)
  | case3 s a w rest peer bus _ ih =>
    have sent : (s.send peer (.write bus 8 (BitVec.ofNat 1024 (w % 2 ^ 64)))).cores = s.cores := by unfold State.send; split <;> rfl
    exact fun t e => (RingsOnly.of_cores sent).trans (ih t e)
  | case4 => exact fun _ e => nomatch e

theorem RingsOnly.devAppend {space : Option (Nat × Nat)} {p : Option Nat} {desc z : Nat} {words : List Nat}
    (e : s.devAppend space p desc z words = some t) : RingsOnly s t := by
  unfold State.devAppend at e
  split at e
  · cases e
  · split at e
    · cases e
    · split at e
      · cases e
      · next v hv => exact (RingsOnly.devWrite v hv).trans (RingsOnly.devWrite t e)

/-- A frame of a trace is appended, or waits, or is dropped. -/
theorem RingsOnly.appendTrace {a : DevAppend} (use : a.use = .trace) : RingsOnly s (s.deviceAppend a) := by
  unfold State.deviceAppend State.endAppend
  rw [use]
  split
  · exact .of_cores rfl
  · cases e : s.devAppend a.space a.part a.desc a.z a.words with
    | none => exact .refl
    | some t => exact RingsOnly.devAppend e

theorem RingsOnly.traceFlush (x key : Nat) : RingsOnly s (s.traceFlush x key) := by
  unfold State.traceFlush
  dsimp only
  split
  · exact .refl
  · exact (RingsOnly.of_cores rfl).trans (.appendTrace rfl)

theorem RingsOnly.traceRec (x key cls ty pay : Nat) : RingsOnly s (s.traceRec x key cls ty pay) := by
  have flush (b : Bool) : RingsOnly s (if b then s.traceFlush x key else s) := by
    cases b
    · exact .refl
    · exact .traceFlush _ _
  unfold State.traceRec
  extract_lets c src stale u c' src' w
  split
  · exact .refl
  · have noted : RingsOnly s w := (flush stale).trans (.of_cores rfl)
    split
    · exact noted.trans (.traceFlush _ _)
    · exact noted

end

/-! ### What lands before a command completes -/

/-- The engine but for its sticky flags and its limit, the semaphores and the pool are as they were. -/
structure SameEngine (c d : Core) : Prop where
  matrix : ({ d.matrix with flags := 0, mlim := 0 } : Matrix) = { c.matrix with flags := 0, mlim := 0 }
  sems : d.sems = c.sems
  pool : d.pool = c.pool

section
variable {s : State} {n : Nat} {c d e : Core}

theorem SameEngine.refl : SameEngine c c := ⟨rfl, rfl, rfl⟩

theorem SameEngine.trans (h : SameEngine c d) (g : SameEngine d e) : SameEngine c e :=
  ⟨g.matrix.trans h.matrix, g.sems.trans h.sems, g.pool.trans h.pool⟩

theorem SameEngine.putSr (v : W64) : SameEngine c (c.putSr n v) := by
  unfold Core.putSr
  split <;> exact ⟨rfl, rfl, rfl⟩

theorem SameEngine.landIf {f : Pending → Bool} (sr : ∀ p, f p = true → ∃ j m v, p = .sr j m v) {core : Nat} :
    SameEngine (s.core core) ((s.landIf f core n).core core) := by
  induction n generalizing s with
  | zero => exact .refl
  | succ n ih =>
    unfold State.landIf
    split
    · exact .refl
    · next i found =>
      obtain ⟨bound, holds, -⟩ := List.findIdx?_eq_some_iff_getElem.1 found
      obtain ⟨j, m, v, write⟩ := sr _ holds
      refine .trans ?_ ih
      unfold State.land
      simp only [List.getElem?_eq_getElem bound, write, State.core_setCore_same]
      exact .trans (d := { s.core core with pending := (s.core core).pending.eraseIdx i }) ⟨rfl, rfl, rfl⟩ (.putSr v)

theorem SameEngine.landReg {core : Nat} : SameEngine (s.core core) ((s.landReg core n).core core) := by
  unfold State.landReg
  split
  · exact .refl
  · refine .landIf fun p taken => ?_
    cases p with
    | sr j m v => exact ⟨j, m, v, rfl⟩
    | amon => exact nomatch taken

end

/-! ### The end of a command -/

section
variable {s : State} {k : Nat} {c : MCmd}

theorem Sem.signal_one {v : Sem} (room : v.value.toNat < 0xFFFF) : v.signal 1 = some { v with value := v.value + 1 } := by
  unfold Sem.signal
  rw [if_neg (by omega)]
  rfl

/-- A signal that finds room adds one to the semaphore where the command asks for it. -/
theorem signalCommand_core (room : c.ssen = true → ((s.core k).sem c.sems).value.toNat < 0xFFFF) :
    ∃ z, (s.signalCommand k c).core k = { s.core k with sems := z } ∧
      (tblGet {} z c.sems).value = if c.ssen then ((s.core k).sem c.sems).value + 1 else ((s.core k).sem c.sems).value := by
  unfold State.signalCommand
  cases asks : c.ssen with
  | false => exact ⟨(s.core k).sems, rfl, rfl⟩
  | true =>
    simp only [Bool.not_true, Bool.false_eq_true, if_false, Sem.signal_one (room asks), State.core_setCore_same, if_true]
    exact ⟨_, rfl, by rw [tblGet_tblPut_same]⟩

/-- A change of the engine that is traced. -/
theorem setMatrix_traceRec_core {m : Matrix} {x key cls ty pay : Nat} :
    ∃ r, ((s.setMatrix k m).traceRec x key cls ty pay).core k = { s.core k with matrix := m, rings := r } := by
  obtain ⟨r, e⟩ := RingsOnly.traceRec (s := s.setMatrix k m) x key cls ty pay k
  exact ⟨r, e.trans (by rw [State.setMatrix, State.core_setCore_same])⟩

theorem countCommand_core : ∃ r, (s.countCommand k c).core k =
    { s.core k with matrix := { (s.core k).matrix.remove c.num with done := (s.core k).matrix.done + 1 }, rings := r } :=
  setMatrix_traceRec_core

/-- A command that completes leaves the engine, counts as done and signals. -/
theorem finishCommand_core (untrapped : (s.core k).matrix.trap = none)
    (room : c.ssen = true → ((s.core k).sem c.sems).value.toNat < 0xFFFF) :
    let d := (s.finishCommand k c).core k
    ({ d.matrix with flags := 0, mlim := 0 } : Matrix) =
        { (s.core k).matrix.remove c.num with done := (s.core k).matrix.done + 1, flags := 0, mlim := 0 } ∧
      d.pool = (s.core k).pool ∧
      (d.sem c.sems).value = if c.ssen then ((s.core k).sem c.sems).value + 1 else ((s.core k).sem c.sems).value := by
  have same : SameEngine (s.core k) (((s.landReg k 0x080).landReg k 0x030).core k) := SameEngine.landReg.trans .landReg
  have sem : (((s.landReg k 0x080).landReg k 0x030).core k).sem c.sems = (s.core k).sem c.sems := by rw [Core.sem, Core.sem, same.sems]
  obtain ⟨z, signalled, value⟩ := signalCommand_core (s := (s.landReg k 0x080).landReg k 0x030) (k := k) (c := c) (by rwa [sem])
  have sound : ((((s.landReg k 0x080).landReg k 0x030).signalCommand k c).core k).matrix.trap = none := by
    rw [signalled]
    exact (congrArg Matrix.trap same.matrix).trans untrapped
  obtain ⟨r, counted⟩ := countCommand_core (k := k) (c := c)
    (s := (((s.landReg k 0x080).landReg k 0x030).signalCommand k c).setCore k
      (((((s.landReg k 0x080).landReg k 0x030).signalCommand k c).core k).gather c))
  have ends : s.finishCommand k c = ((((s.landReg k 0x080).landReg k 0x030).signalCommand k c).setCore k
      (((((s.landReg k 0x080).landReg k 0x030).signalCommand k c).core k).gather c)).countCommand k c := by
    unfold State.finishCommand
    simp only [sound, Option.isSome_none, Bool.false_eq_true, if_false]
  dsimp only
  rw [ends, counted, State.core_setCore_same, signalled]
  exact ⟨congrArg (fun m : Matrix => ({ m.remove c.num with done := m.done + 1 } : Matrix)) same.matrix, same.pool,
    value.trans (by rw [sem])⟩

/-! ### A unit of a command -/

/-- The core that an engine works on: its own stream X reads no bad data, and no reshape holds its accesses. -/
def Core.forEngine (w : Core) : Core := { w.setStream .X { w.stream .X with poisonDue := false } with reshape := none }

/-- The core after the engine's work, as its own core has it. -/
def Core.afterEngine (was w : Core) : Core :=
  { w.setStream .X { w.stream .X with poisonDue := (was.stream .X).poisonDue } with reshape := was.reshape }

theorem Core.afterEngine_forEngine (w : Core) (m : Matrix) : w.afterEngine { w.forEngine with matrix := m } = { w with matrix := m } := by
  cases w; rfl

theorem engineUnit_ok {s t : State} {k : Nat} {c d : MCmd}
    (unit : c.opUnit (({ s with curCore := k, curK := .X } : State).setCur (s.core k).forEngine) = .ok t d) :
    c.engineUnit k s = .ok { t.setCore k ((s.core k).afterEngine (t.core k)) with curCore := s.curCore, curK := s.curK }
      { d with poison := d.poison || (t.stream k .X).poisonDue } := by
  unfold MCmd.engineUnit
  extract_lets was st u v back
  split
  · next t' d' e =>
    obtain ⟨rfl, rfl⟩ := Res.ok.inj (e.symm.trans unit)
    rfl
  · next e => exact nomatch e.symm.trans unit
  · next other _ => exact absurd unit (other _ _)

/-! ### Commands that set a register of the epilogue, or nothing -/

/-- What an executing `mact`, `mmeta`, `mfmt` or `msem` leaves in the engine's registers. -/
def MCmd.configures (c : MCmd) (m : Matrix) : Matrix :=
  { m with
    act := if c.op = 0x87 then c.wa else m.act
    fmt := if c.op = 0x8C then c.wa.setWidth 4 else m.fmt
    metaRow := if c.op = 0x8B then c.wa.setWidth 13 else m.metaRow }

theorem opMatrix_setCur (f : Matrix → Matrix) (w : Core) : opMatrix f (s.setCur w) = .ok (s.setCur { w with matrix := f w.matrix }) 0 := by
  unfold opMatrix State.setMatrix
  rw [State.cur_setCur]
  simp only [State.setCur, State.setCore_curCore, State.core_setCore_same, State.setCore_setCore]

section
variable (op : c.op ∈ [0x87, 0x8B, 0x8C, 0x94])
include op

theorem MCmd.units_configures : c.units = 1 := by
  simp only [List.mem_cons, List.not_mem_nil, or_false] at op
  rcases op with op | op | op | op <;> simp [MCmd.units, MCmd.isProduct, MCmd.isConv, op]

theorem opUnit_configures (w : Core) :
    c.opUnit (s.setCur w) = .ok (s.setCur { w with matrix := c.configures w.matrix }) (c.step 0) := by
  simp only [List.mem_cons, List.not_mem_nil, or_false] at op
  rcases op with op | op | op | op <;>
    simp [MCmd.opUnit, MCmd.isProduct, MCmd.isConv, op, opMatrix_setCur, opBind, opPure, MCmd.configures]

theorem engineUnit_configures : c.engineUnit k s = .ok (s.setMatrix k (c.configures (s.core k).matrix)) (c.step 0) := by
  rw [engineUnit_ok (opUnit_configures op _)]
  simp only [State.setCur, State.stream, State.core_setCore_same, State.setCore_setCore]
  exact congrArg₂ Res.ok (congrArg (s.setCore k) (Core.afterEngine_forEngine _ _))
    (congrArg (fun b => ({ c.step 0 with poison := b } : MCmd)) (Bool.or_false _))

end

theorem putRows_nil (outs : c.outs = []) (pick : Nat → Bool) : s.putRows k c pick = (s, c, none) := by
  have : ({ c with outs := [] } : MCmd) = c := by rw [← outs]
  simp [State.putRows, outs, this]

theorem workCommand_configures (op : c.op ∈ [0x87, 0x8B, 0x8C, 0x94]) (outs : c.outs = []) (begun : c.progress = 0) :
    s.workCommand k c c.units =
      (s.setMatrix k ((c.configures ((s.core k).matrix.put c)).put (c.step 0))).finishCommand k (c.step 0) := by
  have units := c.units_configures op
  have units1 : (c.step 0).units = 1 := units
  have unit (v : State) : v.runUnits k 1 1 c = (v.setMatrix k (c.configures (v.core k).matrix), c.step 0, none) := by
    have one : ¬ 1 ≤ c.progress := by omega
    simp only [State.runUnits, one, if_false, State.runUnit, engineUnit_configures op, putRows_nil (c := c.step 0) outs]
  unfold State.workCommand
  simp only [putRows_nil outs, State.keepCommand, units, begun, Nat.min_self, Nat.sub_zero, unit]
  simp only [State.setMatrix, State.core_setCore_same, State.setCore_setCore, units1]
  rw [if_pos (show 1 ≤ (c.step 0).progress by simp [MCmd.step])]

theorem engineRuns_untrapped (runs : s.engineRuns k = true) : (s.core k).matrix.trap = none := by
  unfold State.engineRuns at runs
  split at runs
  · cases runs
  · simp only [Bool.and_eq_true, Option.isNone_iff_eq_none] at runs
    exact runs.1.1

/-- An executing `mact`, `mmeta`, `mfmt` or `msem` completes. -/
theorem complete_configures (running : (s.core k).matrix.running = some c) (op : c.op ∈ [0x87, 0x8B, 0x8C, 0x94]) (begun : c.progress = 0)
    (outs : c.outs = []) (untrapped : (s.core k).matrix.trap = none)
    (room : c.ssen = true → ((s.core k).sem c.sems).value.toNat < 0xFFFF) :
    let e := (s.core k).matrix
    let d := (s.workCommand k c c.units).core k
    d.matrix.running = none ∧ d.matrix.done = e.done + 1 ∧ d.matrix.queue = e.queue ∧
      d.matrix.act = (if c.op = 0x87 then c.wa else e.act) ∧ d.matrix.fmt = (if c.op = 0x8C then c.wa.setWidth 4 else e.fmt) ∧
      d.matrix.metaRow = (if c.op = 0x8B then c.wa.setWidth 13 else e.metaRow) ∧
      (d.sem c.sems).value = (if c.ssen then ((s.core k).sem c.sems).value + 1 else ((s.core k).sem c.sems).value) ∧
      d.pool = (s.core k).pool := by
  intro e d
  have worked := workCommand_configures (s := s) (k := k) op outs begun
  obtain ⟨engine, pool, value⟩ := finishCommand_core (k := k) (c := c.step 0)
    (s := s.setMatrix k ((c.configures (e.put c)).put (c.step 0)))
    (by rw [State.setMatrix, State.core_setCore_same]; exact untrapped) (by rw [State.setMatrix, State.core_setCore_same]; exact room)
  rw [← worked, State.setMatrix, State.core_setCore_same] at engine pool value
  have removed : (((c.configures (e.put c)).put (c.step 0)).remove c.num).running = none := by
    simp [Matrix.remove, Matrix.put, MCmd.configures, MCmd.step, e, running]
  exact ⟨(congrArg Matrix.running engine).trans removed, congrArg Matrix.done engine, (congrArg Matrix.queue engine).trans rfl, congrArg Matrix.act engine,
    congrArg Matrix.fmt engine, congrArg Matrix.metaRow engine, value, pool⟩

end

/-! ### The head of the queue -/

section
variable {s : State} {k : Nat} {c : MCmd} {rest : List MCmd}

/-- The head of the queue moves into execution. -/
theorem startCommand_core (head : (s.core k).matrix.queue = c :: rest) (d : MCmd) : ∃ r, (s.startCommand k d).core k =
    { s.core k with
      matrix := { (s.core k).matrix with
        queue := rest, running := if d.isLoad then (s.core k).matrix.running else some d
        weights := if d.isLoad then (s.core k).matrix.weights ++ [d] else (s.core k).matrix.weights }
      rings := r } := by
  unfold State.startCommand
  simp only [head, List.drop_one, List.tail_cons]
  cases d.isLoad <;> exact setMatrix_traceRec_core

/-- A take of one from a semaphore without waiters. -/
theorem Sem.take_free {v : Sem} {w : SemWaiter} {now : Nat} (free : v.waiters = []) (positive : 0 < v.value.toNat) :
    v.take w 1 now = ({ value := v.value - 1, waiters := [] }, true) := by
  have enough : 1 ≤ v.value.toNat := positive
  simp [Sem.take, Sem.join, Sem.hasWaiter, free, enough]

/-- A take of one from a semaphore at zero waits. -/
theorem Sem.take_zero {v : Sem} {w : SemWaiter} {now : Nat} (zero : v.value = 0) : (v.take w 1 now).2 = false := by
  have joined : (v.join w now).value = 0 := by
    unfold Sem.join
    split <;> exact zero
  unfold Sem.take
  dsimp only
  split
  · simp [joined]
  · rfl

section
variable (head : (s.core s.ev.core).matrix.queue = c :: rest) (runs : s.engineRuns s.ev.core = true)
  (may : (s.core s.ev.core).matrix.mayStart c = true)
include head runs may

theorem matrixCommandStart_untaken (free : c.swen = false ∨ c.semTaken = true) :
    exec .matrixCommandStart s = .next (s.startCommand s.ev.core c) := by
  have taken : (c.swen && !c.semTaken) = false := by rcases free with h | h <;> simp [h]
  simp [exec, execMatrixCommandStart, head, runs, may, taken]

variable (asks : c.swen = true) (untaken : c.semTaken = false)
include asks untaken

/-- The state in which the head of the queue has asked for its semaphore. -/
def State.asked (s : State) (core : Nat) (v : Sem) (c : MCmd) (rest : List MCmd) : State :=
  s.setCore core { (s.core core).setSem c.semw v with matrix := { (s.core core).matrix with queue := c :: rest } }

theorem matrixCommandStart_takes {v : Sem}
    (takes : ((s.core s.ev.core).sem c.semw).take (.matrix s.ev.core) 1 (s.cyclesOf s.ev.core) = (v, true)) :
    exec .matrixCommandStart s =
      .next ((s.asked s.ev.core v { c with semTaken := true } rest).startCommand s.ev.core { c with semTaken := true }) := by
  simp [exec, execMatrixCommandStart, head, runs, may, asks, untaken, takes, State.asked]

theorem matrixCommandStart_waits (fails : (((s.core s.ev.core).sem c.semw).take (.matrix s.ev.core) 1 (s.cyclesOf s.ev.core)).2 = false) :
    ∃ v d, exec .matrixCommandStart s = .next (s.asked s.ev.core v d rest) := by
  refine ⟨(((s.core s.ev.core).sem c.semw).take (.matrix s.ev.core) 1 (s.cyclesOf s.ev.core)).1,
    { c with waitSince := some (c.waitSince.getD (s.cyclesOf s.ev.core, (s.core s.ev.core).matrix.mlim.toNat)) }, ?_⟩
  simp [exec, execMatrixCommandStart, head, runs, may, asks, untaken, fails, State.asked]

end

theorem matrixSemExpired_traps {since lim : Nat} (head : (s.core s.ev.core).matrix.queue = c :: rest)
    (waits : c.waitSince = some (since, lim)) (runs : s.engineRuns s.ev.core = true) (limited : lim ≠ 0)
    (late : lim < s.cyclesOf s.ev.core - since) :
    exec .matrixSemExpired s =
      .next (s.engineTrap s.ev.core c { code := .matrixSemExpired, faddr := BitVec.ofNat 64 c.semw }) := by
  simp [exec, execMatrixSemExpired, head, waits, runs, limited, late, w64]

/-- The state in which the engine has stopped with a trap. -/
def State.trapped (s : State) (core : Nat) (c : MCmd) (tr : Trap) : State :=
  (s.leaveMatrixSems core).setMatrix core { ((s.leaveMatrixSems core).core core).matrix with trap := some tr, trapNum := c.num }

/-- A trap of the engine of an ordinary slice reaches the halt line. -/
theorem engineTrap_ordinary {tr : Trap} {v : Slice} (plain : tr.code ≠ .poolRole) (bound : s.sliceOf k = some v)
    (ordinary : v.handler = false) : s.engineTrap k c tr = (s.trapped k c tr).raiseHalt v.ctx (.matrix k) tr := by
  have slice : (s.trapped k c tr).sliceOf k = some v := by
    simp only [State.trapped, State.leaveMatrixSems, State.setMatrix, State.sliceOf, State.core_setCore_same]
    exact bound
  have ctx : (s.trapped k c tr).ctxOf k = v.ctx := by rw [State.ctxOf, slice]
  unfold State.trapped at slice ctx
  simp [State.engineTrap, State.trapped, plain, slice, ctx, ordinary]

theorem trapped_core {tr : Trap} :
    ((s.trapped k c tr).core k).matrix = { (s.core k).matrix with trap := some tr, trapNum := c.num } := by
  simp only [State.trapped, State.leaveMatrixSems, State.setMatrix, State.core_setCore_same]

theorem raiseHalt_first {x : Nat} {by' : CauseBy} {tr : Trap} (unhalted : (s.ctx x).halt = none) : s.raiseHalt x by' tr =
    s.setCtx x { s.ctx x with halt := some s.time, haltAt := tblMap s.clusters Cluster.cycles, cause := some (by', tr) } := by
  simp [State.raiseHalt, unhalted]

end

/-! ### A head that waits in its effect -/

section
variable {h : Head} {f : Form} {pc : PcWord} {s : State} {kind : WaitKind} {limit : Nat}

theorem waiting_of_not_token {c : Core} {k : StreamId} {w : Waiting} (waits : (c.stream k).wait = some w) (token : w.kind.isToken = false) :
    c.waiting k = some w := by
  unfold Core.waiting
  rw [waits]
  obtain ⟨kind, since, limit⟩ := w
  cases kind with
  | token => cases token
  | _ => rfl

/-- A stream that has no wait class takes one, which is not traced. -/
theorem setClass_begins {u : State} {st : Stream} (cls : st.cls = 0) (n : Nat) :
    ∃ a b, (u.setSt st).setClass n = u.setSt { st with cls := a, clsSince := b } := by
  have now : (u.setSt st).stream (u.setSt st).curCore (u.setSt st).curK = st := u.st_setSt st
  unfold State.setClass State.setClassOf
  split
  · exact ⟨st.cls, st.clsSince, rfl⟩
  · rw [show (u.setSt st).traceWaitOf _ _ = u.setSt st from (u.setSt st).traceWait_none (by rw [State.st_setSt, cls])]
    dsimp only
    rw [now]
    exact ⟨n, _, u.setSt_setSt _ _⟩

/-- A head that did not wait begins a wait in this cycle; of its record only the wait and its class change. -/
theorem waitHead_begins {u : State} (free : u.st.wait = none) (cls : u.st.cls = 0) (token : kind.isToken = false) :
    ∃ st, u.waitHead kind limit = u.setSt st ∧ st.wait = some { kind := kind, since := u.cyc, limit := limit } ∧
      streamRest st = streamRest u.st ∧ st.pc = u.st.pc ∧ st.rc = u.st.rc ∧ st.x = u.st.x ∧ st.popped = u.st.popped := by
  obtain ⟨a, b, e⟩ := setClass_begins (u := u) (st := { u.st with wait := some { kind := kind, since := u.cyc, limit := limit } }) cls
    ((u.setSt { u.st with wait := some { kind := kind, since := u.cyc, limit := limit } }).cur.waitClass u.curCore kind)
  refine ⟨{ u.st with wait := some { kind := kind, since := u.cyc, limit := limit }, cls := a, clsSince := b }, ?_, rfl, rfl, rfl, rfl, rfl, rfl⟩
  have now : (u.setSt { u.st with wait := some { kind := kind, since := u.cyc, limit := limit } }).cur.waiting u.curK =
      some { kind := kind, since := u.cyc, limit := limit } := waiting_of_not_token (by simp) token
  have early {st : Stream} : (u.setSt st).expired u.curCore { kind := kind, since := u.cyc, limit := limit } = false := by
    have : (u.setSt st).cyclesOf u.curCore = u.cyc := rfl
    simp [State.expired, this]
  simp only [State.waitHead, free, State.setSt_curK, State.setSt_curCore, now, Option.getD_some, e, early, Bool.false_eq_true, if_false]

theorem count_tokBit (h : Head) (b n q : Nat) (o : Option Nat) :
    (if o = some q then (if h.tok.getLsbD b then n else 0) else 0) = n * (tokBit h b o).count q := by
  unfold tokBit
  cases h.tok.getLsbD b with
  | false => simp
  | true =>
    cases o with
    | none => simp
    | some p => by_cases e : p = q <;> simp [e]

/-- The tokens that an issued head has popped stand in its record. -/
theorem tokens_issued (r : CanIssue h f.n pc s) (q : Nat) :
    (s.issued h f).cur.tokens q + taken (s.issued h f) q = s.cur.tokens q + taken s q := by
  obtain ⟨t, keys, e⟩ := s.issued_eq h f
  have left : (s.issued h f).cur.tokens q = ((popQueues s.curK h).foldl (fun c q => c.takeTokens q f.n) s.cur).tokens q := by
    simp [State.issued, State.issueHead, State.setSt, Core.tokens]
  have enough : ∀ q ∈ popQueues s.curK h, f.n ≤ s.cur.tokens q := fun q m => by
    simpa using List.filter_eq_nil_iff.1 r.pops q m
  have popped : (s.issued h f).st.popped = (if h.tok.getLsbD 3 then f.n else 0, if h.tok.getLsbD 2 then f.n else 0) := by
    rw [e, State.st_setSt]
  have held : taken (s.issued h f) q = f.n * (popQueues s.curK h).count q := by
    rw [taken, popped, State.issued_curK, count_tokBit, count_tokBit, ← Nat.mul_add, ← List.count_append]
    rfl
  have none' : taken s q = 0 := by simp [taken, r.waiting]
  rw [left, held, none', Nat.add_zero]
  exact tokens_take _ _ _ _ (popQueues_nodup _ _) enough

/-- An instruction whose effect waits at once has issued and waits. -/
theorem waits {i : Instr} {eff : Op Flow} (run : exec i s = runTok h f eff s) (r : CanIssue h f.n pc s)
    (g : f.lanes = true ∨ s.guardBit h = true) (k : f.kind ≠ .pool) (token : kind.isToken = false)
    (e : eff (s.issued h f) = .wait (s.issued h f) kind limit) : Waits i kind limit s := by
  obtain ⟨t, keys, issued⟩ := s.issued_eq h f
  obtain ⟨rest0, x0, rc0, -, cls0, -⟩ := s.issued_st h f
  obtain ⟨core, others⟩ := s.issued_core h k
  obtain ⟨st, begins, wait, rest, pc, rc, x, popped⟩ := waitHead_begins (u := s.issued h f) (kind := kind) (limit := limit)
    (by rw [issued, State.st_setSt]) (by rw [cls0, r.free.2]) token
  have finish : (s.issueHead h f).finishHead h f eff = (s.issued h f).setSt st := by
    unfold State.finishHead
    rw [show Op.attempt eff (s.issueHead h f) = .wait (s.issued h f) kind limit from e]
    exact begins
  have dev : ({ (s.issued h f).setSt st with cores := [] } : State) = { s with cores := [] } := s.issued_dev h f
  have own : ((s.issued h f).setSt st).core s.curCore = (s.issued h f).cur.setStream s.curK st := State.cur_setSt _ _
  obtain ⟨-, mem⟩ := regs_mem_same (s := s) (t := (s.issued h f).setSt st) (by rw [State.st_setSt, x, x0]) dev
  refine ⟨_, run.trans (runTok_ready r eff g), ?_⟩
  rw [finish]
  refine ⟨rfl, rfl, ?_, ?_, ?_, fun q => ?_, mem, fun q => ?_, ⟨dev, fun d other => ?_, ?_, ?_⟩⟩
  · rw [State.st_setSt, wait]; rfl
  · rw [State.st_setSt, pc, issued, State.st_setSt]
  · rw [State.st_setSt, rc, rc0]
  · simp only [State.rx, Stream.reg, State.st_setSt, x, x0]
  · have held : taken ((s.issued h f).setSt st) q = taken (s.issued h f) q := by
      unfold taken
      rw [State.st_setSt, popped]
      rfl
    rw [← tokens_issued r q, held, State.cur_setSt, Core.tokens, Core.setStream_tokq]
    rfl
  · exact (State.core_setSt_other (s.issued h f) st other).trans (others d other)
  · exact (congrArg (coreRest s.curK) own).trans ((coreRest_setStream _ _ _).trans core)
  · rw [State.stream, own, Core.stream_setStream_same]
    exact rest.trans rest0

end

/-! ### `msync` and `mabort` -/

section
variable {h : Head} {pc : PcWord} {s : State}

/-- The form of an instruction that retires at its issue. -/
def nowForm : Form := { now := true }

theorem runNow_eq (eff : Op Flow) : runNow h eff s = runTok h nowForm eff s := rfl

theorem issued_matrix {f : Form} : (s.issued h f).cur.matrix = s.cur.matrix := by
  obtain ⟨t, keys, e⟩ := s.issued_eq h f
  rw [e]
  simp

theorem issued_capt {f : Form} : (s.issued h f).st.capt = s.st.capt := by
  obtain ⟨t, keys, e⟩ := s.issued_eq h f
  rw [e, State.st_setSt]

theorem issued_tlim {f : Form} : (s.issued h f).st.tlim = s.st.tlim := by
  obtain ⟨t, keys, e⟩ := s.issued_eq h f
  rw [e, State.st_setSt]

theorem issued_setCur {f : Form} : (s.issued h f).setCur (s.issued h f).cur = s.issued h f := by
  obtain ⟨t, keys, e⟩ := s.issued_eq h f
  rw [e]
  simp [State.setSt]

theorem msync_completes (r : CanIssue h 1 pc s) (g : s.guardBit h = true) (empty : s.cur.matrix.qlen = 0) :
    Completes (.msync h) h 1 pc s fun t => Kept id id id s t ∧ RegsBut 0 s t ∧ MemSame s t := by
  have finished : effMsync (s.issued h nowForm) = .ok ((s.issued h nowForm).setCur (s.issued h nowForm).cur) .next := by
    simp only [effMsync, issued_matrix, empty, if_true, issued_setCur]
  obtain ⟨t, step, ret, -, -, kept⟩ := completes_kept (onCore := id) (onStream := id) (i := .msync h) (runNow_eq effMsync) r (.inr g) rfl
    (.inl rfl) finished rfl rfl ⟨rfl, rfl, rfl, rfl, rfl, rfl⟩ rfl rfl
  exact ⟨t, step, ret, kept⟩

theorem msync_waits (r : CanIssue h 1 pc s) (g : s.guardBit h = true) (busy : 0 < s.cur.matrix.qlen) :
    Waits (.msync h) .matrixDone s.st.tlim.toNat s := by
  refine waits (f := nowForm) (runNow_eq effMsync) r (.inr g) (by decide) rfl ?_
  simp only [effMsync, issued_matrix, issued_tlim, busy.ne', if_false]

/-- The engine of a core whose commands have not started, once `mabort` has discarded them. -/
def Matrix.emptied (m : Matrix) : Matrix :=
  { m with queue := [], aborted := BitVec.ofNat 8 (min 255 (m.aborted.toNat + m.queue.length)), metaNext := m.metaRow }

/-- The core after `mabort`. -/
def Core.aborted (c : Core) (core : Nat) : Core :=
  { c with
    sems := tblMap c.sems fun v => { v with waiters := v.waiters.filter fun e => e.1 != .matrix core }
    matrix := c.matrix.emptied }

theorem abortMatrix_setCore {u : State} {k : Nat} (idle : (u.core k).matrix.running = none) :
    u.abortMatrix k = u.setCore k ((u.core k).aborted k) := by
  simp only [State.abortMatrix, State.leaveMatrixSems, State.setMatrix, State.core_setCore_same, State.setCore_setCore, Core.aborted]
  congr 2
  simp [Matrix.renumber, Matrix.emptied, idle]

theorem mabort_completes (r : CanIssue h 1 pc s) (g : s.guardBit h = true) (idle : s.cur.matrix.running = none)
    (still : s.cur.matrix.weights = []) :
    Completes (.mabort h) h 1 pc s fun t =>
      t.cur.matrix = { s.cur.matrix with
          queue := [], aborted := BitVec.ofNat 8 (min 255 (s.cur.matrix.aborted.toNat + s.cur.matrix.queue.length))
          metaNext := s.cur.matrix.metaRow } ∧
        Kept id (fun k => { k with matrix := {}, sems := [] }) id s t ∧ RegsBut 0 s t ∧ MemSame s t := by
  obtain ⟨-, -, fresh, -⟩ := r.untaken
  have capt : (s.issued h nowForm).st.capt = none := issued_capt.trans fresh
  have emptied : ((s.issued h nowForm).cur.aborted s.curCore).matrix.qlen = 0 := by
    simp [Core.aborted, Matrix.emptied, Matrix.qlen, issued_matrix, idle, still]
  have finished : effMabort (s.issued h nowForm) = .ok ((s.issued h nowForm).setCur
      (((s.issued h nowForm).cur.aborted s.curCore).setStream s.curK { (s.issued h nowForm).st with capt := some 0 })) .next := by
    have discards : (s.issued h nowForm).abortMatrix s.curCore = (s.issued h nowForm).setCur ((s.issued h nowForm).cur.aborted s.curCore) :=
      abortMatrix_setCore ((congrArg Matrix.running issued_matrix).trans idle)
    have same : ((s.issued h nowForm).setCur ((s.issued h nowForm).cur.aborted s.curCore)).st = (s.issued h nowForm).st := by
      rw [State.st_setCur, State.issued_curK]
      unfold State.st
      rw [State.issued_curK]
      cases s.curK <;> rfl
    simp only [effMabort, capt, State.issued_curCore, discards, same, State.setSt_setCur, State.issued_curK, effMsync, State.cur_setCur,
      Core.setStream_matrix, emptied, if_true]
  obtain ⟨t, step, ret, core, -, kept⟩ := completes_kept (onCore := fun k => { k with matrix := {}, sems := [] }) (onStream := id)
    (i := .mabort h) (runNow_eq effMabort) r (.inr g) rfl (.inl rfl) finished (Core.setStream_tokq _ _ _) (Core.setStream_pending _ _ _)
    (by rw [Core.stream_setStream_same]; exact ⟨rfl, rfl, rfl, rfl, rfl, rfl⟩) (by rw [coreRest_setStream]; cases s.curK <;> rfl)
    (by rw [Core.stream_setStream_same]; rfl)
  refine ⟨t, step, ret, ?_, kept⟩
  have matrix {c : Core} : (coreRest s.curK c).matrix = c.matrix := Core.setStream_matrix _ _ _
  rw [← matrix, core, matrix, Core.setStream_matrix, Core.aborted, issued_matrix]
  rfl

end

/-- Settles O19: the events act on the engine of their core as stated, and `msync` and `mabort` look at the commands that have not
completed. -/
theorem matrixEngineStartsCompletesAndExpires : Obligations.MatrixEngineStartsCompletesAndExpires := by
  refine ⟨fun s c rest head runs may => ⟨fun free => ?_, fun asks untaken unwaited positive => ?_, fun asks untaken zero => ?_⟩,
    fun s c running num whole begun outs runs op room => ?_,
    fun s c rest since lim v head waits runs limited late bound ordinary unhalted => ?_,
    fun h pc s r g fresh => ⟨msync_completes r g, msync_waits r g, mabort_completes r g⟩⟩
  · obtain ⟨w, started⟩ := startCommand_core head c
    exact ⟨_, matrixCommandStart_untaken head runs may free, by rw [started]⟩
  · have asked : ((s.asked s.ev.core { value := ((s.core s.ev.core).sem c.semw).value - 1, waiters := [] }
        { c with semTaken := true } rest).core s.ev.core).matrix.queue = { c with semTaken := true } :: rest := by rw [State.asked, State.core_setCore_same]
    obtain ⟨w, started⟩ := startCommand_core asked { c with semTaken := true }
    refine ⟨_, matrixCommandStart_takes head runs may asks untaken (Sem.take_free unwaited positive), by rw [started], ?_⟩
    rw [started, State.asked, State.core_setCore_same]
    exact congrArg Sem.value (tblGet_tblPut_same _ _ _ _)
  · obtain ⟨v, d, e⟩ := matrixCommandStart_waits head runs may asks untaken (Sem.take_zero zero)
    refine ⟨_, e, ?_⟩
    rw [State.asked, State.core_setCore_same]
    exact ⟨rfl, rfl⟩
  · refine ⟨_, ?_, complete_configures running op begun outs (engineRuns_untrapped runs) room⟩
    have executing : (s.core s.ev.core).matrix.executing s.ev.n = some c := by simp [Matrix.executing, running, num]
    simp [exec, execMatrixCommandComplete, executing, runs, whole]
  · refine ⟨_, matrixSemExpired_traps head waits runs limited late, ?_⟩
    rw [engineTrap_ordinary (by simp) bound ordinary, raiseHalt_first (s := s.trapped _ _ _) unhalted]
    refine ⟨congrArg Matrix.trap trapped_core, congrArg Matrix.trapNum trapped_core, ?_, ?_⟩
    · exact (congrArg Ctx.halt (State.ctx_setCtx_same _ _ _)).trans rfl
    · exact congrArg Ctx.cause (State.ctx_setCtx_same _ _ _)

end Sys2Proof.Machine
end

section
/-! SUPPORT for O48. A write at a home, and an append of the device, leave of the device what `State.standing` reads; the end of slices leaves
what `State.ending` reads, but for the mode of the context that ends and its queues and slices (R293, R306). -/

namespace Sys2Proof.Machine
open Sys2Proof.Safety

/-! ### What a write at a home leaves -/

/-- The parts of the device that the statements of a package failure read. -/
structure Standing where
  mode : Nat → CtxMode
  live : Nat → Bool
  clusters : Nat → Cluster
  queues : Tbl Queue
  slices : Tbl Slice
  control : Control
  time : Nat
  ev : EvArgs
  pack : Pack
  held : List DevAppend

def State.standing (s : State) : Standing where
  mode x := (s.ctx x).mode
  live x := (s.ctx x).live
  clusters i := offSlices (s.cluster i)
  queues := s.queues
  slices := s.slices
  control := s.control
  time := s.time
  ev := s.ev
  pack := s.pack
  held := s.heldAppends

/-- The same without what the end of a slice changes: the current on its way back, and the appends that wait. -/
def State.ending (s : State) : Standing := { s.standing with pack := offCurrent s.pack, held := [] }

/-- What a read of a table finds is not changed by a map over the entries that keeps it. -/
theorem tblGet_tblMap_kept {α β : Type} {d : α} {f : α → α} {g : α → β} (kept : ∀ a, g (f a) = g a) (t : Tbl α) (k : Nat) :
    g (tblGet d (tblMap t f) k) = g (tblGet d t k) := by
  unfold tblMap
  induction t with
  | nil => rfl
  | cons e t ih =>
    simp only [List.map_cons, tblGet]
    split
    · exact kept _
    · exact ih

theorem mem_of_tblFind {α : Type} {t : Tbl α} {k : Nat} {v : α} (h : tblFind t k = some v) : (k, v) ∈ t := by
  fun_induction tblFind t k with
  | case1 => cases h
  | case2 => cases h; exact List.mem_cons_self
  | case3 j w rest k _ ih => exact List.mem_cons_of_mem _ (ih h)

theorem tblDel_of_tblFind_none {α : Type} {t : Tbl α} {k : Nat} (h : tblFind t k = none) : tblDel t k = t := by
  refine List.filter_eq_self.2 fun e listed => ?_
  fun_induction tblFind t k with
  | case1 => cases listed
  | case2 => cases h
  | case3 j w rest k other ih =>
    rcases List.mem_cons.1 listed with rfl | listed
    · exact decide_eq_true other
    · exact ih h listed

/-- A fold keeps what each of its steps keeps. -/
theorem foldl_kept {α β : Type} {f : State → β} {step : State → α → State} (kept : ∀ u a, f (step u a) = f u) (l : List α) (s : State) :
    f (l.foldl step s) = f s := by
  induction l generalizing s with
  | nil => rfl
  | cons a l ih => exact (ih _).trans (kept s a)

section
variable (s : State) (n x core row : Nat) (p : Option Nat)

theorem State.ending_of_standing {s t : State} (h : t.standing = s.standing) : t.ending = s.ending :=
  congrArg (fun v : Standing => { v with pack := offCurrent v.pack, held := [] }) h

@[simp] theorem State.standing_setCore (c : Core) : (s.setCore n c).standing = s.standing := rfl

theorem State.standing_setCluster {c : Cluster} (same : offSlices c = offSlices (s.cluster n)) :
    (s.setCluster n c).standing = s.standing := by
  have all (i : Nat) : offSlices ((s.setCluster n c).cluster i) = offSlices (s.cluster i) := by
    by_cases h : i = n
    · subst h; rw [State.cluster_setCluster_same, same]
    · exact congrArg offSlices (tblGet_tblSet_other _ _ _ h)
  unfold State.standing
  rw [Standing.mk.injEq]
  exact ⟨rfl, rfl, funext all, rfl, rfl, rfl, rfl, rfl, rfl, rfl⟩

theorem State.standing_setCtx {c : Ctx} (mode : c.mode = (s.ctx x).mode) (live : c.live = (s.ctx x).live) :
    (s.setCtx x c).standing = s.standing := by
  have all {β : Type} {g : Ctx → β} (same : g c = g (s.ctx x)) (y : Nat) : g ((s.setCtx x c).ctx y) = g (s.ctx y) := by
    by_cases h : y = x
    · subst h; rw [State.ctx_setCtx_same, same]
    · rw [State.ctx_setCtx_other _ _ h]
  unfold State.standing
  rw [Standing.mk.injEq]
  exact ⟨funext (all mode), funext (all live), rfl, rfl, rfl, rfl, rfl, rfl, rfl, rfl⟩

theorem State.standing_of_maps {s t : State} {f : Ctx → Ctx} {g : Cluster → Cluster} (ctxs : t.ctxs = tblMap s.ctxs f)
    (clusters : t.clusters = tblMap s.clusters g) (mode : ∀ c, (f c).mode = c.mode) (live : ∀ c, (f c).live = c.live)
    (kept : ∀ c, offSlices (g c) = offSlices c)
    (rest : (t.queues, t.slices, t.control, t.time, t.ev, t.pack, t.heldAppends) =
      (s.queues, s.slices, s.control, s.time, s.ev, s.pack, s.heldAppends)) :
    t.standing = s.standing := by
  simp only [Prod.mk.injEq] at rest
  simp only [State.standing, Standing.mk.injEq, rest, and_true]
  simp only [State.ctx, State.cluster, ctxs, clusters]
  exact ⟨funext fun x => tblGet_tblMap_kept mode s.ctxs x, funext fun x => tblGet_tblMap_kept live s.ctxs x,
    funext fun i => tblGet_tblMap_kept kept s.clusters i⟩

@[simp] theorem State.standing_monitorEvent (ev : Nat) : (s.monitorEvent p row ev).standing = s.standing := by
  unfold State.monitorEvent
  extract_lets one hit
  refine State.standing_of_maps (f := id) (g := fun c => { c with monitors := c.monitors.map hit }) (List.map_id _).symm rfl ?_ ?_ ?_ rfl <;>
    exact fun _ => rfl

@[simp] theorem State.standing_frameWritten (frame : Nat) : (s.frameWritten frame).standing = s.standing := by
  unfold State.frameWritten
  extract_lets mark drop
  refine State.standing_of_maps (f := fun c => { c with scans := c.scans.map mark }) (g := fun c => { c with groups := c.groups.map drop })
    rfl rfl ?_ ?_ ?_ rfl <;> exact fun _ => rfl

@[simp] theorem State.standing_l2Evict (d key : Nat) : (s.l2Evict d key).standing = s.standing := by
  unfold State.l2Evict
  dsimp only
  split
  · exact s.standing_monitorEvent _ _ _
  · split
    · exact s.standing_monitorEvent _ _ _
    · split <;> exact s.standing_monitorEvent _ _ _

@[simp] theorem State.standing_l2Room (d : Nat) : (s.l2Room d).standing = s.standing := by
  unfold State.l2Room
  dsimp only
  split
  · rfl
  · split
    · exact State.standing_l2Evict _ _ _
    · rfl

@[simp] theorem State.standing_homePut (v mask : Nat) : (s.homePut p row v mask).standing = s.standing := by
  unfold State.homePut
  split
  · rfl
  · extract_lets d inL2 full key room die stored fresh
    have roomed : room.standing = s.standing := by
      unfold room
      split
      · rfl
      · exact s.standing_l2Room d
    have written : stored.standing = s.standing := by
      unfold stored
      split
      · exact roomed
      · rfl
    have whole : fresh.standing = s.standing := by
      unfold fresh
      split <;> exact written
    rw [State.standing_monitorEvent, State.standing_frameWritten, whole]

theorem State.standing_spoilSpills (own : Option (Nat × Nat)) (mask : Nat) : (s.spoilSpills own row mask).standing = s.standing :=
  foldl_kept (fun u _ => foldl_kept (fun u _ => by split <;> rfl) _ u) _ s

@[simp] theorem State.standing_homeWrite (v mask : Nat) : (s.homeWrite p row v mask).standing = s.standing := by
  unfold State.homeWrite
  split
  · rfl
  · rw [State.standing_spoilSpills, State.standing_homePut]

@[simp] theorem State.standing_homeStore (pa len v : Nat) : (s.homeStore p pa len v).standing = s.standing := s.standing_homeWrite _ _ _ _

theorem State.standing_homeAtomic (pa op v cmp old : Nat) : (s.homeAtomic p pa n op v cmp old).standing = s.standing := by
  unfold State.homeAtomic
  split
  · exact s.standing_homeStore _ _ _ _
  · rfl

theorem State.standing_wayClean : (s.wayClean core row).standing = s.standing := by
  unfold State.wayClean
  split
  · rfl
  · dsimp only
    rw [State.standing_setCore]
    split <;> exact s.standing_homeWrite _ _ _ _

/-! ### What an append of the device leaves -/

theorem State.standing_send (peer : Bool) (o : PortOp) : (s.send peer o).standing = s.standing := by
  unfold State.send
  split <;> rfl

theorem State.standing_devWrite {s : State} {space : Option (Nat × Nat)} {p : Option Nat} {a : Nat} {words : List Nat} :
    ∀ t, s.devWrite space p a words = some t → t.standing = s.standing := by
  fun_induction State.devWrite s space p a words with
  | case1 => rintro t ⟨⟩; rfl
  | case2 s a w rest pa _ ih => exact fun t e => (ih t e).trans (s.standing_homeStore _ _ _ _)
  | case3 s a w rest peer bus _ ih => exact fun t e => (ih t e).trans (s.standing_send _ _)
  | case4 => exact fun _ e => nomatch e

theorem State.standing_devAppend {s t : State} {space : Option (Nat × Nat)} {p : Option Nat} {desc z : Nat} {words : List Nat}
    (e : s.devAppend space p desc z words = some t) : t.standing = s.standing := by
  unfold State.devAppend at e
  split at e
  · cases e
  · split at e
    · cases e
    · split at e
      · cases e
      · next v hv => exact (State.standing_devWrite t e).trans (State.standing_devWrite v hv)

theorem State.standing_notify (vec v : Nat) : (s.notify n vec v).standing = s.standing := by
  unfold State.notify
  dsimp only
  split <;> rfl

/-- An append that is made, or dropped, changes of these parts at most the package's count of lost events. -/
theorem State.standing_endAppend {a : DevAppend} (use : a.use ≠ .event) : (s.endAppend a).standing = s.standing := by
  unfold State.endAppend
  split
  · next e =>
    split
    · rfl
    · exact State.standing_devAppend e
  · next e => exact (State.standing_notify _ _ _ _).trans (State.standing_devAppend e)
  · rfl
  · exact absurd ‹a.use = .event› use
  · exact absurd ‹a.use = .event› use
  · next e => exact State.standing_devAppend e
  · rfl
  · exact s.standing_setCtx _ rfl rfl
  · next e => exact State.standing_devAppend e
  · exact (State.standing_homeStore _ _ _ _ _).trans (s.standing_setCtx _ rfl rfl)

theorem State.ending_deviceAppend {a : DevAppend} (use : a.use ≠ .event) : (s.deviceAppend a).ending = s.ending := by
  unfold State.deviceAppend
  split
  · rfl
  · exact State.ending_of_standing (s.standing_endAppend use)

theorem State.ending_poisonRecord (stream va pa : Nat) : (s.poisonRecord x core stream va pa).ending = s.ending := by
  unfold State.poisonRecord State.mailbox
  dsimp only
  split
  · rfl
  · exact s.ending_deviceAppend nofun

/-! ### What the end of a slice leaves -/

theorem State.ending_landAmon (k : StreamId) (va pa op v : Nat) : (s.landAmon core k va pa n op v).ending = s.ending := by
  unfold State.landAmon
  dsimp only
  split
  · exact State.ending_of_standing (s.standing_homeAtomic _ _ _ _ _ _ _)
  · split
    · exact (State.ending_of_standing (State.standing_homeAtomic _ _ _ _ _ _ _ _)).trans (State.ending_poisonRecord _ _ _ _ _ _)
    · rfl

theorem State.ending_land : (s.land core n).ending = s.ending := by
  unfold State.land
  split
  · rfl
  · dsimp only
    split
    · rfl
    · exact State.ending_landAmon _ _ _ _ _ _ _ _

theorem State.ending_landIf (f : Pending → Bool) : (s.landIf f core n).ending = s.ending := by
  fun_induction State.landIf f core n s with
  | case1 => rfl
  | case2 => rfl
  | case3 s n i _ ih => exact ih.trans (State.ending_land _ _ _)

theorem State.ending_wayCleanAll : (s.wayCleanAll core).ending = s.ending :=
  (foldl_kept (f := State.ending) (fun u _ => State.ending_of_standing (u.standing_wayClean _ _)) _ _).trans (s.ending_landIf _ _ _)

theorem State.standing_endStopAt (v : Slice) : (s.endStopAt x v).standing = s.standing := by
  unfold State.endStopAt
  dsimp only
  split
  · exact s.standing_setCtx _ rfl rfl
  · rfl

theorem State.ending_releaseCurrent (cur : Tbl Nat) (cores : List Nat) : (s.releaseCurrent cur cores).ending = s.ending := by
  unfold State.releaseCurrent
  extract_lets u
  have back : u.ending = s.ending := by
    refine foldl_kept (fun w i => ?_) _ _
    exact State.ending_of_standing (w.standing_setCluster i rfl)
  exact (foldl_kept (fun w e => by dsimp only; split <;> rfl) _ u).trans back

/-- A slice that is freed leaves the table of slices. -/
theorem State.ending_freeSlice (mode : StreamMode) : (s.freeSlice n mode).ending = { s.ending with slices := tblDel s.slices n } := by
  unfold State.freeSlice
  split
  · next none => rw [tblDel_of_tblFind_none (t := s.slices) none]; rfl
  · next v _ =>
    extract_lets u w tidy clear t
    have freed : u.ending = s.ending := by
      refine foldl_kept (fun w c => ?_) _ _
      rfl
    have released : w.ending = s.ending := (u.ending_releaseCurrent _ _).trans freed
    have tidied : t.ending = { w.ending with slices := tblDel w.slices n } := by
      have same (i : Nat) : offSlices (t.cluster i) = offSlices (w.cluster i) := tblGet_tblMap_kept (f := tidy) (fun _ => rfl) w.clusters i
      have clusters : (fun i => offSlices (t.cluster i)) = fun i => offSlices (w.cluster i) := funext same
      simp only [State.ending, State.standing, clusters]
      rfl
    have slices : w.slices = s.slices := congrArg Standing.slices released
    exact tidied.trans (by rw [released, slices])

theorem State.ending_giveBalance (hdr : Header) (cores : List Nat) : (s.giveBalance hdr cores).ending = s.ending := by
  unfold State.giveBalance
  extract_lets u
  have given : u.ending = s.ending := by
    refine foldl_kept (fun w i => ?_) _ _
    exact State.ending_of_standing (w.standing_setCluster i rfl)
  refine Eq.trans (foldl_kept (fun w e => ?_) _ u) given
  rfl

theorem State.standing_releaseGrants (die slot : Nat) (cores : List Nat) : (s.releaseGrants die slot cores).standing = s.standing := by
  have dropped : (s.dropGrants die slot cores).standing = s.standing := by
    refine foldl_kept (fun w c => ?_) _ _
    rfl
  unfold State.releaseGrants
  dsimp only
  split <;> exact dropped

theorem State.ending_withdraw (die slot : Nat) : (s.withdraw die slot).ending = s.ending := by
  unfold State.withdraw
  split
  · rfl
  · extract_lets cores u
    have released : u.ending = s.ending := by
      unfold u
      split
      · exact (State.ending_of_standing (State.standing_releaseGrants _ _ _ _)).trans (s.ending_giveBalance _ _)
      · rfl
    exact released

theorem State.ending_withdrawAll (f : Nat → Bool) : (s.withdrawAll f).ending = s.ending := by
  refine foldl_kept (fun w d => ?_) _ _
  refine foldl_kept (fun w e => ?_) _ _
  split
  · exact w.ending_withdraw _ _
  · rfl

/-! ### Contexts that become DEAD (R293) -/

/-- The queue of a context that becomes DEAD is emptied. -/
def Queue.emptied (x : Nat) (q : Queue) : Queue := if q.ctx.toNat = x then { q with entries := [], head := none, displaced := [] } else q

/-- The end of a bound slice of a context that becomes DEAD: its lines are written back, and its completion is recorded. -/
def State.endSlice (x : Nat) (s : State) (n : Nat) : State :=
  match s.slice n with
  | none => s
  | some v =>
    let s := v.cores.foldl (fun s c => s.wayCleanAll c) s
    let s :=
      if v.handler then s
      else s.completionRecord x v.hdr.addr v.queue (v.cores.headD 0) v.cycles v.restarts (s.endOf v)
        (v.cores.any fun c => (s.core c).tokqWord != 0) (s.isLate v) v.ext true false false
    (s.endStopAt x v).freeSlice n .dead

theorem State.ending_endSlice : (s.endSlice x n).ending = { s.ending with slices := tblDel s.slices n } := by
  unfold State.endSlice
  split
  · next none => rw [tblDel_of_tblFind_none (t := s.slices) none]; rfl
  · next v _ =>
    extract_lets u w
    have cleaned : u.ending = s.ending := foldl_kept (fun w _ => w.ending_wayCleanAll _) _ s
    have recorded : w.ending = s.ending := by
      unfold w
      split
      · exact cleaned
      · exact Eq.trans (u.ending_deviceAppend (by exact nofun)) cleaned
    have ended : (w.endStopAt x v).ending = s.ending := (State.ending_of_standing (w.standing_endStopAt _ _)).trans recorded
    have slices : (w.endStopAt x v).slices = s.slices := congrArg Standing.slices ended
    rw [State.ending_freeSlice, ended, slices]

theorem State.ending_endSlices (l : List Nat) : (l.foldl (State.endSlice x) s).ending = { s.ending with slices := l.foldl tblDel s.slices } := by
  induction l generalizing s with
  | nil => rfl
  | cons n l ih =>
    have one := s.ending_endSlice n x
    have slices : (s.endSlice x n).slices = tblDel s.slices n := congrArg Standing.slices one
    simp only [List.foldl_cons]
    rw [ih, one, slices]

theorem State.ending_killContext : (s.killContext x).ending = { s.ending with
    mode := fun y => if y = x then .dead else s.ending.mode y
    queues := tblMap s.queues (Queue.emptied x)
    slices := (s.slicesOf x false ++ s.slicesOf x true).foldl tblDel s.slices } := by
  unfold State.killContext
  extract_lets c dead withdrawn emptied dropped finish
  have kept : withdrawn.ending = dead.ending := dead.ending_withdrawAll _
  have slices : dropped.slices = s.slices := congrArg Standing.slices kept
  have queues : dropped.queues = tblMap s.queues (Queue.emptied x) :=
    congrArg (fun v : Standing => tblMap v.queues (Queue.emptied x)) kept
  have dying : dead.ending = { s.ending with mode := fun y => if y = x then .dead else s.ending.mode y } := by
    have modes (y : Nat) : (dead.ctx y).mode = if y = x then .dead else (s.ctx y).mode := by
      split
      · next same => rw [same, State.ctx_setCtx_same]
      · next other => rw [State.ctx_setCtx_other _ _ other]
    have lives (y : Nat) : (dead.ctx y).live = (s.ctx y).live := by
      by_cases same : y = x
      · rw [same, State.ctx_setCtx_same]
      · rw [State.ctx_setCtx_other _ _ same]
    unfold State.ending State.standing
    simp only [Standing.mk.injEq]
    exact ⟨funext modes, funext lives, rfl, rfl, rfl, rfl, rfl, rfl, rfl, trivial⟩
  have left : dropped.ending = { withdrawn.ending with queues := dropped.queues } := rfl
  have ended : (List.foldl (State.endSlice x) dropped (dropped.slicesOf x false ++ dropped.slicesOf x true)).ending = _ :=
    dropped.ending_endSlices x _
  refine Eq.trans ended ?_
  have listed (b : Bool) : dropped.slicesOf x b = s.slicesOf x b := by unfold State.slicesOf; rw [slices]
  rw [left, kept, dying, queues, slices, listed, listed]

end

/-- The contexts that satisfy `p` have become DEAD: their queues are empty and none of their slices is bound; the rest of the device stays,
but for what the end of slices changes. -/
structure Kills (p : Nat → Prop) (s u : State) : Prop where
  dead : ∀ x, p x ∨ (s.ctx x).mode = .dead → (u.ctx x).mode = .dead
  emptied : ∀ q, p (s.queue q).ctx.toNat → (u.queue q).entries = [] ∧ (u.queue q).head = none
  others : ∀ q, ¬ p (s.queue q).ctx.toNat → u.queue q = s.queue q
  owners : ∀ q, (u.queue q).ctx = (s.queue q).ctx
  slices : ∀ e ∈ u.slices, e ∈ s.slices ∧ ¬ p e.2.ctx
  rest : { u.ending with mode := s.ending.mode, queues := s.queues, slices := s.slices } = s.ending

section
variable {p q : Nat → Prop} {s t u : State} {x : Nat}

theorem Kills.none : Kills (fun _ => False) s s where
  dead _ h := h.resolve_left id
  emptied _ h := h.elim
  others _ _ := rfl
  owners _ := rfl
  slices _ h := ⟨h, id⟩
  rest := rfl

theorem Kills.trans (h : Kills p s t) (g : Kills q t u) : Kills (fun x => p x ∨ q x) s u where
  dead x killed := by
    rcases killed with (first | second) | before
    · exact g.dead x (.inr (h.dead x (.inl first)))
    · exact g.dead x (.inl second)
    · exact g.dead x (.inr (h.dead x (.inr before)))
  emptied n killed := by
    by_cases second : q (t.queue n).ctx.toNat
    · exact g.emptied n second
    · rw [g.others n second]
      rw [h.owners] at second
      exact h.emptied n (killed.resolve_right second)
  others n spared := by
    rw [not_or] at spared
    rw [g.others n (by rw [h.owners]; exact spared.2), h.others n spared.1]
  owners n := (g.owners n).trans (h.owners n)
  slices e bound := by
    obtain ⟨held, second⟩ := g.slices e bound
    obtain ⟨stood, first⟩ := h.slices e held
    exact ⟨stood, not_or.2 ⟨first, second⟩⟩
  rest := by
    have e := congrArg (fun v : Standing => { v with mode := s.ending.mode, queues := s.queues, slices := s.slices }) g.rest
    exact e.trans h.rest

theorem Kills.congr (h : Kills p s u) (same : ∀ x, p x ↔ q x) : Kills q s u := by
  rwa [← funext fun x => propext (same x)]

theorem Kills.live (h : Kills p s u) (x : Nat) : (u.ctx x).live = (s.ctx x).live := congrFun (congrArg Standing.live h.rest) x

theorem mem_foldl_tblDel {α : Type} {l : List Nat} {t : Tbl α} {e : Nat × α} (h : e ∈ l.foldl tblDel t) : e ∈ t ∧ e.1 ∉ l := by
  induction l generalizing t with
  | nil => exact ⟨h, List.not_mem_nil⟩
  | cons k l ih =>
    obtain ⟨kept, later⟩ := ih h
    obtain ⟨listed, other⟩ := List.mem_filter.1 kept
    refine ⟨listed, fun named => ?_⟩
    rcases List.mem_cons.1 named with same | named
    · exact of_decide_eq_true other same
    · exact later named

theorem Queue.ctx_emptied (v : Queue) : (v.emptied x).ctx = v.ctx := by
  unfold Queue.emptied
  split <;> rfl

theorem Queue.emptied_other {v : Queue} (h : v.ctx.toNat ≠ x) : v.emptied x = v := if_neg h

theorem Queue.emptied_own {v : Queue} (h : v.ctx.toNat = x) : (v.emptied x).entries = [] ∧ (v.emptied x).head = .none := by
  rw [Queue.emptied, if_pos h]
  exact ⟨rfl, rfl⟩

/-- A read of a table of queues after a context's have been emptied: an unlisted queue is empty. -/
theorem tblGet_emptied (t : Tbl Queue) (n : Nat) : tblGet {} (tblMap t (Queue.emptied x)) n = (tblGet {} t n).emptied x := by
  have unlisted : ({} : Queue).emptied x = {} := by unfold Queue.emptied; split <;> rfl
  unfold tblMap
  induction t with
  | nil => exact unlisted.symm
  | cons e t ih =>
    simp only [List.map_cons, tblGet]
    split
    · rfl
    · exact ih

theorem Kills.killContext : Kills (· = x) s (s.killContext x) := by
  have e := s.ending_killContext x
  have queue (n : Nat) : (s.killContext x).queue n = (s.queue n).emptied x := by
    have queues : (s.killContext x).queues = tblMap s.queues (Queue.emptied x) := congrArg Standing.queues e
    rw [State.queue, queues, tblGet_emptied]; rfl
  refine ⟨fun y killed => ?_, fun n own => ?_, fun n other => ?_, fun n => ?_, fun v bound => ?_, ?_⟩
  · have mode : ((s.killContext x).ctx y).mode = if y = x then .dead else (s.ctx y).mode := congrFun (congrArg Standing.mode e) y
    rw [mode]
    split
    · rfl
    · next other => exact killed.resolve_left other
  · rw [queue]; exact Queue.emptied_own own
  · rw [queue]; exact Queue.emptied_other other
  · rw [queue]; exact Queue.ctx_emptied _
  · have slices : (s.killContext x).slices = (s.slicesOf x false ++ s.slicesOf x true).foldl tblDel s.slices := congrArg Standing.slices e
    obtain ⟨listed, unnamed⟩ := mem_foldl_tblDel (slices ▸ bound)
    refine ⟨listed, fun own => unnamed (List.mem_append.2 ?_)⟩
    have named (b : Bool) (h : v.2.handler = b) : v.1 ∈ s.slicesOf x b :=
      List.mem_map.2 ⟨v, List.mem_filter.2 ⟨listed, by simp [own, h]⟩, rfl⟩
    cases h : v.2.handler
    · exact .inl (named _ h)
    · exact .inr (named _ h)
  · rw [e]; rfl

/-- The failures that stop the module kill every context that is live. -/
theorem Kills.killAll : Kills (fun x => x < 64 ∧ (s.ctx x).live = true) s s.killAll := by
  have some_of (l : List Nat) : ∀ s : State, Kills (fun x => x ∈ l ∧ (s.ctx x).live = true) s
      (l.foldl (fun s x => if (s.ctx x).live then s.killContext x else s) s) := by
    induction l with
    | nil => exact fun s => Kills.none.congr (by simp)
    | cons a l ih =>
      intro s
      rw [List.foldl_cons]
      split
      · next lives =>
        refine (Kills.killContext.trans (ih _)).congr fun x => ?_
        rw [Kills.killContext.live, List.mem_cons]
        constructor
        · rintro (rfl | ⟨later, live⟩)
          · exact ⟨.inl rfl, lives⟩
          · exact ⟨.inr later, live⟩
        · rintro ⟨rfl | later, live⟩
          · exact .inl rfl
          · exact .inr ⟨later, live⟩
      · next lives =>
        refine (ih s).congr fun x => ?_
        rw [List.mem_cons]
        constructor
        · exact fun ⟨later, live⟩ => ⟨.inr later, live⟩
        · rintro ⟨rfl | later, live⟩
          · exact absurd live lives
          · exact ⟨later, live⟩
  exact (some_of (List.range 64) s).congr fun x => by rw [List.mem_range]

theorem Kills.allDead (h : Kills (fun x => x < 64 ∧ (s.ctx x).live = true) s u) : AllDead s u where
  left x bound live := h.dead x (.inl ⟨bound, live⟩)
  right n v held bound := by
    obtain ⟨-, spared⟩ := h.slices _ (mem_of_tblFind held)
    exact Bool.eq_false_iff.2 fun live => spared ⟨bound, live⟩

/-- What the statements of a package failure say of it. -/
theorem Kills.killed (h : Kills (fun x => x < 64 ∧ (s.ctx x).live = true) s u) : Killed s.pack s.cluster s u where
  dead := h.allDead
  emptied q bound live := h.emptied q ⟨bound, live⟩
  others q dead := h.others q fun ⟨_, live⟩ => by rw [dead] at live; cases live
  pack := congrArg Standing.pack h.rest
  clusters i := congrFun (congrArg Standing.clusters h.rest) i
  control := ⟨congrArg Standing.control h.rest, congrArg Standing.time h.rest⟩

end

end Sys2Proof.Machine
end

section
/-! SUPPORT for O48. An event of the package is appended to the event ring, which lies at physical addresses: what its words leave in memory,
and what the append leaves of the rest (R213, R373). -/

namespace Sys2Proof.Machine
open Sys2Proof.Safety

/-! ### Bytes of memory -/

/-- A byte under a mask takes the byte of the number written. -/
theorem memRead_memWriteMasked_same (m : List Host.Cell) {a n v mask j : Nat} (inside : j < n) (set : mask.testBit j = true) :
    memRead (memWriteMasked m a n v mask) (a + j) = BitVec.ofNat 8 (v / 2 ^ (8 * j)) := by
  induction n generalizing m a v mask j with
  | zero => omega
  | succ n ih =>
    simp only [memWriteMasked]
    cases j with
    | zero =>
      rw [Nat.testBit_zero, decide_eq_true_eq] at set
      rw [if_pos set, memRead_memWriteMasked_other _ (.inl (by omega)), Nat.add_zero, memRead_memWrite_same, Nat.mul_zero, pow_zero, Nat.div_one]
    | succ j =>
      rw [Nat.testBit_add_one] at set
      have e := ih (if mask % 2 = 1 then memWrite m a (BitVec.ofNat 8 v) else m) (a := a + 1) (v := v / 256) (by omega) set
      rw [show a + (j + 1) = a + 1 + j by omega, e, Nat.div_div_eq_div_mul, show 8 * (j + 1) = 8 + 8 * j by omega, pow_add]
      rfl

theorem memReadN_lt (m : List Host.Cell) (a n : Nat) : memReadN m a n < 2 ^ (8 * n) := by
  induction n generalizing a with
  | zero => simp [memReadN]
  | succ n ih =>
    have first := (memRead m a).isLt
    have rest := ih (a + 1)
    rw [memReadN, show 8 * (n + 1) = 8 + 8 * n by omega, pow_add]
    omega

theorem memReadN_add (m : List Host.Cell) (a i k : Nat) : memReadN m a (i + k) = memReadN m a i + 2 ^ (8 * i) * memReadN m (a + i) k := by
  induction i generalizing a with
  | zero => simp [memReadN]
  | succ i ih =>
    rw [show i + 1 + k = i + k + 1 by omega, memReadN, memReadN, ih, show a + 1 + i = a + (i + 1) by omega,
      show 8 * (i + 1) = 8 + 8 * i by omega, pow_add]
    ring

/-- Bytes of a span are those of the number that it holds. -/
theorem memReadN_div_mod (m : List Host.Cell) {a n j k : Nat} (inside : j + k ≤ n) :
    memReadN m a n / 2 ^ (8 * j) % 2 ^ (8 * k) = memReadN m (a + j) k := by
  obtain ⟨r, rfl⟩ := Nat.exists_eq_add_of_le inside
  have upper : memReadN m a (j + k + r) / 2 ^ (8 * j) = memReadN m (a + j) (k + r) := by
    rw [Nat.add_assoc, memReadN_add, Nat.add_mul_div_left _ _ (by positivity), Nat.div_eq_of_lt (memReadN_lt m a j), Nat.zero_add]
  rw [upper, memReadN_add, Nat.add_mul_mod_self_left, Nat.mod_eq_of_lt (memReadN_lt m _ k)]

theorem memReadN_congr {m m' : List Host.Cell} {a n : Nat} (same : ∀ j, j < n → memRead m (a + j) = memRead m' (a + j)) :
    memReadN m a n = memReadN m' a n := by
  induction n generalizing a with
  | zero => rfl
  | succ n ih =>
    have first : memRead m a = memRead m' a := same 0 (by omega)
    have rest : memReadN m (a + 1) n = memReadN m' (a + 1) n := ih fun j below => by
      rw [show a + 1 + j = a + (j + 1) by omega]; exact same (j + 1) (by omega)
    rw [memReadN, memReadN, first, rest]

theorem memReadN_of_bytes {m : List Host.Cell} {a n v : Nat} (bytes : ∀ j, j < n → memRead m (a + j) = BitVec.ofNat 8 (v / 2 ^ (8 * j))) :
    memReadN m a n = v % 2 ^ (8 * n) := by
  induction n generalizing a v with
  | zero => simp [memReadN, Nat.mod_one]
  | succ n ih =>
    have rest : memReadN m (a + 1) n = v / 256 % 2 ^ (8 * n) := ih fun j below => by
      have e := bytes (j + 1) (by omega)
      rw [show a + 1 + j = a + (j + 1) by omega, e, show 8 * (j + 1) = 8 + 8 * j by omega, pow_add, ← Nat.div_div_eq_div_mul]
      rfl
    have first : memRead m a = BitVec.ofNat 8 v := by simpa using bytes 0 (by omega)
    rw [memReadN, first, rest, BitVec.toNat_ofNat, show 8 * (n + 1) = 8 + 8 * n by omega, pow_add, Nat.mod_mul]
    rfl

/-- A read of some bytes of a row that bypasses L2. -/
theorem State.homeRead_eq_memReadN (s : State) {pa len : Nat} (inside : pa % 128 + len ≤ 128) : s.homeRead none pa len = memReadN s.mem pa len := by
  rw [State.homeRead, State.homeRow, memReadN_div_mod _ inside, show pa / 128 * 128 + pa % 128 = pa by omega]

/-! ### Words that the device writes past L2 -/

section
variable (s : State) (row v mask : Nat)

theorem State.spoilSpills_mem (own : Option (Nat × Nat)) : (s.spoilSpills own row mask).mem = s.mem :=
  foldl_kept (f := State.mem) (fun u _ => foldl_kept (f := State.mem) (fun u _ => by split <;> rfl) _ u) _ s

theorem State.spoilSpills_ue (own : Option (Nat × Nat)) : (s.spoilSpills own row mask).ue = s.ue :=
  foldl_kept (f := State.ue) (fun u _ => foldl_kept (f := State.ue) (fun u _ => by split <;> rfl) _ u) _ s

theorem State.homePut_none {mask : Nat} (some : mask ≠ 0) (part : mask ≠ 2 ^ 128 - 1) :
    (s.homePut none row v mask).mem = memWriteMasked s.mem (row * 128) 128 v mask ∧ (s.homePut none row v mask).ue = s.ue := by
  have some_clear : (mask == 2 ^ 128 - 1) = false := beq_eq_false_iff_ne.2 part
  simp only [State.homePut, if_neg some, Option.isSome_none, Bool.false_and, some_clear, Bool.false_eq_true, if_false]
  exact ⟨rfl, rfl⟩

end

section
variable {s : State} {pa v : Nat}

theorem spanMask_word (off : Nat) : spanMask off 8 ≠ 0 ∧ spanMask off 8 ≠ 2 ^ 128 - 1 := by
  constructor
  · have := Nat.two_pow_pos off
    rw [spanMask]; omega
  · intro e
    have bit (q : Nat) : (spanMask off 8).testBit q = decide (q < 128) := by rw [e, Nat.testBit_two_pow_sub_one]
    have low := bit 0
    have high := bit 127
    simp only [testBit_spanMask, decide_eq_decide] at low high
    omega

theorem State.homeStore_mem : (s.homeStore none pa 8 v).mem =
    memWriteMasked s.mem (pa / 128 * 128) 128 (v % 2 ^ (8 * 8) * 2 ^ (8 * (pa % 128))) (spanMask (pa % 128) 8) := by
  obtain ⟨some, part⟩ := spanMask_word (pa % 128)
  rw [State.homeStore, State.homeWrite, if_neg some, State.spoilSpills_mem, (s.homePut_none _ _ some part).1]

theorem State.homeStore_ue : (s.homeStore none pa 8 v).ue = s.ue := by
  obtain ⟨some, part⟩ := spanMask_word (pa % 128)
  rw [State.homeStore, State.homeWrite, if_neg some, State.spoilSpills_ue, (s.homePut_none _ _ some part).2]

theorem memRead_homeStore_same (aligned : pa % 8 = 0) {j : Nat} (inside : j < 8) :
    memRead (s.homeStore none pa 8 v).mem (pa + j) = BitVec.ofNat 8 (v / 2 ^ (8 * j)) := by
  have set : (spanMask (pa % 128) 8).testBit (pa % 128 + j) = true := by rw [testBit_spanMask, decide_eq_true_eq]; omega
  have place : pa + j = pa / 128 * 128 + (pa % 128 + j) := by omega
  have shifted : v % 2 ^ (8 * 8) * 2 ^ (8 * (pa % 128)) / 2 ^ (8 * (pa % 128 + j)) = v % 2 ^ (8 * 8) / 2 ^ (8 * j) := by
    rw [Nat.mul_add, pow_add, Nat.mul_comm (v % 2 ^ (8 * 8)), Nat.mul_div_mul_left _ _ (by positivity)]
  rw [State.homeStore_mem, place, memRead_memWriteMasked_same _ (by omega) set, shifted]
  apply BitVec.eq_of_toNat_eq
  simp only [BitVec.toNat_ofNat]
  interval_cases j <;> omega

theorem memRead_homeStore_other {c : Nat} (outside : c < pa ∨ pa + 8 ≤ c) : memRead (s.homeStore none pa 8 v).mem c = memRead s.mem c := by
  rw [State.homeStore_mem]
  refine memRead_memWriteMasked_other _ ?_
  by_cases below : c < pa / 128 * 128
  · exact .inl below
  · refine .inr (.inr ?_)
    rw [testBit_spanMask, decide_eq_false_iff_not]
    omega

/-- Words that the device writes at physical addresses below the top of memory: each stands in its place, and no other byte changes. -/
theorem devWrite_words {words : List Nat} {a : Nat} (aligned : a % 8 = 0) (top : a + 8 * words.length ≤ devTop) :
    ∃ t, s.devWrite none none a words = some t ∧ t.ue = s.ue ∧
      (∀ c, c < a ∨ a + 8 * words.length ≤ c → memRead t.mem c = memRead s.mem c) ∧
      ∀ i w, words[i]? = some w → memReadN t.mem (a + 8 * i) 8 = w % 2 ^ 64 := by
  induction words generalizing s a with
  | nil => exact ⟨s, by rw [State.devWrite], rfl, fun _ _ => rfl, fun i w listed => nomatch listed⟩
  | cons w words ih =>
    rw [List.length_cons] at top
    obtain ⟨t, written, ue, others, stand⟩ := ih (s := s.homeStore none a 8 w) (a := a + 8) (by omega) (by omega)
    have place : s.devPlace none a .write = some (.dev a) := if_pos (by omega)
    refine ⟨t, ?_, ue.trans State.homeStore_ue, fun c outside => ?_, fun i x listed => ?_⟩
    · rw [State.devWrite, place]; exact written
    · rw [List.length_cons] at outside
      rw [others c (by omega), memRead_homeStore_other (by omega)]
    · cases i with
      | zero =>
        obtain rfl : w = x := Option.some.inj listed
        refine memReadN_of_bytes (n := 8) fun j inside => ?_
        rw [others _ (by omega), Nat.mul_zero, Nat.add_zero, memRead_homeStore_same aligned inside]
      | succ i => rw [show a + 8 * (i + 1) = a + 8 + 8 * i by omega]; exact stand i x listed

end

end Sys2Proof.Machine
end

section
/-! SUPPORT for O48. What an event of the package does, and what it leaves (R213, R373). -/

namespace Sys2Proof.Machine
open Sys2Proof.Safety

/-! ### The event ring -/

/-- A descriptor at a physical address that is valid: it is aligned and lies below the top of memory, and its base is aligned (R213). -/
theorem ringDesc_fields {s : State} {p : Option Nat} {desc base z k tail head : Nat}
    (h : s.ringDesc none p desc = some (base, z, k, tail, head)) : desc % 64 = 0 ∧ base % 128 = 0 ∧ desc + 64 ≤ devTop := by
  unfold State.ringDesc at h
  split at h
  · cases h
  · next aligned =>
    split at h
    · next w0 w1 w2 w3 w4 w5 w6 w7 words =>
      dsimp only at h
      split at h
      · cases h
      · next fields =>
        simp only [Option.some.injEq, Prod.mk.injEq] at h
        obtain ⟨rfl, -⟩ := h
        have top : desc < devTop := by
          by_contra beyond
          have unread : s.devWord none p (desc + 8 * 0) = none := by
            simp only [State.devWord, State.devPhys, State.devPlace, Nat.mul_zero, Nat.add_zero, if_neg beyond]
          have range : List.range 8 = [0, 1, 2, 3, 4, 5, 6, 7] := rfl
          rw [range, List.mapM_cons, unread] at words
          cases words
        refine ⟨by omega, by omega, ?_⟩
        have units : devTop % 64 = 0 := rfl
        omega
    · cases h

section
variable {s t : State} {type core bank row w1 w2 : Nat}

theorem event_packEvent : Event type core bank row w1 w2 s (s.packEvent type core bank row w1 w2) := by
  unfold Event State.packEvent State.deviceAppend
  dsimp only
  split
  · rfl
  · unfold State.endAppend
    dsimp only
    split <;> simp only [*]

/-- Word 1 of an event counts modulo 2^64. -/
theorem Event.of_mod {w : Nat} (h : Event type core bank row w1 w2 s t) (same : w % 2 ^ 64 = w1 % 2 ^ 64) : Event type core bank row w w2 s t := by
  unfold Event at h ⊢
  rwa [same]

/-- What an event of the package leaves of the device. -/
structure EventKept (s t : State) : Prop where
  standing : { t.standing with pack := s.pack, held := s.heldAppends } = s.standing
  pack : { t.pack with evLost := 0 } = { s.pack with evLost := 0 }
  rings : RingsOnly s t
  ue : t.ue = s.ue

theorem devWrite_ue {space : Option (Nat × Nat)} {words : List Nat} : ∀ {s : State} {a : Nat} {t : State},
    s.devWrite space none a words = some t → t.ue = s.ue := by
  induction words with
  | nil => rintro s a t ⟨⟩; rfl
  | cons w words ih =>
    intro s a t e
    rw [State.devWrite] at e
    split at e
    · exact (ih e).trans State.homeStore_ue
    · refine (ih e).trans ?_
      unfold State.send
      split <;> rfl
    · cases e

theorem devAppend_ue {space : Option (Nat × Nat)} {desc z : Nat} {words : List Nat} (e : s.devAppend space none desc z words = some t) :
    t.ue = s.ue := by
  unfold State.devAppend at e
  split at e
  · cases e
  · split at e
    · cases e
    · split at e
      · cases e
      · next v written => exact (devWrite_ue e).trans (devWrite_ue written)

theorem State.notifyHost_eq (u : State) (vec : Nat) : ∃ f, u.notifyHost vec = { u with fabric := f } := by
  unfold State.notifyHost
  dsimp only
  split <;> exact ⟨_, rfl⟩

theorem Event.kept (h : Event type core bank row w1 w2 s t) : EventKept s t := by
  unfold Event at h
  dsimp only at h
  split at h
  · rw [h]; exact ⟨rfl, rfl, .of_cores rfl, rfl⟩
  · split at h
    · next u e =>
      obtain ⟨f, made⟩ := u.notifyHost_eq 2047
      have standing := State.standing_devAppend e
      rw [h, made]
      exact ⟨congrArg (fun v : Standing => { v with pack := s.pack, held := s.heldAppends }) standing,
        congrArg (fun v : Standing => { v.pack with evLost := 0 }) standing, (RingsOnly.devAppend e).trans (.of_cores rfl), devAppend_ue (t := u) e⟩
    · rw [h]; exact ⟨rfl, rfl, .of_cores rfl, rfl⟩

/-! ### The words of an event in memory -/

/-- An event that finds room: its four words stand in the slot of the tail, the tail is one more, and no other byte changes. -/
theorem devAppend_event {desc base k tail head : Nat} {words : List Nat} (valid : s.ringDesc none none desc = some (base, 2, k, tail, head))
    (room : (tail : Int) - head < 2 ^ k) (four : words.length = 4) (top : base + 32 * 2 ^ k ≤ devTop)
    (apart : base + 32 * 2 ^ k ≤ desc ∨ desc + 64 ≤ base) :
    ∃ u, s.devAppend none none desc 2 words = some u ∧ memReadN u.mem (desc + 16) 8 = (tail + 1) % 2 ^ 64 ∧
      (∀ i w, words[i]? = some w → memReadN u.mem (base + tail % 2 ^ k * 32 + 8 * i) 8 = w % 2 ^ 64) ∧
      ∀ a, (a < base + tail % 2 ^ k * 32 ∨ base + tail % 2 ^ k * 32 + 32 ≤ a) → (a < desc + 16 ∨ desc + 24 ≤ a) →
        memRead u.mem a = memRead s.mem a := by
  obtain ⟨aligned, based, below⟩ := ringDesc_fields valid
  have slot : tail % 2 ^ k < 2 ^ k := Nat.mod_lt _ (by positivity)
  obtain ⟨v, written, -, vOthers, vWords⟩ := devWrite_words (s := s) (words := words) (a := base + tail % 2 ^ k * 32) (by omega)
    (by rw [four]; omega)
  obtain ⟨u, moved, -, uOthers, uWords⟩ := devWrite_words (s := v) (words := [(tail + 1) % 2 ^ 64]) (a := desc + 16) (by omega)
    (by simp only [List.length_singleton]; omega)
  rw [four] at vOthers
  simp only [List.length_singleton] at uOthers
  refine ⟨u, ?_, ?_, fun i w listed => ?_, fun a other tailless => ?_⟩
  · have enough : ringRoom k tail head 1 = true := decide_eq_true (by push_cast; omega)
    simp only [State.devAppend, valid, enough]
    simpa [written] using moved
  · simpa using uWords 0 _ rfl
  · have inside : i < 4 := four ▸ (List.getElem?_eq_some_iff.1 listed).1
    rw [← vWords i w listed]
    refine memReadN_congr fun j bound => uOthers _ ?_
    omega
  · rw [uOthers a (by omega), vOthers a (by omega)]

end

end Sys2Proof.Machine
end

section
/-! SUPPORT for O48. Actions on a stack of HBM, and the trackers of frequent rows (R364, R365, R367). -/

namespace Sys2Proof.Machine
open Sys2Proof.Safety

/-! ### Stacks and sentinels (R364 to R366) -/

section
variable {s : State}

@[simp] theorem State.stack_setStack_same (j : Nat) (k : Stack) : (s.setStack j k).stack j = k := tblGet_tblSet_same _ _ _ _

theorem State.stack_setStack_other {i j : Nat} (k : Stack) (h : i ≠ j) : (s.setStack j k).stack i = s.stack i := tblGet_tblSet_other _ _ _ h

/-- What the start of an action on a stack changes is the stack alone. -/
theorem setStack_becomes {i : Instr} {n : Nat} {k : Stack} (run : exec i s = .next (s.setStack n k)) :
    ∃ t, exec i s = .next t ∧ t.stack n = k ∧ (∀ u, u ≠ n → t.stack u = s.stack u) ∧
      { t with pack := { t.pack with hbm := [] } } = { s with pack := { s.pack with hbm := [] } } :=
  ⟨_, run, State.stack_setStack_same _ _, fun _ other => State.stack_setStack_other _ other, rfl⟩

theorem begin'_busy {k : Stack} {act : Nat} (busy : k.busy = true) : k.begin' act = k := by simp [Stack.begin', busy]

theorem begin'_retrain {k : Stack} (idle : k.busy = false) : k.begin' 1 = { k with busy := true, act := 1, state := 3 } := by
  simp [Stack.begin', idle]

theorem begin'_laneRepair {k : Stack} (idle : k.busy = false) : k.begin' 2 =
    if k.spare = 0 then { k with busy := true, act := 1, state := 3 } else { k with busy := true, act := 2 } := by
  simp [Stack.begin', idle]

/-- An action on a stack ends: the stack has changed, and its event is recorded. -/
theorem stackPauseEnd_done {n type : Nat} {new : Stack} (idle : new.busy = false)
    (run : exec .stackPauseEnd s = .next ((s.setStack n new).packEvent type n 0 0 new.word.toNat 0)) :
    ∃ t u, exec .stackPauseEnd s = .next t ∧ u.stack n = new ∧ (∀ j, j ≠ n → u.stack j = s.stack j) ∧
      { u with pack := { u.pack with hbm := [] } } = { s with pack := { s.pack with hbm := [] } } ∧
      Event type n 0 0 (new.retrains.toNat + new.ppr.toNat * 2 ^ 32 + new.spare.toNat * 2 ^ 40 + new.state.toNat * 2 ^ 60) 0 u t := by
  refine ⟨_, s.setStack n new, run, State.stack_setStack_same _ _, fun _ other => State.stack_setStack_other _ other, rfl, ?_⟩
  refine Event.of_mod event_packEvent ?_
  simp [Stack.word, w64, idle, BitVec.toNat_ofNat]

end

/-! ### Frequent rows (R367) -/

/-- The count of a row in a tracker after one of its activations, 0 where the tracker has no place for it. -/
def trackedCount (T : List (Nat × Nat)) (a : Nat) : Nat :=
  if tblGet 0 T a ≠ 0 then tblGet 0 T a + 1 else if T.length < 8 then 1 else 0

/-- What an activation of a row that a full tracker does not list takes from the counts of the others. -/
def trackedLoss (T : List (Nat × Nat)) (a : Nat) : Nat := if tblGet 0 T a = 0 ∧ T.length = 8 then 1 else 0

section
variable {T : List (Nat × Nat)} {a : Nat}

theorem tblGet_unlisted {b : Nat} (other : ∀ e ∈ T, e.1 ≠ b) : tblGet 0 T b = 0 := by
  induction T with
  | nil => rfl
  | cons e T ih =>
    rw [tblGet, if_neg (other e List.mem_cons_self)]
    exact ih fun e' listed => other e' (List.mem_cons_of_mem _ listed)

theorem tblGet_of_find?_some {e : Nat × Nat} (h : T.find? (fun e => e.1 == a) = some e) : tblGet 0 T a = e.2 := by
  induction T with
  | nil => cases h
  | cons e' T ih =>
    by_cases same : e'.1 = a
    · simp only [List.find?_cons, beq_iff_eq.2 same, Option.some.injEq] at h
      rw [tblGet, if_pos same, h]
    · simp only [List.find?_cons, beq_eq_false_iff_ne.2 same] at h
      rw [tblGet, if_neg same, ih h]

theorem tblGet_replaced_other {n b : Nat} (other : b ≠ a) : tblGet 0 (T.map fun e => if e.1 = a then (a, n) else e) b = tblGet 0 T b := by
  induction T with
  | nil => rfl
  | cons e T ih => by_cases here : e.1 = a <;> simp [tblGet, here, other.symm, ih]

/-- A count that is set in its place. -/
theorem tblGet_replaced {n : Nat} (listed : a ∈ T.map Prod.fst) (b : Nat) :
    tblGet 0 (T.map fun e => if e.1 = a then (a, n) else e) b = if b = a then n else tblGet 0 T b := by
  split
  · next own =>
    subst own
    induction T with
    | nil => cases listed
    | cons e T ih =>
      by_cases here : e.1 = b
      · simp [tblGet, here]
      · have later : b ∈ T.map Prod.fst := (List.mem_cons.1 listed).resolve_left fun h => here h.symm
        simpa [tblGet, here] using ih later
  · next other => exact tblGet_replaced_other other

theorem tblGet_append_new (unlisted : ∀ e ∈ T, e.1 ≠ a) (n b : Nat) :
    tblGet 0 (T ++ [(a, n)]) b = if b = a then n else tblGet 0 T b := by
  induction T with
  | nil => simp [tblGet, eq_comm]
  | cons e T ih =>
    have other := unlisted e List.mem_cons_self
    rw [List.cons_append, tblGet, tblGet, ih fun e' listed => unlisted e' (List.mem_cons_of_mem _ listed)]
    by_cases first : e.1 = b
    · rw [if_pos first, if_pos first, if_neg (by omega)]
    · rw [if_neg first, if_neg first]

/-- Counts that fall by one; those that reach 0 are listed no more. -/
theorem tblGet_decremented (distinct : (T.map Prod.fst).Nodup) (b : Nat) :
    tblGet 0 ((T.map fun e => (e.1, e.2 - 1)).filter fun e => e.2 != 0) b = tblGet 0 T b - 1 := by
  induction T with
  | nil => rfl
  | cons e T ih =>
    obtain ⟨fresh, distinct⟩ := List.nodup_cons.1 distinct
    have rest := ih distinct
    by_cases first : e.1 = b
    · rw [tblGet, if_pos first, List.map_cons, List.filter_cons]
      split
      · rw [tblGet, if_pos first]
      · next gone =>
        have zero : e.2 - 1 = 0 := by simpa using gone
        have unlisted : ∀ e' ∈ T, e'.1 ≠ b := fun e' listed same => fresh (List.mem_map.2 ⟨e', listed, same.trans first.symm⟩)
        rw [rest, tblGet_unlisted unlisted, zero]
    · rw [tblGet, if_neg first, ← rest, List.map_cons, List.filter_cons]
      split
      · rw [tblGet, if_neg first]
      · rfl

theorem trackRow_spec (distinct : (T.map Prod.fst).Nodup) (counted : ∀ e ∈ T, e.2 ≠ 0) (bound : T.length ≤ 8) :
    (trackRow T a).2 = trackedCount T a ∧ (trackRow T a).1.length ≤ 8 ∧
      ∀ b, tblGet 0 (trackRow T a).1 b = if b = a then trackedCount T a else tblGet 0 T b - trackedLoss T a := by
  unfold trackRow
  split
  · next x n found =>
    have count : tblGet 0 T a = n := tblGet_of_find?_some found
    have listed : (x, n) ∈ T := List.mem_of_find?_eq_some found
    have key : x = a := by simpa using List.find?_some found
    have positive : tblGet 0 T a ≠ 0 := count ▸ counted _ listed
    have raised : trackedCount T a = n + 1 := by rw [trackedCount, if_pos positive, count]
    have kept : trackedLoss T a = 0 := if_neg fun h => positive h.1
    refine ⟨raised.symm, by simpa using bound, fun b => ?_⟩
    rw [raised, kept, Nat.sub_zero]
    exact tblGet_replaced (List.mem_map.2 ⟨_, listed, key⟩) b
  · next missing =>
    have unlisted : ∀ e ∈ T, e.1 ≠ a := by simpa using List.find?_eq_none.1 missing
    have zero := tblGet_unlisted unlisted
    split
    · next room =>
      have one : trackedCount T a = 1 := by rw [trackedCount, if_neg (not_not.2 zero), if_pos room]
      have kept : trackedLoss T a = 0 := if_neg fun h => by omega
      refine ⟨one.symm, by simpa using room, fun b => ?_⟩
      rw [one, kept, Nat.sub_zero]
      exact tblGet_append_new unlisted 1 b
    · next full =>
      have none : trackedCount T a = 0 := by rw [trackedCount, if_neg (not_not.2 zero), if_neg full]
      have loss : trackedLoss T a = 1 := if_pos ⟨zero, by omega⟩
      refine ⟨none.symm, ?_, fun b => ?_⟩
      · exact (List.length_filter_le _ _).trans (by simpa using bound)
      · rw [none, loss, tblGet_decremented distinct]
        split
        · next own => rw [own, zero]
        · rfl

end

/-- The rows within the radius of a row. -/
def nearRows (p : Pack) (a : Nat) : List Nat :=
  (if a = 0 then [] else [a - 1]) ++ [a + 1] ++ (if p.radius = 2 then (if a < 2 then [] else [a - 2]) ++ [a + 2] else [])

theorem radius_eq_two {p : Pack} : p.radius = 2 ↔ p.distRadius = 2 := by
  unfold Pack.radius
  split
  · next two => exact ⟨fun _ => two, fun _ => rfl⟩
  · next other => exact ⟨fun one => (nomatch one), fun two => absurd two other⟩

theorem mem_nearRows {p : Pack} {a r : Nat} :
    r ∈ nearRows p a ↔ r + 1 = a ∨ r = a + 1 ∨ p.distRadius = 2 ∧ (r + 2 = a ∨ r = a + 2) := by
  have below (k : Nat) : r ∈ (if a < k then [] else [a - k]) ↔ r + k = a := by
    split
    · simp only [List.not_mem_nil, false_iff]; omega
    · rw [List.mem_singleton]; omega
  have first : r ∈ (if a = 0 then [] else [a - 1]) ↔ r + 1 = a := by simpa only [Nat.lt_one_iff] using below 1
  have far : r ∈ (if p.radius = 2 then (if a < 2 then [] else [a - 2]) ++ [a + 2] else []) ↔
      p.distRadius = 2 ∧ (r + 2 = a ∨ r = a + 2) := by
    rw [← radius_eq_two]
    split
    · next two => rw [List.mem_append, below 2, List.mem_singleton, and_iff_right two]
    · next one => simp only [List.not_mem_nil, one, false_and]
  rw [nearRows, List.mem_append, List.mem_append, first, far, List.mem_singleton, or_assoc]

theorem filter_bne_eq_tblDel (T : List (Nat × Nat)) (a : Nat) : (T.filter fun e => e.1 != a) = tblDel T a :=
  List.filter_congr fun e _ => by rw [bne, decide_not, Bool.beq_eq_decide_eq]

theorem exec_rowActivation {s : State} : exec .rowActivation s =
    let a := s.ev.row
    let tracked := trackRow (tblGet [] s.pack.trackers s.ev.n) a
    .next { s with pack :=
      if s.pack.distThr.toNat ≤ tracked.2 ∧ tracked.2 ≠ 0 then { s.pack with
        trackers := tblSet s.pack.trackers s.ev.n (tblDel tracked.1 a)
        refreshed := ((nearRows s.pack a).map fun r => (s.ev.n, r)).reverse ++ s.pack.refreshed }
      else { s.pack with trackers := tblSet s.pack.trackers s.ev.n tracked.1 } } := by
  dsimp only
  rw [← filter_bne_eq_tblDel]
  split
  · next hit => exact if_pos hit
  · next quiet => exact if_neg quiet

end Sys2Proof.Machine
end

section
/-! SUPPORT for O48. The link, which kills every context as it fails (`Kills.killAll`); the sentinels; and the errors that a location counts
(R362, R366, R372). -/

namespace Sys2Proof.Machine
open Sys2Proof.Safety

/-! ### The link (R362) -/

section
variable {s t u : State}

theorem EventKept.ecc (h : EventKept s t) : t.pack.ecc = s.pack.ecc := by
  have kept := congrArg Pack.ecc h.pack
  exact kept

theorem EventKept.stack (h : EventKept s t) (j : Nat) : t.stack j = s.stack j := by
  have kept := congrArg Pack.hbm h.pack
  exact congrArg (fun T : Tbl Stack => tblGet {} T j) kept

theorem packEvent_kept {type core bank row w1 w2 : Nat} : EventKept s (s.packEvent type core bank row w1 w2) := Event.kept event_packEvent

theorem EventKept.ev (h : EventKept s t) : t.ev = s.ev := congrArg Standing.ev h.standing

theorem packEvent_ev {type core bank row w1 w2 : Nat} : (s.packEvent type core bank row w1 w2).ev = s.ev := packEvent_kept.ev

theorem packEvent_ecc {type core bank row w1 w2 : Nat} : (s.packEvent type core bank row w1 w2).pack.ecc = s.pack.ecc := packEvent_kept.ecc

theorem EventKept.linkFault (h : EventKept s t) : t.pack.linkFault = s.pack.linkFault := by
  have kept := congrArg Pack.linkFault h.pack
  exact kept

theorem AllDead.event (dead : AllDead s u) (kept : EventKept u t) : AllDead s t where
  left x bound live := (congrFun (congrArg Standing.mode kept.standing) x).trans (dead.left x bound live)
  right n v held := by
    have same : t.slices = u.slices := congrArg Standing.slices kept.standing
    exact dead.right n v (by simpa only [State.slice, same] using held)

/-- The device with its link failed. -/
def State.linkFailed (s : State) : State := { s with pack := { s.pack with linkFault := true } }

theorem killed_linkFailed (h : Killed s.pack s.cluster s u) : Killed { s.pack with linkFault := true } s.cluster s u.linkFailed where
  dead := h.dead
  emptied := h.emptied
  others := h.others
  pack := by
    have faulted := congrArg (fun p : Pack => { p with linkFault := true }) h.pack
    exact faulted
  clusters := h.clusters
  control := h.control

theorem linkWord_linkFailed (h : Killed s.pack s.cluster s u) :
    u.linkFailed.pack.linkWord.toNat = (s.pack.linkRetries.toNat + 2 ^ 63) % 2 ^ 64 := by
  have retries := congrArg Pack.linkRetries h.pack
  have same : u.pack.linkRetries = s.pack.linkRetries := retries
  simp [Pack.linkWord, State.linkFailed, same, w64, BitVec.toNat_ofNat]

theorem exec_miosorFlitRetry_last (last : 16 ≤ s.ev.n) : exec .miosorFlitRetry s =
    .next (s.killAll.linkFailed.packEvent 12 0 0 0 s.killAll.linkFailed.pack.linkWord.toNat 0) := if_neg (Nat.not_lt.2 last)

theorem linkFault_and_allDead_of_event {retries : Nat} (killed : Killed s.pack s.cluster s u) (event : Event 12 0 0 0 retries 0 u.linkFailed t) :
    t.pack.linkFault = true ∧ AllDead s t :=
  have kept := Event.kept event
  ⟨kept.linkFault, AllDead.event (killed_linkFailed killed).dead kept⟩

theorem miosorFlitRetry_fails (last : 16 ≤ s.ev.n) : ∃ t u, exec .miosorFlitRetry s = .next t ∧ t.pack.linkFault = true ∧ AllDead s t ∧
    Killed { s.pack with linkFault := true } s.cluster s u ∧ Event 12 0 0 0 (s.pack.linkRetries.toNat + 2 ^ 63) 0 u t := by
  have run := exec_miosorFlitRetry_last last
  have killed := (Kills.killAll (s := s)).killed
  generalize s.killAll = v at run killed
  have event := event_packEvent (s := v.linkFailed) (type := 12) (core := 0) (bank := 0) (row := 0) (w1 := v.linkFailed.pack.linkWord.toNat)
    (w2 := 0)
  obtain ⟨fault, dead⟩ := linkFault_and_allDead_of_event killed event
  refine ⟨_, v.linkFailed, run, fault, dead, killed_linkFailed killed, Event.of_mod event ?_⟩
  rw [linkWord_linkFailed killed, Nat.mod_mod]

end

/-! ### Sentinels (R366) -/

/-- A sentinel with the margins that it has measured. -/
def Sentinel.measured (m : Sentinel) (v t : BitVec 8) : Sentinel :=
  { m with vmarg := v, tmarg := t, below := m.below || decide (v < m.vthr ∨ t < m.tthr) }

theorem Sentinel.word_measured {m : Sentinel} {v t : BitVec 8} (low : v < m.vthr ∨ t < m.tthr) (enabled : m.ien = true) :
    (t.toNat + v.toNat * 2 ^ 8 + m.tthr.toNat * 2 ^ 40 + m.vthr.toNat * 2 ^ 48 + 2 ^ 62 + 2 ^ 63) % 2 ^ 64 =
      (m.measured v t).word.toNat % 2 ^ 64 := by
  simp [Sentinel.word, Sentinel.measured, low, enabled, w64]

/-- A stack with one of its sentinels in a new state. -/
def Stack.withSentinel (k : Stack) (i : Nat) (m : Sentinel) : Stack := { k with sentinels := tblSet k.sentinels i m }

theorem exec_sentinelUpdate {s : State} : exec .sentinelUpdate s =
    let j := s.ev.n / 4
    let m := (s.stack j).sentinel (s.ev.n % 4)
    let v := BitVec.ofNat 8 (s.ev.nums.getD 0 0)
    let t := BitVec.ofNat 8 (s.ev.nums.getD 1 0)
    let u := s.setStack j ((s.stack j).withSentinel (s.ev.n % 4) (m.measured v t))
    .next (if (v < m.vthr ∨ t < m.tthr) ∧ m.below = false ∧ m.ien = true then u.packEvent 7 j 0 0 (m.measured v t).word.toNat 0 else u) := by
  show execSentinelUpdate s = _
  simp only [execSentinelUpdate, Stack.withSentinel, Sentinel.measured, Bool.decide_or, Bool.and_eq_true, Bool.or_eq_true, decide_eq_true_eq,
    Bool.not_eq_true', and_assoc]

/-! ### Errors of a location (R372) -/

section
variable {s t : State} {type core bank row w1 w2 : Nat}

/-- The record of a location, before its error counts. -/
def State.eccOf (s : State) (l : EccLoc) : EccRec := (s.pack.ecc.find? fun r => r.loc == l).getD { loc := l, times := [], lasting := false }

/-- The times of a location's corrected errors, with the one that counts now. -/
def State.eccTimes (s : State) (l : EccLoc) : List Nat := if s.ev.flag then (s.eccOf l).times else (s.eccOf l).times ++ [s.time]

/-- How many of them lie within 60 s. -/
def State.eccNear (s : State) (l : EccLoc) : Nat := ((s.eccTimes l).filter fun z => decide (s.time ≤ z + 60000000000)).length

/-- The location's record, its error counted. -/
def State.eccCounted (s : State) (l : EccLoc) : EccRec :=
  { loc := l, times := s.eccTimes l, lasting := (s.eccOf l).lasting || (s.ev.flag || decide (4 ≤ s.eccNear l)) }

/-- The device with that record. -/
def State.withEcc (s : State) (l : EccLoc) : State :=
  { s with pack := { s.pack with ecc := (s.pack.ecc.filter fun r => r.loc != l) ++ [s.eccCounted l] } }

theorem mem_withEcc {l : EccLoc} {r : EccRec} : r ∈ (s.withEcc l).pack.ecc ↔ r ∈ s.pack.ecc ∧ r.loc ≠ l ∨ r = s.eccCounted l := by
  simp [State.withEcc]

/-- What an uncorrectable row of a pool leaves. -/
def State.poolBad (s : State) (core row : Nat) : State :=
  s.setCore core { s.core core with poolUe := row :: (s.core core).poolUe.erase row }

/-- The repair of an HBM row is queued, or its stack has no row left for it. -/
def State.repair (s : State) (stack bank row off near : Nat) : State :=
  if s.ev.flag2 then s.packEvent 6 stack bank row off near
  else (s.setStack stack { s.stack stack with ppr := satInc (s.stack stack).ppr }).packEvent 5 stack bank row off near

/-- What an uncorrectable row of memory leaves. -/
def State.hbmBad (s : State) (row : Nat) : State := { s with ue := row :: s.ue.erase row }

section
variable {stack ch off near : Nat} {l : EccLoc}

theorem repair_ecc : (s.repair stack bank row off near).pack.ecc = s.pack.ecc := by
  unfold State.repair
  split
  · exact packEvent_ecc
  · exact EventKept.ecc (s := s.setStack _ _) packEvent_kept

theorem repair_ue : (s.repair stack bank row off near).ue = s.ue := by
  unfold State.repair
  split
  · exact EventKept.ue packEvent_kept
  · exact EventKept.ue (s := s.setStack _ _) packEvent_kept

theorem repair_stack (spent : s.ev.flag2 = true) (j : Nat) : (s.repair stack bank row off near).stack j = s.stack j := by
  rw [State.repair, if_pos spent]
  exact EventKept.stack packEvent_kept j


theorem countError_pool : s.countError (.pool core bank row) =
    let l : EccLoc := .pool core bank row
    let event (v : State) (type : Nat) : State := v.packEvent type core bank row (bank * 2 ^ 16 + row * 128) (s.eccNear l)
    let v := if !s.ev.flag then s.withEcc l else (event (s.withEcc l) 2).poolBad core (bank * 512 + row)
    if !(s.ev.flag || decide (4 ≤ s.eccNear l)) || (s.eccOf l).lasting then v else if v.ev.flag then v else event v 1 := rfl

theorem countError_hbm : s.countError (.hbm stack ch bank row) =
    let l : EccLoc := .hbm stack ch bank row
    let event (v : State) (type : Nat) : State := v.packEvent type stack bank row s.ev.off (s.eccNear l)
    let v := if !s.ev.flag then s.withEcc l else (event (s.withEcc l) 2).hbmBad (s.ev.off / 128)
    if !(s.ev.flag || decide (4 ≤ s.eccNear l)) || (s.eccOf l).lasting then v
    else (if v.ev.flag then v else event v 1).repair stack bank row s.ev.off (s.eccNear l) := rfl

theorem countError_quiet (corrected : s.ev.flag = false) (quiet : ¬ 4 ≤ s.eccNear l ∨ (s.eccOf l).lasting = true)
    (counted : ∀ d p row, l ≠ .l2 d p row) : s.countError l = s.withEcc l := by
  have still : (!(s.ev.flag || decide (4 ≤ s.eccNear l)) || (s.eccOf l).lasting) = true := by
    rcases quiet with few | lasts
    · simp [corrected, few]
    · simp [lasts]
  cases l with
  | pool core bank row => rw [countError_pool]; dsimp only; rw [if_pos still, corrected]; rfl
  | hbm stack ch bank row => rw [countError_hbm]; dsimp only; rw [if_pos still, corrected]; rfl
  | l2 d p row => exact absurd rfl (counted d p row)

theorem turns_lasting (many : 4 ≤ s.eccNear l) (first : (s.eccOf l).lasting = false) :
    (!(s.ev.flag || decide (4 ≤ s.eccNear l)) || (s.eccOf l).lasting) = false := by simp [many, first]

theorem countError_pool_lasting (corrected : s.ev.flag = false) (many : 4 ≤ s.eccNear (.pool core bank row))
    (first : (s.eccOf (.pool core bank row)).lasting = false) : s.countError (.pool core bank row) =
      (s.withEcc (.pool core bank row)).packEvent 1 core bank row (bank * 2 ^ 16 + row * 128) (s.eccNear (.pool core bank row)) := by
  have same : (s.withEcc (.pool core bank row)).ev.flag = false := corrected
  rw [countError_pool]
  dsimp only
  rw [turns_lasting many first, corrected]
  simp [same]

theorem countError_hbm_lasting (corrected : s.ev.flag = false) (many : 4 ≤ s.eccNear (.hbm stack ch bank row))
    (first : (s.eccOf (.hbm stack ch bank row)).lasting = false) : s.countError (.hbm stack ch bank row) =
      ((s.withEcc (.hbm stack ch bank row)).packEvent 1 stack bank row s.ev.off (s.eccNear (.hbm stack ch bank row))).repair stack bank row
        s.ev.off (s.eccNear (.hbm stack ch bank row)) := by
  have same : (s.withEcc (.hbm stack ch bank row)).ev.flag = false := corrected
  rw [countError_hbm]
  dsimp only
  rw [turns_lasting many first, corrected]
  simp [same]

/-- An uncorrectable row of a pool, its error recorded. -/
theorem countError_pool_uncorrectable (bad : s.ev.flag = true) : s.countError (.pool core bank row) =
    ((s.withEcc (.pool core bank row)).packEvent 2 core bank row (bank * 2 ^ 16 + row * 128) (s.eccNear (.pool core bank row))).poolBad core
      (bank * 512 + row) := by
  rw [countError_pool]
  extract_lets l event v
  have made : v = (event (s.withEcc l) 2).poolBad core (bank * 512 + row) := if_neg (by simp [bad])
  have same : v.ev.flag = true := by
    have kept : (event (s.withEcc l) 2).ev = s.ev := packEvent_ev
    rw [made, State.poolBad, State.setCore_ev, kept, bad]
  rw [if_pos same, ite_self, made]

/-- An uncorrectable row of HBM, its error recorded. -/
def State.hbmRecorded (s : State) (stack ch bank row : Nat) : State :=
  ((s.withEcc (.hbm stack ch bank row)).packEvent 2 stack bank row s.ev.off (s.eccNear (.hbm stack ch bank row))).hbmBad (s.ev.off / 128)

theorem countError_hbm_uncorrectable (bad : s.ev.flag = true) : s.countError (.hbm stack ch bank row) =
    if (s.eccOf (.hbm stack ch bank row)).lasting then s.hbmRecorded stack ch bank row
    else (s.hbmRecorded stack ch bank row).repair stack bank row s.ev.off (s.eccNear (.hbm stack ch bank row)) := by
  have same : (s.hbmRecorded stack ch bank row).ev.flag = true :=
    (congrArg EvArgs.flag (EventKept.ev (s := s.withEcc (.hbm stack ch bank row)) packEvent_kept)).trans bad
  rw [countError_hbm]
  extract_lets l event v
  have made : v = s.hbmRecorded stack ch bank row := if_neg (by simp [bad])
  rw [made, same, bad]
  rfl

theorem hbmRecorded_ecc : (s.hbmRecorded stack ch bank row).pack.ecc = (s.withEcc (.hbm stack ch bank row)).pack.ecc := by
  unfold State.hbmRecorded State.hbmBad
  exact packEvent_ecc

theorem hbmRecorded_stack (j : Nat) : (s.hbmRecorded stack ch bank row).stack j = s.stack j := by
  have kept : EventKept (s.withEcc (.hbm stack ch bank row)) ((s.withEcc (.hbm stack ch bank row)).packEvent 2 stack bank row s.ev.off
      (s.eccNear (.hbm stack ch bank row))) := packEvent_kept
  exact kept.stack j

/-- Of the records of errors, a counted error changes its location's alone. -/
theorem countError_ecc (counted : ∀ d p row, l ≠ .l2 d p row) : (s.countError l).pack.ecc = (s.withEcc l).pack.ecc := by
  cases bad : s.ev.flag with
  | true =>
    cases l with
    | pool core bank row =>
      rw [countError_pool_uncorrectable bad]
      unfold State.poolBad State.setCore
      exact packEvent_ecc
    | hbm stack ch bank row =>
      rw [countError_hbm_uncorrectable bad]
      split
      · exact hbmRecorded_ecc
      · exact repair_ecc.trans hbmRecorded_ecc
    | l2 d p row => exact absurd rfl (counted d p row)
  | false =>
    by_cases quiet : ¬ 4 ≤ s.eccNear l ∨ (s.eccOf l).lasting = true
    · rw [countError_quiet bad quiet counted]
    · obtain ⟨many, first⟩ := not_or.1 quiet
      cases l with
      | pool core bank row =>
        rw [countError_pool_lasting bad (not_not.1 many) (Bool.eq_false_iff.2 first)]
        exact packEvent_ecc
      | hbm stack ch bank row =>
        rw [countError_hbm_lasting bad (not_not.1 many) (Bool.eq_false_iff.2 first)]
        exact repair_ecc.trans packEvent_ecc
      | l2 d p row => exact absurd rfl (counted d p row)

/-- A stack that has no row left for repair stays. -/
theorem countError_hbm_stack (spent : s.ev.flag2 = true) (j : Nat) : (s.countError (.hbm stack ch bank row)).stack j = s.stack j := by
  have event_kept {type near : Nat} : EventKept (s.withEcc (.hbm stack ch bank row))
      ((s.withEcc (.hbm stack ch bank row)).packEvent type stack bank row s.ev.off near) := packEvent_kept
  cases bad : s.ev.flag with
  | true =>
    have same : (s.hbmRecorded stack ch bank row).ev.flag2 = true := (congrArg EvArgs.flag2 event_kept.ev).trans spent
    rw [countError_hbm_uncorrectable bad]
    split
    · exact hbmRecorded_stack j
    · exact (repair_stack same j).trans (hbmRecorded_stack j)
  | false =>
    by_cases quiet : ¬ 4 ≤ s.eccNear (.hbm stack ch bank row) ∨ (s.eccOf (.hbm stack ch bank row)).lasting = true
    · rw [countError_quiet bad quiet (by simp)]
      rfl
    · obtain ⟨many, first⟩ := not_or.1 quiet
      rw [countError_hbm_lasting bad (not_not.1 many) (Bool.eq_false_iff.2 first)]
      exact (repair_stack ((congrArg EvArgs.flag2 event_kept.ev).trans spent) j).trans (event_kept.stack j)

theorem countError_hbm_ue (bad : s.ev.flag = true) : s.ev.off / 128 ∈ (s.countError (.hbm stack ch bank row)).ue := by
  have listed : s.ev.off / 128 ∈ (s.hbmRecorded stack ch bank row).ue := List.mem_cons_self
  rw [countError_hbm_uncorrectable bad]
  split
  · exact listed
  · rwa [repair_ue]

end

end

end Sys2Proof.Machine
end

section
/-! SUPPORT for O48. Its clauses on trackers, lasting errors, retired rows, and the event ring (R367, R372, R373). -/

namespace Sys2Proof.Machine
open Sys2Proof.Safety

/-! ### The tracker of a bank (R367) -/

theorem rowActivation_counts {s : State} (distinct : ((tblGet [] s.pack.trackers s.ev.n).map Prod.fst).Nodup)
    (counted : ∀ e ∈ tblGet [] s.pack.trackers s.ev.n, e.2 ≠ 0) (bound : (tblGet [] s.pack.trackers s.ev.n).length ≤ 8) :
    let n := s.ev.n
    let a := s.ev.row
    let T := tblGet [] s.pack.trackers n
    let hit := s.pack.distThr.toNat ≤ trackedCount T a ∧ trackedCount T a ≠ 0
    ∃ t l, exec .rowActivation s = .next t ∧ { t with pack := {} } = { s with pack := {} } ∧
      (∀ b, tblGet 0 (tblGet [] t.pack.trackers n) b = if b = a then (if hit then 0 else trackedCount T a) else tblGet 0 T b - trackedLoss T a) ∧
      (∀ q, q ≠ n → tblGet [] t.pack.trackers q = tblGet [] s.pack.trackers q) ∧ (tblGet [] t.pack.trackers n).length ≤ 8 ∧
      t.pack.refreshed = l ++ s.pack.refreshed ∧ ∀ e, e ∈ l ↔ hit ∧ e.1 = n ∧
        (e.2 + 1 = a ∨ e.2 = a + 1 ∨ s.pack.distRadius = 2 ∧ (e.2 + 2 = a ∨ e.2 = a + 2)) := by
  extract_lets n a T hit
  obtain ⟨count, short, counts⟩ := trackRow_spec (a := a) distinct counted bound
  have run := exec_rowActivation (s := s)
  dsimp only at run
  rw [count] at run
  by_cases reached : hit
  · rw [if_pos reached] at run
    refine ⟨_, ((nearRows s.pack a).map fun r => (n, r)).reverse, run, rfl, fun b => ?_, fun q other => tblGet_tblSet_other _ _ _ other, ?_, rfl,
      fun e => ?_⟩
    · rw [tblGet_tblSet_same]
      split
      · next own => rw [own, tblGet_tblDel_same]
      · next other => rw [tblGet_tblDel_other _ _ other, counts, if_neg other]
    · rw [tblGet_tblSet_same]
      exact (List.length_filter_le _ _).trans short
    · rw [List.mem_reverse, List.mem_map, and_iff_right reached, ← mem_nearRows]
      exact ⟨fun ⟨r, near, same⟩ => same ▸ ⟨rfl, near⟩, fun ⟨own, near⟩ => ⟨e.2, near, own ▸ rfl⟩⟩
  · rw [if_neg reached] at run
    refine ⟨_, [], run, rfl, fun b => ?_, fun q other => tblGet_tblSet_other _ _ _ other, ?_, rfl, fun e => ?_⟩
    · rw [tblGet_tblSet_same, counts, if_neg reached]
    · rw [tblGet_tblSet_same]
      exact short
    · simp [reached]

/-! ### Lasting errors (R372) -/

section
variable {s : State}

theorem exec_ceLasting_l2 {d p row : Nat} (line : s.ev.loc = .l2 d p row) :
    exec .ceLasting s = .next (if s.ev.flag then s.l2Bad (d % 2) p row else s) := by
  show execCeLasting s = _
  rw [execCeLasting, line]

theorem exec_ceLasting_counted (counted : ∀ d p row, s.ev.loc ≠ .l2 d p row) : exec .ceLasting s = .next (s.countError s.ev.loc) := by
  show execCeLasting s = _
  rw [execCeLasting]
  split
  · next d p row line => exact absurd line (counted d p row)
  · rfl

theorem mem_ite_cons {α : Type} [BEq α] [LawfulBEq α] (a : α) (l : List α) : a ∈ if l.contains a then l else a :: l := by
  split
  · next listed => exact List.contains_iff_mem.1 listed
  · exact List.mem_cons_self

theorem State.die_setDie_other {d e : Nat} (v : Die) (other : e ≠ d) : (s.setDie d v).die e = s.die e := tblGet_tblSet_other _ _ _ other

/-- An uncorrectable line of L2: the line of a partition, or the row at its home. -/
theorem l2Bad_spec (d p row : Nat) :
    let t := s.l2Bad d p row
    { t with dies := [], ue := [] } = { s with dies := [], ue := [] } ∧ (∀ e, { t.die e with l2ue := [] } = { s.die e with l2ue := [] }) ∧
      ((s.die d).split = true → t.ue = s.ue ∧ l2Key p row ∈ (t.die d).l2ue ∧ ∀ e, e ≠ d → t.die e = s.die e) ∧
      ((s.die d).split = false → t.dies = s.dies ∧ row ∈ t.ue) := by
  unfold State.l2Bad
  dsimp only
  split
  · next split =>
    refine ⟨rfl, fun e => ?_, fun _ => ⟨rfl, ?_, fun e other => State.die_setDie_other _ other⟩,
      fun whole => absurd (split.symm.trans whole) nofun⟩
    · by_cases own : e = d
      · rw [own, State.die_setDie_same]
      · rw [State.die_setDie_other _ own]
    · rw [State.die_setDie_same]
      exact mem_ite_cons _ _
  · next whole => exact ⟨rfl, fun _ => rfl, fun split => absurd split whole, fun _ => ⟨rfl, mem_ite_cons _ _⟩⟩

/-- A row that is queued for repair. -/
theorem event_repair {stack ch bank row off near : Nat} (room : s.ev.flag2 = false) :
    let u := (s.withEcc (.hbm stack ch bank row)).packEvent 1 stack bank row off near
    Event 5 stack bank row off near (u.setStack stack { s.stack stack with ppr := satInc (s.stack stack).ppr })
      (u.repair stack bank row off near) := by
  intro u
  have kept : EventKept (s.withEcc (.hbm stack ch bank row)) u := packEvent_kept
  have left : ¬ u.ev.flag2 = true := by rw [kept.ev]; exact ne_true_of_eq_false room
  have same : u.stack stack = s.stack stack := kept.stack stack
  rw [State.repair, if_neg left, same]
  exact event_packEvent

/-- The error of a location that counts. -/
theorem ceLasting_counted {l : EccLoc} (at_l : s.ev.loc = l) (counted : ∀ d p row, l ≠ .l2 d p row) :
    let now := s.ev.flag = true ∨ 4 ≤ s.eccNear l
    ∃ t u, exec .ceLasting s = .next t ∧ { u with pack := { u.pack with ecc := [] } } = { s with pack := { s.pack with ecc := [] } } ∧
      (∀ r, r ∈ u.pack.ecc ↔ r ∈ s.pack.ecc ∧ r.loc ≠ l ∨
        r = { loc := l, times := s.eccTimes l, lasting := (s.eccOf l).lasting || decide now }) ∧
      t.pack.ecc = u.pack.ecc ∧ (s.ev.flag = false → ¬ now ∨ (s.eccOf l).lasting = true → t = u) ∧
      (∀ core bank row, l = .pool core bank row →
        (s.ev.flag = false → now → (s.eccOf l).lasting = false → Event 1 core bank row (bank * 2 ^ 16 + row * 128) (s.eccNear l) u t) ∧
        (s.ev.flag = true → bank * 512 + row ∈ (t.core core).poolUe)) ∧
      ∀ stack ch bank row, l = .hbm stack ch bank row →
        (s.ev.flag = false → now → (s.eccOf l).lasting = false → s.ev.flag2 = false →
          ∃ w, Event 1 stack bank row s.ev.off (s.eccNear l) u w ∧
            Event 5 stack bank row s.ev.off (s.eccNear l) (w.setStack stack { s.stack stack with ppr := satInc (s.stack stack).ppr }) t) ∧
        (s.ev.flag = true → s.ev.off / 128 ∈ t.ue) ∧ (s.ev.flag2 = true → t.stack stack = s.stack stack) := by
  intro now
  have many (corrected : s.ev.flag = false) : now ↔ 4 ≤ s.eccNear l := or_iff_right (by simp [corrected])
  have run := exec_ceLasting_counted (at_l ▸ counted)
  rw [at_l] at run
  refine ⟨_, s.withEcc l, run, rfl, fun r => ?_, countError_ecc counted, fun corrected quiet => ?_, fun core bank row pool => ?_,
    fun stack ch bank row hbm => ?_⟩
  · rw [mem_withEcc, State.eccCounted, Bool.decide_or, Bool.decide_eq_true]
  · rw [many corrected] at quiet
    exact countError_quiet corrected quiet counted
  · subst pool
    refine ⟨fun corrected lasts first => ?_, fun bad => ?_⟩
    · rw [countError_pool_lasting corrected ((many corrected).1 lasts) first]
      exact event_packEvent
    · rw [countError_pool_uncorrectable bad, State.poolBad, State.core_setCore_same]
      exact List.mem_cons_self
  · subst hbm
    refine ⟨fun corrected lasts first room => ⟨_, event_packEvent, ?_⟩, countError_hbm_ue, fun spent => countError_hbm_stack spent stack⟩
    rw [countError_hbm_lasting corrected ((many corrected).1 lasts) first]
    exact event_repair room

end

/-! ### Retired rows (R373) -/

section
variable {s t u : State}

/-- The device without the record of errors of a location. -/
def State.forgets (s : State) (l : EccLoc) : State := { s with pack := { s.pack with ecc := s.pack.ecc.filter fun r => r.loc != l } }

theorem mem_forgets {l : EccLoc} {r : EccRec} : r ∈ (s.forgets l).pack.ecc ↔ r ∈ s.pack.ecc ∧ r.loc ≠ l := by simp [State.forgets]

theorem any_lasting {l : EccLoc} :
    (s.pack.ecc.any fun r => r.loc == l && r.lasting) = true ↔ ∃ r ∈ s.pack.ecc, r.loc = l ∧ r.lasting = true := by
  simp

theorem poolRowRetire_sound {core bank row : Nat} (at_core : s.ev.core = core) (at_bank : s.ev.n = bank) (at_row : s.ev.row = row)
    (sound : ¬ ∃ r ∈ s.pack.ecc, r.loc = .pool core bank row ∧ r.lasting = true) : exec .poolRowRetire s = .next s := by
  subst at_core at_bank at_row
  rw [← any_lasting] at sound
  exact if_neg sound

/-- The core with a spare row less in a bank. -/
def Core.retires (c : Core) (bank : Nat) : Core := { c with retired := tblSet c.retired bank (tblGet 0 c.retired bank + 1) }

theorem exec_poolRowRetire (lasting : ∃ r ∈ s.pack.ecc, r.loc = .pool s.ev.core s.ev.n s.ev.row ∧ r.lasting = true) :
    exec .poolRowRetire s =
      let core := s.ev.core
      let u := s.forgets (.pool core s.ev.n s.ev.row)
      let event (v : State) (type w2 : Nat) : State := v.packEvent type core s.ev.n s.ev.row (s.ev.n * 2 ^ 16 + s.ev.row * 128) w2
      let spent := tblGet 0 (s.core core).retired s.ev.n
      if spent < 8 then .next (event (u.setCore core ((s.core core).retires s.ev.n)) 3 (8 - (spent + 1)))
      else .next (event (u.setCore core { s.core core with failed := true }) 4 0) :=
  if_pos (any_lasting.2 lasting)

theorem poolRowRetire_lasting (lasting : ∃ r ∈ s.pack.ecc, r.loc = .pool s.ev.core s.ev.n s.ev.row ∧ r.lasting = true) :
    let core := s.ev.core
    let n := s.ev.n
    let spent := tblGet 0 (s.core core).retired n
    ∃ t u, exec .poolRowRetire s = .next t ∧ (∀ r ∈ t.pack.ecc, r.loc ≠ .pool core n s.ev.row) ∧
      { u with pack := { u.pack with ecc := [] }, cores := [] } = { s with pack := { s.pack with ecc := [] }, cores := [] } ∧
      (∀ r, r ∈ u.pack.ecc ↔ r ∈ s.pack.ecc ∧ r.loc ≠ .pool core n s.ev.row) ∧ (∀ m, m ≠ core → u.core m = s.core m) ∧
      (spent < 8 → tblGet 0 (t.core core).retired n = spent + 1 ∧ (t.core core).failed = (s.core core).failed ∧
        (∀ b, tblGet 0 (u.core core).retired b = if b = n then spent + 1 else tblGet 0 (s.core core).retired b) ∧
        { u.core core with retired := [] } = { s.core core with retired := [] } ∧
        Event 3 core n s.ev.row (n * 2 ^ 16 + s.ev.row * 128) (7 - spent) u t) ∧
      (8 ≤ spent → (t.core core).failed = true ∧ u.core core = { s.core core with failed := true } ∧
        Event 4 core n s.ev.row (n * 2 ^ 16 + s.ev.row * 128) 0 u t) := by
  intro core n spent
  have run := exec_poolRowRetire lasting
  dsimp only at run
  by_cases room : spent < 8
  · rw [if_pos room] at run
    refine ⟨_, (s.forgets (.pool core n s.ev.row)).setCore core ((s.core core).retires n), run, fun r listed => ?_, rfl, fun r => mem_forgets,
      fun m other => State.core_setCore_other (s.forgets _) _ other, fun _ => ?_, fun full => absurd room (Nat.not_lt.2 full)⟩
    · rw [packEvent_ecc] at listed
      exact (mem_forgets.1 listed).2
    · obtain ⟨r, kept⟩ := (packEvent_kept (s := (s.forgets (.pool core n s.ev.row)).setCore core ((s.core core).retires n)) (type := 3)
        (core := core) (bank := n) (row := s.ev.row) (w1 := n * 2 ^ 16 + s.ev.row * 128) (w2 := 8 - (spent + 1))).rings core
      rw [State.core_setCore_same] at kept
      rw [kept, State.core_setCore_same]
      refine ⟨tblGet_tblSet_same _ _ _ _, rfl, fun b => ?_, rfl, ?_⟩
      · split
        · next own => rw [own]; exact tblGet_tblSet_same _ _ _ _
        · next other => exact tblGet_tblSet_other _ _ _ other
      · rw [show 7 - spent = 8 - (spent + 1) by omega]
        exact event_packEvent
  · rw [if_neg room] at run
    refine ⟨_, (s.forgets (.pool core n s.ev.row)).setCore core { s.core core with failed := true }, run, fun r listed => ?_, rfl,
      fun r => mem_forgets, fun m other => State.core_setCore_other (s.forgets _) _ other, fun few => absurd few room, fun _ => ?_⟩
    · rw [packEvent_ecc] at listed
      exact (mem_forgets.1 listed).2
    · obtain ⟨r, kept⟩ := (packEvent_kept (s := (s.forgets (.pool core n s.ev.row)).setCore core { s.core core with failed := true })
        (type := 4) (core := core) (bank := n) (row := s.ev.row) (w1 := n * 2 ^ 16 + s.ev.row * 128) (w2 := 0)).rings core
      rw [State.core_setCore_same] at kept
      exact ⟨by rw [kept], State.core_setCore_same _ _ _, event_packEvent⟩

end

/-! ### The event ring (R213, R373) -/

section
variable {s t u : State} {type core bank row w1 w2 base y z tail head : Nat}

/-- Whether an append waits does not depend on its words. -/
def State.eventServed (s : State) : Bool :=
  s.ringServes { use := .event, space := none, part := none, desc := s.pack.evDesc.toNat, z := 2, words := [] }

theorem Event.waits (event : Event type core bank row w1 w2 s t) (served : s.eventServed = true) :
    t.mem = s.mem ∧ t.pack = s.pack ∧ t.fabric = s.fabric ∧ t.heldAppends.length = s.heldAppends.length + 1 := by
  unfold Event at event
  dsimp only at event
  split at event
  · rw [event]; exact ⟨rfl, rfl, rfl, List.length_append⟩
  · next free => exact absurd served free

theorem Event.lost (event : Event type core bank row w1 w2 s t) (free : s.eventServed = false)
    (unmade : ∀ words, s.devAppend none none s.pack.evDesc.toNat 2 words = none) :
    t.mem = s.mem ∧ t.pack = { s.pack with evLost := if s.pack.evLost = BitVec.allOnes 32 then s.pack.evLost else s.pack.evLost + 1 } := by
  unfold Event at event
  dsimp only at event
  split at event
  · next served => exact absurd (free.symm.trans served) nofun
  · rw [unmade] at event
    rw [event]
    exact ⟨rfl, rfl⟩

theorem Event.notified (event : Event type core bank row w1 w2 s t) (free : s.eventServed = false)
    (made : s.devAppend none none s.pack.evDesc.toNat 2 [type + core % 2 ^ 8 * 2 ^ 8 + bank % 2 ^ 6 * 2 ^ 16 + row % 2 ^ 32 * 2 ^ 32,
      w1 % 2 ^ 64, w2 % 2 ^ 32, s.time % 2 ^ 64] = some u) : t = u.notifyHost 2047 := by
  unfold Event at event
  dsimp only at event
  split at event
  · next served => exact absurd (free.symm.trans served) nofun
  · rwa [made] at event

theorem devAppend_no_ring (invalid : s.ringDesc none none s.pack.evDesc.toNat = none) (words : List Nat) :
    s.devAppend none none s.pack.evDesc.toNat 2 words = none := by
  rw [State.devAppend, invalid]

theorem devAppend_no_room (valid : s.ringDesc none none s.pack.evDesc.toNat = some (base, y, z, tail, head))
    (full : y ≠ 2 ∨ (2 : Int) ^ z ≤ (tail : Int) - head) (words : List Nat) : s.devAppend none none s.pack.evDesc.toNat 2 words = none := by
  rw [State.devAppend, valid]
  refine if_pos (full.imp id fun more => ?_)
  simp only [ringRoom, Bool.not_eq_true', decide_eq_false_iff_not]
  push_cast
  omega

/-- An event that finds room in its ring. -/
theorem Event.made (event : Event type core bank row w1 w2 s t) (free : s.eventServed = false)
    (valid : s.ringDesc none none s.pack.evDesc.toNat = some (base, 2, z, tail, head)) (room : tail - head < 2 ^ z)
    (top : base + 32 * 2 ^ z ≤ devTop) (apart : base + 32 * 2 ^ z ≤ s.pack.evDesc.toNat ∨ s.pack.evDesc.toNat + 64 ≤ base) :
    let slot := base + tail % 2 ^ z * 32
    t.pack = s.pack ∧ t.heldAppends = s.heldAppends ∧ t.homeRead none (s.pack.evDesc.toNat + 16) 8 = (tail + 1) % 2 ^ 64 ∧
      t.homeRead none (slot + 8) 8 = w1 % 2 ^ 64 ∧ t.homeRead none (slot + 16) 8 = w2 % 2 ^ 32 ∧
      t.homeRead none (slot + 24) 8 = s.time % 2 ^ 64 ∧ (type < 256 → t.homeRead none slot 1 = type) ∧
      ∀ a, (a < slot ∨ slot + 32 ≤ a) → (a < s.pack.evDesc.toNat + 16 ∨ s.pack.evDesc.toNat + 24 ≤ a) →
        memRead t.mem a = memRead s.mem a := by
  intro slot
  obtain ⟨aligned, based, -⟩ := ringDesc_fields valid
  have fits : (tail : Int) - head < (2 ^ z : Nat) := by omega
  obtain ⟨u, appended, moved, stand, others⟩ := devAppend_event (words := [type + core % 2 ^ 8 * 2 ^ 8 + bank % 2 ^ 6 * 2 ^ 16 +
    row % 2 ^ 32 * 2 ^ 32, w1 % 2 ^ 64, w2 % 2 ^ 32, s.time % 2 ^ 64]) valid (by exact_mod_cast fits) rfl top apart
  obtain ⟨f, told⟩ := u.notifyHost_eq 2047
  have event := Event.notified event free appended
  have standing := State.standing_devAppend appended
  have made : t = { u with fabric := f } := event.trans told
  have unit : slot % 32 = 0 := by omega
  have word (i : Nat) (inside : i < 4) : t.homeRead none (slot + 8 * i) 8 = memReadN u.mem (slot + 8 * i) 8 := by
    rw [made, State.homeRead_eq_memReadN _ (by omega)]
  have first : t.homeRead none slot 1 = memReadN u.mem slot 8 % 2 ^ 8 := by
    have byte := memReadN_div_mod u.mem (a := slot) (n := 8) (j := 0) (k := 1) (by decide)
    rw [made, State.homeRead_eq_memReadN _ (by omega)]
    simpa using byte.symm
  refine ⟨?_, ?_, ?_, ?_, ?_, ?_, fun small => ?_, fun a other tailless => ?_⟩
  · rw [made]; exact congrArg Standing.pack standing
  · rw [made]; exact congrArg Standing.held standing
  · rw [made, State.homeRead_eq_memReadN _ (by omega)]; exact moved
  · rw [word 1 (by decide), stand 1 _ rfl, Nat.mod_mod]
  · rw [word 2 (by decide), stand 2 _ rfl]; omega
  · rw [word 3 (by decide), stand 3 _ rfl, Nat.mod_mod]
  · have typed := stand 0 _ rfl
    rw [first, show slot = slot + 8 * 0 from rfl, typed]
    omega
  · rw [made]; exact others a other tailless

end

end Sys2Proof.Machine
end

section
/-! PROOF of O48, from its clauses. Each event of the package changes one part of it and records what it has done (`Event`). -/

namespace Sys2Proof.Machine
open Sys2Proof.Safety

section
variable {s : State}

/-- An action begins on a stack. -/
theorem begin'_becomes {i : Instr} {act : Nat} {k : Stack} (run : exec i s = .next (s.setStack s.ev.n ((s.stack s.ev.n).begin' act)))
    (begun : (s.stack s.ev.n).begin' act = k) :
    ∃ t, exec i s = .next t ∧ t.stack s.ev.n = k ∧ (∀ u, u ≠ s.ev.n → t.stack u = s.stack u) ∧
      { t with pack := { t.pack with hbm := [] } } = { s with pack := { s.pack with hbm := [] } } :=
  setStack_becomes (begun ▸ run)

theorem stackPauseEnd_idle (idle : (s.stack s.ev.n).busy = false) : exec .stackPauseEnd s = .next s := if_pos (by rw [idle]; rfl)

/-- A stack whose action ends. -/
def Stack.paused (k : Stack) : Stack := { k with busy := false, retrains := satInc k.retrains }

/-- How an action of a stack ends: the stack that it leaves, and the type of its event. -/
def Stack.ended (k : Stack) (restored : Bool) : Stack × Nat :=
  if k.act = 2 then ({ k.paused with spare := k.spare - 1 }, 8)
  else if restored then ({ k.paused with state := if k.failed then 4 else 1 }, 9)
  else ({ k.paused with state := 4, failed := true }, 10)

theorem ended_idle (k : Stack) (restored : Bool) : (k.ended restored).1.busy = false := by
  unfold Stack.ended
  split
  · rfl
  · split <;> rfl

theorem exec_stackPauseEnd (busy : (s.stack s.ev.n).busy = true) :
    let e := (s.stack s.ev.n).ended s.ev.flag
    exec .stackPauseEnd s = .next ((s.setStack s.ev.n e.1).packEvent e.2 s.ev.n 0 0 e.1.word.toNat 0) := if_neg (by rw [busy]; nofun)

/-- An action on a stack ends. -/
theorem stackPauseEnd_busy (busy : (s.stack s.ev.n).busy = true) :
    let n := s.ev.n
    let k := s.stack n
    let done (new : Stack) (type : Nat) : Prop := ∃ t u, exec .stackPauseEnd s = .next t ∧ u.stack n = new ∧
      (∀ j, j ≠ n → u.stack j = s.stack j) ∧ { u with pack := { u.pack with hbm := [] } } = { s with pack := { s.pack with hbm := [] } } ∧
      Event type n 0 0 (new.retrains.toNat + new.ppr.toNat * 2 ^ 32 + new.spare.toNat * 2 ^ 40 + new.state.toNat * 2 ^ 60) 0 u t
    (k.act = 2 → done { k.paused with spare := k.spare - 1 } 8) ∧
      (k.act ≠ 2 → s.ev.flag = true → done { k.paused with state := if k.failed then 4 else 1 } 9) ∧
      (k.act ≠ 2 → s.ev.flag = false → done { k.paused with state := 4, failed := true } 10) := by
  intro n k done
  have ended {new : Stack} {type : Nat} (e : k.ended s.ev.flag = (new, type)) : done new type := by
    have idle := ended_idle k s.ev.flag
    have run := exec_stackPauseEnd busy
    dsimp only at run
    rw [e] at idle run
    exact stackPauseEnd_done idle run
  refine ⟨fun repaired => ended ?_, fun other restored => ended ?_, fun other failed => ended ?_⟩
  · rw [Stack.ended, if_pos repaired]
  · rw [Stack.ended, if_neg other, if_pos restored]
  · rw [Stack.ended, if_neg other, if_neg (by rw [failed]; nofun)]

/-- The margins of a sentinel. -/
theorem sentinelUpdate_spec :
    let n := s.ev.n
    let j := n / 4
    let m := (s.stack j).sentinel (n % 4)
    let vm := BitVec.ofNat 8 (s.ev.nums.getD 0 0)
    let tm := BitVec.ofNat 8 (s.ev.nums.getD 1 0)
    let low := vm < m.vthr ∨ tm < m.tthr
    ∃ t u, exec .sentinelUpdate s = .next t ∧ (u.stack j).sentinel (n % 4) = m.measured vm tm ∧
      (∀ i, i ≠ j → u.stack i = s.stack i) ∧ (∀ i, i ≠ n % 4 → (u.stack j).sentinel i = (s.stack j).sentinel i) ∧
      (low ∧ m.below = false ∧ m.ien = true →
        Event 7 j 0 0 (tm.toNat + vm.toNat * 2 ^ 8 + m.tthr.toNat * 2 ^ 40 + m.vthr.toNat * 2 ^ 48 + 2 ^ 62 + 2 ^ 63) 0 u t) ∧
      (¬ (low ∧ m.below = false ∧ m.ien = true) → t = u) := by
  intro n j m vm tm low
  refine ⟨_, s.setStack j ((s.stack j).withSentinel (n % 4) (m.measured vm tm)), exec_sentinelUpdate, ?_,
    fun i other => State.stack_setStack_other _ other, fun i other => ?_, fun fresh => ?_, fun old => if_neg old⟩
  · rw [State.stack_setStack_same]
    exact tblGet_tblSet_same _ _ _ _
  · rw [State.stack_setStack_same]
    exact tblGet_tblSet_other _ _ _ other
  · have ⟨isLow, _, enabled⟩ := fresh
    rw [if_pos fresh]
    exact Event.of_mod event_packEvent (Sentinel.word_measured isLow enabled)

end

/-- Settles O48, clause by clause. -/
theorem stacksLinkAndErrorsAreMaintained : Obligations.StacksLinkAndErrorsAreMaintained := by
  intro s n k P becomes
  refine ⟨fun few => ⟨_, if_pos few, rfl⟩, miosorFlitRetry_fails,
    fun busy => ⟨begin'_becomes rfl (begin'_busy busy), begin'_becomes rfl (begin'_busy busy)⟩,
    fun idle => ⟨begin'_becomes rfl (begin'_retrain idle), begin'_becomes rfl (begin'_laneRepair idle)⟩,
    stackPauseEnd_idle, stackPauseEnd_busy, sentinelUpdate_spec, rowActivation_counts, ⟨_, rfl, fun _ => rfl⟩,
    ⟨fun d p row line => ⟨fun corrected => ?_, fun bad => ?_⟩, ceLasting_counted rfl⟩,
    ⟨poolRowRetire_sound rfl rfl rfl, poolRowRetire_lasting⟩,
    fun type core bank row w1 w2 base z tail head t event => ⟨Event.waits event, fun free invalid => ?_, fun free y valid full => ?_,
      fun free valid room top apart => ?_⟩⟩
  · rw [exec_ceLasting_l2 line, corrected]
    rfl
  · exact ⟨_, (exec_ceLasting_l2 line).trans (by rw [bad]; rfl), l2Bad_spec (d % 2) p row⟩
  · exact Event.lost event free (devAppend_no_ring invalid)
  · exact Event.lost event free (devAppend_no_room valid full)
  · exact Event.made event free valid room top apart

end Sys2Proof.Machine
end

section
/-! PROOF of O20 to O22, O24, O25 and O29 to O33, by refutation. Each states a trap from every state in which a head can issue, so also
from one where the table of clusters is not in rising order of its keys, which no run from reset reaches; there a trap leaves an entry
more in the table, as in the refutations of O3, O7 and O53. -/

namespace Sys2Proof.Machine
open Sys2Proof.Safety

-- A thread that waits for the kernel keeps its stack; one at a time suffices.
set_option Elab.async false

/-- A trap leaves the table of clusters as long as it was. -/
theorem not_traps_of_clustersAfter {i : Instr} {tr : Trap} {s : State} {n : Nat} (h : clustersAfter (exec i s) = some n)
    (more : n ≠ s.clusters.length) : ¬ Traps i tr s := by
  rintro ⟨t, e, -, -, -, -, -, -, -, -, -, -, -, kept⟩
  have after : clustersAfter (.next t) = some n := (congrArg clustersAfter e).symm.trans h
  exact more ((Option.some.inj after).symm.trans (length_clusters_of_keptAt kept))

/-! ### Accesses of the listed state -/

/-- The listed state maps no page. -/
theorem accessEntry_listed (k : Access) : (listed 0x1000).accessEntry 0 1 k =
    .error { code := .memFault, faddr := 0, detail := k.code, resumable := false } := by
  cases k <;> decide +kernel

/-- Refutes O20: `ld` of an address that is not mapped traps in the listed state, and its trap leaves an entry more in the table of
clusters. -/
theorem not_scalarLoads : ¬ Obligations.ScalarLoads := by
  intro all
  obtain ⟨issued, -⟩ := all ⟨0, 0⟩ 0 0 0 0 0x1001 (listed 0x1000) (.i8, 1, true) (by simp)
  obtain ⟨-, faults, -⟩ := issued canIssue_listed guardBit_listed
  obtain ⟨-, trap⟩ := faults _ (accessEntry_listed .read) (ordinary_listed _)
  exact not_traps_listed (by decide +kernel) trap

/-- Refutes O21: so does `st` to an address that is not mapped. -/
theorem not_scalarStores : ¬ Obligations.ScalarStores := by
  intro all
  obtain ⟨-, faults, -⟩ := all ⟨0, 0⟩ 0 0 0 0 0x1001 (listed 0x1000) canIssue_listed guardBit_listed (.i8, 1) (by simp)
  obtain ⟨-, trap⟩ := faults _ (accessEntry_listed .write) (ordinary_listed _)
  exact not_traps_listed (by decide +kernel) trap

/-- An accumulator stands in a REG bank whatever the layout. -/
theorem regsReady_listed : RegsReady [320] [] (listed 0x1000) where
  present := by decide +kernel
  sound := by simp

/-- Refutes O22: `vld` of scratchpad rows from 0x3FFF80 on traps in the listed state, since its second row lies past the top, and its trap
leaves an entry more in the table of clusters. -/
theorem not_rowLoads : ¬ Obligations.RowLoads := by
  rintro ⟨all, -⟩
  obtain ⟨-, -, reaches⟩ := all ⟨0, 0⟩ 320 0 0 0x3FFF80 0x1001 (listed 0x1000) canIssue_listed regsReady_listed
    (fun sp => .vld ⟨0, 0⟩ 320 0 0 sp 0x3FFF80, fun j => 128 * (j : Int)) (by simp) (fun ⟨_, indexed⟩ => nomatch indexed)
  obtain ⟨-, outside⟩ := reaches 1 0 (.inl ⟨rfl, rfl⟩)
  obtain ⟨j, -, trap⟩ := outside ⟨1, by decide +kernel, .inr (by decide +kernel)⟩ (ordinary_listed _)
  exact not_traps_listed (by decide +kernel) trap

/-- Refutes O24: `touch.r` of no bytes traps in the listed state, and its trap leaves an entry more in the table of clusters. -/
theorem not_touchOpensAWindowAndPfetOnlyFills : ¬ Obligations.TouchOpensAWindowAndPfetOnlyFills := by
  intro all
  obtain ⟨touch, -⟩ := all ⟨0, 0⟩ 0 0 0 0 0 0x1001 (listed 0x1000) canIssue_listed guardBit_listed
  obtain ⟨empty, -⟩ := touch (.touchR ⟨0, 0⟩ 0 0 0, false) (by simp)
  exact not_traps_listed (by decide +kernel) (empty (.inl (by decide +kernel)) (ordinary_listed _))

/-- The listed state, with the address 1 in x1. -/
def listedOdd : State := { running .L { pc := 0x1000, x := [(1, 1)] } with clusters := (listed 0x1000).clusters }

theorem canIssue_listedOdd : CanIssue ⟨0, 0⟩ 1 0x1001 listedOdd where
  toAtHead := by constructor <;> decide +kernel
  pops := by decide +kernel
  pushes := by decide +kernel

/-- Refutes O25: `cpy` by a descriptor at address 1 traps, and its trap leaves an entry more in the table of clusters. -/
theorem not_tensorCopies : ¬ Obligations.TensorCopies := by
  intro all
  obtain ⟨issued, -⟩ := all ⟨0, 0⟩ 1 0 0 1 0 0x1001 listedOdd 0 (.inl ⟨rfl, rfl⟩)
  obtain ⟨misaligned, -⟩ := issued canIssue_listedOdd (by decide +kernel)
  obtain ⟨trap, -⟩ := misaligned (by decide +kernel) ⟨_, rfl, rfl, rfl⟩
  exact not_traps_of_clustersAfter (n := 3) (by decide +kernel) (by decide) trap

/-! ### Semaphores, rings and engines of the listed state -/

/-- Refutes O29: `xsem.i` of a semaphore whose core no slice holds traps in the listed state, and its trap leaves an entry more in the
table of clusters. -/
theorem not_semaphoresAndMarks : ¬ Obligations.SemaphoresAndMarks := by
  rintro ⟨-, shared, -⟩
  obtain ⟨-, foreign⟩ := shared ⟨0, 0⟩ 0 0 4 0 0 0x1001 (listed 0x1000) canIssue_listed guardBit_listed
  exact not_traps_listed (by decide +kernel) (foreign (by decide +kernel) (ordinary_listed _) (.xsemI ⟨0, 0⟩ 0 0 4) (by simp))

/-- Refutes O30: `rwaitf` on a disabled ring traps in the listed state, and its trap leaves an entry more in the table of clusters. -/
theorem not_ringSetUpAndReading : ¬ Obligations.RingSetUpAndReading := by
  intro all
  obtain ⟨-, -, -, -, -, -, -, -, waits⟩ := all ⟨0, 0⟩ 0 0 0 0 0 0x1001 (listed 0x1000) canIssue_listed guardBit_listed
  obtain ⟨-, -, -, disabled⟩ := waits _ List.mem_cons_self
  exact not_traps_listed (by decide +kernel) (disabled (by decide +kernel) (ordinary_listed _))

/-- The listed state, where ring 0 of its core is enabled. -/
def listedRing : State := (listed 0x1000).setCur { (listed 0x1000).cur with rings := [(0, { enabled := true })] }

theorem canIssue_listedRing : CanIssue ⟨0, 0⟩ 1 0x1001 listedRing where
  toAtHead := by constructor <;> decide +kernel
  pops := by decide +kernel
  pushes := by decide +kernel

/-- Refutes O31: `rclaim.rel` of a record that is not claimed traps, and its trap leaves an entry more in the table of clusters. -/
theorem not_ringTakesClaimsAndAppends : ¬ Obligations.RingTakesClaimsAndAppends := by
  intro all
  obtain ⟨-, -, -, -, -, -, -, -, released⟩ := all ⟨0, 0⟩ 0 0 0 0 0 1 0x1001 listedRing canIssue_listedRing (by decide +kernel)
    (by decide +kernel) (by decide +kernel) (by decide +kernel)
  exact not_traps_of_clustersAfter (n := 3) (by decide +kernel) (by decide) (released (by decide +kernel) ⟨_, rfl, rfl, rfl⟩)

/-- Scope entry 0 is fixed. -/
theorem scopeReady_listed : ScopeReady (listed 0x1000) 0 := ⟨by decide +kernel, fun h => absurd h (by decide)⟩

/-- Refutes O32: `wenq` to a disabled ring traps in the listed state, and its trap leaves an entry more in the table of clusters. -/
theorem not_writeWithEnqueue : ¬ Obligations.WriteWithEnqueue := by
  rintro ⟨all, -⟩
  obtain ⟨rings, -⟩ := all ⟨0, 0⟩ 0 0 0 0 0 1 0x1001 (listed 0x1000) canIssue_listed guardBit_listed scopeReady_listed (by decide)
    (by decide +kernel)
  obtain ⟨foreign, -⟩ := rings (by decide +kernel)
  refine not_traps_listed (by decide +kernel) (foreign ?_ (ordinary_listed _))
  rintro ⟨-, -, -, enabled⟩
  exact absurd enabled (by decide +kernel)

/-- Refutes O33: `mask` of a codec engine's handle traps in the listed state, and its trap leaves an entry more in the table of clusters. -/
theorem not_commandsEnterTheEngineFifos : ¬ Obligations.CommandsEnterTheEngineFifos := by
  intro all
  obtain ⟨-, refused, -⟩ := all ⟨0, 0⟩ 0 0 0 0 0 0 0x1001 (listed 0x1000) canIssue_listed guardBit_listed
  obtain ⟨-, kinds⟩ := refused (by decide +kernel) (ordinary_listed _)
  have trap := kinds 0 0 (by decide +kernel) (by decide +kernel) (.mask ⟨0, 0⟩ 0 0 0 0, 1) (by simp) (.inl (by decide +kernel))
  exact not_traps_listed (by decide +kernel) trap

end Sys2Proof.Machine
end

section
/-! PROOF of O23, by refutation. It speaks of every state, so also of the unordered tables of rings by which O27 and O28 fail: the rows that
a `vst` stores fall into the spill area of such a ring (R209). -/

namespace Sys2Proof.Machine
open Sys2Proof.Safety

-- A thread that waits for the kernel keeps its stack; one at a time suffices.
set_option Elab.async false

/-- A page of DEV memory from row 0x2000 on, the spill area of the unordered rings. -/
def spillPage : TlbEntry := { va := 0, size := 0x1000, pa := 0x100000, cls := 0, r := true, w := true, x := false, xs := 0 }

/-- The device of the unordered rings, where the core that executes has no cache and holds the translation of their spill area. -/
def uncached : State :=
  unorderedRings.setCur { unorderedRings.cur with roles := [(0, 1), (10, 1), (11, 1)], ways := [], tlb := [(0, spillPage)] }

theorem canIssue_uncached : CanIssue ⟨0, 0⟩ 1 0x1001 uncached where
  toAtHead := by constructor <;> decide +kernel
  pops := by decide +kernel
  pushes := by decide +kernel

theorem regsReady_uncached : RegsReady [320] [320] uncached where
  present := by decide +kernel
  sound := by decide +kernel

/-- Each row of the register goes to the spill area's page. -/
theorem steady_uncached : ∀ j, j < 16 → Steady uncached (128 * j) 128 .write spillPage ∧ spillPage.phys (128 * j) % 128 = 0 :=
  fun j bound => ⟨.inr ⟨by revert j; decide +kernel, rfl, by revert j; decide +kernel⟩, by revert j; decide⟩

/-- A step that leaves core 1 three rings has changed more than an access through the cache may. -/
theorem not_cached_uncached {core : Core → Core} {own : Nat → Prop} {r : Host.Outcome State Fault Refusal} {t : State}
    (h : ringsAfter r = some 3) (e : r = .next t) : ¬ Cached core own uncached t := by
  intro cached
  have three : (t.core 1).rings.length = 3 := Option.some.inj ((congrArg ringsAfter e).symm.trans h)
  have two : (t.core 1).rings.length = 2 := length_rings_of_keptAt cached.rest.spilled (by decide)
  exact absurd (two.symm.trans three) (by decide)

/-- Refutes O23: `vst` of an accumulator to the spill area leaves an entry more in the table of rings of core 1, which is not in rising
order of its keys. -/
theorem not_rowStores : ¬ Obligations.RowStores := by
  intro all
  obtain ⟨stores, -⟩ := all ⟨0, 0⟩ 320 0 0 0 0x1001 uncached canIssue_uncached regsReady_uncached (by decide +kernel)
    (fun sp => .vst ⟨0, 0⟩ 320 0 0 sp 0, fun j => 128 * (j : Int)) (by simp) (fun ⟨_, indexed⟩ => nomatch indexed)
  obtain ⟨t, e, -, -, -, cached⟩ := stores (fun _ => spillPage) fun j on => by
    have bound : j < 16 := List.mem_range.1 (List.mem_filter.1 on).1
    have address : ((((((uncached.rx 0).toNat + (0 : BitVec 24).toInt) % 2 ^ 56).toNat : Int) + 128 * (j : Int)) / 128 * 128 % 2 ^ 56).toNat =
        128 * j := by revert j; decide +kernel
    obtain ⟨steady, aligned⟩ := steady_uncached j bound
    dsimp only
    rw [address]
    exact ⟨steady, rfl, aligned, fun _ => rfl⟩
  exact not_cached_uncached (by decide +kernel) e cached

end Sys2Proof.Machine
end

section
/-! PROOF of O51, by refutation. The trace record of a command's begin comes before the command's block is read, and it may fill the open
frame of its engine; where the trace ring's storage overlaps the block, what is prepared is the block that the frame has left. -/

namespace Sys2Proof.Machine
open Sys2Proof.Safety

-- A thread that waits for the kernel keeps its stack; one at a time suffices.
set_option Elab.async false

/-- A command whose block stands at address 8. -/
def blockCommand : VCmd := { die := 0, ctx := 0, core := 0, slice := 0, seq := 0, src := .block 8, scope := none }

/-- The five records of the open frame: the fields of a DECODE of a stream whose record stands at 0x1000, a unit of one byte. -/
def decodeRecords : List (Nat × Nat × Nat) := [(17, 0, 0x1000), (17, 0, 0), (17, 0, 1), (17, 0, 0), (17, 0, 0)]

/-- The first page of DEV memory. -/
def firstPage : TlbEntry := { va := 0, size := 0x1000, pa := 0, cls := 0, r := true, w := true, x := false, xs := 0 }

/-- A codec engine whose next command has its block at address 8, all zeros. Its context traces engines, into a ring whose only frame
takes addresses 0 to 63; the engine's open frame, begun at device time 17 (0x11), lacks one record. -/
def overlapped : State :=
  { State.reset with
    time := 17
    ctxs := [(0, { live := true, mode := .run, traceEn := true, traceCls := 8, traceDesc := 1, trace := [(8192, { recs := decodeRecords })] })]
    dies := [(0, { tlb := [(0, firstPage)], engines := [(0, { fifo := [blockCommand] })] })]
    mem := [(72, 3)] }

theorem nextCommand_overlapped :
    NextCommand (overlapped.setCtx 0 { overlapped.ctx 0 with traceEn := false }) 0 0 blockCommand where
  home := rfl
  apart := by decide +kernel
  aside := by decide +kernel
  idle := by decide +kernel
  sound := by decide +kernel
  next := by decide +kernel
  untraced := .inl rfl

theorem holds_overlapped : Holds overlapped 0 0 8 64 0 :=
  ⟨by positivity, 8, ⟨rfl, by decide +kernel⟩, by decide +kernel⟩

/-- Whether the engine has a command in commit in the next state. -/
def commitsAfter : Host.Outcome State Fault Refusal → Option Bool
  | .next t => some (t.engine 0 0).commit.isSome
  | _ => none

/-- The block has become a DECODE, of a stream whose record is not mapped. -/
theorem commitsAfter_overlapped : commitsAfter (exec .openStream overlapped) = some false := by decide +kernel

/-- Refutes O51: the block is all zeros, so by the statement the command ends BAD_BLOCK; its trace record fills a frame that overwrites
the block, and the command raises ENGINE_FAULT. -/
theorem not_codecCommandsArePreparedAndEnd : ¬ Obligations.CodecCommandsArePreparedAndEnd := by
  intro all
  obtain ⟨illFormed, -⟩ := all overlapped blockCommand 8 0
  obtain ⟨t, k, e, commit, -⟩ := illFormed nextCommand_overlapped rfl holds_overlapped (by decide)
  have commits : commitsAfter (.next t) = some true := congrArg (fun c => some (Option.isSome c)) commit
  exact absurd (commitsAfter_overlapped.symm.trans ((congrArg commitsAfter e).trans commits)) (by decide)

end Sys2Proof.Machine
end
